-- ==== Sys2Proof/Word.lean ====
section
/-! DEFINITION. Bytes, bit fields of numbers, byte order, and the one sparse table every keyed store of the machine
uses. Wire forms are big-endian (R9); window forms are little-endian (R34). -/
namespace Sys2Proof

abbrev Byte := BitVec 8
abbrev Bytes := List Byte

/-- The unsigned number that `n` low bits of `v` hold. -/
abbrev lowBits (n v : Nat) : Nat := v % 2 ^ n

/-- A sparse table in canonical form: keys strictly rising, no entry equal to what an unlisted key reads as. -/
abbrev Tbl (β : Type) := List (Nat × β)

/-- The value of key `i`; `d` is what an unlisted key reads as. -/
def Tbl.get {β : Type} (d : β) : Tbl β → Nat → β
  | [], _ => d
  | (k, v) :: t, i => if k = i then v else Tbl.get d t i

/-- Writes `v` at key `i`; `d` is the default of that key, and writing it removes the entry. -/
def Tbl.put {β : Type} [DecidableEq β] (d : β) (i : Nat) (v : β) : Tbl β → Tbl β
  | [] => if v = d then [] else [(i, v)]
  | (k, w) :: t =>
    if i < k then (if v = d then (k, w) :: t else (i, v) :: (k, w) :: t)
    else if i = k then (if v = d then t else (k, v) :: t)
    else (k, w) :: Tbl.put d i v t

/-- Keys strictly rising. -/
def Tbl.rising {β : Type} : Tbl β → Bool
  | [] => true
  | [_] => true
  | (a, _) :: (b, w) :: t => decide (a < b) && Tbl.rising ((b, w) :: t)

/-- No listed value equals its key's default. -/
def Tbl.noDefault {β : Type} [DecidableEq β] (d : Nat → β) (t : Tbl β) : Bool :=
  t.all fun e => decide (e.2 ≠ d e.1)

/-- The canonical form. -/
def Tbl.wf {β : Type} [DecidableEq β] (d : Nat → β) (t : Tbl β) : Bool :=
  Tbl.rising t && Tbl.noDefault d t

end Sys2Proof
end

