-- ==== Sys2Proof/Syntax.lean ====
section
/-! DEFINITION. The commands of the block: operand types, and the one inductive `Instr`, a constructor for each row of
spec/opcode_table.json in the table's order. What a constructor means is in Machine/; what arrives from outside with
the event (a frame's bytes, a temperature read, an error the environment causes) is an operand. -/
namespace Sys2Proof

/-- A session: the BAR0 window, a mailbox slot, or a ZOA association (R38, R39). -/
inductive SessId where
  | bar0
  | mailbox (slot : Fin 4)
  | zoa (n : Nat)
  deriving DecidableEq, Repr

/-- The header fields of a ZOA request that its meaning reads (Table 2-8), with the session it arrives on. -/
structure Req where
  sess : SessId
  rid : BitVec 32
  ctx : BitVec 16
  small : Bool
  deriving DecidableEq, Repr

/-- A request item (Table 2-9): `len` is the ValueLength it states, `val` the value bytes it carries. -/
structure Item where
  obj : BitVec 20
  typ : BitVec 8
  row : BitVec 32
  fld : BitVec 8
  len : BitVec 16
  val : Bytes
  deriving DecidableEq, Repr

/-- What a READ names: items of a ZOA request, or a BAR0 offset and size (R72, R73). -/
inductive ReadReq where
  | zoa (q : Req) (items : List Item)
  | bar0 (offset size : Nat)
  deriving DecidableEq, Repr

/-- The write of one object by a session: the request's identity; through BAR0 the window form carries the value. -/
structure Via where
  sess : SessId
  rid : BitVec 32
  ctx : BitVec 16
  deriving DecidableEq, Repr

/-- Who writes an object of the servo (R86): the servo of Bureau's firmware, or a session. -/
inductive Servo where
  | firmware
  | session (v : Via)
  deriving DecidableEq, Repr

/-- Domain A or domain B (R81). -/
inductive Dom where
  | a | b
  deriving DecidableEq, Repr

/-- A protected FE line that a lookup reads (R116): a bucket of the route or exact store, an overflow entry, a range
slot, or a row of another FE table. -/
inductive Line where
  | routeBucket (n : Nat)
  | exactBucket (n : Nat)
  | exactOverflow (n : Nat)
  | rangeSlot (n : Nat)
  | row (obj r : Nat)
  deriving DecidableEq, Repr

/-- Where a packet that an ingress pipeline admits comes from. -/
inductive AdmitSrc where
  | port (p : Fin 128)
  | inject
  | recirc
  | reenter
  deriving DecidableEq, Repr

/-- Where the TM takes a packet from: a Dovetail link, the mesh, or the head of an enqueue lane. -/
inductive TmSrc where
  | link (k : Fin 2)
  | mesh
  | lane (k : Fin 10)
  deriving DecidableEq, Repr

/-- What a host read that failed gave: no completion in time, or an error (R337). -/
inductive ReadFail where
  | noResponse
  | hostError
  deriving DecidableEq, Repr

/-- Who issued a host read: an inject or punt ring with the descriptors it was reading for, or the running Trolley channel
with the descriptor it follows, the pairs of its list and the bytes it had moved in order before the request (R337, R346, R353). -/
inductive Reader where
  | ring (r : Fin 8192) (descs : List (BitVec 256))
  | channel (desc : BitVec 512) (pairs : List (BitVec 64 × BitVec 32)) (data : Bytes)
  deriving DecidableEq, Repr

/-- A packet that a host offers on an inject ring: its descriptors as read from host memory, First to Last, and the bytes
of their buffers (R343). -/
structure Offer where
  row : Fin 4096
  descs : List (BitVec 256)
  data : Bytes
  deriving DecidableEq, Repr

/-- What resets the endpoint (R335). -/
inductive LinkReset where
  | functionLevel
  | hot
  | down
  deriving DecidableEq, Repr

/-- What an HBM word holds where the spec does not place it: a Shelf buffer, or a record of the sample buffer by its place
in it (R122, R219, R368). -/
inductive Holds where
  | none
  | shelf (pool : Fin 4) (buffer : BitVec 18)
  | sample (place : BitVec 14)
  deriving DecidableEq, Repr

/-- An erroneous 64-bit word of a 32-byte HBM unit: its place, the syndrome, whether it is uncorrectable (R318). -/
structure EccWord where
  word : Fin 4
  syndrome : BitVec 8
  bad : Bool
  holds : Holds
  deriving DecidableEq, Repr

/-- What a read of the stack showed (R318): no error, a 64-bit word with a single-bit error, which was corrected, or an
uncorrectable word; the word counted from the first of what was read, with its syndrome. -/
inductive HbmRead where
  | clean
  | corrected (word : Nat) (syndrome : BitVec 8)
  | bad (word : Nat) (syndrome : BitVec 8)
  deriving DecidableEq, Repr

/-- What a FEC decoder counted since it last told: what it corrected, and the codewords that it could not. -/
structure FecCount where
  corrected : BitVec 32
  uncorrected : BitVec 32
  deriving DecidableEq, Repr

/-- What a line receiver hands up: the bytes, and what its FEC decoder counted since the last ones (log 165). -/
structure LineBytes where
  bytes : Bytes
  fec : FecCount
  deriving DecidableEq, Repr

/-- A turn for a session to be told what is due (R69): while `busy` its transport takes no message now (R70). -/
structure NotifyTurn where
  sess : SessId
  busy : Bool
  deriving DecidableEq, Repr

/-- A Dovetail link that loses training, and the differences that its clock crossing lost with it (R18, R438). -/
structure LinkCut where
  link : Fin 2
  lost : BitVec 16
  deriving DecidableEq, Repr

/-- What the memories of the FE showed (R116, R120): the lines with an uncorrectable error, and how many single-bit errors
were corrected (log 157). -/
structure SramErrors where
  bad : List Line
  fixed : Nat
  deriving DecidableEq, Repr

/-- The end of a line's rewrite (R117, R119, R120): whether its master copy could be read, and the single-bit errors
corrected in it (log 157). -/
structure Rewrite where
  readable : Bool
  fixed : Nat
  deriving DecidableEq, Repr

/-- How the TM stands when it takes a packet (R120, R207): `busy` when the packet's lane has no operation free, and the
single-bit errors corrected in lines of the TM on the way (log 157). -/
structure LaneTurn where
  busy : Bool
  fixed : Nat
  deriving DecidableEq, Repr

/-- An edge on a time input: the fifth of the tick it falls in, and the width of its pulse in ns (R101). -/
structure PulseEdge where
  phase : Fin 5
  width : Nat
  deriving DecidableEq, Repr

/-- The scrubber's turn at a pseudo-channel (R315, R319): the classes of the requests that wait there beside its own, and
the erroneous words of the unit it reads. -/
structure ScrubTurn where
  waiting : List (Fin 8)
  words : List EccWord
  deriving DecidableEq, Repr

/-- A tap that retraining found off its centre: its bit, read or write, and the direction of the step (R329). -/
structure TapMove where
  bit : Fin 72
  write : Bool
  up : Bool
  deriving DecidableEq, Repr

/-- The passing windows that training measured for one bit (Table 13-5). -/
structure TapWindow where
  pc : Fin 16
  bit : Fin 72
  rdLo : BitVec 7
  rdHi : BitVec 7
  wrLo : BitVec 7
  wrHi : BitVec 7
  deriving DecidableEq, Repr

/-- The strobe taps that training set (Table 13-5). -/
structure StrobeTaps where
  pc : Fin 16
  strobe : Fin 2
  wdqs : BitVec 8
  rdqs : BitVec 8
  deriving DecidableEq, Repr

/-- What initial training reports (R326, R327): the running step has met its criterion; the whole procedure has ended,
with what it measured at HIGH and at LOW, for every bit and strobe in order; or a step has failed its criterion once more,
at a pseudo-channel and bit. -/
inductive TrainResult where
  | stepped
  | passed (high low : List TapWindow) (strobesHigh strobesLow : List StrobeTaps)
  | failed (step : Fin 9) (pc : Fin 16) (bit : Option (Fin 72))
  deriving DecidableEq, Repr

/-- The parameters of a pattern operation (Table 13-10). -/
structure Pattern where
  pc : BitVec 4
  pattern : BitVec 3
  bursts : BitVec 14
  user : BitVec 64
  deriving DecidableEq, Repr

/-- How a client authenticates in a DTLS handshake (R372, R373): a certificate by the hash of its public key, a PSK by its
identity and whether the client proved it, or a vendor certificate and whether it chains to the service key. -/
inductive Cred where
  | cert (spkiHash : BitVec 384)
  | psk (identity : BitVec 16) (key : BitVec 256)
  | vendor (chains : Bool)
  deriving DecidableEq, Repr

/-- A port that may carry ZOA (R61, R78). -/
inductive NetPort where
  | mgmtA
  | mgmtB
  | line (p : Fin 128)
  deriving DecidableEq, Repr

/-- How the datagrams of an association reach the module: the port, the UDP port they are sent to, and whether they are
sent to its IPv6 address (R61, R78, R80). -/
structure Arrival where
  port : NetPort
  udp : BitVec 16
  v6 : Bool
  deriving DecidableEq, Repr

/-- A new association: by DTLS, or the first message of a cleartext one (R61); its peer address as the audit log holds it
and the way it comes (R78, R80). -/
structure Handshake where
  cred : Option Cred
  peer : BitVec 64
  arrival : Arrival
  deriving DecidableEq, Repr

/-- Why the NV guard is asserted (R412): SAG_N low, or a rail below its guard threshold. -/
inductive GuardCause where
  | sag
  | rail (r : Fin 10)
  deriving DecidableEq, Repr

/-- An edge of POR_N; at the rise, the first rail that passed 90% out of order, if one did (R410). -/
inductive PorEdge where
  | fall
  | rise (outOfOrder : Option (Fin 10))
  deriving DecidableEq, Repr
/-- The commands, one for each row of spec/opcode_table.json in its order, named as its row. -/
inductive Instr where
  | read (r : ReadReq)
  | write (q : Req) (items : List Item)
  | tableRead (q : Req) (items : List Item)
  | tableWrite (q : Req) (items : List Item)
  | txnOpen (q : Req) (items : List Item)
  | txnCommit (q : Req) (items : List Item)
  | txnAbort (q : Req) (items : List Item)
  | snapshotOpen (q : Req) (items : List Item)
  | snapshotClose (q : Req) (items : List Item)
  | subscribe (q : Req) (items : List Item)
  | unsubscribe (q : Req) (items : List Item)
  | notify (turn : NotifyTurn)
  | zoaMessageDiscard (sess : SessId) (msg : Bytes)
  | dtlsHandshake (h : Handshake)
  | sessionClose (sess : SessId)
  | zoaSessionIdleClose (sess : SessId)
  | txnIdleTimeout (sess : SessId)
  | txnCommitTimeout
  | snapshotExpire (sess : SessId)
  | timedCommitApply
  | waitingCommitApply
  | parseBankFree
  | bar0Write (offset : Nat) (data : Bytes)
  | mailboxGo (slot : Fin 4) (go : BitVec 32) (length : BitVec 32) (writes : List (Nat × Bytes))
  | mailboxAck (slot : Fin 4)
  | mailboxNotifyPlace (slot : Fin 4)
  | dovetailLinkLoss (cut : LinkCut)
  | frameReceive (port : Fin 128) (rx : LineBytes) (phase : Fin 5)
  | pfcRepeat (port : Fin 128) (cls : Fin 9)
  | pauseExpire (port : Fin 128) (cls : Fin 8)
  | packetAdmit (a : AdmitSrc) (held : Nat) (errs : SramErrors)
  | lineRepairComplete (l : Line) (done : Rewrite)
  | exactLearnInsert
  | tmEnqueue (a : TmSrc) (turn : LaneTurn)
  | spillReturn (read : HbmRead)
  | queueFlush (v : Via) (queue : BitVec 32)
  | tmIntegrityError (cells : List (Fin 524288)) (descs : List (Fin 2097152))
  | shaperRefill (level : Fin 5)
  | calendarSlotRelease
  | schedulerSelect (port : Fin 160)
  | egressProcess (link : Fin 2) (phase : Fin 5)
  | streamRecoveryReset (stream : Fin 16384)
  | puntRingWrite (row : Fin 4096) (bufs : List (BitVec 64 × BitVec 16))
  | gateEntryChange (port : Fin 128)
  | gateListStart (port : Fin 128)
  | generationRetire
  | generationAgeLimit
  | lockstepMismatch
  | longcaseTick
  | gridSteerUpdate
  | gridStep
  | gridLock
  | gridSet (v : Via) (t : BitVec 80)
  | gridRelock (v : Via) (x : BitVec 8)
  | gridSourceWrite (v : Via) (x : BitVec 8)
  | domainQualify (w : Servo) (d : Dom) (x : BitVec 8)
  | domainSourceLoss (d : Dom)
  | domainTimeSet (w : Servo) (d : Dom) (t : BitVec 80)
  | domainAdjust (w : Servo) (d : Dom) (x : BitVec 64)
  | domainIncrementWrite (w : Servo) (d : Dom) (x : BitVec 64)
  | domainOffsetUpdate (d : Dom)
  | domainDisagreementUpdate
  | ppsInEdge (rising : Bool) (edge : PulseEdge)
  | timeCaptureEdge (input : Fin 8) (rising : Bool) (edge : PulseEdge)
  | timeTriggerEnable (v : Via) (row : BitVec 32) (x : BitVec 256)
  | triggerPulse (row : Fin 12)
  | ppsOutPulse
  | routeQuery (v : Via) (x : BitVec 288)
  | exactQuery (v : Via) (x : BitVec 544)
  | exactAgerScan
  | exactAgeTick
  | rangeSearch (v : Via) (x : BitVec 512)
  | rangeSearchNext (v : Via) (x : BitVec 8)
  | rangeDirectInvalidate (v : Via) (row : BitVec 32) (x : BitVec 960)
  | rangeDirectWrite (v : Via) (row : BitVec 32) (x : BitVec 960)
  | rangeDirectValidate (v : Via) (row : BitVec 32) (x : BitVec 960)
  | shelfAllocate (client : BitVec 16) (size : Nat)
  | shelfRelease (client : BitVec 16) (pool : Fin 4) (buffer : Nat)
  | rackCycleStart
  | rackFrameStart
  | headerCellReceive (g : Fin 16) (rx : LineBytes) (lanes : BitVec 12) (phase : Fin 5)
  | meshStepSearchTimeout (g : Fin 16)
  | dataCellReceive (g : Fin 16) (slot : Fin 128) (bytes : Bytes)
  | reseqTimeout (source : Fin 16) (cls : Fin 8)
  | heldSequenceSkip (source : Fin 16) (cls : Fin 8)
  | meshPackTimeout (d : Fin 16) (c : Fin 8)
  | groupDispatch
  | meshGroupDefectRaise (g : Fin 16) (d : Fin 8)
  | meshGroupDefectClear (g : Fin 16) (d : Fin 8)
  | pageSwapDecide
  | pageSwap
  | autoPagePlan
  | meshJoin (g : Fin 16)
  | meshLeaveRequest (v : Via) (x : BitVec 8)
  | meshLeaveReady
  | portRetrain (v : Via) (row : BitVec 32) (x : BitVec 8)
  | autonegComplete (port : Fin 128) (ability : BitVec 16) (fec : BitVec 2)
  | autonegTimeout (port : Fin 128) (ability : BitVec 16) (fec : BitVec 2)
  | linkTrainingComplete (port : Fin 128) (losses : List (BitVec 16))
  | trainingTimeout (port : Fin 128)
  | portLinkUp (port : Fin 128)
  | laneLockLoss (port : Fin 128) (lanes : BitVec 8) (cut : Bool)
  | portDegradeComplete (port : Fin 128) (stopped : BitVec 8)
  | hbmTemperatureSample (celsius : BitVec 8)
  | hbmRefresh (pc : Fin 16)
  | hbmScrubStep (turn : ScrubTurn)
  | hbmFreqRequest (v : Via) (x : BitVec 8)
  | hbmFreqChange
  | hbmRetrain (pc : Fin 16) (forced : Bool) (moves : List TapMove)
  | hbmServiceMode (v : Via) (x : BitVec 8)
  | hbmPatternWrite (v : Via) (p : Pattern)
  | hbmPatternReadCompare (v : Via) (p : Pattern)
  | hbmPatternWriteReadCompare (v : Via) (p : Pattern)
  | hbmPatternLoopback (v : Via) (p : Pattern)
  | hbmPatternDone (mask : BitVec 72) (count : BitVec 32)
  | hbmTrain (r : TrainResult)
  | hbmWipe (verified : Bool)
  | pcieLinkReset (k : LinkReset) (lost : BitVec 16)
  | pcieCompletionTimeout (who : Reader)
  | ringDoorbell (r : Fin 8192) (value : BitVec 32)
  | injectPacket (offers : List Offer)
  | injectTimestampComplete
  | injectStampTimeout (row : Fin 4096)
  | ringInterruptHoldoff (r : Fin 8192)
  | trolleyGo (v : Via) (channel : Fin 32) (x : BitVec 64)
  | trolleyRunStart
  | trolleyDescriptorDone (desc : BitVec 512) (pairs : List (BitVec 64 × BitVec 32)) (data : Bytes)
  | trolleyStop (v : Via) (x : BitVec 8)
  | eventFlagClear (v : Via) (bank : BitVec 32) (flags : BitVec 32)
  | eventCountClear (v : Via) (source : BitVec 32)
  | eventBankClaim (v : Via) (bank : BitVec 32)
  | eventBankRelease (v : Via) (bank : BitVec 32)
  | counterClear (v : Via) (first last : BitVec 21)
  | dumpLatch
  | dumpComplete (read : HbmRead)
  | telemetrySlotHandover (row : Fin 9)
  | telemetryFlush (row : Fin 9)
  | lifecycleRequest (v : Via) (x : BitVec 8)
  | lifecycleChangeComplete (verified : Bool)
  | jtagDebugEnable (v : Via) (x : BitVec 8)
  | fwLoadBegin (v : Via)
  | fwLoadBeginChain (v : Via)
  | fwLoadAbort (v : Via)
  | fwLoadTimeout
  | fwChunk (v : Via) (row : BitVec 32) (data : Bytes)
  | fwStagedLoad (v : Via) (length : BitVec 32) (chain : Bool)
  | fwBegin (group : Fin 16) (transfer : BitVec 16) (entry : BitVec 8) (map : BitVec 16) (length : BitVec 32)
  | fwData (group : Fin 16) (transfer : BitVec 16) (offset : BitVec 32) (data : Bytes)
  | fwAck (group : Fin 16) (transfer : BitVec 16) (next : BitVec 32) (status : BitVec 8)
  | fwResult (group : Fin 16) (transfer : BitVec 16) (codes : BitVec 128)
  | fwBeginAckTimeout
  | fwResend
  | fwHopTimeout
  | fwActivate (v : Via) (t : BitVec 80)
  | fwPrepareReady
  | fwSwap
  | fwActivateCancel (v : Via)
  | fwConfirm (v : Via)
  | fwRollback (v : Via)
  | fwConfirmTimeout
  | fwActivateAtResetMark (v : Via)
  | fwActivateAtResetUnmark (v : Via)
  | nvGuardAssert (c : GuardCause)
  | nvGuardRelease
  | overVoltage (rail : Fin 10)
  | brownOut (rail : Fin 10)
  | journalRecordWrite (inFlight copied : Bool)
  | dieTemperatureSample (fe tm : BitVec 16) (sense : List (BitVec 16))
  | sideboardStart (v : Via) (x : BitVec 8)
  | sideboardSequenceStart
  | sideboardConversion (code : BitVec 12)
  | fanTachWindow (fan : Fin 8) (edges : BitVec 32)
  | gpioEdge (pin : Fin 16) (high : Bool)
  | referenceClockLoss (input : Fin 6)
  | referenceClockRestore (input : Fin 6)
  | powerOnReset (e : PorEdge)
  | moduleResetPin (ns : Nat)
  | blockReset (v : Via) (row : BitVec 32) (x : BitVec 8) (lost : BitVec 16)
  | blockResetRelease (row : Fin 147)
  | senseComplete
  | romSlotChoose (wiped : Bool)
  | bootComplete (wiped : Bool)
  | restore (bad : List (BitVec 20))
  | trafficStart (v : Via) (x : BitVec 8)
  | trafficEnable
  | standbyPairSynchronised
  | selfTestPassed
  | pcieLinkUp (speed : Fin 5) (width : Fin 4)
  | busMasterEnable (on_ : Bool)
  | pcieHostError (who : Reader)
  | lossOfPower
  | dovetailLinkRetrain (link : Fin 2) (trained : Bool)
  | routeFilterRecompute (block : Fin 1048576)
  deriving DecidableEq, Repr

end Sys2Proof
end

