-- ==== Sys2Proof/Decode.lean ====
section
/-! DEFINITION. The command a word spells by the bits of spec/opcode_table.json. No row of the table gives bits: commands
reach the block through its sessions, its links and its pins, so no word spells one. -/
namespace Sys2Proof

/-- The command that `w`, `nbits` wide, spells: no row of the table gives bits. -/
def decodeTableWord (_nbits _w : Nat) : Option Instr := none

end Sys2Proof
end

