-- ==== Sys2Proof/Config.lean ====
section
/-! DEFINITION. The values the spec leaves open, each an opaque constant without a body: no proof can see what they are,
so a statement that holds of the model holds for every value of them. The first argument `n` is the value of the
state's plain counter `free` at the step that reads it, so that each reading may give another value; the further
arguments are what the value may depend on. Each is named in the assumption log. -/
namespace Sys2Proof.Config

/-- What a U64 counter holds after one more at 2^64 − 1: the spec says "saturates" of some counters and nothing of
these (log 12). -/
opaque counterWrap : Nat → BitVec 64

/-- The mean of R92 when the grid has run for less than 16 s (log 22). -/
opaque holdoverShort : Nat → BitVec 64

/-- Whether a quotient whose rounding the spec does not give is taken one above its floor (log 20). -/
opaque roundUp : Int → Nat → Bool

/-- What a mark records of a cursor that 16 bits do not hold (R130, log 30). -/
opaque markOver : Nat → BitVec 16

/-- The pseudo-random number that a sampler draws (R200, log 44). -/
opaque samplerDraw : Nat → BitVec 32

/-- The enqueue lane of a packet (R207 gives the property, not the function; log 50). -/
opaque lane : BitVec 16 → BitVec 3 → BitVec 8 → BitVec 19 → Nat

/-- SHA-384 of a byte string: the spec names the standard function (log 70). -/
opaque sha384 : Bytes → BitVec 384

/-- Whether an ECDSA P-384 signature (r then s) by a public key verifies over a message (log 70). -/
opaque ecdsaVerify : Bytes → Bytes → Bytes → Bool

/-- The public key of Coffer ROM used for provisioning tokens (Table 16-1). -/
opaque provisioningKey : Bytes

/-- The public key of Coffer ROM used for firmware images (Table 16-1). -/
opaque firmwareKey : Bytes

/-- The unit key pair's public point, drawn from the DRBG (Table 16-1). -/
opaque unitPublicKey : Nat → BitVec 776

/-- A stamp of a pipeline stage in a sample record whose instant the model has no clock for (R368, log 66). -/
opaque stageStamp : Nat → BitVec 32

/-- What the Rpm field reads for a speed that it cannot hold (log 62). -/
opaque undefinedBits : Nat → BitVec 64

/-- A module byte that a failed Trolley run leaves undefined (R353, log 60). -/
opaque undefinedByte : Nat → Nat → Byte

/-- Whether the handover journal holds a running request at a takeover (R123): the spec does not say which requests it holds at an
instant (log 141). -/
opaque journalHolds : Nat → Nat → Bool

/-- The technology ability bits of the Clause 73 base page that a port mode advertises: the spec shows the partner's bits as
PartnerAbility and does not say which bit a mode is (log 162). -/
opaque modeAbility : Nat → BitVec 16

/-- The FEC bits of the base page that a FEC advertises, by its code in FecInUse (log 162). -/
opaque fecAbility : Nat → BitVec 2

/-- The 16 bytes of a SUBSET dump's entry whose value is wider than 8 bytes, by the entry and the value: R364 lays out
values up to 8 bytes (log 120). -/
opaque dumpWide : Nat → Nat → BitVec 128

end Sys2Proof.Config
end

