-- ==== Sys2Proof/Machine/Bits.lean ====
section
/-! DEFINITION. Bit-field, byte-order, sign and check-sequence helpers shared by every block: field extraction (R37),
big-endian wire bytes (R9), two's complement (R34), CRC-32 and CRC-16 of the wire formats. -/
namespace Sys2Proof.Machine

/-- Bits `[hi:lo]` of `v`. -/
def bitsOf (hi lo v : Nat) : Nat := v / 2 ^ lo % 2 ^ (hi - lo + 1)

/-- `v` as `n` bytes, most significant first (R9). -/
def beBytes : Nat → Nat → Bytes
  | 0, _ => []
  | n + 1, v => BitVec.ofNat 8 (v / 256 ^ n) :: beBytes n v

/-- The number whose big-endian form the bytes are. -/
def beNat (b : Bytes) : Nat := b.foldl (fun a x => a * 256 + x.toNat) 0

/-- `v` as `n` bytes, least significant first. -/
def leBytes (n v : Nat) : Bytes := (beBytes n v).reverse

/-- The number whose little-endian form the bytes are. -/
def leNat (b : Bytes) : Nat := beNat b.reverse

/-- Two's complement of width `w` read as an integer. -/
def toSigned (w v : Nat) : Int := if v % 2 ^ w < 2 ^ (w - 1) then (v % 2 ^ w : Nat) else ((v % 2 ^ w : Nat) : Int) - 2 ^ w

/-- The two's complement form of width `w` of an integer (wraps). -/
def ofSigned (w : Nat) (i : Int) : Nat := (i % (2 ^ w : Nat)).toNat

/-- The DUR64 form of a difference, held at the limit of its sign when beyond the range (R466). -/
def satDur64 (i : Int) : Nat :=
  if i > 2 ^ 63 - 1 then 2 ^ 63 - 1 else if i < -(2 ^ 63) then 2 ^ 63 else ofSigned 64 i

/-- One more, held at the largest value of `w` bits. -/
def satInc (w v : Nat) : Nat := if v + 1 < 2 ^ w then v + 1 else 2 ^ w - 1

/-- One byte at index `i`; 0 beyond the end. -/
def byteAt (b : Bytes) (i : Nat) : Nat := (b.getD i 0).toNat

/-- `n` bytes from index `i` as a big-endian number. -/
def beAt (b : Bytes) (i n : Nat) : Nat := beNat ((b.drop i).take n)

/-- The bytes with `n` of them from index `i` replaced by the big-endian form of `v`. -/
def putBe (b : Bytes) (i n v : Nat) : Bytes := b.take i ++ beBytes n v ++ b.drop (i + n)

/-- The index of the least bit of `v` that is set, among the first `n`. -/
def lowestSet (n v : Nat) : Option Nat := (List.range n).find? fun i => v.testBit i

/-- Number of bits set among the first `n`. -/
def popCount (n v : Nat) : Nat := ((List.range n).filter fun i => v.testBit i).length

/-- Shifts one byte, least significant bit first, into a reflected CRC register. -/
def crcByteRefl (poly : Nat) (crc : Nat) (b : Byte) : Nat :=
  (List.range 8).foldl (fun c _ => if c % 2 = 1 then (c / 2) ^^^ poly else c / 2) (crc ^^^ b.toNat)

/-- CRC-32 as the frame check sequence of IEEE 802.3. -/
def crc32 (b : Bytes) : Nat := (b.foldl (crcByteRefl 0xEDB88320) 0xFFFFFFFF) ^^^ 0xFFFFFFFF

/-- The four bytes of a frame check sequence in their order on the wire. -/
def fcsBytes (b : Bytes) : Bytes := leBytes 4 (crc32 b)

/-- Shifts one byte, most significant bit first, into a CRC register of `w` bits with generator `poly`. -/
def crcByteMsb (w poly : Nat) (crc : Nat) (b : Byte) : Nat :=
  (List.range 8).foldl
    (fun c i =>
      let bit := (b.toNat / 2 ^ (7 - i)) % 2
      let top := (c / 2 ^ (w - 1)) % 2
      let c' := c * 2 % 2 ^ w
      if bit = top then c' else c' ^^^ poly) crc

/-- The ceiling of a division. -/
def ceilDiv (a b : Nat) : Nat := (a + b - 1) / b

/-- The floor of the binary logarithm, of a positive number. -/
def log2Of (n : Nat) : Nat := Nat.log2 n

/-- The first element's index that meets `p`. -/
def indexOf? {α : Type} (l : List α) (p : α → Bool) : Option Nat := l.findIdx? p

/-- Replaces the elements that meet `p`. -/
def updWhere {α : Type} (l : List α) (p : α → Bool) (f : α → α) : List α := l.map fun x => if p x then f x else x

end Sys2Proof.Machine
end

