-- ==== Sys2Proof/Machine/Catalog.lean ====
section
/-! DEFINITION. The object dictionary as the object tables of spec/ give it (R31 to R37, R462): one `ObjInfo` per object
number, its field map, its rights, persistence and apply class, its default and the bounds its row states. Written
out from the object tables and field maps of the chapters; the constants `O.<Name>` are object numbers, the constants
`F.<Name>_<Field>` are field numbers as R32 counts them (reserved rows counted). -/
namespace Sys2Proof.Machine

/-- Access of one field in its field map (R10, R37). -/
inductive Acc where
  | r | rw | w | rsv
  deriving DecidableEq, Repr

/-- The bound a table row states for a value (R35, R462). `rngEn` is checked only while the record's first field
(its Valid or Enable bit) is 1, as the default of such a field breaks the bound itself (log 9). -/
inductive Bnd where
  | any
  | rng (lo hi : Nat)
  | rngEn (lo hi : Nat)
  | srng (magnitude width : Nat)
  deriving DecidableEq, Repr

/-- One row of a field map. -/
structure FieldInfo where
  hi : Nat
  lo : Nat
  acc : Acc
  dflt : Nat
  bnd : Bnd
  deriving DecidableEq, Repr

/-- One object of the dictionary. `typ` and `rowTyp` are the codes of Table 2-3; `rd` and `wr` hold one bit per role
(bit 0 OBS to bit 4 VND); `pers` 0 V, 1 P, 2 F; `apply` as Table 2-2 codes it; `width` in bytes; `rows` 0 for a scalar. -/
structure ObjInfo where
  num : Nat
  typ : Nat
  rowTyp : Nat
  rd : Nat
  wr : Nat
  pers : Nat
  apply : Nat
  width : Nat
  rows : Nat
  dflt : Nat
  bnd : Bnd
  fields : List FieldInfo
  deriving DecidableEq, Repr

namespace O
/-! Objects of spec/00_scope.md. -/
abbrev DictionaryVersion : Nat := 0x00000
abbrev PartIdentity : Nat := 0x00001
abbrev UnitSerial : Nat := 0x00002
/-! Objects of spec/02_object_dictionary.md. -/
abbrev Directory : Nat := 0x00100
abbrev TxnOpen : Nat := 0x00200
abbrev TxnCommit : Nat := 0x00201
abbrev TxnAbort : Nat := 0x00202
abbrev TxnStatus : Nat := 0x00203
abbrev TxnCommitTimeout : Nat := 0x00204
abbrev TxnIdleTimeout : Nat := 0x00205
abbrev TxnsOpen : Nat := 0x00206
/-! Objects of spec/04_consistency.md. -/
abbrev GenerationCurrent : Nat := 0x00210
abbrev GenerationOldestLive : Nat := 0x00211
abbrev GenerationsLive : Nat := 0x00212
abbrev GenerationAgeLimit : Nat := 0x00213
abbrev GenerationWaitCount : Nat := 0x00214
abbrev GenerationForcedRetire : Nat := 0x00215
/-! Objects of spec/02_object_dictionary.md. -/
abbrev SnapshotLifetime : Nat := 0x00220
abbrev SnapshotsOpen : Nat := 0x00221
abbrev ZoaUdpPort : Nat := 0x00300
abbrev ZoaCleartextEnable : Nat := 0x00301
abbrev ZoaSessionsOpen : Nat := 0x00302
abbrev ZoaMalformed : Nat := 0x00303
abbrev NotifyDropped : Nat := 0x00304
abbrev NetAddress : Nat := 0x00310
abbrev InbandEnable : Nat := 0x00320
abbrev InbandPort : Nat := 0x00321
abbrev HostRole : Nat := 0x00400
abbrev BarLastStatus : Nat := 0x00401
abbrev BarPartialWrite : Nat := 0x00402
/-! Objects of spec/16_security_lifecycle.md. -/
abbrev LifeCycleState : Nat := 0x01000
abbrev LifeCycleRequest : Nat := 0x01001
abbrev LifeCycleStatus : Nat := 0x01002
/-! Objects of spec/01_architecture.md. -/
abbrev DovetailLinkState : Nat := 0x01100
abbrev DovetailLinkLoss : Nat := 0x01101
abbrev DovetailRetrainCount : Nat := 0x01102
abbrev DovetailHeldCycles : Nat := 0x01103
/-! Objects of spec/04_consistency.md. -/
abbrev RepairQueueDepth : Nat := 0x01200
abbrev RepairQueueHighWater : Nat := 0x01201
abbrev RepairCount : Nat := 0x01202
abbrev RepairOverflowDrops : Nat := 0x01203
abbrev RepairUnrepairable : Nat := 0x01204
abbrev IntegrityTmDrops : Nat := 0x01210
abbrev IntegrityHbmEvents : Nat := 0x01211
abbrev BureauFailoverCount : Nat := 0x01220
abbrev BureauStandbyReady : Nat := 0x01221
/-! Objects of spec/19_clocks_resets_crossings.md. -/
abbrev ClockStatus : Nat := 0x01300
abbrev ClockLossCount : Nat := 0x01301
abbrev ResetCause : Nat := 0x01310
abbrev ModuleResetCount : Nat := 0x01311
abbrev BlockReset : Nat := 0x01320
abbrev BlockResetActive : Nat := 0x01321
abbrev CrossingLoss : Nat := 0x01330
/-! Objects of spec/20_bring_up.md. -/
abbrev BringUpStatus : Nat := 0x01400
abbrev BringUpTimes : Nat := 0x01401
abbrev TrafficAutoEnable : Nat := 0x01402
abbrev TrafficStart : Nat := 0x01403
abbrev MeshJoinWait : Nat := 0x01404
abbrev RestoreDefaulted : Nat := 0x01405
abbrev RestoreLastObject : Nat := 0x01406
/-! Objects of spec/03_grid_time.md. -/
abbrev GridTime : Nat := 0x04000
abbrev GridState : Nat := 0x04001
abbrev GridSource : Nat := 0x04002
abbrev GridSlewLimit : Nat := 0x04003
abbrev GridSteerTimeConstant : Nat := 0x04004
abbrev GridStepThreshold : Nat := 0x04005
abbrev GridLockThreshold : Nat := 0x04006
abbrev GridLockHold : Nat := 0x04007
abbrev GridError : Nat := 0x04008
abbrev GridRelock : Nat := 0x04009
abbrev GridAutoSwitch : Nat := 0x0400A
abbrev GridSet : Nat := 0x0400B
abbrev GridStepCount : Nat := 0x0400C
abbrev GridLastStep : Nat := 0x0400D
abbrev GridFreeIncrement : Nat := 0x0400E
abbrev DomainDisagreement : Nat := 0x0400F
abbrev DomainATime : Nat := 0x04010
abbrev DomainAIncrement : Nat := 0x04011
abbrev DomainAAdjust : Nat := 0x04012
abbrev DomainASource : Nat := 0x04013
abbrev DomainAPort : Nat := 0x04014
abbrev DomainAPtpDomain : Nat := 0x04015
abbrev DomainAQualified : Nat := 0x04016
abbrev DomainAAsymmetry : Nat := 0x04017
abbrev DomainASourceLoss : Nat := 0x04018
abbrev DomainAOffset : Nat := 0x04019
abbrev DomainALossTimeout : Nat := 0x0401A
abbrev DomainBTime : Nat := 0x04020
abbrev DomainBIncrement : Nat := 0x04021
abbrev DomainBAdjust : Nat := 0x04022
abbrev DomainBSource : Nat := 0x04023
abbrev DomainBPort : Nat := 0x04024
abbrev DomainBPtpDomain : Nat := 0x04025
abbrev DomainBQualified : Nat := 0x04026
abbrev DomainBAsymmetry : Nat := 0x04027
abbrev DomainBSourceLoss : Nat := 0x04028
abbrev DomainBOffset : Nat := 0x04029
abbrev DomainBLossTimeout : Nat := 0x0402A
abbrev DomainDisagreeLimit : Nat := 0x0402B
abbrev ServoOwner : Nat := 0x04030
abbrev ServoWatchdog : Nat := 0x04031
abbrev TcPort : Nat := 0x04050
abbrev TcUncorrectable : Nat := 0x04051
abbrev TimeTrigger : Nat := 0x04100
abbrev TimeCaptureConfig : Nat := 0x04200
abbrev TimeCaptureLog : Nat := 0x04201
abbrev TimeCaptureOverrun : Nat := 0x04202
abbrev PpsOutConfig : Nat := 0x04300
abbrev PpsOutOffset : Nat := 0x04301
abbrev SyncEClock : Nat := 0x04400
/-! Objects of spec/05_parse_graph.md. -/
abbrev ParseNode : Nat := 0x08000
abbrev ParseTransition : Nat := 0x08001
abbrev ParseCopy : Nat := 0x08002
abbrev ParseLengthRule : Nat := 0x08003
abbrev ParseHashProfile : Nat := 0x08004
abbrev ParseStart : Nat := 0x08005
abbrev FlowHashSeed : Nat := 0x08006
abbrev ParseGraphClear : Nat := 0x08007
abbrev ParseActiveBank : Nat := 0x08010
abbrev ParseBankGeneration : Nat := 0x08011
abbrev ParseBankWaitCount : Nat := 0x08012
abbrev ParseFailWindow : Nat := 0x08020
abbrev ParseFailHops : Nat := 0x08021
abbrev ParseFailNoTransition : Nat := 0x08022
abbrev ParseFailTruncated : Nat := 0x08023
abbrev ParseLastFail : Nat := 0x08024
/-! Objects of spec/06_route_exact_lookups.md. -/
abbrev LookupProfile : Nat := 0x0C000
abbrev RouteHashSeed1 : Nat := 0x0C010
abbrev RouteHashSeed2 : Nat := 0x0C011
abbrev RouteFilterSeed : Nat := 0x0C012
abbrev RouteUpdate : Nat := 0x0C100
abbrev RouteTable : Nat := 0x0C101
abbrev RouteQuery : Nat := 0x0C102
abbrev RouteDefault : Nat := 0x0C103
abbrev RouteSlotsUsed : Nat := 0x0C110
abbrev RouteSlotLimit : Nat := 0x0C111
abbrev RouteLengthCount : Nat := 0x0C112
abbrev RouteCycleHistogram : Nat := 0x0C113
abbrev RouteFilterSaturated : Nat := 0x0C114
abbrev RoutePlaceFail : Nat := 0x0C115
abbrev RouteLastFailRow : Nat := 0x0C116
abbrev RouteDrops : Nat := 0x0C117
abbrev ExactKeyProfile : Nat := 0x0C800
abbrev ExactHashSeed1 : Nat := 0x0C801
abbrev ExactHashSeed2 : Nat := 0x0C802
abbrev ExactUpdate : Nat := 0x0C900
abbrev ExactTable : Nat := 0x0C901
abbrev ExactQuery : Nat := 0x0C902
abbrev ExactEntriesUsed : Nat := 0x0C910
abbrev ExactOverflowUsed : Nat := 0x0C911
abbrev ExactLastFailRow : Nat := 0x0C912
abbrev ExactMissDrops : Nat := 0x0C913
abbrev ExactAgeTick : Nat := 0x0CA00
abbrev ExactAgeClock : Nat := 0x0CA01
abbrev ExactAgerEnable : Nat := 0x0CA02
abbrev ExactAgedOut : Nat := 0x0CA03
abbrev ExactLearnRate : Nat := 0x0CB00
abbrev ExactLearned : Nat := 0x0CB01
abbrev ExactLearnDropped : Nat := 0x0CB02
abbrev ExactLearnHoldoff : Nat := 0x0CB03
abbrev ExactLearnNotified : Nat := 0x0CB04
/-! Objects of spec/07_range_search.md. -/
abbrev RangeProfile : Nat := 0x10000
abbrev RangeUpdate : Nat := 0x10001
abbrev RangeRule : Nat := 0x10002
abbrev RangeDirect : Nat := 0x10003
abbrev RangeSearch : Nat := 0x10004
abbrev RangeSearchNext : Nat := 0x10005
abbrev RangeSlotsUsed : Nat := 0x10010
abbrev RangeSlotCount : Nat := 0x10011
abbrev RangeRowsLive : Nat := 0x10012
abbrev RangeLastFailRow : Nat := 0x10013
abbrev RangeHits : Nat := 0x10020
abbrev RangeMisses : Nat := 0x10021
abbrev RangeMultiple : Nat := 0x10022
abbrev RangeMissDrops : Nat := 0x10023
abbrev RangeDirectCount : Nat := 0x10024
/-! Objects of spec/08_rules_actions.md. -/
abbrev ActionSet : Nat := 0x14000
abbrev NextHop : Nat := 0x14100
abbrev EcmpGroup : Nat := 0x14101
abbrev EcmpMember : Nat := 0x14102
abbrev EditList : Nat := 0x14200
abbrev EgressMtu : Nat := 0x14300
abbrev RecircQueueBase : Nat := 0x14400
abbrev RecircPackets : Nat := 0x14401
abbrev RecircIgnored : Nat := 0x14402
abbrev StreamReplicate : Nat := 0x14500
abbrev StreamRecovery : Nat := 0x14501
abbrev StreamRecoveryCount : Nat := 0x14502
abbrev PuntReason : Nat := 0x14600
abbrev PuntCount : Nat := 0x14601
abbrev MirrorSession : Nat := 0x14700
abbrev Sampler : Nat := 0x14701
abbrev SealedCopyAllowed : Nat := 0x14702
abbrev SealedCopySuppressed : Nat := 0x14703
abbrev ActionBadIndex : Nat := 0x14800
abbrev ActionDrops : Nat := 0x14801
abbrev ActionNoDest : Nat := 0x14802
abbrev CounterActionsLost : Nat := 0x14803
abbrev EditAnchorMissing : Nat := 0x14804
/-! Objects of spec/10_scheduling_shaping.md. -/
abbrev Meter : Nat := 0x15000
abbrev MeterColourCount : Nat := 0x15001
abbrev MeterRedDrops : Nat := 0x15002
/-! Objects of spec/09_egress_buffer.md. -/
abbrev BufferProfile : Nat := 0x18000
abbrev QueueBuffer : Nat := 0x18001
abbrev PortClassLimit : Nat := 0x18002
abbrev ReturnReserveCells : Nat := 0x18003
abbrev FrameAgeLimit : Nat := 0x18004
abbrev QueueFlush : Nat := 0x18005
abbrev FreeCells : Nat := 0x18010
abbrev FreeDescriptors : Nat := 0x18011
abbrev PortClassUsage : Nat := 0x18012
abbrev QueueDepth : Nat := 0x18013
abbrev QueueCounters : Nat := 0x18014
abbrev DropByReason : Nat := 0x18015
abbrev AgedByClass : Nat := 0x18016
abbrev SpillBudget : Nat := 0x18100
abbrev SpillPagesTotal : Nat := 0x18101
abbrev SpillPagesUsed : Nat := 0x18102
abbrev SpillQueues : Nat := 0x18103
abbrev SpillBytesWritten : Nat := 0x18104
abbrev SpillBytesReturned : Nat := 0x18105
abbrev SpillNoBudget : Nat := 0x18106
abbrev SpillNoPage : Nat := 0x18107
abbrev SpillPause : Nat := 0x18108
abbrev SpillNoDescriptor : Nat := 0x18109
abbrev ShelfPool : Nat := 0x18800
abbrev ShelfAllocFail : Nat := 0x18801
abbrev ShelfRejectedRelease : Nat := 0x18802
abbrev ShelfLastReject : Nat := 0x18803
/-! Objects of spec/10_scheduling_shaping.md. -/
abbrev SchedPort : Nat := 0x20000
abbrev SchedL1 : Nat := 0x20001
abbrev SchedL2 : Nat := 0x20002
abbrev SchedL3 : Nat := 0x20003
abbrev SchedQueue : Nat := 0x20004
abbrev SchedNodeQuery : Nat := 0x20010
abbrev SchedPathMismatch : Nat := 0x20011
abbrev CalendarSlip : Nat := 0x20100
abbrev CalendarClip : Nat := 0x20101
abbrev GateConfig : Nat := 0x21000
abbrev GateAdminList : Nat := 0x21001
abbrev GateOperList : Nat := 0x21002
abbrev GateConfigChange : Nat := 0x21003
abbrev GateStatus : Nat := 0x21004
abbrev GateStartedLateCount : Nat := 0x21005
abbrev LaunchPort : Nat := 0x22000
abbrev LaunchCounters : Nat := 0x22001
/-! Objects of spec/11_mesh_fabric.md. -/
abbrev MeshCardSlot : Nat := 0x30000
abbrev MeshMode : Nat := 0x30001
abbrev MeshGroupConfig : Nat := 0x30002
abbrev MeshGroupStatus : Nat := 0x30003
abbrev MeshGroupCounters : Nat := 0x30004
abbrev MeshSyncConfirm : Nat := 0x30005
abbrev MeshSyncLoss : Nat := 0x30006
abbrev MeshDegThreshold : Nat := 0x30007
abbrev MeshRxLatencyNs : Nat := 0x30008
abbrev MeshPackTimeout : Nat := 0x30009
abbrev MeshActiveCards : Nat := 0x30010
abbrev MeshLinkMatrix : Nat := 0x30011
abbrev MeshXoffMap : Nat := 0x30012
abbrev MeshConnStandby : Nat := 0x30020
abbrev MeshConnActive : Nat := 0x30021
abbrev MeshStandbyPageId : Nat := 0x30022
abbrev MeshPageSwap : Nat := 0x30023
abbrev MeshPageStatus : Nat := 0x30024
abbrev MeshAutoPage : Nat := 0x30025
abbrev MeshPageMismatch : Nat := 0x30026
abbrev MeshReseqTimeout : Nat := 0x30030
abbrev MeshReseqTimeoutMin : Nat := 0x30031
abbrev MeshReseqCounters : Nat := 0x30032
abbrev MeshReseqFull : Nat := 0x30033
abbrev MeshHeldCounters : Nat := 0x30034
abbrev MeshSpreadDrops : Nat := 0x30040
abbrev MeshXoffDrops : Nat := 0x30041
abbrev MeshRelayDrops : Nat := 0x30042
abbrev MeshUnreachable : Nat := 0x30043
abbrev MeshRgaGrantPerFrame : Nat := 0x30050
abbrev MeshJoinHold : Nat := 0x30051
abbrev MeshLeaveRequest : Nat := 0x30052
abbrev MeshLeaveReady : Nat := 0x30053
/-! Objects of spec/12_line_ports.md. -/
abbrev PortConfig : Nat := 0x38000
abbrev PortStatus : Nat := 0x38001
abbrev PortCounters : Nat := 0x38002
abbrev PortClass : Nat := 0x38003
abbrev PortFlowControl : Nat := 0x38004
abbrev PortMeasure : Nat := 0x38005
abbrev PortRetrain : Nat := 0x38006
/-! Objects of spec/13_hbm_controller.md. -/
abbrev HbmPageHint : Nat := 0x3C000
abbrev HbmOpenPageTimeout : Nat := 0x3C001
abbrev HbmEccCounters : Nat := 0x3C010
abbrev HbmErrorLog : Nat := 0x3C011
abbrev HbmScrubEnable : Nat := 0x3C012
abbrev HbmScrubPeriod : Nat := 0x3C013
abbrev HbmScrubPass : Nat := 0x3C014
abbrev HbmTemperature : Nat := 0x3C020
abbrev HbmRefreshMode : Nat := 0x3C021
abbrev HbmRefreshRate : Nat := 0x3C022
abbrev HbmFreqRequest : Nat := 0x3C030
abbrev HbmFreqStatus : Nat := 0x3C031
abbrev HbmFreqChangeCount : Nat := 0x3C032
abbrev HbmTrainStatus : Nat := 0x3C040
abbrev HbmRetrainPeriod : Nat := 0x3C041
abbrev HbmRetrainCount : Nat := 0x3C042
abbrev HbmRetrainForced : Nat := 0x3C043
abbrev HbmDriftLimit : Nat := 0x3C044
abbrev HbmServiceMode : Nat := 0x3C050
abbrev HbmPatternGen : Nat := 0x3C051
abbrev HbmCompare : Nat := 0x3C052
abbrev HbmDelay : Nat := 0x3C053
abbrev HbmStrobe : Nat := 0x3C054
/-! Objects of spec/14_host_dma.md. -/
abbrev PcieIdentity : Nat := 0x3E000
abbrev PcieLinkStatus : Nat := 0x3E001
abbrev PcieCompletionTimeout : Nat := 0x3E002
abbrev PcieErrorCounters : Nat := 0x3E003
abbrev PuntRing : Nat := 0x3E100
abbrev InjectRing : Nat := 0x3E101
abbrev InjectDirectEnable : Nat := 0x3E102
abbrev RingStatus : Nat := 0x3E103
abbrev RingCounters : Nat := 0x3E104
abbrev PuntNoRing : Nat := 0x3E105
abbrev DoorbellErrors : Nat := 0x3E106
abbrev TrolleyHopLimit : Nat := 0x3F000
abbrev TrolleyOwner : Nat := 0x3F001
abbrev TrolleyGo0 : Nat := 0x3F100
abbrev TrolleyStatus0 : Nat := 0x3F140
abbrev TrolleyStop : Nat := 0x3F160
abbrev TrolleyCounters : Nat := 0x3F170
/-! Objects of spec/15_events_telemetry.md. -/
abbrev EventBanks : Nat := 0x40000
abbrev EventBankClaim : Nat := 0x40001
abbrev EventSource : Nat := 0x40002
abbrev PortEventDetail : Nat := 0x40003
abbrev GroupEventDetail : Nat := 0x40004
abbrev CounterPair : Nat := 0x40400
abbrev CounterClear : Nat := 0x40401
abbrev TallboyDump : Nat := 0x40800
abbrev TallboyDumpList : Nat := 0x40801
abbrev TallboyDumpStatus : Nat := 0x40802
abbrev SampleSession : Nat := 0x40C00
abbrev SampleCounters : Nat := 0x40C01
abbrev TelemetryHostRing : Nat := 0x40D00
abbrev TelemetryHostIndex : Nat := 0x40D01
/-! Objects of spec/16_security_lifecycle.md. -/
abbrev ProvisioningToken : Nat := 0x44000
abbrev UnitPublicKey : Nat := 0x44001
abbrev UnitCertificate : Nat := 0x44002
abbrev ZoaCredential : Nat := 0x44010
abbrev TenantKey : Nat := 0x44011
abbrev TenantKeyStatus : Nat := 0x44012
abbrev OwnerKey : Nat := 0x44020
abbrev OwnerKeyRotate : Nat := 0x44021
abbrev VendorServiceAllow : Nat := 0x44030
abbrev JtagDebugEnable : Nat := 0x44031
abbrev WipeStatus : Nat := 0x44040
abbrev EvaluatedConfig : Nat := 0x44041
abbrev AuditViolationCount : Nat := 0x44F00
abbrev AuditLog : Nat := 0x44F01
abbrev AuditOverwritten : Nat := 0x44F02
/-! Objects of spec/17_firmware_update.md. -/
abbrev FwSlotStatus : Nat := 0x48000
abbrev FwSlotHeader : Nat := 0x48001
abbrev FwActiveSlot : Nat := 0x48002
abbrev FwMinRollback : Nat := 0x48003
abbrev FwLoadControl : Nat := 0x48010
abbrev FwChunk : Nat := 0x48011
abbrev FwStagedLoad : Nat := 0x48012
abbrev FwLoadStatus : Nat := 0x48013
abbrev FwChainResult : Nat := 0x48014
abbrev FwActivate : Nat := 0x48020
abbrev FwActivateCancel : Nat := 0x48021
abbrev FwActivateAtReset : Nat := 0x48022
abbrev FwConfirm : Nat := 0x48023
abbrev FwRollback : Nat := 0x48024
abbrev FwConfirmTimeout : Nat := 0x48025
abbrev FwPrepareTime : Nat := 0x48026
abbrev FwActivationStatus : Nat := 0x48027
/-! Objects of spec/18_power_board_services.md. -/
abbrev PowerRailStatus : Nat := 0x4C000
abbrev PowerSense : Nat := 0x4C001
abbrev PowerNvGuard : Nat := 0x4C002
abbrev PowerNvJournal : Nat := 0x4C003
abbrev PowerJournalBoot : Nat := 0x4C004
abbrev PowerBrownout : Nat := 0x4C005
abbrev PowerSequence : Nat := 0x4C006
abbrev DieTemperature : Nat := 0x4C010
abbrev DieTempWarn : Nat := 0x4C011
abbrev SideboardChannel : Nat := 0x4C100
abbrev SideboardSequence : Nat := 0x4C101
abbrev SideboardStart : Nat := 0x4C102
abbrev SideboardResult : Nat := 0x4C103
abbrev SideboardLimitDetail : Nat := 0x4C104
abbrev SideboardCounters : Nat := 0x4C105
abbrev FanConfig : Nat := 0x4C200
abbrev FanStatus : Nat := 0x4C201
abbrev GpioConfig : Nat := 0x4C300
abbrev GpioOutput : Nat := 0x4C301
abbrev GpioInput : Nat := 0x4C302
abbrev GpioEdgeDetail : Nat := 0x4C303

end O

namespace F
abbrev PartIdentity_Family : Nat := 1
abbrev PartIdentity_Part : Nat := 2
abbrev PartIdentity_FeRevision : Nat := 3
abbrev PartIdentity_TmRevision : Nat := 4
abbrev PartIdentity_Grade : Nat := 5
abbrev PartIdentity_Sample : Nat := 7
abbrev Directory_TypeCode : Nat := 1
abbrev Directory_Pers : Nat := 2
abbrev Directory_Apply : Nat := 3
abbrev Directory_Read : Nat := 4
abbrev Directory_Write : Nat := 5
abbrev Directory_Width : Nat := 6
abbrev Directory_Rows : Nat := 7
abbrev TxnStatus_State : Nat := 1
abbrev TxnStatus_LastStatus : Nat := 2
abbrev TxnStatus_Handle : Nat := 3
abbrev TxnStatus_FailedObject : Nat := 5
abbrev TxnStatus_StagedMiB : Nat := 6
abbrev NetAddress_Ipv4 : Nat := 1
abbrev NetAddress_Ipv4Len : Nat := 2
abbrev NetAddress_Ipv6 : Nat := 3
abbrev NetAddress_Ipv6Len : Nat := 4
abbrev NetAddress_VlanId : Nat := 6
abbrev BarLastStatus_Status : Nat := 1
abbrev BarLastStatus_Object : Nat := 3
abbrev BarLastStatus_WriteCount : Nat := 4
abbrev LifeCycleStatus_LastTarget : Nat := 1
abbrev LifeCycleStatus_LastStatus : Nat := 2
abbrev LifeCycleStatus_InProgress : Nat := 3
abbrev LifeCycleStatus_TokenRefusals : Nat := 4
abbrev LifeCycleStatus_LastEntered : Nat := 5
abbrev ResetCause_Cause : Nat := 1
abbrev CrossingLoss_Discards : Nat := 1
abbrev CrossingLoss_LostEvents : Nat := 2
abbrev BringUpStatus_Phase : Nat := 1
abbrev BringUpStatus_HoldReason : Nat := 2
abbrev BringUpStatus_BlockStart : Nat := 3
abbrev BringUpStatus_BlockMesh : Nat := 4
abbrev BringUpStatus_BlockDecommissioned : Nat := 5
abbrev BringUpStatus_BlockSample : Nat := 6
abbrev BringUpStatus_TrafficMs : Nat := 8
abbrev TcPort_Mode : Nat := 1
abbrev TcPort_MeanLinkDelay : Nat := 3
abbrev TimeTrigger_Enable : Nat := 1
abbrev TimeTrigger_Periodic : Nat := 2
abbrev TimeTrigger_Polarity : Nat := 3
abbrev TimeTrigger_RequireLock : Nat := 4
abbrev TimeTrigger_StartedLate : Nat := 5
abbrev TimeTrigger_Running : Nat := 6
abbrev TimeTrigger_StartTime : Nat := 8
abbrev TimeTrigger_Period : Nat := 9
abbrev TimeTrigger_Width : Nat := 10
abbrev TimeTrigger_Count : Nat := 11
abbrev TimeCaptureConfig_Enable : Nat := 1
abbrev TimeCaptureConfig_Edge : Nat := 2
abbrev TimeCaptureConfig_Timescale : Nat := 3
abbrev TimeCaptureLog_Input : Nat := 1
abbrev TimeCaptureLog_Edge : Nat := 2
abbrev TimeCaptureLog_Timescale : Nat := 3
abbrev TimeCaptureLog_GridState : Nat := 4
abbrev TimeCaptureLog_Stamp : Nat := 6
abbrev PpsOutConfig_Enable : Nat := 1
abbrev PpsOutConfig_Timescale : Nat := 2
abbrev PpsOutConfig_FreeRunEnable : Nat := 3
abbrev PpsOutConfig_Width : Nat := 5
abbrev SyncEClock_Enable : Nat := 1
abbrev SyncEClock_SquelchOnLoss : Nat := 2
abbrev SyncEClock_Port : Nat := 4
abbrev SyncEClock_Divider : Nat := 6
abbrev ParseNode_Valid : Nat := 1
abbrev ParseNode_End : Nat := 2
abbrev ParseNode_MarkSlot : Nat := 3
abbrev ParseNode_HashProfile : Nat := 4
abbrev ParseNode_ExtractOffset : Nat := 5
abbrev ParseNode_ExtractWidth : Nat := 6
abbrev ParseNode_ExtractMask : Nat := 7
abbrev ParseNode_DefaultValid : Nat := 8
abbrev ParseNode_DefaultNext : Nat := 9
abbrev ParseNode_DefaultAdvMode : Nat := 10
abbrev ParseNode_DefaultAdvConst : Nat := 11
abbrev ParseNode_DefaultLenRule : Nat := 12
abbrev ParseNode_SetPresent : Nat := 13
abbrev ParseNode_PresentBit : Nat := 14
abbrev ParseTransition_Valid : Nat := 1
abbrev ParseTransition_NextNode : Nat := 2
abbrev ParseTransition_AdvMode : Nat := 3
abbrev ParseTransition_AdvConst : Nat := 4
abbrev ParseTransition_LenRule : Nat := 5
abbrev ParseTransition_Value : Nat := 7
abbrev ParseTransition_Mask : Nat := 8
abbrev ParseCopy_Valid : Nat := 1
abbrev ParseCopy_SrcOffset : Nat := 2
abbrev ParseCopy_LengthMinusOne : Nat := 3
abbrev ParseCopy_DestOffset : Nat := 4
abbrev ParseLengthRule_Offset : Nat := 1
abbrev ParseLengthRule_Width2 : Nat := 2
abbrev ParseLengthRule_Mask : Nat := 3
abbrev ParseLengthRule_Shift : Nat := 4
abbrev ParseLengthRule_Scale : Nat := 5
abbrev ParseLengthRule_Add : Nat := 6
abbrev ParseHashProfile_ByteSelect : Nat := 1
abbrev ParseStart_StartNode : Nat := 1
abbrev ParseLastFail_Kind : Nat := 1
abbrev ParseLastFail_Node : Nat := 2
abbrev ParseLastFail_Hops : Nat := 3
abbrev ParseLastFail_Cursor : Nat := 4
abbrev ParseLastFail_SourcePort : Nat := 5
abbrev LookupProfile_RouteEnable : Nat := 1
abbrev LookupProfile_Family : Nat := 2
abbrev LookupProfile_AddrOffset : Nat := 3
abbrev LookupProfile_VrfMode : Nat := 4
abbrev LookupProfile_VrfOffset : Nat := 5
abbrev LookupProfile_VrfConst : Nat := 6
abbrev LookupProfile_ExactAEnable : Nat := 7
abbrev LookupProfile_ExactAProfile : Nat := 8
abbrev LookupProfile_ExactBEnable : Nat := 9
abbrev LookupProfile_ExactBProfile : Nat := 10
abbrev RouteUpdate_OpState : Nat := 1
abbrev RouteUpdate_Vrf : Nat := 3
abbrev RouteUpdate_Prefix : Nat := 4
abbrev RouteUpdate_Result : Nat := 5
abbrev RouteUpdate_Slot : Nat := 6
abbrev RouteUpdate_Born : Nat := 7
abbrev RouteUpdate_Dead : Nat := 8
abbrev RouteTable_OpState : Nat := 1
abbrev RouteTable_Vrf : Nat := 3
abbrev RouteTable_Prefix : Nat := 4
abbrev RouteTable_Result : Nat := 5
abbrev RouteTable_Slot : Nat := 6
abbrev RouteTable_Born : Nat := 7
abbrev RouteTable_Dead : Nat := 8
abbrev RouteQuery_OpState : Nat := 1
abbrev RouteQuery_Vrf : Nat := 3
abbrev RouteQuery_Prefix : Nat := 4
abbrev RouteQuery_Result : Nat := 5
abbrev RouteQuery_Slot : Nat := 6
abbrev RouteQuery_Born : Nat := 7
abbrev RouteQuery_Dead : Nat := 8
abbrev RouteDefault_Kind : Nat := 1
abbrev RouteDefault_Index : Nat := 3
abbrev ExactKeyProfile_Valid : Nat := 1
abbrev ExactKeyProfile_Width : Nat := 2
abbrev ExactKeyProfile_MissAction : Nat := 3
abbrev ExactKeyProfile_LearnMode : Nat := 4
abbrev ExactKeyProfile_AgeLimit : Nat := 6
abbrev ExactKeyProfile_LearnResult : Nat := 8
abbrev ExactKeyProfile_ByteSelect : Nat := 9
abbrev ExactUpdate_OpState : Nat := 1
abbrev ExactUpdate_Profile : Nat := 2
abbrev ExactUpdate_Width : Nat := 3
abbrev ExactUpdate_Learned : Nat := 4
abbrev ExactUpdate_Static : Nat := 5
abbrev ExactUpdate_Key : Nat := 6
abbrev ExactUpdate_Result : Nat := 7
abbrev ExactUpdate_AgeStamp : Nat := 8
abbrev ExactUpdate_Location : Nat := 9
abbrev ExactUpdate_Born : Nat := 11
abbrev ExactUpdate_Dead : Nat := 12
abbrev ExactTable_OpState : Nat := 1
abbrev ExactTable_Profile : Nat := 2
abbrev ExactTable_Width : Nat := 3
abbrev ExactTable_Learned : Nat := 4
abbrev ExactTable_Static : Nat := 5
abbrev ExactTable_Key : Nat := 6
abbrev ExactTable_Result : Nat := 7
abbrev ExactTable_AgeStamp : Nat := 8
abbrev ExactTable_Location : Nat := 9
abbrev ExactTable_Born : Nat := 11
abbrev ExactTable_Dead : Nat := 12
abbrev ExactQuery_OpState : Nat := 1
abbrev ExactQuery_Profile : Nat := 2
abbrev ExactQuery_Width : Nat := 3
abbrev ExactQuery_Learned : Nat := 4
abbrev ExactQuery_Static : Nat := 5
abbrev ExactQuery_Key : Nat := 6
abbrev ExactQuery_Result : Nat := 7
abbrev ExactQuery_AgeStamp : Nat := 8
abbrev ExactQuery_Location : Nat := 9
abbrev ExactQuery_Born : Nat := 11
abbrev ExactQuery_Dead : Nat := 12
abbrev RangeProfile_Enable : Nat := 1
abbrev RangeProfile_Set : Nat := 2
abbrev RangeProfile_CollectCount : Nat := 3
abbrev RangeProfile_MissAction : Nat := 4
abbrev RangeProfile_Source0 : Nat := 6
abbrev RangeProfile_TernarySelect : Nat := 15
abbrev RangeUpdate_OpState : Nat := 1
abbrev RangeUpdate_Set : Nat := 2
abbrev RangeUpdate_RangeUsed : Nat := 3
abbrev RangeUpdate_Priority : Nat := 4
abbrev RangeUpdate_Result : Nat := 5
abbrev RangeUpdate_Range0 : Nat := 7
abbrev RangeUpdate_TernaryValue : Nat := 15
abbrev RangeUpdate_TernaryMask : Nat := 16
abbrev RangeUpdate_Slot : Nat := 17
abbrev RangeUpdate_Born : Nat := 19
abbrev RangeUpdate_Dead : Nat := 20
abbrev RangeRule_OpState : Nat := 1
abbrev RangeRule_Set : Nat := 2
abbrev RangeRule_RangeUsed : Nat := 3
abbrev RangeRule_Priority : Nat := 4
abbrev RangeRule_Result : Nat := 5
abbrev RangeRule_Range0 : Nat := 7
abbrev RangeRule_TernaryValue : Nat := 15
abbrev RangeRule_TernaryMask : Nat := 16
abbrev RangeRule_Slot : Nat := 17
abbrev RangeRule_Born : Nat := 19
abbrev RangeRule_Dead : Nat := 20
abbrev RangeDirect_OpState : Nat := 1
abbrev RangeDirect_Set : Nat := 2
abbrev RangeDirect_RangeUsed : Nat := 3
abbrev RangeDirect_Priority : Nat := 4
abbrev RangeDirect_Result : Nat := 5
abbrev RangeDirect_Range0 : Nat := 7
abbrev RangeDirect_TernaryValue : Nat := 15
abbrev RangeDirect_TernaryMask : Nat := 16
abbrev RangeDirect_Slot : Nat := 17
abbrev RangeDirect_Born : Nat := 19
abbrev RangeDirect_Dead : Nat := 20
abbrev RangeSearch_Hit : Nat := 1
abbrev RangeSearch_Multiple : Nat := 2
abbrev RangeSearch_CursorState : Nat := 3
abbrev RangeSearch_Set : Nat := 4
abbrev RangeSearch_Row : Nat := 5
abbrev RangeSearch_Priority : Nat := 6
abbrev RangeSearch_Result : Nat := 7
abbrev RangeSearch_Generation : Nat := 9
abbrev RangeSearch_RangeKey : Nat := 10
abbrev RangeSearch_TernaryKey : Nat := 11
abbrev ActionSet_Valid : Nat := 1
abbrev ActionSet_Drop : Nat := 2
abbrev ActionSet_Recirculate : Nat := 3
abbrev ActionSet_Seal : Nat := 4
abbrev ActionSet_Collect : Nat := 5
abbrev ActionSet_SetDest : Nat := 6
abbrev ActionSet_SetClass : Nat := 7
abbrev ActionSet_SetEdit : Nat := 8
abbrev ActionSet_SetLaunch : Nat := 9
abbrev ActionSet_PuntMode : Nat := 10
abbrev ActionSet_PuntReason : Nat := 11
abbrev ActionSet_Class : Nat := 12
abbrev ActionSet_DestCard : Nat := 13
abbrev ActionSet_DestPort : Nat := 14
abbrev ActionSet_DestQueue : Nat := 15
abbrev ActionSet_EditList : Nat := 16
abbrev ActionSet_MeterEnable : Nat := 17
abbrev ActionSet_Meter : Nat := 18
abbrev ActionSet_CountEnable : Nat := 19
abbrev ActionSet_Counter : Nat := 20
abbrev ActionSet_MirrorEnable : Nat := 21
abbrev ActionSet_MirrorSession : Nat := 22
abbrev ActionSet_SampleEnable : Nat := 23
abbrev ActionSet_Sampler : Nat := 24
abbrev ActionSet_StreamEnable : Nat := 25
abbrev ActionSet_Stream : Nat := 26
abbrev ActionSet_LaunchOffset : Nat := 27
abbrev NextHop_Valid : Nat := 1
abbrev NextHop_DestCard : Nat := 2
abbrev NextHop_DestPort : Nat := 3
abbrev NextHop_QueueBase : Nat := 4
abbrev NextHop_EditList : Nat := 5
abbrev EcmpGroup_CountMinusOne : Nat := 1
abbrev EcmpGroup_MemberBase : Nat := 3
abbrev EditList_Op0 : Nat := 1
abbrev StreamReplicate_Valid : Nat := 1
abbrev StreamReplicate_MembersMinusOne : Nat := 3
abbrev StreamReplicate_SeqNext : Nat := 4
abbrev StreamReplicate_Member0 : Nat := 5
abbrev StreamRecovery_Valid : Nat := 1
abbrev StreamRecovery_Algorithm : Nat := 2
abbrev StreamRecovery_HistoryLength : Nat := 3
abbrev StreamRecovery_ResetMs : Nat := 4
abbrev StreamRecoveryCount_Passed : Nat := 1
abbrev StreamRecoveryCount_Discarded : Nat := 2
abbrev StreamRecoveryCount_OutOfOrder : Nat := 3
abbrev StreamRecoveryCount_Lost : Nat := 4
abbrev StreamRecoveryCount_Resets : Nat := 5
abbrev PuntReason_Rate : Nat := 1
abbrev PuntReason_Burst : Nat := 2
abbrev PuntReason_Queue : Nat := 4
abbrev PuntCount_Admitted : Nat := 1
abbrev PuntCount_Dropped : Nat := 2
abbrev MirrorSession_Valid : Nat := 1
abbrev MirrorSession_DestCard : Nat := 2
abbrev MirrorSession_DestPort : Nat := 3
abbrev MirrorSession_DestQueue : Nat := 4
abbrev MirrorSession_EditList : Nat := 5
abbrev MirrorSession_TruncateLength : Nat := 7
abbrev Sampler_CopyToHost : Nat := 1
abbrev Sampler_OneInN : Nat := 3
abbrev Meter_Valid : Nat := 1
abbrev Meter_Mode : Nat := 2
abbrev Meter_ColourAware : Nat := 3
abbrev Meter_DropRed : Nat := 4
abbrev Meter_LengthMode : Nat := 5
abbrev Meter_Overhead : Nat := 6
abbrev Meter_Cir : Nat := 7
abbrev Meter_Pir : Nat := 8
abbrev Meter_Cbs : Nat := 9
abbrev Meter_EbsPbs : Nat := 10
abbrev MeterColourCount_Green : Nat := 1
abbrev MeterColourCount_Yellow : Nat := 2
abbrev MeterColourCount_Red : Nat := 3
abbrev BufferProfile_SpillEnable : Nat := 1
abbrev BufferProfile_EcnEnable : Nat := 2
abbrev BufferProfile_OnChipLimit : Nat := 3
abbrev BufferProfile_SpillThreshold : Nat := 4
abbrev BufferProfile_MaxKiB : Nat := 5
abbrev BufferProfile_EcnKiB : Nat := 6
abbrev BufferProfile_ReturnAhead : Nat := 7
abbrev QueueBuffer_Enable : Nat := 1
abbrev QueueBuffer_Profile : Nat := 3
abbrev QueueDepth_Spilling : Nat := 1
abbrev QueueDepth_OnChipCells : Nat := 2
abbrev QueueDepth_TotalBytes : Nat := 3
abbrev QueueCounters_Enqueued : Nat := 1
abbrev QueueCounters_EnqueuedBytes : Nat := 2
abbrev QueueCounters_Dropped : Nat := 3
abbrev QueueCounters_DroppedBytes : Nat := 4
abbrev QueueCounters_Marked : Nat := 5
abbrev QueueCounters_Aged : Nat := 6
abbrev ShelfPool_Buffers : Nat := 1
abbrev ShelfPool_Free : Nat := 2
abbrev ShelfPool_LowWater : Nat := 3
abbrev ShelfPool_Reserve : Nat := 4
abbrev ShelfPool_BufferBytes : Nat := 5
abbrev ShelfLastReject_Client : Nat := 1
abbrev ShelfLastReject_Pool : Nat := 2
abbrev ShelfLastReject_Buffer : Nat := 3
abbrev SchedPort_Valid : Nat := 1
abbrev SchedPort_Parent : Nat := 2
abbrev SchedPort_PriorityGroup : Nat := 3
abbrev SchedPort_Weight : Nat := 4
abbrev SchedPort_CalendarMode : Nat := 5
abbrev SchedPort_LengthMode : Nat := 6
abbrev SchedPort_Overhead : Nat := 7
abbrev SchedPort_CommittedEnable : Nat := 8
abbrev SchedPort_PeakEnable : Nat := 9
abbrev SchedPort_GateClass : Nat := 10
abbrev SchedPort_LaunchQueue : Nat := 11
abbrev SchedPort_CommittedRate : Nat := 13
abbrev SchedPort_CommittedBurst : Nat := 14
abbrev SchedPort_PeakRate : Nat := 15
abbrev SchedPort_PeakBurst : Nat := 16
abbrev SchedL1_Valid : Nat := 1
abbrev SchedL1_Parent : Nat := 2
abbrev SchedL1_PriorityGroup : Nat := 3
abbrev SchedL1_Weight : Nat := 4
abbrev SchedL1_CalendarMode : Nat := 5
abbrev SchedL1_LengthMode : Nat := 6
abbrev SchedL1_Overhead : Nat := 7
abbrev SchedL1_CommittedEnable : Nat := 8
abbrev SchedL1_PeakEnable : Nat := 9
abbrev SchedL1_GateClass : Nat := 10
abbrev SchedL1_LaunchQueue : Nat := 11
abbrev SchedL1_CommittedRate : Nat := 13
abbrev SchedL1_CommittedBurst : Nat := 14
abbrev SchedL1_PeakRate : Nat := 15
abbrev SchedL1_PeakBurst : Nat := 16
abbrev SchedL2_Valid : Nat := 1
abbrev SchedL2_Parent : Nat := 2
abbrev SchedL2_PriorityGroup : Nat := 3
abbrev SchedL2_Weight : Nat := 4
abbrev SchedL2_CalendarMode : Nat := 5
abbrev SchedL2_LengthMode : Nat := 6
abbrev SchedL2_Overhead : Nat := 7
abbrev SchedL2_CommittedEnable : Nat := 8
abbrev SchedL2_PeakEnable : Nat := 9
abbrev SchedL2_GateClass : Nat := 10
abbrev SchedL2_LaunchQueue : Nat := 11
abbrev SchedL2_CommittedRate : Nat := 13
abbrev SchedL2_CommittedBurst : Nat := 14
abbrev SchedL2_PeakRate : Nat := 15
abbrev SchedL2_PeakBurst : Nat := 16
abbrev SchedL3_Valid : Nat := 1
abbrev SchedL3_Parent : Nat := 2
abbrev SchedL3_PriorityGroup : Nat := 3
abbrev SchedL3_Weight : Nat := 4
abbrev SchedL3_CalendarMode : Nat := 5
abbrev SchedL3_LengthMode : Nat := 6
abbrev SchedL3_Overhead : Nat := 7
abbrev SchedL3_CommittedEnable : Nat := 8
abbrev SchedL3_PeakEnable : Nat := 9
abbrev SchedL3_GateClass : Nat := 10
abbrev SchedL3_LaunchQueue : Nat := 11
abbrev SchedL3_CommittedRate : Nat := 13
abbrev SchedL3_CommittedBurst : Nat := 14
abbrev SchedL3_PeakRate : Nat := 15
abbrev SchedL3_PeakBurst : Nat := 16
abbrev SchedQueue_Valid : Nat := 1
abbrev SchedQueue_Parent : Nat := 2
abbrev SchedQueue_PriorityGroup : Nat := 3
abbrev SchedQueue_Weight : Nat := 4
abbrev SchedQueue_CalendarMode : Nat := 5
abbrev SchedQueue_LengthMode : Nat := 6
abbrev SchedQueue_Overhead : Nat := 7
abbrev SchedQueue_CommittedEnable : Nat := 8
abbrev SchedQueue_PeakEnable : Nat := 9
abbrev SchedQueue_GateClass : Nat := 10
abbrev SchedQueue_LaunchQueue : Nat := 11
abbrev SchedQueue_CommittedRate : Nat := 13
abbrev SchedQueue_CommittedBurst : Nat := 14
abbrev SchedQueue_PeakRate : Nat := 15
abbrev SchedQueue_PeakBurst : Nat := 16
abbrev SchedNodeQuery_Level : Nat := 1
abbrev SchedNodeQuery_Index : Nat := 2
abbrev SchedNodeQuery_Eligible : Nat := 3
abbrev SchedNodeQuery_CommittedEligible : Nat := 4
abbrev SchedNodeQuery_CommittedCredit : Nat := 5
abbrev SchedNodeQuery_PeakCredit : Nat := 6
abbrev SchedNodeQuery_Deficit : Nat := 7
abbrev SchedNodeQuery_NextEligible : Nat := 8
abbrev GateConfig_Enable : Nat := 1
abbrev GateConfig_NotRunningStates : Nat := 2
abbrev GateConfig_AdminEntryCount : Nat := 3
abbrev GateConfig_AdminBaseTime : Nat := 5
abbrev GateConfig_AdminCycleTimeNs : Nat := 6
abbrev GateAdminList_GateStates : Nat := 1
abbrev GateAdminList_IntervalNs : Nat := 3
abbrev GateOperList_GateStates : Nat := 1
abbrev GateOperList_IntervalNs : Nat := 3
abbrev GateStatus_Running : Nat := 1
abbrev GateStatus_Pending : Nat := 2
abbrev GateStatus_StartedLate : Nat := 3
abbrev GateStatus_OperEntryCount : Nat := 4
abbrev GateStatus_CurrentEntry : Nat := 5
abbrev GateStatus_CurrentStates : Nat := 6
abbrev GateStatus_OperCycleTimeNs : Nat := 7
abbrev GateStatus_OperBaseTime : Nat := 8
abbrev GateStatus_ChangeTime : Nat := 9
abbrev LaunchPort_LateWindowNs : Nat := 1
abbrev LaunchPort_LeadNs : Nat := 2
abbrev LaunchCounters_OnTime : Nat := 1
abbrev LaunchCounters_Late : Nat := 2
abbrev LaunchCounters_Discarded : Nat := 3
abbrev LaunchCounters_NoTime : Nat := 4
abbrev MeshGroupConfig_Enable : Nat := 1
abbrev MeshGroupConfig_PowerDown : Nat := 2
abbrev MeshGroupConfig_CheckPeer : Nat := 3
abbrev MeshGroupConfig_ExpectCard : Nat := 4
abbrev MeshGroupConfig_ExpectGroup : Nat := 5
abbrev MeshGroupStatus_AlignState : Nat := 1
abbrev MeshGroupStatus_Defect : Nat := 2
abbrev MeshGroupStatus_Active : Nat := 3
abbrev MeshGroupStatus_TxActive : Nat := 4
abbrev MeshGroupStatus_Mismatch : Nat := 5
abbrev MeshGroupStatus_Width : Nat := 6
abbrev MeshGroupStatus_PeerCard : Nat := 7
abbrev MeshGroupStatus_PeerGroup : Nat := 8
abbrev MeshGroupStatus_RxLaneMask : Nat := 9
abbrev MeshGroupStatus_OneWayDelay : Nat := 10
abbrev MeshGroupCounters_CorrectedSymbols : Nat := 1
abbrev MeshGroupCounters_UncorrectedCodewords : Nat := 2
abbrev MeshGroupCounters_HeaderCrcErrors : Nat := 3
abbrev MeshGroupCounters_CellCrcErrors : Nat := 4
abbrev MeshGroupCounters_CellsSent : Nat := 5
abbrev MeshGroupCounters_CellsReceived : Nat := 6
abbrev MeshConnStandby_Kind : Nat := 1
abbrev MeshConnStandby_Relay : Nat := 2
abbrev MeshConnStandby_Source : Nat := 3
abbrev MeshConnStandby_Dest : Nat := 4
abbrev MeshConnStandby_Class : Nat := 5
abbrev MeshConnStandby_Via : Nat := 6
abbrev MeshConnActive_Kind : Nat := 1
abbrev MeshConnActive_Relay : Nat := 2
abbrev MeshConnActive_Source : Nat := 3
abbrev MeshConnActive_Dest : Nat := 4
abbrev MeshConnActive_Class : Nat := 5
abbrev MeshConnActive_Via : Nat := 6
abbrev MeshPageStatus_ActivePageId : Nat := 1
abbrev MeshPageStatus_StandbyPageId : Nat := 2
abbrev MeshPageStatus_SwapCycle : Nat := 3
abbrev MeshPageStatus_LastResult : Nat := 4
abbrev MeshPageStatus_SwapPending : Nat := 5
abbrev MeshReseqCounters_Reconstructed : Nat := 1
abbrev MeshReseqCounters_Duplicates : Nat := 2
abbrev MeshReseqCounters_GroupsLost : Nat := 3
abbrev MeshReseqCounters_PacketsLost : Nat := 4
abbrev MeshReseqCounters_LateDiscards : Nat := 5
abbrev MeshReseqCounters_McDuplicates : Nat := 6
abbrev MeshHeldCounters_Delivered : Nat := 1
abbrev MeshHeldCounters_Duplicates : Nat := 2
abbrev MeshHeldCounters_Skipped : Nat := 3
abbrev MeshHeldCounters_Dropped : Nat := 4
abbrev MeshUnreachable_Unicast : Nat := 1
abbrev MeshUnreachable_Multicast : Nat := 2
abbrev PortConfig_Enable : Nat := 1
abbrev PortConfig_Mode : Nat := 2
abbrev PortConfig_AnEnable : Nat := 3
abbrev PortConfig_TrainEnable : Nat := 4
abbrev PortConfig_DegradeEnable : Nat := 5
abbrev PortConfig_FecRequest : Nat := 6
abbrev PortConfig_DownAction : Nat := 7
abbrev PortConfig_RxMaxFrame : Nat := 8
abbrev PortConfig_TxInvert : Nat := 9
abbrev PortConfig_RxInvert : Nat := 10
abbrev PortStatus_State : Nat := 1
abbrev PortStatus_RunningMode : Nat := 2
abbrev PortStatus_FecInUse : Nat := 3
abbrev PortStatus_AnFail : Nat := 4
abbrev PortStatus_TrainFail : Nat := 5
abbrev PortStatus_LaneLock : Nat := 6
abbrev PortStatus_StoppedLaneLock : Nat := 7
abbrev PortStatus_PausedClasses : Nat := 8
abbrev PortStatus_PartnerAbility : Nat := 9
abbrev PortStatus_PartnerFec : Nat := 10
abbrev PortCounters_RxFrames : Nat := 1
abbrev PortCounters_RxBytes : Nat := 2
abbrev PortCounters_RxErrors : Nat := 3
abbrev PortCounters_RxUndersize : Nat := 4
abbrev PortCounters_RxOversize : Nat := 5
abbrev PortCounters_RxOverflow : Nat := 6
abbrev PortCounters_RxPause : Nat := 7
abbrev PortCounters_RxMacControl : Nat := 8
abbrev PortCounters_TxFrames : Nat := 9
abbrev PortCounters_TxBytes : Nat := 10
abbrev PortCounters_TxPause : Nat := 11
abbrev PortCounters_FecCorrected : Nat := 12
abbrev PortCounters_FecUncorrected : Nat := 13
abbrev PortClass_UsePcp : Nat := 1
abbrev PortClass_DeiYellow : Nat := 2
abbrev PortClass_DefaultClass : Nat := 3
abbrev PortClass_PcpMap : Nat := 5
abbrev PortFlowControl_Mode : Nat := 1
abbrev PortFlowControl_PfcEnable : Nat := 2
abbrev PortFlowControl_PauseQuanta : Nat := 3
abbrev PortFlowControl_XoffKiB : Nat := 4
abbrev PortFlowControl_XonKiB : Nat := 5
abbrev PortMeasure_InsertionLossCdB : Nat := 1
abbrev PortMeasure_BoardLossCdB : Nat := 2
abbrev PortMeasure_LossPerMetreCdB : Nat := 3
abbrev PortMeasure_PropagationPsPerM : Nat := 4
abbrev PortMeasure_EstimatedLengthCm : Nat := 5
abbrev PortMeasure_PathLengthCm : Nat := 6
abbrev PortMeasure_RxAdjust : Nat := 7
abbrev PortMeasure_TxAdjust : Nat := 8
abbrev HbmEccCounters_Corrected : Nat := 1
abbrev HbmEccCounters_Uncorrectable : Nat := 2
abbrev HbmErrorLog_Kind : Nat := 2
abbrev HbmErrorLog_Class : Nat := 3
abbrev HbmErrorLog_Syndrome : Nat := 4
abbrev HbmErrorLog_Address : Nat := 6
abbrev HbmErrorLog_Stamp : Nat := 7
abbrev HbmFreqStatus_Current : Nat := 1
abbrev HbmFreqStatus_Changing : Nat := 2
abbrev HbmFreqStatus_ActiveSet : Nat := 3
abbrev HbmFreqStatus_LastResult : Nat := 4
abbrev HbmFreqStatus_LastDurationNs : Nat := 6
abbrev HbmTrainStatus_State : Nat := 1
abbrev HbmTrainStatus_Step : Nat := 2
abbrev HbmTrainStatus_PseudoChannel : Nat := 3
abbrev HbmTrainStatus_Bit : Nat := 4
abbrev HbmTrainStatus_TrainMs : Nat := 6
abbrev HbmPatternGen_Start : Nat := 1
abbrev HbmPatternGen_PseudoChannel : Nat := 2
abbrev HbmPatternGen_Op : Nat := 3
abbrev HbmPatternGen_Pattern : Nat := 4
abbrev HbmPatternGen_Bursts : Nat := 6
abbrev HbmPatternGen_UserPattern : Nat := 8
abbrev HbmCompare_ErrorMask : Nat := 1
abbrev HbmCompare_ErrorCount : Nat := 2
abbrev HbmCompare_Done : Nat := 3
abbrev HbmDelay_RdTap : Nat := 2
abbrev HbmDelay_WrTap : Nat := 3
abbrev HbmStrobe_WdqsTap : Nat := 1
abbrev HbmStrobe_RdqsTap : Nat := 2
abbrev PcieIdentity_VendorId : Nat := 1
abbrev PcieIdentity_DeviceId : Nat := 2
abbrev PcieIdentity_ClassCode : Nat := 3
abbrev PcieIdentity_Revision : Nat := 4
abbrev PcieLinkStatus_Speed : Nat := 1
abbrev PcieLinkStatus_Width : Nat := 2
abbrev PcieLinkStatus_BusMasterEnable : Nat := 3
abbrev PcieErrorCounters_Timeouts : Nat := 1
abbrev PcieErrorCounters_HostErrors : Nat := 2
abbrev PcieErrorCounters_FunctionResets : Nat := 3
abbrev PuntRing_Enable : Nat := 1
abbrev PuntRing_SizeLog2 : Nat := 2
abbrev PuntRing_Base : Nat := 3
abbrev PuntRing_WriteBack : Nat := 4
abbrev PuntRing_Queue : Nat := 5
abbrev PuntRing_Vector : Nat := 6
abbrev PuntRing_MinFree : Nat := 7
abbrev PuntRing_TruncateBytes : Nat := 8
abbrev PuntRing_HoldoffUs : Nat := 9
abbrev PuntRing_Batch : Nat := 10
abbrev InjectRing_Enable : Nat := 1
abbrev InjectRing_SizeLog2 : Nat := 2
abbrev InjectRing_Base : Nat := 3
abbrev InjectRing_WriteBack : Nat := 4
abbrev InjectRing_Priority : Nat := 5
abbrev InjectRing_Class : Nat := 6
abbrev InjectRing_Vector : Nat := 7
abbrev InjectRing_Batch : Nat := 8
abbrev InjectRing_HoldoffUs : Nat := 9
abbrev RingStatus_State : Nat := 1
abbrev RingStatus_Producer : Nat := 3
abbrev RingStatus_Consumer : Nat := 4
abbrev RingCounters_Packets : Nat := 1
abbrev RingCounters_Bytes : Nat := 2
abbrev RingCounters_Truncated : Nat := 3
abbrev RingCounters_NoShelf : Nat := 4
abbrev RingCounters_Errors : Nat := 5
abbrev TrolleyStatus_State : Nat := 1
abbrev TrolleyStatus_Status : Nat := 3
abbrev TrolleyStatus_BytesDone : Nat := 5
abbrev TrolleyCounters_Runs : Nat := 1
abbrev TrolleyCounters_Bytes : Nat := 2
abbrev TrolleyCounters_DescLimit : Nat := 3
abbrev TrolleyCounters_NoResponse : Nat := 4
abbrev TrolleyCounters_HostError : Nat := 5
abbrev EventBanks_Flags : Nat := 1
abbrev EventBanks_Enable : Nat := 2
abbrev EventBanks_Pending : Nat := 3
abbrev EventBanks_Owner : Nat := 4
abbrev EventSource_Count : Nat := 1
abbrev EventSource_ClearCount : Nat := 2
abbrev EventSource_Route : Nat := 3
abbrev EventSource_Target : Nat := 4
abbrev CounterPair_Packets : Nat := 1
abbrev CounterPair_Bytes : Nat := 2
abbrev CounterClear_First : Nat := 1
abbrev CounterClear_Last : Nat := 2
abbrev TallboyDump_Enable : Nat := 1
abbrev TallboyDump_Kind : Nat := 2
abbrev TallboyDump_HostCopy : Nat := 3
abbrev TallboyDump_OwnerRole : Nat := 4
abbrev TallboyDump_StartTime : Nat := 6
abbrev TallboyDump_PeriodUs : Nat := 7
abbrev TallboyDump_ListBase : Nat := 8
abbrev TallboyDump_ListCount : Nat := 9
abbrev TallboyDump_AreaOffset : Nat := 10
abbrev TallboyDump_Slots : Nat := 11
abbrev TallboyDump_StartedLate : Nat := 12
abbrev TallboyDumpList_Kind : Nat := 1
abbrev TallboyDumpList_Object : Nat := 3
abbrev TallboyDumpList_Row : Nat := 4
abbrev TallboyDumpList_Field : Nat := 5
abbrev TallboyDumpStatus_Dumps : Nat := 1
abbrev TallboyDumpStatus_Skipped : Nat := 2
abbrev TallboyDumpStatus_HostSkipped : Nat := 3
abbrev TallboyDumpStatus_LastSequence : Nat := 4
abbrev SampleSession_Enable : Nat := 1
abbrev SampleSession_Kinds : Nat := 2
abbrev SampleSession_OwnerRole : Nat := 3
abbrev SampleSession_Privilege : Nat := 4
abbrev SampleSession_ClassMask : Nat := 5
abbrev SampleSession_MasterKind : Nat := 6
abbrev SampleSession_Master : Nat := 7
abbrev SampleSession_AddrTable : Nat := 8
abbrev SampleSession_AddrLow : Nat := 9
abbrev SampleSession_AddrHigh : Nat := 10
abbrev SampleCounters_Records : Nat := 1
abbrev SampleCounters_Lost : Nat := 2
abbrev SampleCounters_SealedSuppressed : Nat := 3
abbrev TelemetryHostRing_Enable : Nat := 1
abbrev TelemetryHostRing_Channel : Nat := 2
abbrev TelemetryHostRing_SlotSizeLog2 : Nat := 3
abbrev TelemetryHostRing_SlotCountLog2 : Nat := 4
abbrev TelemetryHostRing_Base : Nat := 5
abbrev TelemetryHostRing_WriteBack : Nat := 6
abbrev TelemetryHostRing_Vector : Nat := 7
abbrev TelemetryHostRing_FlushUs : Nat := 8
abbrev TelemetryHostIndex_Producer : Nat := 1
abbrev TelemetryHostIndex_Consumer : Nat := 2
abbrev ZoaCredential_Valid : Nat := 1
abbrev ZoaCredential_Role : Nat := 2
abbrev ZoaCredential_Kind : Nat := 3
abbrev ZoaCredential_TenantSlot : Nat := 4
abbrev ZoaCredential_SpkiHash : Nat := 6
abbrev TenantKey_Valid : Nat := 1
abbrev TenantKey_Key : Nat := 3
abbrev TenantKeyStatus_Valid : Nat := 1
abbrev TenantKeyStatus_InstallState : Nat := 2
abbrev WipeStatus_BureauDone : Nat := 1
abbrev WipeStatus_SramDone : Nat := 2
abbrev WipeStatus_HbmDone : Nat := 3
abbrev WipeStatus_ChestDone : Nat := 4
abbrev WipeStatus_Failed : Nat := 5
abbrev WipeStatus_FailedRegion : Nat := 6
abbrev WipeStatus_DurationUs : Nat := 8
abbrev AuditLog_Stamp : Nat := 1
abbrev AuditLog_Kind : Nat := 2
abbrev AuditLog_Session : Nat := 3
abbrev AuditLog_Role : Nat := 4
abbrev AuditLog_Operation : Nat := 5
abbrev AuditLog_Object : Nat := 6
abbrev AuditLog_Row : Nat := 7
abbrev AuditLog_Field : Nat := 8
abbrev AuditLog_Detail : Nat := 9
abbrev FwSlotStatus_State : Nat := 1
abbrev FwSlotStatus_Certified : Nat := 2
abbrev FwSlotStatus_OwnerSigned : Nat := 3
abbrev FwSlotStatus_AtReset : Nat := 4
abbrev FwSlotStatus_JournalVersion : Nat := 6
abbrev FwSlotStatus_ImageVersion : Nat := 7
abbrev FwStagedLoad_Length : Nat := 1
abbrev FwStagedLoad_Chain : Nat := 2
abbrev FwLoadStatus_State : Nat := 1
abbrev FwLoadStatus_ChainState : Nat := 2
abbrev FwLoadStatus_Reason : Nat := 3
abbrev FwLoadStatus_TransferId : Nat := 4
abbrev FwLoadStatus_BytesReceived : Nat := 5
abbrev FwActivationStatus_State : Nat := 1
abbrev FwActivationStatus_SelfTestPassed : Nat := 2
abbrev FwActivationStatus_LastReason : Nat := 3
abbrev FwActivationStatus_SwapTime : Nat := 5
abbrev PowerRailStatus_NowMv : Nat := 1
abbrev PowerRailStatus_MinMv : Nat := 2
abbrev PowerRailStatus_BelowGuard : Nat := 3
abbrev PowerRailStatus_OverVoltage : Nat := 4
abbrev PowerNvGuard_Asserted : Nat := 1
abbrev PowerNvGuard_BySagN : Nat := 2
abbrev PowerNvGuard_LastRail : Nat := 3
abbrev PowerNvGuard_AssertCount : Nat := 5
abbrev PowerNvJournal_PendingBytes : Nat := 1
abbrev PowerNvJournal_PendingRecords : Nat := 2
abbrev PowerJournalBoot_Replayed : Nat := 1
abbrev PowerJournalBoot_Discarded : Nat := 2
abbrev PowerBrownout_Count : Nat := 1
abbrev PowerBrownout_LastRail : Nat := 2
abbrev PowerSequence_Violation : Nat := 1
abbrev PowerSequence_FirstRail : Nat := 2
abbrev SideboardChannel_Enable : Nat := 1
abbrev SideboardChannel_LowLimit : Nat := 3
abbrev SideboardChannel_HighLimit : Nat := 4
abbrev SideboardChannel_Gain : Nat := 5
abbrev SideboardChannel_Offset : Nat := 6
abbrev SideboardSequence_CountMinusOne : Nat := 1
abbrev SideboardSequence_Entry0 : Nat := 3
abbrev SideboardResult_Code : Nat := 1
abbrev SideboardResult_Value : Nat := 2
abbrev SideboardResult_Stamp : Nat := 4
abbrev SideboardCounters_Runs : Nat := 1
abbrev SideboardCounters_Overruns : Nat := 2
abbrev FanConfig_Frequency : Nat := 1
abbrev FanConfig_Duty : Nat := 2
abbrev FanConfig_TachPin : Nat := 3
abbrev FanConfig_PulsesPerRevMinusOne : Nat := 4
abbrev FanConfig_MinRpm : Nat := 5
abbrev FanStatus_Fault : Nat := 1
abbrev FanStatus_Forced : Nat := 2
abbrev FanStatus_Rpm : Nat := 3
abbrev FanStatus_DutyApplied : Nat := 4
abbrev GpioConfig_Mode : Nat := 1
abbrev GpioConfig_OpenDrain : Nat := 2
abbrev GpioConfig_Polarity : Nat := 3
abbrev GpioConfig_Edge : Nat := 4
abbrev GpioConfig_DebounceUs : Nat := 6

end F

/-- Field map of PartIdentity (R5, spec/00_scope.md). -/
def fieldsPartIdentity : List FieldInfo :=
  [⟨63,48,.r,51730,.any⟩, ⟨47,32,.r,296,.any⟩, ⟨31,24,.r,17,.any⟩, ⟨23,16,.r,17,.any⟩, ⟨15,8,.r,0,.any⟩,
   ⟨7,1,.rsv,0,.any⟩, ⟨0,0,.r,0,.any⟩]

/-- Field map of Directory (R79, spec/02_object_dictionary.md). -/
def fieldsDirectory : List FieldInfo :=
  [⟨63,56,.r,0,.any⟩, ⟨55,54,.r,0,.any⟩, ⟨53,51,.r,0,.any⟩, ⟨50,46,.r,0,.any⟩, ⟨45,41,.r,0,.any⟩,
   ⟨40,27,.r,0,.any⟩, ⟨26,0,.r,0,.any⟩]

/-- Field map of TxnStatus (R79, spec/02_object_dictionary.md). -/
def fieldsTxnStatus : List FieldInfo :=
  [⟨63,56,.r,0,.any⟩, ⟨55,48,.r,0,.any⟩, ⟨47,32,.r,0,.any⟩, ⟨31,28,.rsv,0,.any⟩, ⟨27,8,.r,0,.any⟩,
   ⟨7,0,.r,0,.any⟩]

/-- Field map of NetAddress (R79, spec/02_object_dictionary.md). -/
def fieldsNetAddress : List FieldInfo :=
  [⟨191,160,.rw,0,.any⟩, ⟨159,152,.rw,0,.rng 0 32⟩, ⟨151,24,.rw,0,.any⟩, ⟨23,16,.rw,0,.rng 0 128⟩,
   ⟨15,12,.rsv,0,.any⟩, ⟨11,0,.rw,0,.any⟩]

/-- Field map of BarLastStatus (R79, spec/02_object_dictionary.md). -/
def fieldsBarLastStatus : List FieldInfo :=
  [⟨63,56,.r,0,.any⟩, ⟨55,52,.rsv,0,.any⟩, ⟨51,32,.r,0,.any⟩, ⟨31,0,.r,0,.any⟩]

/-- Field map of LifeCycleStatus (R388, spec/16_security_lifecycle.md). -/
def fieldsLifeCycleStatus : List FieldInfo :=
  [⟨63,56,.r,0,.any⟩, ⟨55,48,.r,0,.any⟩, ⟨47,47,.r,0,.any⟩, ⟨46,43,.r,0,.any⟩, ⟨42,39,.r,0,.any⟩,
   ⟨38,0,.rsv,0,.any⟩]

/-- Field map of ResetCause (R439, spec/19_clocks_resets_crossings.md). -/
def fieldsResetCause : List FieldInfo :=
  [⟨63,60,.r,0,.any⟩, ⟨59,0,.rsv,0,.any⟩]

/-- Field map of CrossingLoss (R439, spec/19_clocks_resets_crossings.md). -/
def fieldsCrossingLoss : List FieldInfo :=
  [⟨63,32,.r,0,.any⟩, ⟨31,0,.r,0,.any⟩]

/-- Field map of BringUpStatus (R448, spec/20_bring_up.md). -/
def fieldsBringUpStatus : List FieldInfo :=
  [⟨63,60,.r,0,.any⟩, ⟨59,56,.r,0,.any⟩, ⟨55,55,.r,0,.any⟩, ⟨54,54,.r,0,.any⟩, ⟨53,53,.r,0,.any⟩,
   ⟨52,52,.r,0,.any⟩, ⟨51,32,.rsv,0,.any⟩, ⟨31,0,.r,0,.any⟩]

/-- Field map of TcPort (R105, spec/03_grid_time.md). -/
def fieldsTcPort : List FieldInfo :=
  [⟨63,62,.rw,0,.rng 0 2⟩, ⟨61,40,.rsv,0,.any⟩, ⟨39,0,.rw,0,.any⟩]

/-- Field map of TimeTrigger (R105, spec/03_grid_time.md). -/
def fieldsTimeTrigger : List FieldInfo :=
  [⟨255,255,.rw,0,.any⟩, ⟨254,254,.rw,0,.any⟩, ⟨253,253,.rw,0,.any⟩, ⟨252,252,.rw,0,.any⟩, ⟨251,251,.r,0,.any⟩,
   ⟨250,250,.r,0,.any⟩, ⟨249,240,.rsv,0,.any⟩, ⟨239,160,.rw,0,.any⟩, ⟨159,96,.rw,0,.any⟩, ⟨95,32,.rw,0,.any⟩,
   ⟨31,0,.rw,0,.any⟩]

/-- Field map of TimeCaptureConfig (R105, spec/03_grid_time.md). -/
def fieldsTimeCaptureConfig : List FieldInfo :=
  [⟨7,7,.rw,0,.any⟩, ⟨6,5,.rw,0,.any⟩, ⟨4,3,.rw,0,.rng 0 2⟩, ⟨2,0,.rsv,0,.any⟩]

/-- Field map of TimeCaptureLog (R105, spec/03_grid_time.md). -/
def fieldsTimeCaptureLog : List FieldInfo :=
  [⟨127,124,.r,0,.any⟩, ⟨123,123,.r,0,.any⟩, ⟨122,121,.r,0,.any⟩, ⟨120,119,.r,0,.any⟩, ⟨118,64,.rsv,0,.any⟩,
   ⟨63,0,.r,0,.any⟩]

/-- Field map of PpsOutConfig (R105, spec/03_grid_time.md). -/
def fieldsPpsOutConfig : List FieldInfo :=
  [⟨63,63,.rw,1,.any⟩, ⟨62,61,.rw,0,.rng 0 2⟩, ⟨60,60,.rw,0,.any⟩, ⟨59,32,.rsv,0,.any⟩,
   ⟨31,0,.rw,100000,.rng 1 500000⟩]

/-- Field map of SyncEClock (R105, spec/03_grid_time.md). -/
def fieldsSyncEClock : List FieldInfo :=
  [⟨31,31,.rw,0,.any⟩, ⟨30,30,.rw,1,.any⟩, ⟨29,16,.rsv,0,.any⟩, ⟨15,8,.rw,0,.rng 0 127⟩, ⟨7,6,.rsv,0,.any⟩,
   ⟨5,0,.rw,0,.any⟩]

/-- Field map of ParseNode (R138, spec/05_parse_graph.md). -/
def fieldsParseNode : List FieldInfo :=
  [⟨127,127,.rw,0,.any⟩, ⟨126,126,.rw,0,.any⟩, ⟨125,123,.rw,0,.rng 0 4⟩, ⟨122,119,.rw,0,.any⟩,
   ⟨118,110,.rw,0,.any⟩, ⟨109,107,.rw,0,.rng 0 4⟩, ⟨106,75,.rw,0,.any⟩, ⟨74,74,.rw,0,.any⟩, ⟨73,66,.rw,0,.any⟩,
   ⟨65,65,.rw,0,.any⟩, ⟨64,55,.rw,0,.rng 0 512⟩, ⟨54,49,.rw,0,.any⟩, ⟨48,48,.rw,0,.any⟩, ⟨47,44,.rw,0,.any⟩,
   ⟨43,0,.rsv,0,.any⟩]

/-- Field map of ParseTransition (R138, spec/05_parse_graph.md). -/
def fieldsParseTransition : List FieldInfo :=
  [⟨95,95,.rw,0,.any⟩, ⟨94,87,.rw,0,.any⟩, ⟨86,86,.rw,0,.any⟩, ⟨85,76,.rw,0,.rng 0 512⟩, ⟨75,70,.rw,0,.any⟩,
   ⟨69,64,.rsv,0,.any⟩, ⟨63,32,.rw,0,.any⟩, ⟨31,0,.rw,0,.any⟩]

/-- Field map of ParseCopy (R138, spec/05_parse_graph.md). -/
def fieldsParseCopy : List FieldInfo :=
  [⟨31,31,.rw,0,.any⟩, ⟨30,22,.rw,0,.any⟩, ⟨21,17,.rw,0,.rng 0 15⟩, ⟨16,10,.rw,0,.any⟩, ⟨9,0,.rsv,0,.any⟩]

/-- Field map of ParseLengthRule (R138, spec/05_parse_graph.md). -/
def fieldsParseLengthRule : List FieldInfo :=
  [⟨63,55,.rw,0,.any⟩, ⟨54,54,.rw,0,.any⟩, ⟨53,38,.rw,0,.any⟩, ⟨37,34,.rw,0,.any⟩, ⟨33,29,.rw,0,.any⟩,
   ⟨28,19,.rw,0,.rng 0 512⟩, ⟨18,0,.rsv,0,.any⟩]

/-- Field map of ParseHashProfile (R138, spec/05_parse_graph.md). -/
def fieldsParseHashProfile : List FieldInfo :=
  [⟨127,0,.rw,0,.any⟩]

/-- Field map of ParseStart (R138, spec/05_parse_graph.md). -/
def fieldsParseStart : List FieldInfo :=
  [⟨7,0,.rw,0,.any⟩]

/-- Field map of ParseLastFail (R138, spec/05_parse_graph.md). -/
def fieldsParseLastFail : List FieldInfo :=
  [⟨63,61,.r,0,.any⟩, ⟨60,53,.r,0,.any⟩, ⟨52,44,.r,0,.any⟩, ⟨43,34,.r,0,.any⟩, ⟨33,26,.r,0,.any⟩,
   ⟨25,0,.rsv,0,.any⟩]

/-- Field map of LookupProfile (R169, spec/06_route_exact_lookups.md). -/
def fieldsLookupProfile : List FieldInfo :=
  [⟨63,63,.rw,0,.any⟩, ⟨62,62,.rw,0,.any⟩, ⟨61,55,.rw,0,.rng 0 108⟩, ⟨54,53,.rw,0,.rng 0 2⟩,
   ⟨52,46,.rw,0,.rng 0 110⟩, ⟨45,30,.rw,0,.any⟩, ⟨29,29,.rw,0,.any⟩, ⟨28,25,.rw,0,.any⟩, ⟨24,24,.rw,0,.any⟩,
   ⟨23,20,.rw,0,.any⟩, ⟨19,0,.rsv,0,.any⟩]

/-- Field map of RouteUpdate (R169, spec/06_route_exact_lookups.md). -/
def fieldsRouteUpdate : List FieldInfo :=
  [⟨287,286,.rw,0,.rng 0 2⟩, ⟨285,280,.rsv,0,.any⟩, ⟨279,264,.rw,0,.any⟩, ⟨263,120,.rw,0,.any⟩,
   ⟨119,88,.rw,0,.any⟩, ⟨87,64,.r,0,.any⟩, ⟨63,32,.r,0,.any⟩, ⟨31,0,.r,0,.any⟩]

/-- Field map of RouteTable (R169, spec/06_route_exact_lookups.md). -/
def fieldsRouteTable : List FieldInfo :=
  [⟨287,286,.rw,0,.any⟩, ⟨285,280,.rsv,0,.any⟩, ⟨279,264,.rw,0,.any⟩, ⟨263,120,.rw,0,.any⟩,
   ⟨119,88,.rw,0,.any⟩, ⟨87,64,.r,0,.any⟩, ⟨63,32,.r,0,.any⟩, ⟨31,0,.r,0,.any⟩]

/-- Field map of RouteDefault (R169, spec/06_route_exact_lookups.md). -/
def fieldsRouteDefault : List FieldInfo :=
  [⟨31,30,.rw,3,.any⟩, ⟨29,24,.rsv,0,.any⟩, ⟨23,0,.rw,0,.any⟩]

/-- Field map of ExactKeyProfile (R169, spec/06_route_exact_lookups.md). -/
def fieldsExactKeyProfile : List FieldInfo :=
  [⟨447,447,.rw,0,.any⟩, ⟨446,445,.rw,0,.rng 0 2⟩, ⟨444,443,.rw,0,.rng 0 2⟩, ⟨442,441,.rw,0,.rng 0 2⟩,
   ⟨440,440,.rsv,0,.any⟩, ⟨439,425,.rw,0,.any⟩, ⟨424,416,.rsv,0,.any⟩, ⟨415,384,.rw,0,.any⟩,
   ⟨383,0,.rw,0,.any⟩]

/-- Field map of ExactUpdate (R169, spec/06_route_exact_lookups.md). -/
def fieldsExactUpdate : List FieldInfo :=
  [⟨543,542,.rw,0,.any⟩, ⟨541,538,.rw,0,.any⟩, ⟨537,536,.rw,0,.any⟩, ⟨535,535,.r,0,.any⟩, ⟨534,534,.rw,0,.any⟩,
   ⟨533,150,.rw,0,.any⟩, ⟨149,118,.rw,0,.any⟩, ⟨117,102,.r,0,.any⟩, ⟨101,80,.r,0,.any⟩, ⟨79,64,.rsv,0,.any⟩,
   ⟨63,32,.r,0,.any⟩, ⟨31,0,.r,0,.any⟩]

/-- Field map of RangeProfile (R184, spec/07_range_search.md). -/
def fieldsRangeProfile : List FieldInfo :=
  [⟨255,255,.rw,0,.any⟩, ⟨254,251,.rw,0,.any⟩, ⟨250,248,.rw,0,.rng 0 4⟩, ⟨247,246,.rw,0,.rng 0 2⟩,
   ⟨245,240,.rsv,0,.any⟩, ⟨239,231,.rw,0,.any⟩, ⟨230,222,.rw,0,.any⟩, ⟨221,213,.rw,0,.any⟩,
   ⟨212,204,.rw,0,.any⟩, ⟨203,195,.rw,0,.any⟩, ⟨194,186,.rw,0,.any⟩, ⟨185,177,.rw,0,.any⟩,
   ⟨176,168,.rw,0,.any⟩, ⟨167,128,.rsv,0,.any⟩, ⟨127,0,.rw,0,.any⟩]

/-- Field map of RangeUpdate (R184, spec/07_range_search.md). -/
def fieldsRangeUpdate : List FieldInfo :=
  [⟨959,958,.rw,0,.rng 0 2⟩, ⟨957,954,.rw,0,.any⟩, ⟨953,946,.rw,0,.any⟩, ⟨945,930,.rw,0,.any⟩,
   ⟨929,898,.rw,0,.any⟩, ⟨897,896,.rsv,0,.any⟩, ⟨895,832,.rw,0,.any⟩, ⟨831,768,.rw,0,.any⟩,
   ⟨767,704,.rw,0,.any⟩, ⟨703,640,.rw,0,.any⟩, ⟨639,576,.rw,0,.any⟩, ⟨575,512,.rw,0,.any⟩,
   ⟨511,448,.rw,0,.any⟩, ⟨447,384,.rw,0,.any⟩, ⟨383,256,.rw,0,.any⟩, ⟨255,128,.rw,0,.any⟩, ⟨127,110,.r,0,.any⟩,
   ⟨109,64,.rsv,0,.any⟩, ⟨63,32,.r,0,.any⟩, ⟨31,0,.r,0,.any⟩]

/-- Field map of RangeRule (R184, spec/07_range_search.md). -/
def fieldsRangeRule : List FieldInfo :=
  [⟨959,958,.rw,0,.any⟩, ⟨957,954,.rw,0,.any⟩, ⟨953,946,.rw,0,.any⟩, ⟨945,930,.rw,0,.any⟩,
   ⟨929,898,.rw,0,.any⟩, ⟨897,896,.rsv,0,.any⟩, ⟨895,832,.rw,0,.any⟩, ⟨831,768,.rw,0,.any⟩,
   ⟨767,704,.rw,0,.any⟩, ⟨703,640,.rw,0,.any⟩, ⟨639,576,.rw,0,.any⟩, ⟨575,512,.rw,0,.any⟩,
   ⟨511,448,.rw,0,.any⟩, ⟨447,384,.rw,0,.any⟩, ⟨383,256,.rw,0,.any⟩, ⟨255,128,.rw,0,.any⟩, ⟨127,110,.r,0,.any⟩,
   ⟨109,64,.rsv,0,.any⟩, ⟨63,32,.r,0,.any⟩, ⟨31,0,.r,0,.any⟩]

/-- Field map of RangeDirect (R184, spec/07_range_search.md). -/
def fieldsRangeDirect : List FieldInfo :=
  [⟨959,958,.rw,0,.rng 1 3⟩, ⟨957,954,.rw,0,.any⟩, ⟨953,946,.rw,0,.any⟩, ⟨945,930,.rw,0,.any⟩,
   ⟨929,898,.rw,0,.any⟩, ⟨897,896,.rsv,0,.any⟩, ⟨895,832,.rw,0,.any⟩, ⟨831,768,.rw,0,.any⟩,
   ⟨767,704,.rw,0,.any⟩, ⟨703,640,.rw,0,.any⟩, ⟨639,576,.rw,0,.any⟩, ⟨575,512,.rw,0,.any⟩,
   ⟨511,448,.rw,0,.any⟩, ⟨447,384,.rw,0,.any⟩, ⟨383,256,.rw,0,.any⟩, ⟨255,128,.rw,0,.any⟩, ⟨127,110,.r,0,.any⟩,
   ⟨109,64,.rsv,0,.any⟩, ⟨63,32,.r,0,.any⟩, ⟨31,0,.r,0,.any⟩]

/-- Field map of RangeSearch (R184, spec/07_range_search.md). -/
def fieldsRangeSearch : List FieldInfo :=
  [⟨511,511,.r,0,.any⟩, ⟨510,510,.r,0,.any⟩, ⟨509,508,.r,0,.any⟩, ⟨507,504,.rw,0,.any⟩, ⟨503,487,.r,0,.any⟩,
   ⟨486,471,.r,0,.any⟩, ⟨470,439,.r,0,.any⟩, ⟨438,416,.rsv,0,.any⟩, ⟨415,384,.r,0,.any⟩, ⟨383,128,.rw,0,.any⟩,
   ⟨127,0,.rw,0,.any⟩]

/-- Field map of ActionSet (R204, spec/08_rules_actions.md). -/
def fieldsActionSet : List FieldInfo :=
  [⟨255,255,.rw,0,.any⟩, ⟨254,254,.rw,0,.any⟩, ⟨253,253,.rw,0,.any⟩, ⟨252,252,.rw,0,.any⟩,
   ⟨251,251,.rw,0,.any⟩, ⟨250,250,.rw,0,.any⟩, ⟨249,249,.rw,0,.any⟩, ⟨248,248,.rw,0,.any⟩,
   ⟨247,247,.rw,0,.any⟩, ⟨246,245,.rw,0,.rng 0 2⟩, ⟨244,239,.rw,0,.any⟩, ⟨238,236,.rw,0,.any⟩,
   ⟨235,232,.rw,0,.any⟩, ⟨231,224,.rw,0,.any⟩, ⟨223,205,.rw,0,.any⟩, ⟨204,189,.rw,0,.any⟩,
   ⟨188,188,.rw,0,.any⟩, ⟨187,168,.rw,0,.any⟩, ⟨167,167,.rw,0,.any⟩, ⟨166,146,.rw,0,.any⟩,
   ⟨145,145,.rw,0,.any⟩, ⟨144,141,.rw,0,.any⟩, ⟨140,140,.rw,0,.any⟩, ⟨139,136,.rw,0,.any⟩,
   ⟨135,135,.rw,0,.any⟩, ⟨134,121,.rw,0,.any⟩, ⟨120,89,.rw,0,.rng 0 1000000000⟩, ⟨88,0,.rsv,0,.any⟩]

/-- Field map of NextHop (R204, spec/08_rules_actions.md). -/
def fieldsNextHop : List FieldInfo :=
  [⟨63,63,.rw,0,.any⟩, ⟨62,59,.rw,0,.any⟩, ⟨58,51,.rw,0,.any⟩, ⟨50,32,.rw,0,.rng 0 524280⟩, ⟨31,16,.rw,0,.any⟩,
   ⟨15,0,.rsv,0,.any⟩]

/-- Field map of EcmpGroup (R204, spec/08_rules_actions.md). -/
def fieldsEcmpGroup : List FieldInfo :=
  [⟨31,24,.rw,0,.any⟩, ⟨23,19,.rsv,0,.any⟩, ⟨18,0,.rw,0,.any⟩]

/-- Field map of EditList (R204, spec/08_rules_actions.md). -/
def fieldsEditList : List FieldInfo :=
  [⟨1023,896,.rw,0,.any⟩, ⟨895,768,.rw,0,.any⟩, ⟨767,640,.rw,0,.any⟩, ⟨639,512,.rw,0,.any⟩,
   ⟨511,384,.rw,0,.any⟩, ⟨383,256,.rw,0,.any⟩, ⟨255,128,.rw,0,.any⟩, ⟨127,0,.rw,0,.any⟩]

/-- Field map of StreamReplicate (R204, spec/08_rules_actions.md). -/
def fieldsStreamReplicate : List FieldInfo :=
  [⟨255,255,.rw,0,.any⟩, ⟨254,252,.rsv,0,.any⟩, ⟨251,250,.rw,0,.any⟩, ⟨249,234,.r,0,.any⟩,
   ⟨233,187,.rw,0,.any⟩, ⟨186,140,.rw,0,.any⟩, ⟨139,93,.rw,0,.any⟩, ⟨92,46,.rw,0,.any⟩, ⟨45,0,.rsv,0,.any⟩]

/-- Field map of StreamRecovery (R204, spec/08_rules_actions.md). -/
def fieldsStreamRecovery : List FieldInfo :=
  [⟨63,63,.rw,0,.any⟩, ⟨62,62,.rw,0,.any⟩, ⟨61,56,.rw,0,.rngEn 1 32⟩, ⟨55,40,.rw,0,.rngEn 1 65535⟩,
   ⟨39,0,.rsv,0,.any⟩]

/-- Field map of StreamRecoveryCount (R204, spec/08_rules_actions.md). -/
def fieldsStreamRecoveryCount : List FieldInfo :=
  [⟨319,256,.r,0,.any⟩, ⟨255,192,.r,0,.any⟩, ⟨191,128,.r,0,.any⟩, ⟨127,64,.r,0,.any⟩, ⟨63,0,.r,0,.any⟩]

/-- Field map of PuntReason (R204, spec/08_rules_actions.md). -/
def fieldsPuntReason : List FieldInfo :=
  [⟨63,40,.rw,10000,.rng 0 10000000⟩, ⟨39,24,.rw,64,.rng 1 65535⟩, ⟨23,19,.rsv,0,.any⟩, ⟨18,0,.rw,0,.any⟩]

/-- Field map of PuntCount (R204, spec/08_rules_actions.md). -/
def fieldsPuntCount : List FieldInfo :=
  [⟨127,64,.r,0,.any⟩, ⟨63,0,.r,0,.any⟩]

/-- Field map of MirrorSession (R204, spec/08_rules_actions.md). -/
def fieldsMirrorSession : List FieldInfo :=
  [⟨63,63,.rw,0,.any⟩, ⟨62,59,.rw,0,.any⟩, ⟨58,51,.rw,0,.any⟩, ⟨50,32,.rw,0,.any⟩, ⟨31,16,.rw,0,.any⟩,
   ⟨15,14,.rsv,0,.any⟩, ⟨13,0,.rw,0,.any⟩]

/-- Field map of Sampler (R204, spec/08_rules_actions.md). -/
def fieldsSampler : List FieldInfo :=
  [⟨31,31,.rw,0,.any⟩, ⟨30,24,.rsv,0,.any⟩, ⟨23,0,.rw,0,.any⟩]

/-- Field map of Meter (R253, spec/10_scheduling_shaping.md). -/
def fieldsMeter : List FieldInfo :=
  [⟨191,191,.rw,0,.any⟩, ⟨190,190,.rw,0,.any⟩, ⟨189,189,.rw,0,.any⟩, ⟨188,188,.rw,0,.any⟩,
   ⟨187,186,.rw,0,.rng 0 2⟩, ⟨185,179,.rw,0,.any⟩, ⟨178,138,.rw,0,.rng 0 1600000000000⟩,
   ⟨137,97,.rw,0,.rng 0 1600000000000⟩, ⟨96,72,.rw,0,.rngEn 1 16777216⟩, ⟨71,47,.rw,0,.rng 0 16777216⟩,
   ⟨46,0,.rsv,0,.any⟩]

/-- Field map of MeterColourCount (R253, spec/10_scheduling_shaping.md). -/
def fieldsMeterColourCount : List FieldInfo :=
  [⟨191,128,.r,0,.any⟩, ⟨127,64,.r,0,.any⟩, ⟨63,0,.r,0,.any⟩]

/-- Field map of BufferProfile (R224, spec/09_egress_buffer.md). -/
def fieldsBufferProfile : List FieldInfo :=
  [⟨127,127,.rw,0,.any⟩, ⟨126,126,.rw,0,.any⟩, ⟨125,106,.rw,4096,.rng 1 524288⟩,
   ⟨105,86,.rw,4096,.rng 1 524288⟩, ⟨85,62,.rw,1024,.rng 1 13631488⟩, ⟨61,38,.rw,0,.any⟩,
   ⟨37,30,.rw,64,.rng 8 255⟩, ⟨29,0,.rsv,0,.any⟩]

/-- Field map of QueueBuffer (R224, spec/09_egress_buffer.md). -/
def fieldsQueueBuffer : List FieldInfo :=
  [⟨15,15,.rw,1,.any⟩, ⟨14,10,.rsv,0,.any⟩, ⟨9,0,.rw,0,.any⟩]

/-- Field map of QueueDepth (R224, spec/09_egress_buffer.md). -/
def fieldsQueueDepth : List FieldInfo :=
  [⟨63,63,.r,0,.any⟩, ⟨62,43,.r,0,.any⟩, ⟨42,0,.r,0,.any⟩]

/-- Field map of QueueCounters (R224, spec/09_egress_buffer.md). -/
def fieldsQueueCounters : List FieldInfo :=
  [⟨383,320,.r,0,.any⟩, ⟨319,256,.r,0,.any⟩, ⟨255,192,.r,0,.any⟩, ⟨191,128,.r,0,.any⟩, ⟨127,64,.r,0,.any⟩,
   ⟨63,0,.r,0,.any⟩]

/-- Field map of ShelfPool (R224, spec/09_egress_buffer.md). -/
def fieldsShelfPool : List FieldInfo :=
  [⟨127,109,.r,0,.any⟩, ⟨108,90,.r,0,.any⟩, ⟨89,71,.r,0,.any⟩, ⟨70,63,.r,64,.any⟩, ⟨62,46,.r,0,.any⟩,
   ⟨45,0,.rsv,0,.any⟩]

/-- Field map of ShelfLastReject (R224, spec/09_egress_buffer.md). -/
def fieldsShelfLastReject : List FieldInfo :=
  [⟨63,48,.r,0,.any⟩, ⟨47,46,.r,0,.any⟩, ⟨45,28,.r,0,.any⟩, ⟨27,0,.rsv,0,.any⟩]

/-- Field map of SchedPort (R253, spec/10_scheduling_shaping.md). -/
def fieldsSchedPort : List FieldInfo :=
  [⟨255,255,.rw,0,.any⟩, ⟨254,237,.rw,0,.any⟩, ⟨236,234,.rw,0,.any⟩, ⟨233,218,.rw,1,.rng 1 65535⟩,
   ⟨217,217,.rw,0,.any⟩, ⟨216,215,.rw,0,.rng 0 2⟩, ⟨214,208,.rw,0,.any⟩, ⟨207,207,.rw,0,.any⟩,
   ⟨206,206,.rw,0,.any⟩, ⟨205,203,.rw,0,.any⟩, ⟨202,202,.rw,0,.any⟩, ⟨201,192,.rsv,0,.any⟩,
   ⟨191,151,.rw,0,.any⟩, ⟨150,127,.rw,0,.any⟩, ⟨126,86,.rw,0,.any⟩, ⟨85,62,.rw,0,.any⟩, ⟨61,0,.rsv,0,.any⟩]

/-- Field map of SchedL1 (R253, spec/10_scheduling_shaping.md). -/
def fieldsSchedL1 : List FieldInfo :=
  [⟨255,255,.rw,0,.any⟩, ⟨254,237,.rw,0,.any⟩, ⟨236,234,.rw,0,.any⟩, ⟨233,218,.rw,1,.rng 1 65535⟩,
   ⟨217,217,.rw,0,.any⟩, ⟨216,215,.rw,0,.any⟩, ⟨214,208,.rw,0,.any⟩, ⟨207,207,.rw,0,.any⟩,
   ⟨206,206,.rw,0,.any⟩, ⟨205,203,.rw,0,.any⟩, ⟨202,202,.rw,0,.any⟩, ⟨201,192,.rsv,0,.any⟩,
   ⟨191,151,.rw,0,.any⟩, ⟨150,127,.rw,0,.any⟩, ⟨126,86,.rw,0,.any⟩, ⟨85,62,.rw,0,.any⟩, ⟨61,0,.rsv,0,.any⟩]

/-- Field map of SchedNodeQuery (R253, spec/10_scheduling_shaping.md). -/
def fieldsSchedNodeQuery : List FieldInfo :=
  [⟨255,253,.rw,0,.rng 0 4⟩, ⟨252,234,.rw,0,.any⟩, ⟨233,233,.r,0,.any⟩, ⟨232,232,.r,0,.any⟩,
   ⟨231,200,.r,0,.any⟩, ⟨199,168,.r,0,.any⟩, ⟨167,136,.r,0,.any⟩, ⟨135,56,.r,0,.any⟩, ⟨55,0,.rsv,0,.any⟩]

/-- Field map of GateConfig (R253, spec/10_scheduling_shaping.md). -/
def fieldsGateConfig : List FieldInfo :=
  [⟨255,255,.rw,0,.any⟩, ⟨254,247,.rw,255,.any⟩, ⟨246,236,.rw,1,.rng 1 1024⟩, ⟨235,192,.rsv,0,.any⟩,
   ⟨191,112,.rw,0,.any⟩, ⟨111,80,.rw,1000000,.rng 1000 1000000000⟩, ⟨79,0,.rsv,0,.any⟩]

/-- Field map of GateAdminList (R253, spec/10_scheduling_shaping.md). -/
def fieldsGateAdminList : List FieldInfo :=
  [⟨63,56,.rw,0,.any⟩, ⟨55,32,.rsv,0,.any⟩, ⟨31,0,.rw,0,.any⟩]

/-- Field map of GateOperList (R253, spec/10_scheduling_shaping.md). -/
def fieldsGateOperList : List FieldInfo :=
  [⟨63,56,.r,0,.any⟩, ⟨55,32,.rsv,0,.any⟩, ⟨31,0,.r,0,.any⟩]

/-- Field map of GateStatus (R253, spec/10_scheduling_shaping.md). -/
def fieldsGateStatus : List FieldInfo :=
  [⟨255,255,.r,0,.any⟩, ⟨254,254,.r,0,.any⟩, ⟨253,253,.r,0,.any⟩, ⟨252,242,.r,0,.any⟩, ⟨241,232,.r,0,.any⟩,
   ⟨231,224,.r,0,.any⟩, ⟨223,192,.r,0,.any⟩, ⟨191,112,.r,0,.any⟩, ⟨111,32,.r,0,.any⟩, ⟨31,0,.rsv,0,.any⟩]

/-- Field map of LaunchPort (R253, spec/10_scheduling_shaping.md). -/
def fieldsLaunchPort : List FieldInfo :=
  [⟨63,32,.rw,1000,.rng 0 1000000⟩, ⟨31,16,.r,0,.any⟩, ⟨15,0,.rsv,0,.any⟩]

/-- Field map of LaunchCounters (R253, spec/10_scheduling_shaping.md). -/
def fieldsLaunchCounters : List FieldInfo :=
  [⟨255,192,.r,0,.any⟩, ⟨191,128,.r,0,.any⟩, ⟨127,64,.r,0,.any⟩, ⟨63,0,.r,0,.any⟩]

/-- Field map of MeshGroupConfig (R293, spec/11_mesh_fabric.md). -/
def fieldsMeshGroupConfig : List FieldInfo :=
  [⟨31,31,.rw,0,.any⟩, ⟨30,30,.rw,0,.any⟩, ⟨29,29,.rw,0,.any⟩, ⟨28,25,.rw,0,.any⟩, ⟨24,21,.rw,0,.any⟩,
   ⟨20,0,.rsv,0,.any⟩]

/-- Field map of MeshGroupStatus (R293, spec/11_mesh_fabric.md). -/
def fieldsMeshGroupStatus : List FieldInfo :=
  [⟨63,62,.r,0,.any⟩, ⟨61,58,.r,0,.any⟩, ⟨57,57,.r,0,.any⟩, ⟨56,56,.r,0,.any⟩, ⟨55,55,.r,0,.any⟩,
   ⟨54,51,.r,0,.any⟩, ⟨50,47,.r,0,.any⟩, ⟨46,43,.r,0,.any⟩, ⟨42,31,.r,0,.any⟩, ⟨30,0,.r,0,.any⟩]

/-- Field map of MeshConnStandby (R293, spec/11_mesh_fabric.md). -/
def fieldsMeshConnStandby : List FieldInfo :=
  [⟨31,29,.rw,0,.rng 0 4⟩, ⟨28,28,.rw,0,.any⟩, ⟨27,24,.rw,0,.any⟩, ⟨23,20,.rw,0,.any⟩, ⟨19,17,.rw,0,.any⟩,
   ⟨16,13,.rw,0,.any⟩, ⟨12,0,.rsv,0,.any⟩]

/-- Field map of MeshConnActive (R293, spec/11_mesh_fabric.md). -/
def fieldsMeshConnActive : List FieldInfo :=
  [⟨31,29,.rw,0,.any⟩, ⟨28,28,.rw,0,.any⟩, ⟨27,24,.rw,0,.any⟩, ⟨23,20,.rw,0,.any⟩, ⟨19,17,.rw,0,.any⟩,
   ⟨16,13,.rw,0,.any⟩, ⟨12,0,.rsv,0,.any⟩]

/-- Field map of MeshPageStatus (R293, spec/11_mesh_fabric.md). -/
def fieldsMeshPageStatus : List FieldInfo :=
  [⟨127,96,.r,0,.any⟩, ⟨95,64,.r,0,.any⟩, ⟨63,32,.r,0,.any⟩, ⟨31,30,.r,0,.any⟩, ⟨29,29,.r,0,.any⟩,
   ⟨28,0,.rsv,0,.any⟩]

/-- Field map of PortConfig (R312, spec/12_line_ports.md). -/
def fieldsPortConfig : List FieldInfo :=
  [⟨63,63,.rw,0,.any⟩, ⟨62,59,.rw,0,.any⟩, ⟨58,58,.rw,0,.any⟩, ⟨57,57,.rw,1,.any⟩, ⟨56,56,.rw,0,.any⟩,
   ⟨55,54,.rw,0,.any⟩, ⟨53,53,.rw,0,.any⟩, ⟨52,39,.rw,9216,.rng 64 9216⟩, ⟨38,31,.rw,0,.any⟩,
   ⟨30,23,.rw,0,.any⟩, ⟨22,0,.rsv,0,.any⟩]

/-- Field map of PortStatus (R312, spec/12_line_ports.md). -/
def fieldsPortStatus : List FieldInfo :=
  [⟨63,61,.r,0,.any⟩, ⟨60,57,.r,0,.any⟩, ⟨56,55,.r,0,.any⟩, ⟨54,54,.r,0,.any⟩, ⟨53,53,.r,0,.any⟩,
   ⟨52,45,.r,0,.any⟩, ⟨44,37,.r,0,.any⟩, ⟨36,29,.r,0,.any⟩, ⟨28,13,.r,0,.any⟩, ⟨12,11,.r,0,.any⟩,
   ⟨10,0,.rsv,0,.any⟩]

/-- Field map of PortCounters (R312, spec/12_line_ports.md). -/
def fieldsPortCounters : List FieldInfo :=
  [⟨831,768,.r,0,.any⟩, ⟨767,704,.r,0,.any⟩, ⟨703,640,.r,0,.any⟩, ⟨639,576,.r,0,.any⟩, ⟨575,512,.r,0,.any⟩,
   ⟨511,448,.r,0,.any⟩, ⟨447,384,.r,0,.any⟩, ⟨383,320,.r,0,.any⟩, ⟨319,256,.r,0,.any⟩, ⟨255,192,.r,0,.any⟩,
   ⟨191,128,.r,0,.any⟩, ⟨127,64,.r,0,.any⟩, ⟨63,0,.r,0,.any⟩]

/-- Field map of PortClass (R312, spec/12_line_ports.md). -/
def fieldsPortClass : List FieldInfo :=
  [⟨31,31,.rw,0,.any⟩, ⟨30,30,.rw,0,.any⟩, ⟨29,27,.rw,0,.any⟩, ⟨26,24,.rsv,0,.any⟩, ⟨23,0,.rw,0,.any⟩]

/-- Field map of PortFlowControl (R312, spec/12_line_ports.md). -/
def fieldsPortFlowControl : List FieldInfo :=
  [⟨63,62,.rw,0,.rng 0 2⟩, ⟨61,54,.rw,0,.any⟩, ⟨53,38,.rw,65535,.rng 1 65535⟩, ⟨37,28,.rw,48,.any⟩,
   ⟨27,18,.rw,32,.any⟩, ⟨17,0,.rsv,0,.any⟩]

/-- Field map of PortMeasure (R312, spec/12_line_ports.md). -/
def fieldsPortMeasure : List FieldInfo :=
  [⟨255,128,.r,0,.any⟩, ⟨127,112,.rw,0,.any⟩, ⟨111,96,.rw,500,.rng 1 65535⟩, ⟨95,80,.rw,5000,.rng 3000 6000⟩,
   ⟨79,64,.r,0,.any⟩, ⟨63,40,.r,0,.any⟩, ⟨39,24,.rw,0,.any⟩, ⟨23,8,.rw,0,.any⟩, ⟨7,0,.rsv,0,.any⟩]

/-- Field map of HbmErrorLog (R331, spec/13_hbm_controller.md). -/
def fieldsHbmErrorLog : List FieldInfo :=
  [⟨127,112,.rsv,0,.any⟩, ⟨111,110,.r,0,.any⟩, ⟨109,107,.r,0,.any⟩, ⟨106,99,.r,0,.any⟩, ⟨98,98,.rsv,0,.any⟩,
   ⟨97,64,.r,0,.any⟩, ⟨63,0,.r,0,.any⟩]

/-- Field map of HbmFreqStatus (R331, spec/13_hbm_controller.md). -/
def fieldsHbmFreqStatus : List FieldInfo :=
  [⟨63,62,.r,0,.any⟩, ⟨61,61,.r,0,.any⟩, ⟨60,60,.r,0,.any⟩, ⟨59,56,.r,0,.any⟩, ⟨55,32,.rsv,0,.any⟩,
   ⟨31,0,.r,0,.any⟩]

/-- Field map of HbmTrainStatus (R331, spec/13_hbm_controller.md). -/
def fieldsHbmTrainStatus : List FieldInfo :=
  [⟨63,61,.r,0,.any⟩, ⟨60,57,.r,0,.any⟩, ⟨56,53,.r,0,.any⟩, ⟨52,46,.r,0,.any⟩, ⟨45,32,.rsv,0,.any⟩,
   ⟨31,0,.r,0,.any⟩]

/-- Field map of HbmPatternGen (R331, spec/13_hbm_controller.md). -/
def fieldsHbmPatternGen : List FieldInfo :=
  [⟨127,127,.w,0,.any⟩, ⟨126,123,.rw,0,.any⟩, ⟨122,121,.rw,0,.any⟩, ⟨120,118,.rw,0,.rng 0 4⟩,
   ⟨117,114,.rsv,0,.any⟩, ⟨113,100,.rw,1,.rng 1 16383⟩, ⟨99,64,.rsv,0,.any⟩, ⟨63,0,.rw,0,.any⟩]

/-- Field map of HbmCompare (R331, spec/13_hbm_controller.md). -/
def fieldsHbmCompare : List FieldInfo :=
  [⟨127,56,.r,0,.any⟩, ⟨55,24,.r,0,.any⟩, ⟨23,23,.r,0,.any⟩, ⟨22,0,.rsv,0,.any⟩]

/-- Field map of HbmDelay (R331, spec/13_hbm_controller.md). -/
def fieldsHbmDelay : List FieldInfo :=
  [⟨31,16,.rsv,0,.any⟩, ⟨15,8,.rw,0,.rng 0 127⟩, ⟨7,0,.rw,0,.rng 0 127⟩]

/-- Field map of HbmStrobe (R331, spec/13_hbm_controller.md). -/
def fieldsHbmStrobe : List FieldInfo :=
  [⟨15,8,.rw,0,.any⟩, ⟨7,0,.rw,0,.any⟩]

/-- Field map of PcieIdentity (R354, spec/14_host_dma.md). -/
def fieldsPcieIdentity : List FieldInfo :=
  [⟨63,48,.r,8092,.any⟩, ⟨47,32,.r,296,.any⟩, ⟨31,8,.r,0,.any⟩, ⟨7,0,.r,0,.any⟩]

/-- Field map of PcieLinkStatus (R354, spec/14_host_dma.md). -/
def fieldsPcieLinkStatus : List FieldInfo :=
  [⟨63,61,.r,0,.any⟩, ⟨60,57,.r,0,.any⟩, ⟨56,56,.r,0,.any⟩, ⟨55,0,.rsv,0,.any⟩]

/-- Field map of PuntRing (R354, spec/14_host_dma.md). -/
def fieldsPuntRing : List FieldInfo :=
  [⟨255,255,.rw,0,.any⟩, ⟨254,250,.rw,0,.rngEn 3 16⟩, ⟨249,198,.rw,0,.any⟩, ⟨197,137,.rw,0,.any⟩,
   ⟨136,118,.rw,0,.any⟩, ⟨117,112,.rw,0,.any⟩, ⟨111,96,.rw,8,.rng 1 65535⟩, ⟨95,82,.rw,0,.any⟩,
   ⟨81,66,.rw,0,.any⟩, ⟨65,50,.rw,1,.rng 1 65535⟩, ⟨49,0,.rsv,0,.any⟩]

/-- Field map of InjectRing (R354, spec/14_host_dma.md). -/
def fieldsInjectRing : List FieldInfo :=
  [⟨255,255,.rw,0,.any⟩, ⟨254,250,.rw,0,.rngEn 3 16⟩, ⟨249,198,.rw,0,.any⟩, ⟨197,137,.rw,0,.any⟩,
   ⟨136,134,.rw,0,.any⟩, ⟨133,131,.rw,0,.any⟩, ⟨130,125,.rw,0,.any⟩, ⟨124,109,.rw,1,.rng 1 65535⟩,
   ⟨108,93,.rw,0,.any⟩, ⟨92,0,.rsv,0,.any⟩]

/-- Field map of RingStatus (R354, spec/14_host_dma.md). -/
def fieldsRingStatus : List FieldInfo :=
  [⟨95,94,.r,0,.any⟩, ⟨93,64,.rsv,0,.any⟩, ⟨63,32,.r,0,.any⟩, ⟨31,0,.r,0,.any⟩]

/-- Field map of TrolleyStatus (R354, spec/14_host_dma.md). -/
def fieldsTrolleyStatus : List FieldInfo :=
  [⟨63,61,.r,0,.any⟩, ⟨60,56,.rsv,0,.any⟩, ⟨55,48,.r,0,.any⟩, ⟨47,40,.rsv,0,.any⟩, ⟨39,0,.r,0,.any⟩]

/-- Field map of EventBanks (R369, spec/15_events_telemetry.md). -/
def fieldsEventBanks : List FieldInfo :=
  [⟨127,96,.rw,0,.any⟩, ⟨95,64,.rw,0,.any⟩, ⟨63,32,.r,0,.any⟩, ⟨31,16,.r,65535,.any⟩, ⟨15,0,.rsv,0,.any⟩]

/-- Field map of EventSource (R369, spec/15_events_telemetry.md). -/
def fieldsEventSource : List FieldInfo :=
  [⟨31,16,.r,0,.any⟩, ⟨15,15,.w,0,.any⟩, ⟨14,13,.rw,0,.any⟩, ⟨12,7,.rw,0,.any⟩, ⟨6,0,.rsv,0,.any⟩]

/-- Field map of CounterClear (R369, spec/15_events_telemetry.md). -/
def fieldsCounterClear : List FieldInfo :=
  [⟨63,43,.rw,0,.any⟩, ⟨42,22,.rw,0,.any⟩, ⟨21,0,.rsv,0,.any⟩]

/-- Field map of TallboyDump (R369, spec/15_events_telemetry.md). -/
def fieldsTallboyDump : List FieldInfo :=
  [⟨255,255,.rw,0,.any⟩, ⟨254,254,.rw,0,.any⟩, ⟨253,253,.rw,0,.any⟩, ⟨252,250,.r,0,.any⟩,
   ⟨249,240,.rsv,0,.any⟩, ⟨239,160,.rw,0,.any⟩, ⟨159,128,.rw,0,.any⟩, ⟨127,109,.rw,0,.any⟩,
   ⟨108,92,.rw,0,.rng 0 65536⟩, ⟨91,78,.rw,0,.any⟩, ⟨77,72,.rw,0,.rngEn 1 63⟩, ⟨71,71,.r,0,.any⟩,
   ⟨70,0,.rsv,0,.any⟩]

/-- Field map of TallboyDumpList (R369, spec/15_events_telemetry.md). -/
def fieldsTallboyDumpList : List FieldInfo :=
  [⟨63,63,.rw,0,.any⟩, ⟨62,60,.rsv,0,.any⟩, ⟨59,40,.rw,0,.any⟩, ⟨39,8,.rw,0,.any⟩, ⟨7,0,.rw,0,.any⟩]

/-- Field map of SampleSession (R369, spec/15_events_telemetry.md). -/
def fieldsSampleSession : List FieldInfo :=
  [⟨127,127,.rw,0,.any⟩, ⟨126,125,.rw,0,.rngEn 1 3⟩, ⟨124,122,.r,0,.any⟩, ⟨121,120,.rw,0,.rng 0 2⟩,
   ⟨119,112,.rw,0,.any⟩, ⟨111,110,.rw,0,.rng 0 2⟩, ⟨109,94,.rw,0,.any⟩, ⟨93,90,.rw,0,.rng 0 8⟩,
   ⟨89,62,.rw,0,.any⟩, ⟨61,34,.rw,0,.any⟩, ⟨33,0,.rsv,0,.any⟩]

/-- Field map of TelemetryHostRing (R369, spec/15_events_telemetry.md). -/
def fieldsTelemetryHostRing : List FieldInfo :=
  [⟨255,255,.rw,0,.any⟩, ⟨254,253,.rw,0,.any⟩, ⟨252,248,.rw,0,.rngEn 12 26⟩, ⟨247,243,.rw,0,.rngEn 1 16⟩,
   ⟨242,191,.rw,0,.any⟩, ⟨190,130,.rw,0,.any⟩, ⟨129,124,.rw,0,.any⟩, ⟨123,108,.rw,0,.any⟩, ⟨107,0,.rsv,0,.any⟩]

/-- Field map of TelemetryHostIndex (R369, spec/15_events_telemetry.md). -/
def fieldsTelemetryHostIndex : List FieldInfo :=
  [⟨63,32,.r,0,.any⟩, ⟨31,0,.rw,0,.any⟩]

/-- Field map of ZoaCredential (R388, spec/16_security_lifecycle.md). -/
def fieldsZoaCredential : List FieldInfo :=
  [⟨447,447,.rw,0,.any⟩, ⟨446,444,.rw,0,.any⟩, ⟨443,443,.rw,0,.any⟩, ⟨442,439,.rw,0,.any⟩,
   ⟨438,384,.rsv,0,.any⟩, ⟨383,0,.rw,0,.any⟩]

/-- Field map of TenantKey (R388, spec/16_security_lifecycle.md). -/
def fieldsTenantKey : List FieldInfo :=
  [⟨263,263,.w,0,.any⟩, ⟨262,256,.rsv,0,.any⟩, ⟨255,0,.w,0,.any⟩]

/-- Field map of TenantKeyStatus (R388, spec/16_security_lifecycle.md). -/
def fieldsTenantKeyStatus : List FieldInfo :=
  [⟨7,7,.r,0,.any⟩, ⟨6,4,.r,0,.any⟩, ⟨3,0,.rsv,0,.any⟩]

/-- Field map of WipeStatus (R388, spec/16_security_lifecycle.md). -/
def fieldsWipeStatus : List FieldInfo :=
  [⟨63,63,.r,0,.any⟩, ⟨62,62,.r,0,.any⟩, ⟨61,61,.r,0,.any⟩, ⟨60,60,.r,0,.any⟩, ⟨59,59,.r,0,.any⟩,
   ⟨58,55,.r,0,.any⟩, ⟨54,32,.rsv,0,.any⟩, ⟨31,0,.r,0,.any⟩]

/-- Field map of AuditLog (R388, spec/16_security_lifecycle.md). -/
def fieldsAuditLog : List FieldInfo :=
  [⟨511,448,.r,0,.any⟩, ⟨447,440,.r,0,.any⟩, ⟨439,424,.r,0,.any⟩, ⟨423,421,.r,0,.any⟩, ⟨420,413,.r,0,.any⟩,
   ⟨412,393,.r,0,.any⟩, ⟨392,361,.r,0,.any⟩, ⟨360,353,.r,0,.any⟩, ⟨352,289,.r,0,.any⟩, ⟨288,0,.rsv,0,.any⟩]

/-- Field map of FwSlotStatus (R407, spec/17_firmware_update.md). -/
def fieldsFwSlotStatus : List FieldInfo :=
  [⟨63,61,.r,0,.any⟩, ⟨60,60,.r,0,.any⟩, ⟨59,59,.r,0,.any⟩, ⟨58,58,.r,0,.any⟩, ⟨57,48,.rsv,0,.any⟩,
   ⟨47,32,.r,0,.any⟩, ⟨31,0,.r,0,.any⟩]

/-- Field map of FwStagedLoad (R407, spec/17_firmware_update.md). -/
def fieldsFwStagedLoad : List FieldInfo :=
  [⟨63,32,.rw,0,.any⟩, ⟨31,31,.rw,0,.any⟩, ⟨30,0,.rsv,0,.any⟩]

/-- Field map of FwLoadStatus (R407, spec/17_firmware_update.md). -/
def fieldsFwLoadStatus : List FieldInfo :=
  [⟨63,61,.r,0,.any⟩, ⟨60,59,.r,0,.any⟩, ⟨58,51,.r,0,.any⟩, ⟨50,35,.r,0,.any⟩, ⟨34,0,.r,0,.any⟩]

/-- Field map of FwActivationStatus (R407, spec/17_firmware_update.md). -/
def fieldsFwActivationStatus : List FieldInfo :=
  [⟨127,125,.r,0,.any⟩, ⟨124,124,.r,0,.any⟩, ⟨123,121,.r,0,.any⟩, ⟨120,80,.rsv,0,.any⟩, ⟨79,0,.r,0,.any⟩]

/-- Field map of PowerRailStatus (R425, spec/18_power_board_services.md). -/
def fieldsPowerRailStatus : List FieldInfo :=
  [⟨63,48,.r,0,.any⟩, ⟨47,32,.r,0,.any⟩, ⟨31,31,.r,0,.any⟩, ⟨30,30,.r,0,.any⟩, ⟨29,0,.rsv,0,.any⟩]

/-- Field map of PowerNvGuard (R425, spec/18_power_board_services.md). -/
def fieldsPowerNvGuard : List FieldInfo :=
  [⟨63,63,.r,0,.any⟩, ⟨62,62,.r,0,.any⟩, ⟨61,58,.r,0,.any⟩, ⟨57,32,.rsv,0,.any⟩, ⟨31,0,.r,0,.any⟩]

/-- Field map of PowerNvJournal (R425, spec/18_power_board_services.md). -/
def fieldsPowerNvJournal : List FieldInfo :=
  [⟨63,32,.r,0,.any⟩, ⟨31,16,.r,0,.any⟩, ⟨15,0,.rsv,0,.any⟩]

/-- Field map of PowerBrownout (R425, spec/18_power_board_services.md). -/
def fieldsPowerBrownout : List FieldInfo :=
  [⟨63,32,.r,0,.any⟩, ⟨31,28,.r,0,.any⟩, ⟨27,0,.rsv,0,.any⟩]

/-- Field map of PowerSequence (R425, spec/18_power_board_services.md). -/
def fieldsPowerSequence : List FieldInfo :=
  [⟨63,63,.r,0,.any⟩, ⟨62,59,.r,0,.any⟩, ⟨58,0,.rsv,0,.any⟩]

/-- Field map of SideboardChannel (R425, spec/18_power_board_services.md). -/
def fieldsSideboardChannel : List FieldInfo :=
  [⟨95,95,.rw,0,.any⟩, ⟨94,84,.rsv,0,.any⟩, ⟨83,72,.rw,0,.any⟩, ⟨71,60,.rw,4095,.any⟩, ⟨59,28,.rw,65536,.any⟩,
   ⟨27,0,.rw,0,.any⟩]

/-- Field map of SideboardSequence (R425, spec/18_power_board_services.md). -/
def fieldsSideboardSequence : List FieldInfo :=
  [⟨71,68,.rw,0,.any⟩, ⟨67,64,.rsv,0,.any⟩, ⟨63,60,.rw,0,.any⟩, ⟨59,56,.rw,0,.any⟩, ⟨55,52,.rw,0,.any⟩,
   ⟨51,48,.rw,0,.any⟩, ⟨47,44,.rw,0,.any⟩, ⟨43,40,.rw,0,.any⟩, ⟨39,36,.rw,0,.any⟩, ⟨35,32,.rw,0,.any⟩,
   ⟨31,28,.rw,0,.any⟩, ⟨27,24,.rw,0,.any⟩, ⟨23,20,.rw,0,.any⟩, ⟨19,16,.rw,0,.any⟩, ⟨15,12,.rw,0,.any⟩,
   ⟨11,8,.rw,0,.any⟩, ⟨7,4,.rw,0,.any⟩, ⟨3,0,.rw,0,.any⟩]

/-- Field map of SideboardResult (R425, spec/18_power_board_services.md). -/
def fieldsSideboardResult : List FieldInfo :=
  [⟨127,116,.r,0,.any⟩, ⟨115,84,.r,0,.any⟩, ⟨83,64,.rsv,0,.any⟩, ⟨63,0,.r,0,.any⟩]

/-- Field map of FanConfig (R425, spec/18_power_board_services.md). -/
def fieldsFanConfig : List FieldInfo :=
  [⟨63,47,.rw,25000,.rng 1000 100000⟩, ⟨46,36,.rw,1024,.rng 0 1024⟩, ⟨35,31,.rw,16,.rng 0 16⟩,
   ⟨30,29,.rw,1,.any⟩, ⟨28,12,.rw,0,.any⟩, ⟨11,0,.rsv,0,.any⟩]

/-- Field map of FanStatus (R425, spec/18_power_board_services.md). -/
def fieldsFanStatus : List FieldInfo :=
  [⟨31,31,.r,0,.any⟩, ⟨30,30,.r,0,.any⟩, ⟨29,11,.r,0,.any⟩, ⟨10,0,.r,0,.any⟩]

/-- Field map of GpioConfig (R425, spec/18_power_board_services.md). -/
def fieldsGpioConfig : List FieldInfo :=
  [⟨15,14,.rw,0,.any⟩, ⟨13,13,.rw,0,.any⟩, ⟨12,12,.rw,0,.any⟩, ⟨11,10,.rw,0,.any⟩, ⟨9,8,.rsv,0,.any⟩,
   ⟨7,0,.rw,0,.any⟩]

def catalog0 : List ObjInfo :=
  [⟨0x00000, 3, 3, 31, 0, 2, 0, 4, 0, 0, .any, []⟩,
   ⟨0x00001, 19, 19, 31, 0, 2, 0, 8, 0, 0, .any, fieldsPartIdentity⟩,
   ⟨0x00002, 4, 4, 31, 0, 2, 0, 8, 0, 0, .any, []⟩,
   ⟨0x00100, 20, 19, 31, 0, 2, 0, 8, 1048576, 0, .any, fieldsDirectory⟩,
   ⟨0x00200, 1, 1, 0, 30, 0, 1, 1, 0, 0, .rng 1 1, []⟩,
   ⟨0x00201, 11, 11, 0, 30, 0, 1, 10, 0, 0, .any, []⟩,
   ⟨0x00202, 1, 1, 0, 30, 0, 1, 1, 0, 0, .rng 1 1, []⟩,
   ⟨0x00203, 19, 19, 31, 0, 0, 0, 8, 0, 0, .any, fieldsTxnStatus⟩,
   ⟨0x00204, 3, 3, 15, 12, 1, 1, 4, 0, 100, .rng 1 10000, []⟩,
   ⟨0x00205, 3, 3, 15, 12, 1, 1, 4, 0, 300, .rng 10 86400, []⟩,
   ⟨0x00206, 1, 1, 31, 0, 0, 0, 1, 0, 0, .any, []⟩,
   ⟨0x00210, 3, 3, 31, 0, 0, 0, 4, 0, 0, .any, []⟩,
   ⟨0x00211, 3, 3, 31, 0, 0, 0, 4, 0, 0, .any, []⟩,
   ⟨0x00212, 1, 1, 31, 0, 0, 0, 1, 0, 1, .any, []⟩,
   ⟨0x00213, 3, 3, 31, 0, 0, 0, 4, 0, 11000, .any, []⟩,
   ⟨0x00214, 3, 3, 31, 0, 0, 0, 4, 0, 0, .any, []⟩,
   ⟨0x00215, 3, 3, 31, 0, 0, 0, 4, 0, 0, .any, []⟩,
   ⟨0x00220, 3, 3, 15, 12, 1, 1, 4, 0, 10000, .rng 100 600000, []⟩,
   ⟨0x00221, 1, 1, 31, 0, 0, 0, 1, 0, 0, .any, []⟩,
   ⟨0x00300, 2, 2, 15, 8, 1, 6, 2, 0, 46301, .rng 1024 65535, []⟩,
   ⟨0x00301, 7, 7, 15, 8, 1, 1, 1, 0, 0, .any, []⟩,
   ⟨0x00302, 1, 1, 31, 0, 0, 0, 1, 0, 0, .any, []⟩,
   ⟨0x00303, 4, 4, 31, 0, 0, 0, 8, 0, 0, .any, []⟩,
   ⟨0x00304, 4, 4, 31, 0, 0, 0, 8, 0, 0, .any, []⟩]

def catalog1 : List ObjInfo :=
  [⟨0x00310, 20, 19, 15, 12, 1, 2, 24, 3, 0, .any, fieldsNetAddress⟩,
   ⟨0x00320, 7, 7, 15, 8, 1, 2, 1, 0, 0, .any, []⟩,
   ⟨0x00321, 1, 1, 15, 12, 1, 2, 1, 0, 0, .rng 0 127, []⟩,
   ⟨0x00400, 8, 8, 15, 8, 1, 1, 1, 0, 2, .rng 1 5, []⟩,
   ⟨0x00401, 19, 19, 31, 0, 0, 0, 8, 0, 0, .any, fieldsBarLastStatus⟩,
   ⟨0x00402, 3, 3, 31, 0, 0, 0, 4, 0, 0, .any, []⟩,
   ⟨0x01000, 8, 8, 31, 0, 1, 0, 1, 0, 0, .any, []⟩,
   ⟨0x01001, 8, 8, 0, 8, 0, 1, 1, 0, 0, .any, []⟩,
   ⟨0x01002, 19, 19, 31, 0, 0, 0, 8, 0, 0, .any, fieldsLifeCycleStatus⟩,
   ⟨0x01100, 9, 9, 31, 0, 0, 0, 4, 0, 0, .any, []⟩,
   ⟨0x01101, 4, 4, 31, 0, 0, 0, 8, 0, 0, .any, []⟩,
   ⟨0x01102, 3, 3, 31, 0, 0, 0, 4, 0, 0, .any, []⟩,
   ⟨0x01103, 4, 4, 31, 0, 0, 0, 8, 0, 0, .any, []⟩,
   ⟨0x01200, 2, 2, 31, 0, 0, 0, 2, 0, 0, .any, []⟩,
   ⟨0x01201, 2, 2, 15, 12, 0, 1, 2, 0, 0, .rng 0 0, []⟩,
   ⟨0x01202, 4, 4, 31, 0, 0, 0, 8, 0, 0, .any, []⟩,
   ⟨0x01203, 4, 4, 31, 0, 0, 0, 8, 0, 0, .any, []⟩,
   ⟨0x01204, 3, 3, 31, 0, 0, 0, 4, 0, 0, .any, []⟩,
   ⟨0x01210, 4, 4, 31, 0, 0, 0, 8, 0, 0, .any, []⟩,
   ⟨0x01211, 3, 3, 31, 0, 0, 0, 4, 0, 0, .any, []⟩,
   ⟨0x01220, 3, 3, 31, 0, 0, 0, 4, 0, 0, .any, []⟩,
   ⟨0x01221, 7, 7, 31, 0, 0, 0, 1, 0, 0, .any, []⟩,
   ⟨0x01300, 9, 9, 31, 0, 0, 0, 4, 0, 0, .any, []⟩,
   ⟨0x01301, 20, 3, 31, 0, 0, 0, 4, 6, 0, .any, []⟩]

def catalog2 : List ObjInfo :=
  [⟨0x01310, 19, 19, 31, 0, 0, 0, 8, 0, 0, .any, fieldsResetCause⟩,
   ⟨0x01311, 3, 3, 31, 0, 1, 0, 4, 0, 0, .any, []⟩,
   ⟨0x01320, 20, 1, 0, 12, 0, 1, 1, 147, 0, .rng 1 1, []⟩,
   ⟨0x01321, 20, 7, 31, 0, 0, 0, 1, 147, 0, .any, []⟩,
   ⟨0x01330, 20, 19, 31, 0, 0, 0, 8, 150, 0, .any, fieldsCrossingLoss⟩,
   ⟨0x01400, 19, 19, 31, 0, 0, 0, 8, 0, 0, .any, fieldsBringUpStatus⟩,
   ⟨0x01401, 20, 3, 31, 0, 0, 0, 4, 10, 0, .any, []⟩,
   ⟨0x01402, 7, 7, 15, 12, 1, 1, 1, 0, 1, .any, []⟩,
   ⟨0x01403, 1, 1, 0, 14, 0, 1, 1, 0, 0, .rng 1 1, []⟩,
   ⟨0x01404, 3, 3, 15, 12, 1, 1, 4, 0, 2000, .rng 0 60000, []⟩,
   ⟨0x01405, 3, 3, 31, 0, 0, 0, 4, 0, 0, .any, []⟩,
   ⟨0x01406, 3, 3, 31, 0, 0, 0, 4, 0, 0, .any, []⟩,
   ⟨0x04000, 11, 11, 31, 0, 0, 0, 10, 0, 0, .any, []⟩,
   ⟨0x04001, 8, 8, 31, 0, 0, 0, 1, 0, 0, .any, []⟩,
   ⟨0x04002, 8, 8, 15, 14, 1, 2, 1, 0, 0, .rng 0 1, []⟩,
   ⟨0x04003, 3, 3, 15, 12, 1, 1, 4, 0, 10000, .rng 1000 200000, []⟩,
   ⟨0x04004, 3, 3, 15, 12, 1, 1, 4, 0, 1000, .rng 100 100000, []⟩,
   ⟨0x04005, 3, 3, 15, 12, 1, 1, 4, 0, 1000, .rng 100 1000000000, []⟩,
   ⟨0x04006, 3, 3, 15, 12, 1, 1, 4, 0, 100, .rng 10 100000, []⟩,
   ⟨0x04007, 3, 3, 15, 12, 1, 1, 4, 0, 2000, .rng 100 60000, []⟩,
   ⟨0x04008, 12, 12, 31, 0, 0, 0, 8, 0, 0, .any, []⟩,
   ⟨0x04009, 1, 1, 0, 12, 0, 1, 1, 0, 0, .rng 1 1, []⟩,
   ⟨0x0400A, 7, 7, 15, 14, 1, 1, 1, 0, 1, .any, []⟩,
   ⟨0x0400B, 11, 11, 0, 12, 0, 1, 10, 0, 0, .any, []⟩]

def catalog3 : List ObjInfo :=
  [⟨0x0400C, 3, 3, 31, 0, 0, 0, 4, 0, 0, .any, []⟩,
   ⟨0x0400D, 12, 12, 31, 0, 0, 0, 8, 0, 0, .any, []⟩,
   ⟨0x0400E, 4, 4, 15, 12, 1, 1, 8, 0, 1374389534720, .any, []⟩,
   ⟨0x0400F, 12, 12, 31, 0, 0, 0, 8, 0, 0, .any, []⟩,
   ⟨0x04010, 11, 11, 15, 14, 0, 1, 10, 0, 0, .any, []⟩,
   ⟨0x04011, 4, 4, 15, 14, 0, 1, 8, 0, 1374389534720, .any, []⟩,
   ⟨0x04012, 12, 12, 0, 14, 0, 1, 8, 0, 0, .srng 65536000000000 64, []⟩,
   ⟨0x04013, 8, 8, 15, 14, 1, 2, 1, 0, 0, .rng 0 3, []⟩,
   ⟨0x04014, 1, 1, 15, 14, 1, 2, 1, 0, 0, .rng 0 127, []⟩,
   ⟨0x04015, 1, 1, 15, 14, 1, 2, 1, 0, 0, .any, []⟩,
   ⟨0x04016, 7, 7, 15, 14, 0, 1, 1, 0, 0, .any, []⟩,
   ⟨0x04017, 12, 12, 15, 14, 1, 1, 8, 0, 0, .any, []⟩,
   ⟨0x04018, 3, 3, 31, 0, 0, 0, 4, 0, 0, .any, []⟩,
   ⟨0x04019, 12, 12, 31, 0, 0, 0, 8, 0, 0, .any, []⟩,
   ⟨0x0401A, 3, 3, 15, 14, 1, 1, 4, 0, 3000, .rng 100 60000, []⟩,
   ⟨0x04020, 11, 11, 15, 14, 0, 1, 10, 0, 0, .any, []⟩,
   ⟨0x04021, 4, 4, 15, 14, 0, 1, 8, 0, 1374389534720, .any, []⟩,
   ⟨0x04022, 12, 12, 0, 14, 0, 1, 8, 0, 0, .srng 65536000000000 64, []⟩,
   ⟨0x04023, 8, 8, 15, 14, 1, 2, 1, 0, 0, .rng 0 3, []⟩,
   ⟨0x04024, 1, 1, 15, 14, 1, 2, 1, 0, 0, .rng 0 127, []⟩,
   ⟨0x04025, 1, 1, 15, 14, 1, 2, 1, 0, 0, .any, []⟩,
   ⟨0x04026, 7, 7, 15, 14, 0, 1, 1, 0, 0, .any, []⟩,
   ⟨0x04027, 12, 12, 15, 14, 1, 1, 8, 0, 0, .any, []⟩,
   ⟨0x04028, 3, 3, 31, 0, 0, 0, 4, 0, 0, .any, []⟩]

def catalog4 : List ObjInfo :=
  [⟨0x04029, 12, 12, 31, 0, 0, 0, 8, 0, 0, .any, []⟩,
   ⟨0x0402A, 3, 3, 15, 14, 1, 1, 4, 0, 3000, .rng 100 60000, []⟩,
   ⟨0x0402B, 3, 3, 15, 14, 1, 1, 4, 0, 1000, .rng 10 1000000000, []⟩,
   ⟨0x04030, 8, 8, 15, 14, 1, 1, 1, 0, 0, .rng 0 1, []⟩,
   ⟨0x04031, 3, 3, 15, 14, 1, 1, 4, 0, 0, .any, []⟩,
   ⟨0x04050, 20, 19, 15, 14, 1, 2, 8, 128, 0, .any, fieldsTcPort⟩,
   ⟨0x04051, 4, 4, 31, 0, 0, 0, 8, 0, 0, .any, []⟩,
   ⟨0x04100, 20, 19, 15, 14, 1, 1, 32, 12, 0, .any, fieldsTimeTrigger⟩,
   ⟨0x04200, 20, 19, 15, 14, 1, 1, 1, 9, 0, .any, fieldsTimeCaptureConfig⟩,
   ⟨0x04201, 21, 19, 31, 0, 0, 0, 16, 4096, 0, .any, fieldsTimeCaptureLog⟩,
   ⟨0x04202, 3, 3, 31, 0, 0, 0, 4, 0, 0, .any, []⟩,
   ⟨0x04300, 19, 19, 15, 14, 1, 1, 8, 0, 0, .any, fieldsPpsOutConfig⟩,
   ⟨0x04301, 12, 12, 15, 14, 1, 1, 8, 0, 0, .srng 65536000000 64, []⟩,
   ⟨0x04400, 20, 19, 15, 14, 1, 2, 4, 2, 0, .any, fieldsSyncEClock⟩,
   ⟨0x08000, 20, 19, 15, 12, 1, 2, 16, 256, 0, .any, fieldsParseNode⟩,
   ⟨0x08001, 20, 19, 15, 12, 1, 2, 12, 16384, 0, .any, fieldsParseTransition⟩,
   ⟨0x08002, 20, 19, 15, 12, 1, 2, 4, 4096, 0, .any, fieldsParseCopy⟩,
   ⟨0x08003, 20, 19, 15, 12, 1, 2, 8, 64, 0, .any, fieldsParseLengthRule⟩,
   ⟨0x08004, 20, 19, 15, 12, 1, 2, 16, 16, 0, .any, fieldsParseHashProfile⟩,
   ⟨0x08005, 20, 19, 15, 12, 1, 2, 1, 130, 0, .any, fieldsParseStart⟩,
   ⟨0x08006, 2, 2, 15, 12, 1, 2, 2, 0, 65535, .any, []⟩,
   ⟨0x08007, 1, 1, 0, 12, 0, 2, 1, 0, 0, .rng 1 1, []⟩,
   ⟨0x08010, 1, 1, 31, 0, 0, 0, 1, 0, 0, .any, []⟩,
   ⟨0x08011, 3, 3, 31, 0, 0, 0, 4, 0, 0, .any, []⟩]

def catalog5 : List ObjInfo :=
  [⟨0x08012, 3, 3, 31, 0, 0, 0, 4, 0, 0, .any, []⟩,
   ⟨0x08020, 4, 4, 31, 0, 0, 0, 8, 0, 0, .any, []⟩,
   ⟨0x08021, 4, 4, 31, 0, 0, 0, 8, 0, 0, .any, []⟩,
   ⟨0x08022, 4, 4, 31, 0, 0, 0, 8, 0, 0, .any, []⟩,
   ⟨0x08023, 4, 4, 31, 0, 0, 0, 8, 0, 0, .any, []⟩,
   ⟨0x08024, 19, 19, 31, 0, 0, 0, 8, 0, 0, .any, fieldsParseLastFail⟩,
   ⟨0x0C000, 20, 19, 15, 12, 1, 2, 8, 16, 0, .any, fieldsLookupProfile⟩,
   ⟨0x0C010, 3, 3, 31, 0, 2, 0, 4, 0, 1780304935, .any, []⟩,
   ⟨0x0C011, 3, 3, 31, 0, 2, 0, 4, 0, 999481589, .any, []⟩,
   ⟨0x0C012, 3, 3, 31, 0, 2, 0, 4, 0, 3564210748, .any, []⟩,
   ⟨0x0C100, 20, 19, 14, 14, 0, 2, 36, 1048576, 0, .any, fieldsRouteUpdate⟩,
   ⟨0x0C101, 20, 19, 31, 0, 0, 0, 36, 4718592, 0, .any, fieldsRouteTable⟩,
   ⟨0x0C102, 19, 19, 15, 14, 0, 1, 36, 0, 0, .any, fieldsRouteTable⟩,
   ⟨0x0C103, 20, 19, 15, 14, 0, 2, 4, 131072, 3221225472, .any, fieldsRouteDefault⟩,
   ⟨0x0C110, 3, 3, 31, 0, 0, 0, 4, 0, 0, .any, []⟩,
   ⟨0x0C111, 3, 3, 31, 0, 2, 0, 4, 0, 4194304, .any, []⟩,
   ⟨0x0C112, 20, 3, 31, 0, 0, 0, 4, 161, 0, .any, []⟩,
   ⟨0x0C113, 20, 4, 31, 0, 0, 0, 8, 8, 0, .any, []⟩,
   ⟨0x0C114, 3, 3, 31, 0, 0, 0, 4, 0, 0, .any, []⟩,
   ⟨0x0C115, 3, 3, 31, 0, 0, 0, 4, 0, 0, .any, []⟩,
   ⟨0x0C116, 3, 3, 31, 0, 0, 0, 4, 0, 0, .any, []⟩,
   ⟨0x0C117, 4, 4, 31, 0, 0, 0, 8, 0, 0, .any, []⟩,
   ⟨0x0C800, 20, 19, 15, 12, 1, 2, 56, 16, 0, .any, fieldsExactKeyProfile⟩,
   ⟨0x0C801, 3, 3, 31, 0, 2, 0, 4, 0, 240957073, .any, []⟩]

def catalog6 : List ObjInfo :=
  [⟨0x0C802, 3, 3, 31, 0, 2, 0, 4, 0, 2401702874, .any, []⟩,
   ⟨0x0C900, 20, 19, 14, 14, 0, 2, 68, 524288, 0, .any, fieldsExactUpdate⟩,
   ⟨0x0C901, 20, 19, 31, 0, 0, 0, 68, 2113536, 0, .any, fieldsExactUpdate⟩,
   ⟨0x0C902, 19, 19, 15, 14, 0, 1, 68, 0, 0, .any, fieldsExactUpdate⟩,
   ⟨0x0C910, 3, 3, 31, 0, 0, 0, 4, 0, 0, .any, []⟩,
   ⟨0x0C911, 2, 2, 31, 0, 0, 0, 2, 0, 0, .any, []⟩,
   ⟨0x0C912, 3, 3, 31, 0, 0, 0, 4, 0, 0, .any, []⟩,
   ⟨0x0C913, 4, 4, 31, 0, 0, 0, 8, 0, 0, .any, []⟩,
   ⟨0x0CA00, 3, 3, 15, 14, 1, 2, 4, 0, 1000, .rng 10 60000, []⟩,
   ⟨0x0CA01, 2, 2, 31, 0, 0, 0, 2, 0, 0, .any, []⟩,
   ⟨0x0CA02, 7, 7, 15, 14, 1, 2, 1, 0, 1, .any, []⟩,
   ⟨0x0CA03, 4, 4, 31, 0, 0, 0, 8, 0, 0, .any, []⟩,
   ⟨0x0CB00, 3, 3, 15, 14, 1, 2, 4, 0, 1000000, .rng 1000 4000000, []⟩,
   ⟨0x0CB01, 4, 4, 31, 0, 0, 0, 8, 0, 0, .any, []⟩,
   ⟨0x0CB02, 4, 4, 31, 0, 0, 0, 8, 0, 0, .any, []⟩,
   ⟨0x0CB03, 3, 3, 15, 14, 1, 2, 4, 0, 1000, .rng 10 60000, []⟩,
   ⟨0x0CB04, 4, 4, 31, 0, 0, 0, 8, 0, 0, .any, []⟩,
   ⟨0x10000, 20, 19, 15, 12, 1, 2, 32, 16, 0, .any, fieldsRangeProfile⟩,
   ⟨0x10001, 20, 19, 14, 14, 0, 2, 120, 131072, 0, .any, fieldsRangeUpdate⟩,
   ⟨0x10002, 20, 19, 31, 0, 0, 0, 120, 131072, 0, .any, fieldsRangeRule⟩,
   ⟨0x10003, 20, 19, 0, 4, 0, 2, 120, 131072, 0, .any, fieldsRangeDirect⟩,
   ⟨0x10004, 19, 19, 14, 14, 0, 1, 64, 0, 0, .any, fieldsRangeSearch⟩,
   ⟨0x10005, 1, 1, 0, 14, 0, 1, 1, 0, 0, .rng 1 1, []⟩,
   ⟨0x10010, 3, 3, 31, 0, 0, 0, 4, 0, 0, .any, []⟩]

def catalog7 : List ObjInfo :=
  [⟨0x10011, 3, 3, 31, 0, 2, 0, 4, 0, 147456, .any, []⟩,
   ⟨0x10012, 3, 3, 31, 0, 0, 0, 4, 0, 0, .any, []⟩,
   ⟨0x10013, 3, 3, 31, 0, 0, 0, 4, 0, 0, .any, []⟩,
   ⟨0x10020, 4, 4, 31, 0, 0, 0, 8, 0, 0, .any, []⟩,
   ⟨0x10021, 4, 4, 31, 0, 0, 0, 8, 0, 0, .any, []⟩,
   ⟨0x10022, 4, 4, 31, 0, 0, 0, 8, 0, 0, .any, []⟩,
   ⟨0x10023, 4, 4, 31, 0, 0, 0, 8, 0, 0, .any, []⟩,
   ⟨0x10024, 3, 3, 31, 0, 0, 0, 4, 0, 0, .any, []⟩,
   ⟨0x14000, 20, 19, 15, 14, 0, 2, 32, 262144, 0, .any, fieldsActionSet⟩,
   ⟨0x14100, 20, 19, 15, 14, 0, 2, 8, 524288, 0, .any, fieldsNextHop⟩,
   ⟨0x14101, 20, 19, 15, 14, 0, 2, 4, 32768, 0, .any, fieldsEcmpGroup⟩,
   ⟨0x14102, 20, 3, 15, 14, 0, 2, 4, 524288, 0, .any, []⟩,
   ⟨0x14200, 20, 19, 15, 14, 0, 2, 128, 65536, 0, .any, fieldsEditList⟩,
   ⟨0x14300, 20, 2, 15, 14, 1, 2, 2, 2048, 9216, .rng 64 9216, []⟩,
   ⟨0x14400, 3, 3, 15, 14, 1, 2, 4, 0, 0, .rng 0 524280, []⟩,
   ⟨0x14401, 4, 4, 31, 0, 0, 0, 8, 0, 0, .any, []⟩,
   ⟨0x14402, 4, 4, 31, 0, 0, 0, 8, 0, 0, .any, []⟩,
   ⟨0x14500, 20, 19, 15, 14, 1, 2, 32, 16384, 0, .any, fieldsStreamReplicate⟩,
   ⟨0x14501, 20, 19, 15, 14, 1, 2, 8, 16384, 0, .any, fieldsStreamRecovery⟩,
   ⟨0x14502, 20, 19, 31, 0, 0, 0, 40, 16384, 0, .any, fieldsStreamRecoveryCount⟩,
   ⟨0x14600, 20, 19, 15, 14, 1, 2, 8, 64, 0, .any, fieldsPuntReason⟩,
   ⟨0x14601, 20, 19, 31, 0, 0, 0, 16, 64, 0, .any, fieldsPuntCount⟩,
   ⟨0x14700, 20, 19, 15, 14, 1, 2, 8, 16, 0, .any, fieldsMirrorSession⟩,
   ⟨0x14701, 20, 19, 15, 14, 1, 2, 4, 16, 0, .any, fieldsSampler⟩]

def catalog8 : List ObjInfo :=
  [⟨0x14702, 9, 9, 15, 8, 1, 2, 4, 0, 0, .any, []⟩,
   ⟨0x14703, 4, 4, 31, 0, 0, 0, 8, 0, 0, .any, []⟩,
   ⟨0x14800, 4, 4, 31, 0, 0, 0, 8, 0, 0, .any, []⟩,
   ⟨0x14801, 4, 4, 31, 0, 0, 0, 8, 0, 0, .any, []⟩,
   ⟨0x14802, 4, 4, 31, 0, 0, 0, 8, 0, 0, .any, []⟩,
   ⟨0x14803, 4, 4, 31, 0, 0, 0, 8, 0, 0, .any, []⟩,
   ⟨0x14804, 4, 4, 31, 0, 0, 0, 8, 0, 0, .any, []⟩,
   ⟨0x15000, 20, 19, 15, 14, 1, 2, 24, 1048576, 0, .any, fieldsMeter⟩,
   ⟨0x15001, 20, 19, 31, 0, 0, 0, 24, 1048576, 0, .any, fieldsMeterColourCount⟩,
   ⟨0x15002, 4, 4, 31, 0, 0, 0, 8, 0, 0, .any, []⟩,
   ⟨0x18000, 20, 19, 15, 14, 1, 2, 16, 1024, 0, .any, fieldsBufferProfile⟩,
   ⟨0x18001, 20, 2, 15, 14, 1, 2, 2, 524288, 32768, .any, fieldsQueueBuffer⟩,
   ⟨0x18002, 20, 3, 15, 14, 1, 2, 4, 1280, 65536, .rng 0 524288, []⟩,
   ⟨0x18003, 3, 3, 15, 12, 1, 2, 4, 0, 16384, .rng 0 65536, []⟩,
   ⟨0x18004, 20, 3, 15, 14, 1, 1, 4, 8, 10000, .rng 100 20000, []⟩,
   ⟨0x18005, 3, 3, 0, 12, 0, 1, 4, 0, 0, .rng 0 524287, []⟩,
   ⟨0x18010, 3, 3, 31, 0, 0, 0, 4, 0, 524288, .any, []⟩,
   ⟨0x18011, 3, 3, 31, 0, 0, 0, 4, 0, 2097152, .any, []⟩,
   ⟨0x18012, 20, 3, 31, 0, 0, 0, 4, 1280, 0, .any, []⟩,
   ⟨0x18013, 20, 19, 31, 0, 0, 0, 8, 524288, 0, .any, fieldsQueueDepth⟩,
   ⟨0x18014, 20, 19, 31, 0, 0, 0, 48, 524288, 0, .any, fieldsQueueCounters⟩,
   ⟨0x18015, 20, 4, 31, 0, 0, 0, 8, 9, 0, .any, []⟩,
   ⟨0x18016, 20, 4, 31, 0, 0, 0, 8, 8, 0, .any, []⟩,
   ⟨0x18100, 13, 13, 31, 0, 2, 0, 8, 0, 1400000000000, .any, []⟩]

def catalog9 : List ObjInfo :=
  [⟨0x18101, 3, 3, 31, 0, 2, 0, 4, 0, 6815744, .any, []⟩,
   ⟨0x18102, 3, 3, 31, 0, 0, 0, 4, 0, 0, .any, []⟩,
   ⟨0x18103, 3, 3, 31, 0, 0, 0, 4, 0, 0, .any, []⟩,
   ⟨0x18104, 4, 4, 31, 0, 0, 0, 8, 0, 0, .any, []⟩,
   ⟨0x18105, 4, 4, 31, 0, 0, 0, 8, 0, 0, .any, []⟩,
   ⟨0x18106, 4, 4, 31, 0, 0, 0, 8, 0, 0, .any, []⟩,
   ⟨0x18107, 4, 4, 31, 0, 0, 0, 8, 0, 0, .any, []⟩,
   ⟨0x18108, 7, 7, 31, 0, 0, 0, 1, 0, 0, .any, []⟩,
   ⟨0x18109, 4, 4, 31, 0, 0, 0, 8, 0, 0, .any, []⟩,
   ⟨0x18800, 20, 19, 31, 0, 0, 0, 16, 4, 0, .any, fieldsShelfPool⟩,
   ⟨0x18801, 20, 4, 31, 0, 0, 0, 8, 4, 0, .any, []⟩,
   ⟨0x18802, 20, 4, 31, 0, 0, 0, 8, 4, 0, .any, []⟩,
   ⟨0x18803, 19, 19, 31, 0, 0, 0, 8, 0, 0, .any, fieldsShelfLastReject⟩,
   ⟨0x20000, 20, 19, 15, 14, 1, 4, 32, 160, 0, .any, fieldsSchedPort⟩,
   ⟨0x20001, 20, 19, 15, 14, 1, 4, 32, 4096, 0, .any, fieldsSchedL1⟩,
   ⟨0x20002, 20, 19, 15, 14, 1, 4, 32, 32768, 0, .any, fieldsSchedL1⟩,
   ⟨0x20003, 20, 19, 15, 14, 1, 4, 32, 131072, 0, .any, fieldsSchedL1⟩,
   ⟨0x20004, 20, 19, 15, 14, 1, 4, 32, 524288, 0, .any, fieldsSchedL1⟩,
   ⟨0x20010, 19, 19, 15, 14, 0, 1, 32, 0, 0, .any, fieldsSchedNodeQuery⟩,
   ⟨0x20011, 4, 4, 31, 0, 0, 0, 8, 0, 0, .any, []⟩,
   ⟨0x20100, 4, 4, 31, 0, 0, 0, 8, 0, 0, .any, []⟩,
   ⟨0x20101, 4, 4, 31, 0, 0, 0, 8, 0, 0, .any, []⟩,
   ⟨0x21000, 20, 19, 15, 14, 1, 2, 32, 128, 0, .any, fieldsGateConfig⟩,
   ⟨0x21001, 20, 19, 15, 14, 1, 2, 8, 131072, 0, .any, fieldsGateAdminList⟩]

def catalog10 : List ObjInfo :=
  [⟨0x21002, 20, 19, 31, 0, 0, 0, 8, 131072, 0, .any, fieldsGateOperList⟩,
   ⟨0x21003, 20, 1, 0, 14, 0, 5, 1, 128, 0, .rng 1 1, []⟩,
   ⟨0x21004, 20, 19, 31, 0, 0, 0, 32, 128, 0, .any, fieldsGateStatus⟩,
   ⟨0x21005, 3, 3, 31, 0, 0, 0, 4, 0, 0, .any, []⟩,
   ⟨0x22000, 20, 19, 15, 14, 1, 2, 8, 128, 0, .any, fieldsLaunchPort⟩,
   ⟨0x22001, 20, 19, 31, 0, 0, 0, 32, 128, 0, .any, fieldsLaunchCounters⟩,
   ⟨0x30000, 1, 1, 15, 12, 1, 6, 1, 0, 0, .rng 0 15, []⟩,
   ⟨0x30001, 8, 8, 15, 12, 1, 6, 1, 0, 0, .rng 0 2, []⟩,
   ⟨0x30002, 20, 19, 15, 14, 1, 2, 4, 16, 0, .any, fieldsMeshGroupConfig⟩,
   ⟨0x30003, 20, 19, 31, 0, 0, 0, 8, 16, 0, .any, fieldsMeshGroupStatus⟩,
   ⟨0x30004, 20, 19, 31, 0, 0, 0, 48, 16, 0, .any, fieldsQueueCounters⟩,
   ⟨0x30005, 1, 1, 15, 12, 1, 1, 1, 0, 4, .rng 2 15, []⟩,
   ⟨0x30006, 1, 1, 15, 12, 1, 1, 1, 0, 6, .rng 2 63, []⟩,
   ⟨0x30007, 3, 3, 15, 12, 1, 1, 4, 0, 25000, .rng 1 255000000, []⟩,
   ⟨0x30008, 3, 3, 31, 0, 2, 0, 4, 0, 80, .any, []⟩,
   ⟨0x30009, 3, 3, 15, 12, 1, 1, 4, 0, 250, .rng 125 10000, []⟩,
   ⟨0x30010, 9, 9, 31, 0, 0, 0, 4, 0, 0, .any, []⟩,
   ⟨0x30011, 20, 2, 31, 0, 0, 0, 2, 16, 0, .any, []⟩,
   ⟨0x30012, 9, 9, 31, 0, 0, 0, 4, 0, 0, .any, []⟩,
   ⟨0x30020, 20, 19, 15, 14, 0, 2, 4, 163840, 0, .any, fieldsMeshConnStandby⟩,
   ⟨0x30021, 20, 19, 31, 0, 0, 0, 4, 163840, 0, .any, fieldsMeshConnActive⟩,
   ⟨0x30022, 3, 3, 15, 14, 0, 2, 4, 0, 0, .rng 0 2147483647, []⟩,
   ⟨0x30023, 1, 1, 0, 14, 0, 3, 1, 0, 0, .rng 1 1, []⟩,
   ⟨0x30024, 19, 19, 31, 0, 0, 0, 16, 0, 0, .any, fieldsMeshPageStatus⟩]

def catalog11 : List ObjInfo :=
  [⟨0x30025, 7, 7, 15, 14, 1, 1, 1, 0, 1, .any, []⟩,
   ⟨0x30026, 3, 3, 31, 0, 0, 0, 4, 0, 0, .any, []⟩,
   ⟨0x30030, 3, 3, 15, 14, 1, 1, 4, 0, 20000, .rng 0 50000, []⟩,
   ⟨0x30031, 3, 3, 31, 0, 0, 0, 4, 0, 2000, .any, []⟩,
   ⟨0x30032, 20, 19, 31, 0, 0, 0, 48, 16, 0, .any, fieldsQueueCounters⟩,
   ⟨0x30033, 4, 4, 31, 0, 0, 0, 8, 0, 0, .any, []⟩,
   ⟨0x30034, 20, 19, 31, 0, 0, 0, 32, 16, 0, .any, fieldsLaunchCounters⟩,
   ⟨0x30040, 20, 4, 31, 0, 0, 0, 8, 8, 0, .any, []⟩,
   ⟨0x30041, 20, 4, 31, 0, 0, 0, 8, 16, 0, .any, []⟩,
   ⟨0x30042, 4, 4, 31, 0, 0, 0, 8, 0, 0, .any, []⟩,
   ⟨0x30043, 20, 19, 31, 0, 0, 0, 16, 16, 0, .any, fieldsPuntCount⟩,
   ⟨0x30050, 2, 2, 15, 12, 1, 1, 2, 0, 128, .rng 1 1024, []⟩,
   ⟨0x30051, 3, 3, 15, 12, 1, 1, 4, 0, 1000, .rng 100 1000000, []⟩,
   ⟨0x30052, 1, 1, 0, 14, 0, 1, 1, 0, 0, .rng 0 1, []⟩,
   ⟨0x30053, 7, 7, 31, 0, 0, 0, 1, 0, 0, .any, []⟩,
   ⟨0x38000, 20, 19, 15, 14, 1, 2, 8, 128, 0, .any, fieldsPortConfig⟩,
   ⟨0x38001, 20, 19, 31, 0, 0, 0, 8, 128, 0, .any, fieldsPortStatus⟩,
   ⟨0x38002, 20, 19, 31, 0, 0, 0, 104, 128, 0, .any, fieldsPortCounters⟩,
   ⟨0x38003, 20, 19, 15, 14, 1, 2, 4, 128, 0, .any, fieldsPortClass⟩,
   ⟨0x38004, 20, 19, 15, 14, 1, 2, 8, 128, 0, .any, fieldsPortFlowControl⟩,
   ⟨0x38005, 20, 19, 15, 14, 1, 1, 32, 128, 0, .any, fieldsPortMeasure⟩,
   ⟨0x38006, 20, 1, 0, 14, 0, 1, 1, 128, 0, .rng 1 1, []⟩,
   ⟨0x3C000, 20, 1, 15, 12, 1, 1, 1, 8, 0, .rng 0 1, []⟩,
   ⟨0x3C001, 3, 3, 15, 12, 1, 1, 4, 0, 200, .rng 10 10000, []⟩]

def catalog12 : List ObjInfo :=
  [⟨0x3C010, 20, 19, 31, 0, 0, 0, 16, 16, 0, .any, fieldsPuntCount⟩,
   ⟨0x3C011, 21, 19, 31, 0, 0, 0, 16, 1024, 0, .any, fieldsHbmErrorLog⟩,
   ⟨0x3C012, 7, 7, 15, 12, 1, 1, 1, 0, 1, .any, []⟩,
   ⟨0x3C013, 3, 3, 15, 12, 1, 1, 4, 0, 3600, .rng 600 86400, []⟩,
   ⟨0x3C014, 3, 3, 31, 0, 0, 0, 4, 0, 0, .any, []⟩,
   ⟨0x3C020, 1, 1, 31, 0, 0, 0, 1, 0, 0, .any, []⟩,
   ⟨0x3C021, 8, 8, 15, 12, 1, 1, 1, 0, 0, .rng 0 1, []⟩,
   ⟨0x3C022, 1, 1, 31, 0, 0, 0, 1, 0, 1, .any, []⟩,
   ⟨0x3C030, 8, 8, 15, 14, 0, 1, 1, 0, 0, .rng 0 1, []⟩,
   ⟨0x3C031, 19, 19, 31, 0, 0, 0, 8, 0, 0, .any, fieldsHbmFreqStatus⟩,
   ⟨0x3C032, 3, 3, 31, 0, 0, 0, 4, 0, 0, .any, []⟩,
   ⟨0x3C040, 19, 19, 31, 0, 0, 0, 8, 0, 0, .any, fieldsHbmTrainStatus⟩,
   ⟨0x3C041, 3, 3, 15, 12, 1, 1, 4, 0, 100, .rng 10 10000, []⟩,
   ⟨0x3C042, 4, 4, 31, 0, 0, 0, 8, 0, 0, .any, []⟩,
   ⟨0x3C043, 4, 4, 31, 0, 0, 0, 8, 0, 0, .any, []⟩,
   ⟨0x3C044, 1, 1, 15, 12, 1, 1, 1, 0, 8, .rng 1 63, []⟩,
   ⟨0x3C050, 7, 7, 31, 28, 0, 1, 1, 0, 0, .any, []⟩,
   ⟨0x3C051, 19, 19, 31, 28, 0, 1, 16, 0, 0, .any, fieldsHbmPatternGen⟩,
   ⟨0x3C052, 19, 19, 31, 0, 0, 0, 16, 0, 0, .any, fieldsHbmCompare⟩,
   ⟨0x3C053, 20, 19, 31, 28, 0, 1, 4, 2304, 0, .any, fieldsHbmDelay⟩,
   ⟨0x3C054, 20, 19, 31, 28, 0, 1, 2, 64, 0, .any, fieldsHbmStrobe⟩,
   ⟨0x3E000, 19, 19, 31, 0, 2, 0, 8, 0, 0, .any, fieldsPcieIdentity⟩,
   ⟨0x3E001, 19, 19, 31, 0, 0, 0, 8, 0, 0, .any, fieldsPcieLinkStatus⟩,
   ⟨0x3E002, 3, 3, 15, 12, 1, 1, 4, 0, 10000, .rng 50 64000, []⟩]

def catalog13 : List ObjInfo :=
  [⟨0x3E003, 20, 19, 31, 0, 0, 0, 24, 1, 0, .any, fieldsMeterColourCount⟩,
   ⟨0x3E100, 20, 19, 15, 14, 0, 2, 32, 4096, 0, .any, fieldsPuntRing⟩,
   ⟨0x3E101, 20, 19, 15, 14, 0, 2, 32, 4096, 0, .any, fieldsInjectRing⟩,
   ⟨0x3E102, 20, 7, 15, 12, 0, 2, 1, 4096, 0, .any, []⟩,
   ⟨0x3E103, 20, 19, 31, 0, 0, 0, 12, 8192, 0, .any, fieldsRingStatus⟩,
   ⟨0x3E104, 20, 19, 31, 0, 0, 0, 40, 8192, 0, .any, fieldsStreamRecoveryCount⟩,
   ⟨0x3E105, 4, 4, 31, 0, 0, 0, 8, 0, 0, .any, []⟩,
   ⟨0x3E106, 4, 4, 31, 0, 0, 0, 8, 0, 0, .any, []⟩,
   ⟨0x3F000, 3, 3, 15, 12, 1, 1, 4, 0, 4096, .rng 1 65535, []⟩,
   ⟨0x3F001, 20, 8, 15, 12, 1, 2, 1, 4, 0, .rng 0 2, []⟩]

def catalog14 : List ObjInfo :=
  (List.range 4).map (fun i => ⟨0x3F100 + i, 4, 4, 0, 12, 0, 1, 8, 0, 0, .any, []⟩) ++
  (List.range 28).map (fun i => ⟨0x3F104 + i, 4, 4, 0, 14, 0, 1, 8, 0, 0, .any, []⟩)

def catalog16 : List ObjInfo :=
  (List.range 32).map (fun i => ⟨0x3F140 + i, 19, 19, 31, 0, 0, 0, 8, 0, 0, .any, fieldsTrolleyStatus⟩)

def catalog17 : List ObjInfo :=
  [⟨0x3F160, 1, 1, 0, 14, 0, 1, 1, 0, 0, .rng 0 31, []⟩,
   ⟨0x3F170, 20, 19, 31, 0, 0, 0, 40, 32, 0, .any, fieldsStreamRecoveryCount⟩,
   ⟨0x40000, 20, 19, 15, 14, 0, 1, 16, 10, 0, .any, fieldsEventBanks⟩,
   ⟨0x40001, 20, 1, 0, 14, 0, 1, 1, 10, 0, .rng 0 1, []⟩,
   ⟨0x40002, 20, 19, 15, 14, 1, 1, 4, 320, 0, .any, fieldsEventSource⟩,
   ⟨0x40003, 20, 9, 15, 14, 0, 1, 4, 128, 0, .rng 0 31, []⟩,
   ⟨0x40004, 20, 9, 15, 14, 0, 1, 4, 16, 0, .rng 0 131071, []⟩,
   ⟨0x40400, 20, 19, 31, 0, 0, 0, 16, 2097152, 0, .any, fieldsPuntCount⟩,
   ⟨0x40401, 19, 19, 0, 14, 0, 1, 8, 0, 0, .any, fieldsCounterClear⟩,
   ⟨0x40800, 20, 19, 15, 14, 1, 2, 32, 8, 0, .any, fieldsTallboyDump⟩,
   ⟨0x40801, 20, 4, 15, 14, 1, 2, 8, 524288, 0, .any, fieldsTallboyDumpList⟩,
   ⟨0x40802, 20, 19, 31, 0, 0, 0, 32, 8, 0, .any, fieldsLaunchCounters⟩,
   ⟨0x40C00, 20, 19, 15, 14, 1, 2, 16, 8, 0, .any, fieldsSampleSession⟩,
   ⟨0x40C01, 20, 19, 31, 0, 0, 0, 24, 8, 0, .any, fieldsMeterColourCount⟩,
   ⟨0x40D00, 20, 19, 15, 12, 0, 2, 32, 9, 0, .any, fieldsTelemetryHostRing⟩,
   ⟨0x40D01, 20, 19, 15, 14, 0, 1, 8, 9, 0, .any, fieldsTelemetryHostIndex⟩,
   ⟨0x44000, 18, 18, 0, 8, 0, 1, 160, 0, 0, .any, []⟩,
   ⟨0x44001, 18, 18, 31, 0, 1, 0, 97, 0, 0, .any, []⟩,
   ⟨0x44002, 18, 18, 15, 8, 1, 2, 4096, 0, 0, .any, []⟩,
   ⟨0x44010, 20, 19, 8, 8, 1, 2, 56, 64, 0, .any, fieldsZoaCredential⟩,
   ⟨0x44011, 20, 19, 0, 8, 1, 2, 33, 16, 0, .any, fieldsTenantKey⟩,
   ⟨0x44012, 20, 1, 8, 0, 1, 0, 1, 16, 0, .any, fieldsTenantKeyStatus⟩,
   ⟨0x44020, 18, 18, 15, 8, 1, 2, 97, 0, 0, .any, []⟩,
   ⟨0x44021, 18, 18, 0, 8, 0, 2, 193, 0, 0, .any, []⟩]

def catalog18 : List ObjInfo :=
  [⟨0x44030, 7, 7, 15, 8, 1, 1, 1, 0, 0, .any, []⟩,
   ⟨0x44031, 7, 7, 31, 16, 0, 1, 1, 0, 0, .any, []⟩,
   ⟨0x44040, 19, 19, 31, 0, 0, 0, 8, 0, 0, .any, fieldsWipeStatus⟩,
   ⟨0x44041, 9, 9, 31, 0, 0, 0, 4, 0, 0, .any, []⟩,
   ⟨0x44F00, 4, 4, 8, 0, 1, 0, 8, 0, 0, .any, []⟩,
   ⟨0x44F01, 21, 19, 8, 0, 1, 0, 64, 65536, 0, .any, fieldsAuditLog⟩,
   ⟨0x44F02, 3, 3, 8, 0, 1, 0, 4, 0, 0, .any, []⟩,
   ⟨0x48000, 20, 19, 31, 0, 1, 0, 8, 2, 0, .any, fieldsFwSlotStatus⟩,
   ⟨0x48001, 20, 18, 31, 0, 1, 0, 1024, 2, 0, .any, []⟩,
   ⟨0x48002, 1, 1, 31, 0, 1, 0, 1, 0, 0, .any, []⟩,
   ⟨0x48003, 3, 3, 31, 0, 1, 0, 4, 0, 0, .any, []⟩,
   ⟨0x48010, 1, 1, 0, 12, 0, 1, 1, 0, 0, .rng 1 3, []⟩,
   ⟨0x48011, 20, 18, 0, 12, 0, 1, 8192, 8160, 0, .any, []⟩,
   ⟨0x48012, 19, 19, 0, 12, 0, 1, 8, 0, 0, .any, fieldsFwStagedLoad⟩,
   ⟨0x48013, 19, 19, 31, 0, 0, 0, 8, 0, 0, .any, fieldsFwLoadStatus⟩,
   ⟨0x48014, 20, 1, 31, 0, 0, 0, 1, 16, 255, .any, []⟩,
   ⟨0x48020, 11, 11, 0, 12, 0, 1, 10, 0, 0, .any, []⟩,
   ⟨0x48021, 1, 1, 0, 12, 0, 1, 1, 0, 0, .rng 1 1, []⟩,
   ⟨0x48022, 1, 1, 0, 12, 1, 1, 1, 0, 0, .rng 0 1, []⟩,
   ⟨0x48023, 1, 1, 0, 12, 0, 1, 1, 0, 0, .rng 1 1, []⟩,
   ⟨0x48024, 1, 1, 0, 12, 0, 1, 1, 0, 0, .rng 1 1, []⟩,
   ⟨0x48025, 3, 3, 15, 12, 1, 1, 4, 0, 60, .rng 10 3600, []⟩,
   ⟨0x48026, 3, 3, 31, 0, 2, 0, 4, 0, 2000, .any, []⟩,
   ⟨0x48027, 19, 19, 31, 0, 0, 0, 16, 0, 0, .any, fieldsFwActivationStatus⟩]

def catalog19 : List ObjInfo :=
  [⟨0x4C000, 20, 19, 31, 0, 0, 0, 8, 10, 0, .any, fieldsPowerRailStatus⟩,
   ⟨0x4C001, 20, 2, 31, 0, 0, 0, 2, 16, 0, .any, []⟩,
   ⟨0x4C002, 19, 19, 31, 0, 0, 0, 8, 0, 0, .any, fieldsPowerNvGuard⟩,
   ⟨0x4C003, 19, 19, 31, 0, 0, 0, 8, 0, 0, .any, fieldsPowerNvJournal⟩,
   ⟨0x4C004, 19, 19, 31, 0, 0, 0, 8, 0, 0, .any, fieldsCrossingLoss⟩,
   ⟨0x4C005, 19, 19, 31, 0, 1, 0, 8, 0, 0, .any, fieldsPowerBrownout⟩,
   ⟨0x4C006, 19, 19, 31, 0, 0, 0, 8, 0, 0, .any, fieldsPowerSequence⟩,
   ⟨0x4C010, 20, 2, 31, 0, 0, 0, 2, 2, 0, .any, []⟩,
   ⟨0x4C011, 1, 1, 15, 12, 1, 1, 1, 0, 100, .rng 70 105, []⟩,
   ⟨0x4C100, 20, 19, 15, 14, 1, 2, 12, 16, 0, .any, fieldsSideboardChannel⟩,
   ⟨0x4C101, 20, 19, 15, 14, 1, 2, 9, 4, 0, .any, fieldsSideboardSequence⟩,
   ⟨0x4C102, 1, 1, 0, 14, 0, 1, 1, 0, 0, .rng 0 3, []⟩,
   ⟨0x4C103, 20, 19, 31, 0, 0, 0, 16, 16, 0, .any, fieldsSideboardResult⟩,
   ⟨0x4C104, 9, 9, 15, 14, 0, 1, 4, 0, 0, .any, []⟩,
   ⟨0x4C105, 20, 19, 31, 0, 0, 0, 16, 4, 0, .any, fieldsPuntCount⟩,
   ⟨0x4C200, 20, 19, 15, 14, 1, 2, 8, 8, 0, .any, fieldsFanConfig⟩,
   ⟨0x4C201, 20, 19, 31, 0, 0, 0, 4, 8, 0, .any, fieldsFanStatus⟩,
   ⟨0x4C300, 20, 19, 15, 14, 1, 2, 2, 16, 0, .any, fieldsGpioConfig⟩,
   ⟨0x4C301, 9, 9, 15, 14, 1, 1, 4, 0, 0, .rng 0 65535, []⟩,
   ⟨0x4C302, 9, 9, 31, 0, 0, 0, 4, 0, 0, .any, []⟩,
   ⟨0x4C303, 9, 9, 15, 14, 0, 1, 4, 0, 0, .rng 0 65535, []⟩]

/-- Every object of the dictionary, in rising order of its number. -/
def catalog : List ObjInfo :=
  catalog0 ++ catalog1 ++ catalog2 ++ catalog3 ++ catalog4 ++ catalog5 ++ catalog6 ++ catalog7 ++ catalog8 ++ catalog9 ++ catalog10 ++ catalog11 ++ catalog12 ++ catalog13 ++ catalog14 ++ catalog16 ++ catalog17 ++ catalog18 ++ catalog19

/-- The object of a number, if it exists (R33). -/
def objInfo? (n : Nat) : Option ObjInfo := catalog.find? (fun o => o.num == n)

end Sys2Proof.Machine
end

