-- ==== Sys2Proof/Machine/Defaults.lean ====
section
/-! DEFINITION. What an unwritten field of the dictionary reads as: the default of its object row or field map, and the
defaults that differ from row to row (R228, Tables 9-5 and 13-3). -/
namespace Sys2Proof.Machine

/-- The default the catalogue gives a field of an object. -/
def catalogDefault (obj fld : Nat) : Nat :=
  match objInfo? obj with
  | none => 0
  | some o => if fld = 0 then o.dflt else ((o.fields[fld - 1]?).map (·.dflt)).getD 0

/-- The scheduler's default host tree and length modes (R228). -/
def nodeDefault (obj row fld : Nat) : Option Nat :=
  let isPort := obj == O.SchedPort
  let inTree := if isPort then row == 128 else if obj = O.SchedQueue then decide (row < 64) else row == 0
  if fld = F.SchedQueue_Valid then some (if inTree then 1 else 0)
  else if fld = F.SchedQueue_Parent then some (if obj = O.SchedL1 ∧ row = 0 then 128 else 0)
  else if fld = F.SchedQueue_PriorityGroup then some (if obj = O.SchedQueue ∧ row < 64 then row % 8 else 0)
  else if fld = F.SchedQueue_LengthMode then
    some (if !isPort then 3 else if row < 128 then 1 else if row = 128 then 2 else 0)
  else if fld = F.SchedQueue_Overhead then some (if isPort ∧ row < 128 then 20 else 0)
  else none

/-- Buffers of a pool, and the size of each in bytes (Table 9-1). -/
def poolBuffers (k : Nat) : Nat := [262144, 131072, 32768, 4096].getD k 0

def poolBytes (k : Nat) : Nat := [256, 2048, 10240, 65536].getD k 0

/-- Defaults that depend on the row (R228, Tables 9-5 and 13-3). -/
def rowDefault (obj row fld : Nat) : Option Nat :=
  if O.SchedPort ≤ obj ∧ obj ≤ O.SchedQueue then nodeDefault obj row fld
  else if obj = O.ShelfPool then
    if fld = F.ShelfPool_Buffers ∨ fld = F.ShelfPool_LowWater then some (poolBuffers row)
    else if fld = F.ShelfPool_BufferBytes then some (poolBytes row)
    else none
  else if obj = O.HbmPageHint then some (if row < 2 then 1 else 0)
  else none

/-- What an unlisted field reads as. -/
def fieldDefault (obj row fld : Nat) : Nat := (rowDefault obj row fld).getD (catalogDefault obj fld)

/-- What an unlisted key of the object store reads as. -/
def keyDefault (key : Nat) : Nat := fieldDefault (key / 2 ^ 40) (key / 256 % 2 ^ 32) (key % 256)

end Sys2Proof.Machine
end

