-- ==== Sys2Proof/Machine/State.lean ====
section
/-! DEFINITION. The state of the block as plain data, and `State.reset`. Every register of the object dictionary lives
in one sparse table, `store`, whose unlisted keys read as the object's default; queues, buffers, counters that no
object shows, engines in progress and pins are fields of their own. `Blocks` is what a module reset clears and what a
snapshot copies; `Chest` and `AlwaysOn` outlive a module reset. -/
namespace Sys2Proof.Machine

/-- The key of one stored field: object, row and field number (0 for a value without a field map). -/
abbrev skey (obj row fld : Nat) : Nat := (obj * 2 ^ 32 + row) * 256 + fld

/-- Status codes of Table 2-7, and the two dispositions that are no status: a silent access (R43) is answered OK. -/
inductive Status where
  | ok | range | type | busy | conflict | full | stale
  deriving DecidableEq, Repr

/-- The code of Table 2-7. -/
def Status.code : Status → Nat
  | .ok => 0 | .range => 1 | .type => 2 | .busy => 3 | .conflict => 4 | .full => 5 | .stale => 6

/-- A staged or direct write, checked: object, row, field (0 whole) and the value as a number. -/
structure SW where
  obj : Nat
  row : Nat
  fld : Nat
  val : Nat
  deriving DecidableEq, Repr

/-! ### Time (chapter 3) -/

/-- The grid states of Table 3-1. -/
inductive GridSt where
  | free | acquire | locked | holdover
  deriving DecidableEq, Repr

/-- The code GridState reads. -/
def GridSt.code : GridSt → Nat
  | .free => 0 | .acquire => 1 | .locked => 2 | .holdover => 3

/-- A domain's counter and what its source has shown (R81 to R87): the time in units of 2^-42 ns (0.25 ns with 40
fraction bits), the set and the adjustments due at the next tick, the ticks of the last PTP event message, servo write
and PPS edge (none: no edge yet), whether the PTP port's link has gone down since the domain was qualified, and the MESH samples of the
running millisecond. -/
structure DomRT where
  time : Nat
  setReq : Option Nat
  adjReq : Int
  lastEvent : Nat
  lastServo : Nat
  lastEdge : Option Nat
  linkLost : Bool
  meshSum : Int
  meshCount : Nat
  deriving DecidableEq, Repr

/-- A step of the grid that waits for a generation (R91). -/
inductive StepReq where
  | set (t : Nat)
  | err
  deriving DecidableEq, Repr

/-- A running trigger row (R99, R100): the next instant in units of 2^-16 ns, and the pulses left (none: without end). -/
structure TrigRT where
  row : Nat
  next : Nat
  left : Option Nat
  deriving DecidableEq, Repr

/-- Longcase: `ticks` is true elapsed time since module reset; `steerNum / steerDen` is r of R88; `err` is e as last
measured (GridError); `below` the tick from which |e| has stayed below the lock threshold; `holdInc` the holdover increment;
`applied` sums the per-tick advances and `samples` keeps one reading of (ticks, applied) per microsecond, newest first,
for the mean of R92; `steps` holds, for each grid step, the generation it opened and its size (R91); `capLog` the
capture entries, newest first, `capSeq` how many were ever made and `capRead` how many have been read; `capLast` the tick of
each input's last edge, by (input, tick); `ppsLast` the tick of the last pulse on PPS_OUT. -/
structure TimeRT where
  ticks : Nat
  grid : Nat
  st : GridSt
  domA : DomRT
  domB : DomRT
  steerNum : Int
  steerDen : Nat
  err : Int
  below : Option Nat
  holdInc : Nat
  applied : Nat
  samples : List (Nat × Nat)
  steps : List (Nat × Int)
  stepReq : Option StepReq
  trig : List TrigRT
  capLast : List (Nat × Nat)
  capLog : List (Nat × Nat)
  capSeq : Nat
  capRead : Nat
  ppsLast : Option Nat
  deriving DecidableEq, Repr

/-! ### Generations (chapter 4) -/

/-- A closed, unretired generation: its number (unbounded; GenerationCurrent reads it modulo 2^32) and the tick at
which it closed. -/
structure GenClosed where
  num : Nat
  closedAt : Nat
  deriving DecidableEq, Repr

/-- A value that an FE object's field held for packets of generations older than `dead` (R109). -/
structure OldVal where
  key : Nat
  val : Nat
  dead : Nat
  deriving DecidableEq, Repr

/-- The generation counter, the closed generations, oldest first, the kept old values, and the generation at which
the active graph bank became active (R135). -/
structure GenRT where
  cur : Nat
  closed : List GenClosed
  hist : List OldVal
  bankGen : Nat
  deriving DecidableEq, Repr

/-! ### Packets -/

/-- The carriage header (Table 1-4). -/
structure Hdr where
  genTag : Nat
  flowHash : Nat
  destCard : Nat
  destPort : Nat
  destQueue : Nat
  cls : Nat
  colour : Nat
  sealed : Bool
  sample : Bool
  punt : Nat
  launchValid : Bool
  pass : Bool
  srcPort : Nat
  length : Nat
  editPtr : Nat
  stamp : Nat
  launch : Nat
  deriving DecidableEq, Repr

/-- A packet inside the module: its carriage header, its literal block as 128-bit operations (R194), its bytes with the
frame check sequence, and the model's own bookkeeping: the generation its tag names on this card, the card it entered
by, the multicast identity of its copies (R287), the ring and descriptor that wait for its departure (R345), the client
that injected it, its first-pass hits and the stamps of its stages (R368), and the arrival timestamp that a host servo is
owed in the timescale of its domain (R83). -/
structure Pkt where
  hdr : Hdr
  gen : Nat
  literal : Option (List Nat)
  data : Bytes
  srcCard : Nat
  mcast : Bool
  mcId : Option Nat
  stampRing : Option (Nat × Nat)
  client : Nat
  hits : List Nat
  stamps : List Nat
  ptp : Option Nat
  deriving DecidableEq, Repr

/-! ### Lookup tables (chapters 6 and 7) -/

/-- A route entry: `fam` 0 IPv4, 1 IPv6; `addr` the 128-bit left-aligned prefix; `size` its slots (R145); `lost` after
an unrepairable line (R119). -/
structure RouteEntry where
  vrf : Nat
  fam : Nat
  len : Nat
  addr : Nat
  result : Nat
  slot : Nat
  size : Nat
  born : Nat
  dead : Option Nat
  lost : Bool
  deriving DecidableEq, Repr

/-- The route store and the length filter's counters, keyed block × 16 + counter (R147). -/
structure RouteRT where
  entries : List RouteEntry
  filter : Tbl Nat
  deriving DecidableEq, Repr

/-- An exact-match entry; `key` is the 384-bit left-aligned key, `loc` its first ExactTable row, `found` set by the ager
(R165). -/
structure ExactEntry where
  prof : Nat
  width : Nat
  key : Nat
  result : Nat
  learned : Bool
  static_ : Bool
  age : Nat
  loc : Nat
  born : Nat
  dead : Option Nat
  found : Bool
  lost : Bool
  deriving DecidableEq, Repr

/-- A key waiting for insertion (R166), with the header of the packet that caused it. -/
structure LearnKey where
  prof : Nat
  width : Nat
  key : Nat
  result : Nat
  lookup : Nat
  cause : Hdr
  deriving DecidableEq, Repr

/-- The exact store, the learn queue, the keys notified with the tick of it (newest first), the tick of the last
insertion, the order number of an ageing commit that waits for a generation, and the tick at which ExactAgeClock last
increased. -/
structure ExactRT where
  entries : List ExactEntry
  learnQ : List LearnKey
  notified : List (Nat × Nat)
  lastInsert : Option Nat
  ageWait : Option Nat
  agedAt : Nat
  deriving DecidableEq, Repr

/-- Content of a range row (Table 7-2): `ranges` the eight (Low, High) pairs; `written` for state WRITTEN, `direct` for content that a direct
INVALIDATE killed (R182). -/
structure RangeContent where
  row : Nat
  set : Nat
  used : Nat
  prio : Nat
  result : Nat
  ranges : List (Nat × Nat)
  tv : Nat
  tm : Nat
  slot : Nat
  born : Nat
  dead : Option Nat
  written : Bool
  lost : Bool
  direct : Bool
  deriving DecidableEq, Repr

/-- The range store, and the slots held empty for a row, as (row, slot). -/
structure RangeRT where
  contents : List RangeContent
  held : List (Nat × Nat)
  deriving DecidableEq, Repr

/-- A packet at the pipelines' door: `direct` for an inject packet whose descriptor decides for it (R344). -/
structure Entering where
  pkt : Pkt
  direct : Bool
  deriving DecidableEq, Repr

/-- A packet in the repair queue: `ready` once it may re-enter (R117). -/
structure Parked where
  entering : Entering
  ready : Bool
  deriving DecidableEq, Repr

/-- A row of a store table that an unrepairable line took (R119): lost for every generation, or, once the host has
written the row again, for those older than `until_`. -/
structure LostRow where
  obj : Nat
  row : Nat
  until_ : Option Nat
  deriving DecidableEq, Repr

/-- The repair queue (R116 to R119): its packets in the order they were parked, the lines under repair, and the rows that
unrepairable lines took. -/
structure RepairRT where
  queue : List Parked
  lines : List Line
  lostRows : List LostRow
  deriving DecidableEq, Repr

/-! ### The forwarding engine, the traffic manager and the line ports (chapters 8 to 10, 12) -/

/-- A frame in a receive buffer: its bytes, arrival stamp, starting class and colour (R305, R306), and its arrival in a
domain's timescale (R83). -/
structure RxFrame where
  data : Bytes
  stamp : Nat
  ptp : Option Nat
  cls : Nat
  colour : Nat
  deriving DecidableEq, Repr

/-- A line port: its receive buffer, whether an overflow was raised since the buffer was last at or below XoffKiB, the
classes the partner paused with the tick at which each pause ends, and the classes (8 for PAUSE) that this port holds
off, with the tick of the last pause frame sent (R310, R311); the half of the lanes that failed (R301); the tick at which
its link state was entered (R299, R300); and while a frame may still be in reception after the port left a carrying state
(R297), the tick at which it left and the Gb/s it ran at. -/
structure PortRT where
  rx : List RxFrame
  overRaised : Bool
  paused : List (Nat × Nat)
  holding : List (Nat × Nat)
  degrading : Option Nat
  since : Nat
  left : Option (Nat × Nat)
  deriving DecidableEq, Repr

/-- A lazily refilled token bucket: what it lacks to be full, in scaled units, at the tick it was last brought up to
date. -/
structure Bucket where
  debt : Nat
  last : Nat
  deriving DecidableEq, Repr

/-- A meter's two buckets (R250): `c` the committed one, `e` the excess or peak one. -/
structure MeterRT where
  c : Nat
  e : Nat
  last : Nat
  deriving DecidableEq, Repr

/-- The sequence recovery function of a stream (R199): whether it takes any number next, the last number accepted, the
history of VECTOR (bit i: number last − i accepted), and the tick of the last acceptance. -/
structure StreamRT where
  armed : Bool
  last : Nat
  history : Nat
  acceptedAt : Nat
  deriving DecidableEq, Repr

/-- A packet that the scheduler selected and that crosses to the FE: its port and queue, its descriptor and cells
(R206). -/
structure Sel where
  pkt : Pkt
  port : Nat
  queue : Nat
  desc : Nat
  cells : List Nat
  deriving DecidableEq, Repr

/-- A packet that the ring engine presents to the pipelines (R343, R344): its bytes with FCS, the client, the ring and
first descriptor that wait for a timestamp, the descriptor's fields, and the Shelf buffer (pool, number) that holds it. -/
structure InjPkt where
  data : Bytes
  client : Nat
  stampRing : Option (Nat × Nat)
  direct : Bool
  cls : Nat
  card : Nat
  port : Nat
  queue : Nat
  edit : Nat
  launchValid : Bool
  launch : Nat
  buf : Nat × Nat
  deriving DecidableEq, Repr

/-- The forwarding engine: packets presented by inject and by recirculation, the packets on each Dovetail link to the TM
(each with the copies the TM makes of it) and back, meter buckets, stream recovery, and whether the pipelines run. -/
structure FeRT where
  inject : List InjPkt
  recirc : List Pkt
  toTm0 : List (List Pkt)
  toTm1 : List (List Pkt)
  toFe0 : List Sel
  toFe1 : List Sel
  meters : Tbl MeterRT
  streams : Tbl StreamRT
  deriving DecidableEq, Repr

/-- What a queue holds, in order: a packet on chip with its descriptor and cells, or a segment in spill (R211): its
descriptor, its pages, each with its place in the segment (page `i` holds the bytes from 2,048 × i), the position of the
segment's end, and its unreturned records, each with its position. -/
inductive QItem where
  | chip (p : Pkt) (desc : Nat) (cells : List Nat)
  | seg (desc : Nat) (pages : List (Nat × Nat)) (wr : Nat) (recs : List (Nat × Pkt))
  deriving DecidableEq, Repr

/-- The egress buffer: lane FIFOs (R207), queues, flushed segments whose pages are still to be freed (R218), the queues
that asked for a return, in order (R213), the spill buckets, the punt limiters, the 16-bit multicast counter, packets
reassembled from the mesh. -/
structure TmRT where
  lanes : Tbl (List Pkt)
  queues : Tbl (List QItem)
  flushing : List (Nat × List Nat)
  asks : List Nat
  spillW : Bucket
  spillR : Bucket
  punts : Tbl Bucket
  mcNext : Nat
  fromMesh : List Pkt
  deriving DecidableEq, Repr

/-- A scheduler node's running state (R231, R233, R235): credits in units of 2^-32 cost units, deficit, next eligible
time in slots of 64 ns with 16 fractional bits, and whether the wheel has released it. -/
structure NodeRT where
  comm : Int
  peak : Int
  deficit : Nat
  ne : Nat
  released : Bool
  deriving DecidableEq, Repr

/-- The scheduler: nodes by key (level × 2^20 + row), node rows in effect where they differ from the default, nodes whose
written row waits for its refill tick (R234), the round of each parent and group (key parent × 8 + group), and the
children that hold the quantum of the head. `calWait`: nodes whose
new PeakRate and CalendarMode wait for their next selection (R238). -/
structure SchedRT where
  nodes : Tbl NodeRT
  eff : Tbl Nat
  waiting : List Nat
  calWait : List Nat
  rounds : Tbl (List Nat)
  granted : List Nat
  deriving DecidableEq, Repr

/-- A gate list: base time as a 0.25 ns count, cycle time in ns, entries as (states, interval in ns). -/
structure GateList where
  base : Nat
  cycle : Nat
  entries : List (Nat × Nat)
  deriving DecidableEq, Repr

/-- A port's gating (R240 to R243): the operational list, the pending one with its start instant, the entry and states that
the last gate change latched, StartedLate and the last ChangeTime. -/
structure GateRT where
  oper : Option GateList
  pend : Option (GateList × Nat)
  entry : Nat
  states : Nat
  late : Bool
  change : Nat
  deriving DecidableEq, Repr

/-- Shelf: the allocated buffers as (pool, buffer, client) (R219 to R223). -/
structure ShelfRT where
  owned : List (Nat × Nat × Nat)
  deriving DecidableEq, Repr

/-! ### The mesh (chapter 11) -/

/-- A cell (Table 11-4) with its 256 bytes of payload; `starts` is the model's own count of the records that begin in a
cell the card builds. -/
structure Cell where
  kind : Nat
  relayed : Bool
  src : Nat
  dst : Nat
  via : Nat
  cls : Nat
  seq : Nat
  index : Nat
  size : Nat
  first : Nat
  valid : Nat
  mc : Bool
  mcId : Nat
  stamp : Nat
  payload : Bytes
  starts : Nat
  deriving DecidableEq, Repr

/-- What a header cell announces (Table 11-3). -/
structure PeerHdr where
  frame : Nat
  cycle : Nat
  card : Nat
  group : Nat
  width : Nat
  mode : Nat
  fill : Nat
  grid : Nat
  pdi : Bool
  align : Nat
  leaving : Bool
  swapValid : Bool
  step : Bool
  version : Nat
  txMap : Nat
  active : Nat
  xoff : Nat
  page : Nat
  standby : Nat
  swapCycle : Nat
  agree : Nat
  relay : Nat
  echoFrame : Nat
  echoStamp : Nat
  request : Nat
  grant : Nat
  accept : Nat
  lanes : Nat
  mgmt : Bytes
  deriving DecidableEq, Repr

/-- The 1 ms windows of DEG (R266): the window that runs, the corrected symbols in it, and how many finished windows in a row
lay above MeshDegThreshold, or at or below it. -/
structure DegRT where
  window : Nat
  symbols : Nat
  above : Nat
  within : Nat
  deriving DecidableEq, Repr

/-- A lane group: alignment with its counts of good and errored header cells (R263), the last good header cell and the
stamp of its arrival, the tick at which the header cell with Step came (R264), the defects raised (bit n: order n, R266)
with the counts that raise and clear them, the 1 ms windows of DEG and that of the last cell CRC error, Mismatch, the lanes
received and those sent on, round-trip samples of the running cycle and the delay (R265), since when the peer announces
matching mode and version, whether the group has joined, the dispatch queue and the request/grant/accept queue, whether its
next header carries Step, and messages for the management channel. -/
structure GroupRT where
  align : Nat
  good : Nat
  bad : Nat
  hdr : Option PeerHdr
  rxStamp : Nat
  stepAt : Option Nat
  defects : Nat
  deviated : Nat
  locGood : Nat
  pdiGood : Nat
  deg : DegRT
  crcAt : Option Nat
  mismatch : Bool
  lanes : Nat
  txLanes : Nat
  rttSum : Int
  rttCount : Nat
  oneWay : Nat
  okSince : Option Nat
  joined : Bool
  dispatch : List Cell
  rga : List Cell
  step : Bool
  mgmt : List Bytes
  deriving DecidableEq, Repr

/-- The builder of a destination and class (R275): records with their multicast identity, the bytes of the first record
already in cells, the cells of the open group, closed groups, the next GroupSeq, the tick of the last record. -/
structure Builder where
  recs : List (Bytes × Option Nat)
  off : Nat
  cells : List Cell
  closed : List (List Cell)
  seq : Nat
  lastAdd : Nat
  deriving DecidableEq, Repr

/-- A group in a resequencer: its number, its cells, the tick of the first, and whether its parity cell has come. -/
structure RxGroup where
  seq : Nat
  cells : List Cell
  since : Nat
  parity : Bool
  deriving DecidableEq, Repr

/-- The record stream of a source and class as received: the bytes of the record in progress, whether the next byte's
place in a record is known, the multicast identity of the record in progress, and after a gap the bytes still to come of the
record that was counted as lost (none: unknown, R281). -/
structure RxStream where
  acc : Bytes
  synced : Bool
  mc : Option Nat
  torn : Option Nat
  deriving DecidableEq, Repr

/-- The resequencer of a source and class (R279 to R281): the group it waits for, the groups it holds, the groups
declared lost, the groups delivered whose parity cell has not come yet, and the record stream. -/
structure Reseq where
  next : Option Nat
  groups : List RxGroup
  lost : List Nat
  owed : List Nat
  stream : RxStream
  deriving DecidableEq, Repr

/-- A held stream at its source (R282): records, the cells sent on not every copy yet, the next held number, and for each
Via the next number it sends. -/
structure HeldTx where
  recs : List (Bytes × Option Nat)
  off : Nat
  cells : List Cell
  next : Nat
  pos : List (Nat × Nat)
  deriving DecidableEq, Repr

/-- A held stream at its destination (R283): the number it waits for, cells that came early with their ticks, the
numbers skipped, and the record stream. -/
structure HeldRx where
  next : Option Nat
  wait : List (Cell × Nat)
  skipped : List Nat
  stream : RxStream
  deriving DecidableEq, Repr

/-- A connection-memory page (R270): its id, what an unwritten entry reads (0 IDLE, 1 the default page of two-stage
mode, 2 that of Direct mode, R274), and the entries that differ. -/
structure Page where
  id : Nat
  base : Nat
  entries : Tbl Nat
  deriving DecidableEq, Repr

/-- What a card's header cells of one cycle last announced of a page swap (R272). -/
structure Said where
  cycle : Nat
  swapValid : Bool
  standby : Nat
  swapCycle : Nat
  agree : Nat
  deriving DecidableEq, Repr

/-- Rack. `slot` and `mode` are what MeshCardSlot and MeshMode held at the module reset; `spread` the spreading queues by
class, as (destination, cells) groups; `moving` the pairs changing service (key, to held, since when the old service is
empty, R285); `mcSeen` the McIds of each source with the destinations of the copies that came under them, the newest
first (R287); `swap` the announced swap cycle and whether it was decided to swap, `said` what each card announced of it in
its last cycles; `planDue` says that ActiveCards changed since the last default page was planned (R274), `joined` that this
card is in a page with others (R291); `accepts` the cells accepted on each group for the next frame, `requests` and `grants` what peers announced, `granted` what this card last granted (R286);
`steps` the grid steps, in 0.25 ns units, that the framing has not followed yet, and `stepEnd` the end of the frame that
carries Step once it is sent, in 0.25 ns units since reset (R264); `pageCards` the cards of the page agreed at the last
swap, `noVia` the cards that had announced Leaving at the last cycle
start (R292). -/
structure MeshRT where
  slot : Nat
  mode : Nat
  groups : Tbl GroupRT
  builders : Tbl Builder
  spread : Tbl (List (Nat × List Cell))
  rot : Tbl Nat
  turn : Tbl Nat
  relay : Tbl (List Cell)
  xoff : Nat
  heldRelay : Tbl (List Cell)
  heldTx : Tbl HeldTx
  moving : List (Nat × Bool × Option Nat)
  reseq : Tbl Reseq
  heldRx : Tbl HeldRx
  mcSeen : Tbl (List (Nat × List Nat))
  active : Page
  standby : Page
  swap : Option (Nat × Bool)
  said : Tbl (List Said)
  lastResult : Nat
  activeCards : Nat
  activeSince : Nat
  planned : Nat
  planDue : Bool
  joined : Bool
  leaving : Bool
  relayEmptySince : Option Nat
  accepts : Tbl Nat
  requests : Tbl Nat
  grants : Tbl Nat
  granted : Tbl Nat
  grantTurn : Nat
  lastFrame : Option Nat
  lastCycle : Option Nat
  steps : List Int
  stepEnd : Option Nat
  pageCards : Nat
  noVia : Nat
  control : List Bytes
  deriving DecidableEq, Repr

/-! ### Tallboy (chapter 15) -/

/-- A dump schedule in operation (R363): its next instant (a 0.25 ns count; none when disabled), the next sequence number,
and whether an instant was skipped since the last dump. -/
structure DumpRT where
  next : Option Nat
  seq : Nat
  gap : Bool
  deriving DecidableEq, Repr

/-- A dump to be written (R363, R364): its schedule, sequence number, GapBefore, kind, whether it goes to the host as well,
the area's start, the size and number of its slots, and the entries of a SUBSET as latched (16 bytes each). -/
structure DumpJob where
  sched : Nat
  seq : Nat
  gap : Bool
  kind : Nat
  host : Bool
  area : Nat
  size : Nat
  slots : Nat
  vals : List Nat
  deriving DecidableEq, Repr

/-- A dump latch that drains (R362, R363): the dumps that share it, the instant, grid state and generation of the latch,
and the dictionary's stored values as they stood, for the counter pairs of a FULL dump. -/
structure DumpCtx where
  jobs : List DumpJob
  instant : Nat
  gridSt : Nat
  gen : Nat
  shadow : Tbl Nat
  deriving DecidableEq, Repr

/-- Tallboy: the sample buffer as (session, tick, record), the records put into the host slot that each
row of TelemetryHostRing fills as (tick, record), the running second and the records built in it (R368), the schedules,
the latch contexts in use, and the bytes of the telemetry region that differ from the zeros of the wipe (R328). -/
structure TelRT where
  samples : List (Nat × Nat × Bytes)
  slots : Tbl (List (Nat × Bytes))
  second : Nat
  built : Nat
  scheds : Tbl DumpRT
  contexts : List DumpCtx
  region : List Host.Cell
  deriving DecidableEq, Repr

/-! ### The host interface (chapter 14) -/

/-- An inject packet's completion that waits (R345): its first descriptor index and the descriptors as read, its status
and TxStamp once known, since when, and whether it waits for a timestamp. -/
structure Comp where
  first : Nat
  descs : List Nat
  status : Option Nat
  stamp : Nat
  since : Nat
  wants : Bool
  deriving DecidableEq, Repr

/-- A ring (R338, R339, R347): state 0 DISABLED, 1 RUNNING, 2 ERROR, Producer, Consumer, the next descriptor to read,
completions since the last signal with the tick of the oldest, completions that wait. -/
structure RingRT where
  st : Nat
  prod : Nat
  cons : Nat
  next : Nat
  unsig : Nat
  oldest : Option Nat
  comps : List Comp
  deriving DecidableEq, Repr

/-- A Trolley channel (R348 to R353): state of Table 14-6, status, bytes done, the next descriptor's address, descriptors
followed, and its place in the order of readiness. -/
structure ChanRT where
  st : Nat
  status : Nat
  bytes : Nat
  addr : Nat
  hops : Nat
  order : Nat
  deriving DecidableEq, Repr

/-- A punted packet that the ring engine holds in a Shelf buffer (pool, number) for punt ring `row` (R341). -/
structure PuntPkt where
  pkt : Pkt
  row : Nat
  buf : Nat × Nat
  deriving DecidableEq, Repr

/-- The host interface: rings, punted packets that crossed to the ring engine, timestamped packets that departed or were
discarded (ring, descriptor, stamp), the ring last served at each priority, Trolley, the request sizes, and the bytes of the
staging window and of the MSI-X table (BAR4 at C000h, whose entries are PCI Express's own) that differ from 0, and the vectors
whose messages wait for Bus Master Enable, in order: the bits set in the pending-bit array (BAR4 at D000h; R334, R335). -/
structure HostRT where
  rings : Tbl RingRT
  punts : List PuntPkt
  departed : List (Nat × Nat × Option Nat)
  served : Tbl Nat
  chans : Tbl ChanRT
  chanNext : Nat
  payload : Nat
  readReq : Nat
  staging : List Host.Cell
  msixTable : List Host.Cell
  msixHeld : List Nat
  deriving DecidableEq, Repr

/-! ### The HBM controller (chapter 13) -/

/-- The stack: the error log (newest first, with the count ever made), the tick at which the running frequency change was
accepted and its target, a frequency write that waits for its end, the scrubber's unit and the tick its pass began, the
refresh rate decided and since when the temperature allows the next lower one, the refresh mode at the last interval
boundary, refreshes made by pseudo-channel, the delays trained for each frequency and those of initial training (key
(frequency × 2 + 0 delay or 1 strobe) × 2^16 + row within a set), the tick of each pseudo-channel's last retraining, the
pattern operation running as (operation, pseudo-channel), the tick at which training began, whether it has come to set B
at LOW, and how often its running step has failed (R327). -/
structure HbmRT where
  log : List (Nat × Nat)
  logNext : Nat
  change : Option (Nat × Nat)
  waiting : Option Nat
  scrubUnit : Nat
  scrubStart : Nat
  rateNext : Nat
  coolSince : Option Nat
  modeNow : Nat
  refreshes : Tbl Nat
  trained : Tbl Nat
  initial : Tbl Nat
  retrained : Tbl Nat
  op : Option (Nat × Nat)
  trainStart : Nat
  trainLow : Bool
  trainTries : Nat
  deriving DecidableEq, Repr

/-! ### Board services (chapter 18) -/

/-- The supervision of the board: dies above 108 °C (bit 0 forwarding, bit 1 traffic), the running Sideboard sequence as
(sequence, start instant in 0.25 ns, next entry), the waiting ones as (instant, sequence) in order, the instant at which
the converter is free, the channels last converted out of range, and for each fan the consecutive windows below and at or above MinRpm. -/
structure BoardRT where
  hot : Nat
  seqRun : Option (Nat × Nat × Nat)
  seqWait : List (Nat × Nat)
  seqFree : Nat
  outside : Nat
  fanLow : Tbl Nat
  fanGood : Tbl Nat
  deriving DecidableEq, Repr

/-! ### Firmware (chapter 17) -/

/-- The card a sender has turned to (R398): the card and its group, the tick of FW_BEGIN, the acknowledged offset once it
has answered, the tick at which that offset last advanced, the offset sent up to, and the tick of the last resend. -/
structure FwHop where
  card : Nat
  group : Nat
  began : Nat
  acked : Option Nat
  moved : Nat
  sent : Nat
  resent : Nat
  deriving DecidableEq, Repr

/-- A load (R393, R398): its owner, or the card and group it comes from; whether it is forwarded; the transfer, entry card
and map; the next FwChunk row; the image length once known; the tick of the last chunk; this card's final code; the
current hop, the cards not yet turned to, the codes recorded, whether FW_RESULT of the successor has come and whether the
own one was sent; frames since the last FW_ACK. -/
structure FwLoad where
  owner : Option SessId
  via : Option (Nat × Nat)
  chain : Bool
  tid : Nat
  entry : Nat
  map : Nat
  row : Nat
  len : Option Nat
  last : Nat
  code : Option Nat
  hop : Option FwHop
  left : List Nat
  codes : List (Nat × Nat)
  back : Bool
  sent : Bool
  deriving DecidableEq, Repr

/-- An activation (R400): its instant (a 0.25 ns count; none while an instant of zero waits for the end of preparation), and
whether the standby pair is ready. -/
structure FwAct where
  at_ : Option Nat
  ready : Bool
  deriving DecidableEq, Repr

/-- Firmware at run time: the load, the activation, since when a TRIAL slot awaits confirmation and whether it was booted
at a reset (R405), and a rollback that waits for the Rack cycle start with its reason (R404). -/
structure FwRT where
  load : Option FwLoad
  act : Option FwAct
  trialSince : Option Nat
  trialCold : Bool
  rollback : Option Nat
  deriving DecidableEq, Repr

/-! ### Bring-up, resets and Bureau (chapters 19 and 20; R123) -/

/-- Bring-up: phase and hold reason (Tables 20-1 and 20-3), whether the module is held in reset, whether TrafficStart was
written, the tick of READY; blocks in reset with the tick of their reset (R433); the active Bureau pair; and the ports
held DOWN and groups held LOL by a lost reference (`lost`: one bit for each SERDES_REF); the tick at which a life-cycle change was
accepted; what ZoaUdpPort held at the module reset; and whether the standby pair is held in reset since it failed (R123). -/
structure BootRT where
  phase : Nat
  hold : Nat
  held : Bool
  started : Bool
  readyAt : Nat
  blocks : List (Nat × Nat)
  pair : Nat
  lost : Nat
  lifeAt : Nat
  zoaPort : Nat
  failed : Bool
  deriving DecidableEq, Repr

/-- Everything that a module reset clears and that a snapshot copies. -/
structure Blocks where
  store : Tbl Nat
  time : TimeRT
  gen : GenRT
  route : RouteRT
  exact : ExactRT
  range : RangeRT
  repair : RepairRT
  ports : Tbl PortRT
  fe : FeRT
  tm : TmRT
  sched : SchedRT
  gates : Tbl GateRT
  shelf : ShelfRT
  mesh : MeshRT
  tel : TelRT
  host : HostRT
  hbm : HbmRT
  board : BoardRT
  fw : FwRT
  boot : BootRT
  deriving DecidableEq, Repr

/-! ### Chest, the always-on domain, pins -/

/-- The firmware metadata of Chest that changes by journalled writes (R389): the state codes of slots A and B, their
at-reset marks, FwActiveSlot, FwMinRollback and the
transfer counter (R397). -/
structure FwMeta where
  stA : Nat
  stB : Nat
  markA : Bool
  markB : Bool
  active : Nat
  minRollback : Nat
  transfer : Nat
  deriving DecidableEq, Repr

/-- A journal record (R415, R416): what its discarding at a boot brings back (home values, the audit entry it carries with
the entry that it overwrote, firmware metadata, the life-cycle intent), its size in bytes, whether its commit mark is
written, and whether a boot has found it and has still to scan it (R417). -/
structure JRec where
  undo : List (Nat × Nat)
  audit : Option Nat
  lostAudit : Option (Nat × Nat)
  meta_ : Option FwMeta
  intent : Option (Option (Nat × Nat))
  bytes : Nat
  marked : Bool
  found : Bool
  deriving DecidableEq, Repr

/-- A firmware slot's content (chapter 17): the header's 1,024 bytes and the body received. -/
structure FwSlot where
  header : Bytes
  body : Bytes
  deriving DecidableEq, Repr

/-- What the non-volatile store keeps (Table 16-4): values of class P by key as the newest record leaves them, the journal
oldest first, the audit log (newest first, with the number of entries ever made), tenant keys, the firmware slots and
their metadata, the life-cycle intent (from, to), what DECOMMISSIONED destroys, and what
manufacture sets (R5, R6). -/
structure Chest where
  home : Tbl Nat
  journal : List JRec
  audit : List (Nat × Nat)
  auditNext : Nat
  slotA : FwSlot
  slotB : FwSlot
  fwMeta : FwMeta
  intent : Option (Nat × Nat)
  rootKeyGone : Bool
  unitKey : Bool
  serial : Nat
  grade : Nat
  sample : Bool
  deriving DecidableEq, Repr

/-- The always-on domain: what survives every module reset but not a loss of VAUX (R410, R414, R431). -/
structure AlwaysOn where
  seqViolation : Bool
  seqRail : Nat
  brownRail : Option Nat
  deriving DecidableEq, Repr

/-- Levels that the board holds, which no reset of the module changes: POR_N low, VAUX absent, the NV guard
asserted (R412), and the reference clocks present by bit of ClockStatus (Table 19-1). -/
structure Pins where
  porLow : Bool
  noPower : Bool
  guard : Bool
  refs : Nat
  deriving DecidableEq, Repr

/-! ### Sessions -/

/-- A unit of R49: an object that is not a TABLE (row 0), or one row of a TABLE. -/
structure CUnit where
  obj : Nat
  row : Nat
  deriving DecidableEq, Repr

/-- Where a transaction stands (Table 2-6). -/
inductive TxnSt where
  | open_ | pending | waiting | failed
  deriving DecidableEq, Repr

/-- A session's transaction (R46 to R56). `touched` holds each unit with the commit sequence number it was first seen
at; `at_` the named grid instant of a timed commit (0.25 ns count); `order` the order of acceptance; `genKept` whether
that commit holds a generation (R53). -/
structure Txn where
  handle : Nat
  st : TxnSt
  staged : List SW
  touched : List (CUnit × Nat)
  bytes : Nat
  lastWrite : Nat
  at_ : Option Nat
  order : Nat
  lastStatus : Nat
  failedObj : Nat
  genKept : Bool
  deriving DecidableEq, Repr

/-- The TxnStatus a session reads once its transaction has ended. -/
structure TxnEnd where
  st : Nat
  status : Nat
  handle : Nat
  failedObj : Nat
  deriving DecidableEq, Repr

/-- A response item. -/
structure RItem where
  obj : Nat
  typ : Nat
  row : Nat
  fld : Nat
  status : Nat
  val : Bytes
  deriving DecidableEq, Repr

/-- A ZOA response (Table 2-8). -/
structure Resp where
  op : Nat
  status : Nat
  more : Bool
  small : Bool
  rid : Nat
  ctx : Nat
  items : List RItem
  deriving DecidableEq, Repr

/-- A NOTIFY message: its sequence number and items (R70). -/
structure Note where
  seq : Nat
  items : List RItem
  deriving DecidableEq, Repr

/-- A subscription: the object, the value last sent (or held when it was made) and the tick of the last NOTIFY. -/
structure Sub where
  obj : Nat
  last : Nat
  sentAt : Option Nat
  deriving DecidableEq, Repr

/-- What a waiting commit waits for (R53, R136): a generation, or the inactive graph bank. -/
inductive WaitFor where
  | gen | bank
  deriving DecidableEq, Repr

/-- A commit that waits: whose it is, whether it is the commit of a direct write (R48) with the writes and response items
it carries, the header of the response it owes, the tick at which the wait times out, what it waits for, its order of
acceptance, and the instant of a timed commit. -/
structure Wait where
  sess : SessId
  direct : Bool
  writes : List SW
  items : List RItem
  op : Nat
  rid : Nat
  ctx : Nat
  small : Bool
  due : Nat
  waitFor : WaitFor
  order : Nat
  at_ : Option Nat
  deriving DecidableEq, Repr

/-- How a session reaches the module (R38, R61, R78). -/
inductive SessKind where
  | bar0 | mailbox | dtls | cleartext | inband
  deriving DecidableEq, Repr

/-- A search cursor of a session (R177, R178). -/
structure RangeCur where
  set : Nat
  rangeKey : Nat
  ternKey : Nat
  st : Nat
  gen : Nat
  row : Nat
  prio : Nat
  result : Nat
  hit : Bool
  multiple : Bool
  deriving DecidableEq, Repr

/-- What a session has asked by the objects that are its own: RouteQuery, ExactQuery, SchedNodeQuery (level, row) and
RangeSearch (R158, R163, R177, Table 10-8). -/
structure Queries where
  route : Nat
  exact : Nat
  sched : Nat × Nat
  range : RangeCur
  deriving DecidableEq, Repr

/-- A snapshot (R57): its handle, the tick it was opened at, the copy of everything it reads from, the counts of
open transactions, snapshots and ZOA sessions then, the session's TxnStatus, the references present and the session's
queries, and the units that later commits have made it hold copies of (R58). -/
structure Snap where
  handle : Nat
  openedAt : Nat
  blocks : Blocks
  chest : Chest
  txns : Nat
  snaps : Nat
  zoas : Nat
  status : Nat
  refs : Nat
  asked : Queries
  copied : List CUnit
  deriving DecidableEq, Repr

/-- A session. `client` is its client identity (R221); `role` is meaningful for network sessions only, since mailbox
and BAR0 sessions hold the role of R374; `net` how a network session's datagrams come; `kept` its last 64 responses, newest first (R64); `running` the RequestIds of
commits that still execute, each with the number of repeats of it received; `bankSent` the tick of the last NOTIFY of each
event bank (R69);
`hadSnaps` the handles of snapshots it has opened. -/
structure Sess where
  id : SessId
  kind : SessKind
  role : Nat
  cred : Option Nat
  client : Nat
  net : Option Arrival
  last : Nat
  kept : List (Nat × Resp)
  running : List (Nat × Nat)
  noteSeq : Nat
  sendq : List Note
  subs : List Sub
  eventDue : List Nat
  bankSent : List (Nat × Nat)
  txn : Option Txn
  ended : TxnEnd
  snap : Option Snap
  hadSnaps : List Nat
  routeQ : Nat
  exactQ : Nat
  schedQ : Nat × Nat
  range : RangeCur
  deriving DecidableEq, Repr

/-- A mailbox slot's control block and buffers (Tables 2-12 and 2-13, R77); the request buffer is held as its bytes that
differ from 0. -/
structure Mbox where
  lastSeq : Nat
  busy : Option Nat
  done : Bool
  doneSeq : Nat
  reqLen : Nat
  reqBuf : List Host.Cell
  respLen : Nat
  respBuf : Bytes
  hostOwns : Bool
  deriving DecidableEq, Repr

/-- A posted BAR0 write of an object, with its value as held (none: it does not fit the object) and the counts that the
crossings of a block reset lose with it (R74). -/
structure BarWrite where
  obj : Nat
  val : Option Nat
  lost : Nat
  deriving DecidableEq, Repr

/-- What the block hands to the outside world: the model keeps every one, oldest first. -/
inductive Output where
  | resp (s : SessId) (r : Resp)
  | note (s : SessId) (n : Note)
  | msix (vector : Nat)
  | frame (port : Nat) (bytes : Bytes)
  | pause (port : Nat) (classes : Nat) (quanta : Nat)
  | local_ (port : Nat) (p : Pkt)
  | pulse (row : Nat) (at_ : Nat) (width : Nat) (high : Bool)
  | pps (second : Nat) (widthUs : Nat)
  | hostWrite (addr : Nat) (bytes : Bytes)
  | header (group : Nat) (bytes : Bytes)
  | cell (group : Nat) (slot : Nat) (bytes : Bytes)
  deriving DecidableEq, Repr

/-- Why a step stops: there is no reason. The spec gives every command an effect, so no meaning ends in a fault. -/
inductive Fault where
  deriving DecidableEq, Repr

/-- Why a command has no meaning. -/
inductive Refusal where
  /-- Raised by an arm of Dispatch.lean whose command has no meaning yet. Safe: nothing is claimed of it. -/
  | notModelled (mnemonic : String)
  deriving DecidableEq, Repr

/-- The whole machine: the blocks, sessions and mailbox slots, the next session number and handles, the number of commits
and when each unit was last changed, the order of acceptance, waiting commits, the BAR0 writes that came while one of BAR0
waits (R74), accepted timed commits whose session has
closed (client, role, transaction; R39), Chest, the always-on domain, the levels the board holds, the index of the next
free value, what the block has handed out, and the commands that wait. -/
structure State extends Blocks where
  sessions : List Sess
  mbox : List Mbox
  nextSess : Nat
  nextHandle : Nat
  nextSnap : Nat
  commitSeq : Nat
  changed : List (CUnit × Nat)
  orderNext : Nat
  waits : List Wait
  barq : List BarWrite
  orphans : List (Nat × Nat × Txn)
  chest : Chest
  ao : AlwaysOn
  pins : Pins
  free : Nat
  out : List Output
  pending : List Instr
  deriving DecidableEq, Repr
/-! ### Reset -/

/-- A domain's counter at a module reset (R81). -/
def DomRT.start : DomRT :=
  { time := 0, setReq := none, adjReq := 0, lastEvent := 0, lastServo := 0, lastEdge := none, linkLost := false
    meshSum := 0, meshCount := 0 }

/-- Longcase at a module reset: every counter at 0, GridState FREE (R81, R89). -/
def TimeRT.start : TimeRT :=
  { ticks := 0, grid := 0, st := .free, domA := DomRT.start, domB := DomRT.start, steerNum := 0, steerDen := 1, err := 0
    below := none, holdInc := 0, applied := 0, samples := [], steps := [], stepReq := none, trig := [], capLast := []
    capLog := [], capSeq := 0, capRead := 0, ppsLast := none }

/-- Rack at a module reset; the pages hold what the default of their mode gives once MeshMode is known (R274). -/
def MeshRT.start : MeshRT :=
  { slot := 0, mode := 0, groups := [], builders := [], spread := [], rot := [], turn := [], relay := [], xoff := 0
    heldRelay := [], heldTx := [], moving := [], reseq := [], heldRx := [], mcSeen := [], active := ⟨0, 0, []⟩
    standby := ⟨0, 0, []⟩, swap := none, said := [], lastResult := 0, activeCards := 0, activeSince := 0
    planned := 0, planDue := false, joined := false
    leaving := false, relayEmptySince := none, accepts := [], requests := [], grants := [], granted := [], grantTurn := 0
    lastFrame := none, lastCycle := none, steps := [], stepEnd := none, pageCards := 0, noVia := 0, control := [] }

/-- The host interface at a module reset. The request sizes are those a PCI Express function has before the host writes
them: 128 and 512 bytes (log 80). -/
def HostRT.start : HostRT :=
  { rings := [], punts := [], departed := [], served := [], chans := [], chanNext := 0, payload := 128, readReq := 512
    staging := [], msixTable := [], msixHeld := [] }

/-- The stack before its training. -/
def HbmRT.start : HbmRT :=
  { log := [], logNext := 0, change := none, waiting := none, scrubUnit := 0, scrubStart := 0, rateNext := 1
    coolSince := none, modeNow := 0, refreshes := [], trained := [], initial := [], retrained := [], op := none
    trainStart := 0, trainLow := false, trainTries := 0 }

/-- Bring-up at the release of the reset pin: phase SENSE (R440). -/
def BootRT.start : BootRT :=
  { phase := 0, hold := 0, held := false, started := false, readyAt := 0, blocks := [], pair := 0, lost := 0, lifeAt := 0
    zoaPort := 46301, failed := false }

/-- Every block as a module reset leaves it: each stored object at its default, nothing queued, GenerationCurrent 0
(R430, R442). -/
def Blocks.start : Blocks :=
  { store := [], time := TimeRT.start, gen := ⟨0, [], [], 0⟩, route := ⟨[], []⟩, exact := ⟨[], [], [], none, none, 0⟩
    range := ⟨[], []⟩, repair := ⟨[], [], []⟩, ports := [], fe := ⟨[], [], [], [], [], [], [], []⟩
    tm := ⟨[], [], [], [], ⟨0, 0⟩, ⟨0, 0⟩, [], 0, []⟩, sched := ⟨[], [], [], [], [], []⟩, gates := [], shelf := ⟨[]⟩
    mesh := MeshRT.start, tel := ⟨[], [], 0, 0, [], [], []⟩, host := HostRT.start, hbm := HbmRT.start
    board := ⟨0, none, [], 0, 0, [], []⟩, fw := ⟨none, none, none, false, none⟩, boot := BootRT.start }

/-- A session that has just begun, with tick `tick`. -/
def newSess (id : SessId) (kind : SessKind) (role client tick : Nat) (cred : Option Nat) : Sess :=
  { id := id, kind := kind, role := role, cred := cred, client := client, net := none, last := tick, kept := [], running := []
    noteSeq := 0, sendq := [], subs := [], eventDue := [], bankSent := [], txn := none, ended := ⟨0, 0, 0, 0⟩, snap := none
    hadSnaps := [], routeQ := 0, exactQ := 0, schedQ := (0, 0), range := ⟨0, 0, 0, 0, 0, 0, 0, 0, false, false⟩ }

/-- A mailbox slot without a request. -/
def Mbox.start : Mbox := ⟨0, none, false, 0, 0, [], 0, [], false⟩

/-- The sessions that always exist: BAR0 and the mailbox slots, whose client numbers are 4000h to 4004h (log 81). -/
def hostSessions (tick : Nat) : List Sess :=
  newSess .bar0 .bar0 0 0x4000 tick none ::
    [0, 1, 2, 3].map fun k : Fin 4 => newSess (.mailbox k) .mailbox 0 (0x4001 + k.val) tick none

/-- A store as manufacture leaves it: BLANK, no image in either slot, keys in place, nothing logged (Table 16-3; log 82). -/
def Chest.blank : Chest :=
  { home := [], journal := [], audit := [], auditNext := 0, slotA := ⟨[], []⟩, slotB := ⟨[], []⟩
    fwMeta := ⟨0, 0, false, false, 0, 0, 0⟩, intent := none, rootKeyGone := false, unitKey := false
    serial := 0, grade := 0, sample := false }

/-- The module right after reset: released from its first reset with every rail and reference present. -/
def State.reset : State :=
  { Blocks.start with
    sessions := hostSessions 0
    mbox := List.replicate 4 Mbox.start
    nextSess := 5, nextHandle := 1, nextSnap := 1, commitSeq := 0, changed := [], orderNext := 0, waits := [], barq := []
    orphans := [], chest := Chest.blank, ao := ⟨false, 15, none⟩, pins := ⟨false, false, false, 63⟩, free := 0, out := [], pending := [] }

end Sys2Proof.Machine
end

