-- ==== Sys2Proof/Machine/Ops.lean ====
section
/-! DEFINITION. The named operations over the state: reading and writing a stored field, counters, free values, time in
the units of R23 and R81, outputs, and the opening of a generation. -/
namespace Sys2Proof.Machine

/-- The only shape of a command's answer that these models build: the next state. -/
abbrev Out := Host.Outcome State Fault Refusal

/-! ### The object store -/

/-- The value of a key in a store of the dictionary's fields. -/
def getKey (h : Tbl Nat) (key : Nat) : Nat := Tbl.get (keyDefault key) h key

/-- Writes the value of a key; the store keeps its canonical form. -/
def putKey (h : Tbl Nat) (key v : Nat) : Tbl Nat := Tbl.put (keyDefault key) key v h

/-- Field `fld` of a stored object or row. -/
def Blocks.rd (b : Blocks) (obj row fld : Nat) : Nat :=
  getKey b.store (skey obj row fld)

/-- The scalar object `obj`. -/
def Blocks.sc (b : Blocks) (obj : Nat) : Nat := b.rd obj 0 0

/-- A one-bit field or a BOOL object. -/
def Blocks.flag (b : Blocks) (obj row fld : Nat) : Bool := b.rd obj row fld % 2 == 1

/-- Writes field `fld`. -/
def State.wr (s : State) (obj row fld v : Nat) : State :=
  { s with store := putKey s.store (skey obj row fld) v }

/-- Writes the scalar object `obj`. -/
def State.ws (s : State) (obj v : Nat) : State := s.wr obj 0 0 v

/-- A Bool as a stored bit. -/
abbrev bit (b : Bool) : Nat := if b then 1 else 0

/-- The next free value's index, and the state that has read it. -/
def State.fresh (s : State) : Nat × State := (s.free, { s with free := s.free + 1 })

/-- Adds `n` to a U64 counter. Past 2^64 − 1 the spec gives no value: a free value (log 12). -/
def State.add64 (s : State) (obj row fld n : Nat) : State :=
  let v := s.rd obj row fld + n
  if v < 2 ^ 64 then s.wr obj row fld v
  else
    let (k, s) := s.fresh
    s.wr obj row fld (Config.counterWrap k).toNat

/-- Adds `n` to a U32 counter that saturates. -/
def State.sat32 (s : State) (obj row fld n : Nat) : State :=
  s.wr obj row fld (min (s.rd obj row fld + n) (2 ^ 32 - 1))

/-- Appends to what the block hands out. -/
def State.emit (s : State) (o : Output) : State := { s with out := s.out ++ [o] }

/-! ### Changing one block's running state -/

def State.upTime (s : State) (f : TimeRT → TimeRT) : State := { s with time := f s.time }

def State.upGen (s : State) (f : GenRT → GenRT) : State := { s with gen := f s.gen }

def State.upRoute (s : State) (f : RouteRT → RouteRT) : State := { s with route := f s.route }

def State.upExact (s : State) (f : ExactRT → ExactRT) : State := { s with exact := f s.exact }

def State.upRange (s : State) (f : RangeRT → RangeRT) : State := { s with range := f s.range }

def State.upRepair (s : State) (f : RepairRT → RepairRT) : State := { s with repair := f s.repair }

def State.upFe (s : State) (f : FeRT → FeRT) : State := { s with fe := f s.fe }

def State.upTm (s : State) (f : TmRT → TmRT) : State := { s with tm := f s.tm }

def State.upSched (s : State) (f : SchedRT → SchedRT) : State := { s with sched := f s.sched }

def State.upShelf (s : State) (f : ShelfRT → ShelfRT) : State := { s with shelf := f s.shelf }

def State.upMesh (s : State) (f : MeshRT → MeshRT) : State := { s with mesh := f s.mesh }

def State.upHost (s : State) (f : HostRT → HostRT) : State := { s with host := f s.host }

def State.upHbm (s : State) (f : HbmRT → HbmRT) : State := { s with hbm := f s.hbm }

def State.upTel (s : State) (f : TelRT → TelRT) : State := { s with tel := f s.tel }

def State.upBoard (s : State) (f : BoardRT → BoardRT) : State := { s with board := f s.board }

def State.upFw (s : State) (f : FwRT → FwRT) : State := { s with fw := f s.fw }

def State.upBoot (s : State) (f : BootRT → BootRT) : State := { s with boot := f s.boot }

/-- Traffic is enabled: bring-up has reached TRAFFIC (R440, R444). -/
def Blocks.traffic (b : Blocks) : Bool := b.boot.phase == 7

/-- DECOMMISSIONED, or on the way to it: line ports and mesh groups are disabled (R379, R380). -/
def Blocks.retired (b : Blocks) : Bool :=
  b.sc O.LifeCycleState == 4 || (b.rd O.LifeCycleStatus 0 F.LifeCycleStatus_InProgress == 1 &&
    b.rd O.LifeCycleStatus 0 F.LifeCycleStatus_LastEntered == 4)

/-- Ports and mesh groups are enabled: READY or TRAFFIC (Table 20-1, R446). -/
def Blocks.opened (b : Blocks) : Bool := (b.boot.phase == 6 || b.boot.phase == 7) && !b.retired

/-- Block row `r` of Table 19-5 is in reset (R433). -/
def Blocks.inReset (b : Blocks) (r : Nat) : Bool := b.boot.blocks.any fun e => e.1 == r

/-- A line port that may not come up: its block is in reset, or its reference is lost (R433, Table 19-2). -/
def Blocks.portHeld (b : Blocks) (p : Nat) : Bool := b.inReset p || b.boot.lost.testBit (p / 64)

/-- A mesh group whose lanes do not run: its block is in reset, or its reference is lost. -/
def Blocks.groupHeld (b : Blocks) (g : Nat) : Bool := b.inReset (128 + g) || b.boot.lost.testBit (2 + g / 8)

/-- Bus Master Enable (R335). -/
def Blocks.busMaster (b : Blocks) : Bool := b.rd O.PcieLinkStatus 0 F.PcieLinkStatus_BusMasterEnable == 1

/-! ### Addressed memory: the staging window and the telemetry region -/

/-- One byte of a memory; an unlisted address reads 0, as the wipe leaves it (R328, log 6). -/
def memByte (m : List Host.Cell) (a : Nat) : Byte := Tbl.get 0 m a

/-- `n` bytes from address `a`. -/
def memRead (m : List Host.Cell) (a n : Nat) : Bytes := (List.range n).map fun i => memByte m (a + i)

/-- Writes bytes from address `a`; the memory keeps its canonical form. -/
def memWrite (m : List Host.Cell) : Nat → Bytes → List Host.Cell
  | _, [] => m
  | a, b :: t => memWrite (Tbl.put 0 a b m) (a + 1) t

/-- The canonical form of a memory: addresses strictly rising, no byte 0 listed. -/
def Memory.wf (m : List Host.Cell) : Bool := Tbl.wf (fun _ => (0 : Byte)) m

/-! ### Time -/

/-- Units of 2^-42 ns in 0.25 ns. -/
abbrev unitsPerQuarter : Nat := 2 ^ 40

/-- Longcase ticks in a microsecond and in a millisecond: one tick is nominally 1.25 ns (R81). -/
abbrev ticksPerUs : Nat := 800

abbrev ticksPerMs : Nat := 800000

abbrev ticksPerS : Nat := 800000000

/-- 0.25 ns units in a second. -/
abbrev quarterPerS : Nat := 4000000000

/-- The ticks that `ns` nanoseconds take, rounded up to a whole tick of 1.25 ns. -/
def nsTicks (ns : Nat) : Nat := ceilDiv (ns * 4) 5

/-- Grid time as a 0.25 ns count. -/
def Blocks.gridQ (b : Blocks) : Nat := b.time.grid / unitsPerQuarter

/-- Grid time as a stamp of R23 (0.25 ns units modulo 2^64). Both dies read Longcase's own count: R27 lets the forwarding die's
replica differ by up to 0.5 ns, and the model takes that difference as 0 (log 149). -/
def Blocks.stamp (b : Blocks) : Nat := b.gridQ % 2 ^ 64

/-- The wire value of TIME80 (6 bytes of seconds, 4 of nanoseconds) of a 0.25 ns count; quarter-nanoseconds are
dropped (R34). -/
def time80OfQ (q : Nat) : Nat := q / quarterPerS % 2 ^ 48 * 2 ^ 32 + q % quarterPerS / 4

/-- The 0.25 ns count of a wire TIME80 value. -/
def qOfTime80 (v : Nat) : Nat := v / 2 ^ 32 * quarterPerS + v % 2 ^ 32 * 4

/-- The nanoseconds of a wire TIME80 value are below a second (R35). -/
def time80Ok (v : Nat) : Bool := v % 2 ^ 32 < 1000000000

/-- The sum of the grid steps made after generation `g` opened, in 0.25 ns units, rounded down (R91). -/
def Blocks.stepsAfter (b : Blocks) (g : Nat) : Int :=
  ((b.time.steps.filter fun e => g < e.1).foldl (fun a e => a + e.2) 0) / (unitsPerQuarter : Int)

/-- A stamp of a packet of generation `g`, compensated for the later grid steps (R91), modulo 2^64. -/
def Blocks.compStamp (b : Blocks) (g stamp : Nat) : Nat := (((stamp : Int) + b.stepsAfter g) % 2 ^ 64).toNat

/-- `b` is at or after `a` in stamps modulo 2^64. -/
def stampReached (a b : Nat) : Bool := (b + 2 ^ 64 - a % 2 ^ 64) % 2 ^ 64 < 2 ^ 63

/-- The age in 0.25 ns units at grid stamp `now` of a stamp `a` that lies at or before it; 0 when it lies ahead. -/
def stampAge (a now : Nat) : Nat := if stampReached a now then (now + 2 ^ 64 - a % 2 ^ 64) % 2 ^ 64 else 0

/-! ### Generations -/

/-- The oldest generation not retired. -/
def Blocks.oldestGen (b : Blocks) : Nat :=
  match b.gen.closed with
  | [] => b.gen.cur
  | g :: _ => g.num

/-- The generation a tag names (R110): the number of the current run whose value modulo 64 is the tag. -/
def Blocks.genOfTag (b : Blocks) (tag : Nat) : Nat := b.gen.cur - (b.gen.cur + 64 - tag % 64) % 64

/-- The FE objects that packets see per generation (R106, R109, R135): the graph, the edit objects, and the tables that a
lookup reads or that its result names. The meters, samplers, mirror sessions, punt reasons and the scalars beside the
graph are the other FE objects of R106: they apply to every packet from the boundary on (log 153). -/
def perGeneration (obj : Nat) : Bool :=
  decide (obj ≤ O.FlowHashSeed) ||
    [O.LookupProfile, O.RouteDefault, O.ExactKeyProfile, O.RangeProfile, O.ActionSet, O.NextHop, O.EcmpGroup, O.EcmpMember,
      O.EditList, O.EgressMtu, O.StreamReplicate, O.StreamRecovery].contains obj

/-- Row `row` of `obj` matches nothing for packets of generation `g`: its line could not be repaired (R119). -/
def Blocks.rowLost (b : Blocks) (g obj row : Nat) : Bool :=
  b.repair.lostRows.any fun e => e.obj == obj && e.row == row && e.until_.all fun d => decide (g < d)

/-- A field of a per-generation object as packets of generation `g` see it (R109): the oldest kept value that died after
`g`, or the live one; 0 in a row whose line could not be repaired (R119). -/
def Blocks.rdGen (b : Blocks) (g obj row fld : Nat) : Nat :=
  if b.rowLost g obj row then 0
  else
    let olds := b.gen.hist.filter fun e => e.key == skey obj row fld && g < e.dead
    match olds with
    | [] => b.rd obj row fld
    | e :: t => (t.foldl (fun a x => if x.dead < a.dead then x else a) e).val

/-- A generation boundary: the current generation closes and the next opens (R106). -/
def State.openGen (s : State) : State :=
  { s with gen := { s.gen with cur := s.gen.cur + 1
                               closed := s.gen.closed ++ [⟨s.gen.cur, s.time.ticks⟩] } }

/-- Keeps the value a field has now for the generations older than `dead`. -/
def State.keepOld (s : State) (dead obj row fld : Nat) : State :=
  { s with gen := { s.gen with hist := s.gen.hist ++ [⟨skey obj row fld, s.rd obj row fld, dead⟩] } }

/-! ### Sessions -/

/-- The session of an identity. -/
def State.sess? (s : State) (i : SessId) : Option Sess := s.sessions.find? fun x => x.id == i

/-- Changes the session of an identity. -/
def State.updSess (s : State) (i : SessId) (f : Sess → Sess) : State :=
  { s with sessions := updWhere s.sessions (fun x => x.id == i) f }

end Sys2Proof.Machine
end

