-- ==== Sys2Proof/Machine/Flags.lean ====
section
/-! DEFINITION. What the module records of its own behaviour: event sources with their flags, counts and routes (R356 to
R360), and the audit log (R44, R385). -/
namespace Sys2Proof.Machine

/-- Source number of bank and bit (R355). -/
abbrev src (bank bitNo : Nat) : Nat := bank * 32 + bitNo

/-- Sends an MSI-X message, which is a memory request: while Bus Master Enable is 0 it is held, once for each vector (R335,
log 180). -/
def sendMsix (vector : Nat) (s : State) : State :=
  if s.busMaster then s.emit (.msix vector)
  else s.upHost fun h => { h with msixHeld := h.msixHeld.filter (· != vector) ++ [vector] }

/-- What a pending transition from 0 to 1 does on the source's route (R358). A PIN follows the pending sources by
itself (`pinActive`). -/
def routeAct (n : Nat) (s : State) : State :=
  let target := s.rd O.EventSource n F.EventSource_Target
  match s.rd O.EventSource n F.EventSource_Route with
  | 1 => sendMsix target s
  | 2 =>
    let owner := s.rd O.EventBanks (n / 32) F.EventBanks_Owner
    let mine := fun x : Sess => x.client == owner && owner != 0xFFFF
    { s with sessions := updWhere s.sessions mine fun x => { x with eventDue := x.eventDue ++ [n / 32] } }
  | _ => s

/-- One occurrence of a source: its flag is set, its count rises and saturates, and a rise of pending acts on the
route (R356, R358). -/
def raise (n : Nat) (s : State) : State :=
  let flags := s.rd O.EventBanks (n / 32) F.EventBanks_Flags
  let en := s.rd O.EventBanks (n / 32) F.EventBanks_Enable
  let s := s.wr O.EventBanks (n / 32) F.EventBanks_Flags (flags ||| 2 ^ (n % 32))
  let s := s.wr O.EventSource n F.EventSource_Count (min (s.rd O.EventSource n F.EventSource_Count + 1) 65535)
  if !flags.testBit (n % 32) && en.testBit (n % 32) then routeAct n s else s

/-- `k` occurrences. -/
def raiseN : Nat → Nat → State → State
  | 0, _, s => s
  | k + 1, n, s => raiseN k n (raise n s)

/-- Raises when the condition holds. -/
def raiseIf (c : Bool) (n : Nat) (s : State) : State := if c then raise n s else s

/-- Pin `p` is driven by a pending source routed to it (R358). -/
def pinActive (b : Blocks) (p : Nat) : Bool :=
  (List.range 320).any fun n =>
    b.rd O.EventSource n F.EventSource_Route == 3 && b.rd O.EventSource n F.EventSource_Target == p &&
    (b.rd O.EventBanks (n / 32) F.EventBanks_Flags).testBit (n % 32) &&
    (b.rd O.EventBanks (n / 32) F.EventBanks_Enable).testBit (n % 32)

/-- Sets a detail bit of a port or group: one occurrence of its summary source (R360). -/
def setDetail (obj row bitNo source : Nat) (s : State) : State :=
  raise source (s.wr obj row 0 (s.rd obj row 0 ||| 2 ^ bitNo))

/-! ### Chest (R41, R415) -/

/-- A stored field's value in Chest. -/
def State.homeRd (s : State) (obj row fld : Nat) : Nat := getKey s.chest.home (skey obj row fld)

/-- A journal record's size for `n` bytes of data: header line, data lines, commit-mark line (R415). -/
def recordSize (n : Nat) : Nat := 128 + ceilDiv n 64 * 64

/-- Appends a journal record that carries the present values of `keys` (object, row, field) to Chest, with whatever else
`r` carries. -/
def State.journal (s : State) (keys : List (Nat × Nat × Nat)) (bytes : Nat) (r : JRec) : State :=
  let undo := keys.map fun k => (skey k.1 k.2.1 k.2.2, s.homeRd k.1 k.2.1 k.2.2)
  let put := fun (h : Tbl Nat) (k : Nat × Nat × Nat) =>
    putKey h (skey k.1 k.2.1 k.2.2) (s.rd k.1 k.2.1 k.2.2)
  { s with chest := { s.chest with
      home := keys.foldl put s.chest.home
      journal := s.chest.journal ++ [{ r with undo := undo, bytes := recordSize bytes }] } }

/-- A record that carries nothing but values. -/
abbrev JRec.plain : JRec :=
  { undo := [], audit := none, lostAudit := none, meta_ := none, intent := none, bytes := 0, marked := false
    found := false }

/-- Writes a value of class P that the module keeps by itself, in the dictionary and in Chest, without a record of its
own. -/
def State.wrHome (s : State) (obj row fld v : Nat) : State :=
  let s1 := s.wr obj row fld v
  { s1 with chest := { s1.chest with home := putKey s1.chest.home (skey obj row fld) v } }

/-- Changes the firmware metadata in one journalled write (R389). -/
def State.setFwMeta (s : State) (f : FwMeta → FwMeta) : State :=
  let old := s.chest.fwMeta
  let s1 := s.journal [] 64 { JRec.plain with meta_ := some old }
  { s1 with chest := { s1.chest with fwMeta := f old } }

/-- The kinds of audit entry (Table 16-7). -/
inductive AuditKind where
  | violation | lifecycle | credential | key | firmware | sessionRefused | wipe | tokenRefused
  deriving DecidableEq, Repr

/-- The code of an audit kind. -/
def AuditKind.code : AuditKind → Nat
  | .violation => 1 | .lifecycle => 2 | .credential => 3 | .key => 4
  | .firmware => 5 | .sessionRefused => 6 | .wipe => 7 | .tokenRefused => 8

/-- Appends an audit entry (R385) as one journal record: 65,536 entries are kept, the oldest overwritten and counted
beyond that. The number of the first entry is 0 (log 14). `keys` are values the same record carries. -/
def auditWith (keys : List (Nat × Nat × Nat)) (k : AuditKind) (client role op obj row fld detail : Nat) (s : State) :
    State :=
  let e := s.stamp * 2 ^ 448 + k.code * 2 ^ 440 + client % 2 ^ 16 * 2 ^ 424 + role % 8 * 2 ^ 421 + op % 256 * 2 ^ 413
    + obj % 2 ^ 20 * 2 ^ 393 + row % 2 ^ 32 * 2 ^ 361 + fld % 256 * 2 ^ 353 + detail % 2 ^ 64 * 2 ^ 289
  let full := decide (65536 ≤ s.chest.audit.length)
  let lost := if full then s.chest.audit.getLast? else none
  let s1 := if full then s.sat32 O.AuditOverwritten 0 0 1 else s
  let keys := if full then (O.AuditOverwritten, 0, 0) :: keys else keys
  let s2 := s1.journal keys (64 + 8 * keys.length) { JRec.plain with audit := some s.chest.auditNext, lostAudit := lost }
  { s2 with chest := { s2.chest with
      audit := (s.chest.auditNext, e) :: s.chest.audit.take 65535
      auditNext := s.chest.auditNext + 1 } }

/-- An audit entry alone. -/
def auditEntry (k : AuditKind) (client role op obj row fld detail : Nat) (s : State) : State :=
  auditWith [] k client role op obj row fld detail s

/-- The status detail of a non-LIFECYCLE entry: bits [352:345], that is bits [63:56] of Detail. -/
abbrev auditStatus (st : Status) : Nat := st.code * 2 ^ 56

/-- An access the role may not make (R43, R44): counted and audited, nothing else. -/
def silentAccess (client role op obj row fld : Nat) (s : State) : State :=
  auditWith [(O.AuditViolationCount, 0, 0)] .violation client role op obj row fld 0 (s.add64 O.AuditViolationCount 0 0 1)

end Sys2Proof.Machine
end

