-- ==== Sys2Proof/Machine/Route.lean ====
section
/-! DEFINITION. The route table (chapter 6): keys, hashes, the length filter, placement, lookup, changes by commit and
reclaim. -/
namespace Sys2Proof.Machine

/-- CRC-32C of R144, register preset to `seed`. -/
def crc32c (seed : Nat) (b : Bytes) : Nat := (b.foldl (crcByteRefl 0x82F63B78) seed) ^^^ 0xFFFFFFFF

/-- A 128-bit left-aligned address masked to its first `len` bits. -/
def maskAddr (len addr : Nat) : Nat := addr / 2 ^ (128 - len) * 2 ^ (128 - len)

/-- The route key bytes of Table 6-2. -/
def routeKey (vrf fam len addr : Nat) : Bytes :=
  let a := beBytes 16 (maskAddr len addr)
  beBytes 2 vrf ++ [if fam = 0 then 4 else 6, BitVec.ofNat 8 len] ++
    a.take (if fam = 0 then 4 else if len ≤ 64 then 8 else 16)

/-- The slots an entry takes (R145). -/
def routeSize (fam len : Nat) : Nat := if fam = 0 then 1 else if len ≤ 64 then 2 else 4

abbrev routeBuckets : Nat := 589824

/-- The two candidate buckets of a key (R145). -/
def routeCands (b : Blocks) (k : Bytes) : Nat × Nat :=
  let b1 := crc32c (b.sc O.RouteHashSeed1) k * routeBuckets / 2 ^ 32
  let b2 := crc32c (b.sc O.RouteHashSeed2) k * routeBuckets / 2 ^ 32
  (b1, if b2 = b1 then (b1 + 1) % routeBuckets else b2)

/-- The filter block of a key and its three distinct counters, as keys of the counter table (R147). -/
def filterKeys (b : Blocks) (k : Bytes) : List Nat :=
  let h := crc32c (b.sc O.RouteFilterSeed) k
  let block := h / 2 ^ 12
  let p1 := bitsOf 11 8 h
  let p2 := (p1 + 1 + bitsOf 7 4 h % 15) % 16
  let e := bitsOf 3 0 h % 14
  let p3 := ((List.range 16).filter fun c => c != p1 && c != p2).getD e 0
  [block * 16 + p1, block * 16 + p2, block * 16 + p3]

/-- An entry is visible to packets of generation `g` (R150). -/
def visible (born : Nat) (dead : Option Nat) (g : Nat) : Bool :=
  decide (born ≤ g) && (match dead with | none => true | some d => decide (g < d))

def RouteEntry.keyIs (e : RouteEntry) (vrf fam len addr : Nat) : Bool :=
  e.vrf == vrf && e.fam == fam && e.len == len && e.addr == maskAddr len addr

/-- The entry lies in bucket `b`. -/
def RouteEntry.inBucket (e : RouteEntry) (b : Nat) : Bool := e.slot / 8 == b

/-- Slots counted under R146: live entries and those not yet reclaimed. -/
def Blocks.routeSlots (b : Blocks) : Nat := b.route.entries.foldl (fun a e => a + e.size) 0

/-- Unreclaimed entries of a family and length (RouteLengthCount). -/
def Blocks.routeLenCount (b : Blocks) (fam len : Nat) : Nat :=
  (b.route.entries.filter fun e => e.fam == fam && e.len == len).length

/-! ### Lookup -/

/-- The candidate lengths of a lookup, longest first (R149). -/
def routeCandidates (b : Blocks) (vrf fam addr : Nat) : List Nat :=
  let maxLen := if fam = 0 then 32 else 128
  (((List.range maxLen).map (· + 1)).reverse).filter fun len =>
    b.route.entries.any (fun e => e.fam == fam && e.len == len) &&
    (filterKeys b (routeKey vrf fam len addr)).all fun c => Tbl.get 0 b.route.filter c != 0

/-- A probe of one length: the entry with that key that the packet's generation sees, in either candidate bucket
(R150). -/
def routeProbe (b : Blocks) (g vrf fam len addr : Nat) : Option RouteEntry :=
  let (b1, b2) := routeCands b (routeKey vrf fam len addr)
  b.route.entries.find? fun e =>
    e.keyIs vrf fam len addr && visible e.born e.dead g && !e.lost && (e.inBucket b1 || e.inBucket b2)

/-- What a route lookup gives: the result, the cycles it takes (R151), the buckets read, and the hit for a sample
record (R368). -/
structure RouteAnswer where
  result : Nat
  cycles : Nat
  lines : List Line
  hit : Nat
  deriving DecidableEq, Repr

/-- Probes the candidates from position `k`, longest first; the first hit ends the search (R150). -/
def probeFrom (b : Blocks) (g vrf fam addr : Nat) : List Nat → Nat → Option (RouteEntry × Nat) × Nat
  | [], k => (none, k)
  | len :: t, k =>
    match routeProbe b g vrf fam len addr with
    | some e => (some (e, k), k)
    | none => probeFrom b g vrf fam addr t (k + 1)

/-- The route lookup of a packet of generation `g` (R149 to R153). -/
def routeLookup (b : Blocks) (g vrf fam addr : Nat) : RouteAnswer :=
  let cands := routeCandidates b vrf fam addr
  let (found, k) := probeFrom b g vrf fam addr cands 1
  let cycles := ceilDiv k 4
  let read := (cands.take (cycles * 4)).map fun len =>
    let (b1, b2) := routeCands b (routeKey vrf fam len addr)
    [Line.routeBucket b1, Line.routeBucket b2]
  match found with
  | some (e, _) => ⟨e.result, cycles, read.flatten, 1 * 2 ^ 28 + e.slot⟩
  | none =>
    let row := vrf * 2 + fam
    let r := if b.rowLost g O.RouteDefault row then 3 * 2 ^ 30
      else b.rdGen g O.RouteDefault row F.RouteDefault_Kind * 2 ^ 30 + b.rdGen g O.RouteDefault row F.RouteDefault_Index
    ⟨r, cycles, read.flatten ++ [Line.row O.RouteDefault row], 2 * 2 ^ 28 + row⟩

/-! ### Placement -/

/-- The slots of bucket `b` that entries occupy. -/
def bucketTaken (es : List RouteEntry) (b : Nat) : List Nat :=
  ((es.filter fun e => e.inBucket b).map fun e => (List.range e.size).map (e.slot % 8 + ·)).flatten

/-- The lowest free aligned group of `size` slots in a bucket, as a slot number (R145, R156). -/
def freeGroup (es : List RouteEntry) (size b : Nat) : Option Nat :=
  let taken := bucketTaken es b
  (((List.range 8).filter fun i => i % size == 0).find? fun i =>
    (List.range size).all fun j => !taken.contains (i + j)).map (b * 8 + ·)

/-- Moves one entry of a bucket, in slot order, to its other candidate bucket so that `size` slots come free in `b1` or
`b2` (R156). -/
def tryMove (b : Blocks) (es : List RouteEntry) (size b1 b2 : Nat) : Option (List RouteEntry × Nat) :=
  let inOrder := fun bk => (List.range 8).filterMap fun i => es.find? fun e => e.slot == bk * 8 + i
  (inOrder b1 ++ inOrder b2).findSome? fun e =>
    let (c1, c2) := routeCands b (routeKey e.vrf e.fam e.len e.addr)
    let other := if e.inBucket c1 then c2 else c1
    match freeGroup es e.size other with
    | none => none
    | some s =>
      let es' := es.map fun x => if x.slot = e.slot then { x with slot := s } else x
      match freeGroup es' size b1 <|> freeGroup es' size b2 with
      | none => none
      | some n => some (es', n)

/-- Why a route row cannot be placed: the slot limit, or no room in its buckets (R156). -/
inductive PlaceFail where
  | limit | room
  deriving DecidableEq, Repr

/-- Places a new entry (R156): the entries as they then lie, and its first slot. -/
def routePlace (b : Blocks) (es : List RouteEntry) (vrf fam len addr : Nat) :
    Except PlaceFail (List RouteEntry × Nat) :=
  let size := routeSize fam len
  if b.sc O.RouteSlotLimit < es.foldl (fun a e => a + e.size) 0 + size then .error .limit
  else
    let (b1, b2) := routeCands b (routeKey vrf fam len addr)
    match freeGroup es size b1 <|> freeGroup es size b2 with
    | some n => .ok (es, n)
    | none => match tryMove b es size b1 b2 with
      | some r => .ok r
      | none => .error .room

/-- One RouteUpdate row of a commit: operation, VRF, family, length, address, result (R154). -/
structure RouteOp where
  row : Nat
  op : Nat
  vrf : Nat
  fam : Nat
  len : Nat
  addr : Nat
  result : Nat
  deriving DecidableEq, Repr

/-- Applies one row to the entries, for a commit that opens generation `g` (R154). -/
def routeApplyOne (b : Blocks) (g : Nat) (es : List RouteEntry) (o : RouteOp) :
    Except PlaceFail (List RouteEntry) :=
  let killed := es.map fun e =>
    if e.keyIs o.vrf o.fam o.len o.addr && e.dead.isNone then { e with dead := some g } else e
  if o.op = 1 then
    match routePlace b killed o.vrf o.fam o.len o.addr with
    | .error f => .error f
    | .ok (es', n) => .ok (es' ++ [{ vrf := o.vrf, fam := o.fam, len := o.len, addr := maskAddr o.len o.addr
                                     result := o.result, slot := n, size := routeSize o.fam o.len
                                     born := g, dead := none, lost := false }])
  else if o.op = 2 then .ok killed
  else .ok es

/-- Applies the rows in ascending row order; a failure names the first row that could not be placed (R156). -/
def routeApplyAll (b : Blocks) (g : Nat) : List RouteEntry → List RouteOp → Except (PlaceFail × Nat) (List RouteEntry)
  | es, [] => .ok es
  | es, o :: t =>
    match routeApplyOne b g es o with
    | .error f => .error (f, o.row)
    | .ok es' => routeApplyAll b g es' t

/-- Raises one filter counter; it stays at 15 once there (R148). -/
def filterUp (c : Nat) (s : State) : State :=
  let v := Tbl.get 0 s.route.filter c
  if 15 ≤ v then s
  else
    let s := s.upRoute fun r => { r with filter := Tbl.put 0 c (v + 1) r.filter }
    if v + 1 = 15 then raise (src 2 5) (s.sat32 O.RouteFilterSaturated 0 0 1) else s

/-- Lowers one filter counter unless it stands at 15 (R148). -/
def filterDown (c : Nat) (s : State) : State :=
  let v := Tbl.get 0 s.route.filter c
  if v = 15 ∨ v = 0 then s
  else s.upRoute fun r => { r with filter := Tbl.put 0 c (v - 1) r.filter }

/-- The rows of a commit are applied: the filter counts every new entry before it can be seen (R148, R154). -/
def routeCommit (g : Nat) (ops : List RouteOp) (s : State) : State :=
  match routeApplyAll s.toBlocks g s.route.entries ops with
  | .error _ => s
  | .ok es =>
    let fresh := (ops.filter fun o => o.op == 1).map fun o => routeKey o.vrf o.fam o.len o.addr
    let keys := (fresh.map fun k => filterKeys s.toBlocks k).flatten
    let s1 := keys.foldl (fun a c => filterUp c a) s
    { s1 with route := { s1.route with entries := es } }

/-- A refused placement is counted, recorded and raised (R156). -/
def routeRefused (f : PlaceFail) (row : Nat) (s : State) : State :=
  let s := s.ws O.RouteLastFailRow row
  let s := if f = .room then s.sat32 O.RoutePlaceFail 0 0 1 else s
  raise (src 2 4) s

/-- Entries dead for every live generation are reclaimed with their filter counts (R109, R148). -/
def routeReclaim (s : State) : State :=
  let gone := s.route.entries.filter fun e => match e.dead with | some d => d ≤ s.oldestGen | none => false
  let keys := (gone.map fun e => filterKeys s.toBlocks (routeKey e.vrf e.fam e.len e.addr)).flatten
  let s1 := keys.foldl (fun a c => filterDown c a) s
  let stays := fun e : RouteEntry => match e.dead with | some d => decide (s.oldestGen < d) | none => true
  s1.upRoute fun r => { r with entries := r.entries.filter stays }

/-- ROUTE_FILTER_RECOMPUTE: a block that holds a saturated counter is recomputed from the unreclaimed entries (R148). -/
def execRouteFilterRecompute (block : Fin 1048576) (s : State) : Out :=
  let mine := (List.range 16).map (block.val * 16 + ·)
  if mine.any fun c => Tbl.get 0 s.route.filter c == 15 then
    let all := (s.route.entries.map fun e => filterKeys s.toBlocks (routeKey e.vrf e.fam e.len e.addr)).flatten
    .next (s.upRoute fun r =>
      { r with filter := mine.foldl (fun t c => Tbl.put 0 c (min 15 (all.count c)) t) r.filter })
  else .next s

/-- A route record (Table 6-4). -/
def routeRecord (st vrf fam len addr result slot born dead : Nat) : Nat :=
  st * 2 ^ 286 + vrf * 2 ^ 264 + (if fam = 0 then 4 else 6) * 2 ^ 256 + len * 2 ^ 248 + addr * 2 ^ 120
    + result * 2 ^ 88 + slot * 2 ^ 64 + born % 2 ^ 32 * 2 ^ 32 + dead % 2 ^ 32

/-- The record of an entry, with the state code given. -/
def RouteEntry.record (e : RouteEntry) (st : Nat) : Nat :=
  routeRecord st e.vrf e.fam e.len e.addr e.result e.slot e.born (e.dead.getD 0)

/-- RouteTable row `s` (R158). -/
def routeTableRow (b : Blocks) (row : Nat) : Nat :=
  match b.route.entries.find? fun e => decide (e.slot ≤ row) && decide (row < e.slot + e.size) with
  | none => 0
  | some e => if e.slot = row then e.record (if e.dead.isNone then 1 else 2) else 3 * 2 ^ 286

/-- The live entry of the current generation for a key (R158). -/
def routeLive (b : Blocks) (vrf fam len addr : Nat) : Option RouteEntry :=
  b.route.entries.find? fun e => e.keyIs vrf fam len addr && visible e.born e.dead b.gen.cur

/-- The family of a PREFIX in wire form: 0 IPv4, 1 IPv6, none otherwise; its length and address. -/
def prefixParts (p : Nat) : Option (Nat × Nat × Nat) :=
  let fam := bitsOf 143 136 p
  let len := bitsOf 135 128 p
  let addr := p % 2 ^ 128
  if fam = 4 ∧ len ≤ 32 then some (0, len, addr)
  else if fam = 6 ∧ len ≤ 128 then some (1, len, addr)
  else none

/-- The rules of R36 for a PREFIX. -/
def prefixOk (p : Nat) : Bool :=
  match prefixParts p with
  | none => false
  | some (_, len, addr) => addr == maskAddr len addr

/-- What a session reads from RouteQuery after writing a record (R158). -/
def routeQueryValue (b : Blocks) (q : Nat) : Nat :=
  let vrf := bitsOf 279 264 q
  let p := bitsOf 263 120 q
  let none_ := vrf * 2 ^ 264 + p * 2 ^ 120
  match prefixParts p with
  | none => none_
  | some (fam, len, addr) =>
    match routeLive b vrf fam len addr with
    | none => none_
    | some e => e.record 1

/-- A route result's reserved bits are zero and its index is zero for DROP and NO_ROUTE (Table 6-3). -/
def routeResultOk (r : Nat) : Bool :=
  bitsOf 29 24 r == 0 && (decide (bitsOf 31 30 r < 2) || bitsOf 23 0 r == 0)

/-- The check of a RouteUpdate row (R153 to R155); a row with Op 0 is checked for its reserved field only. -/
def routeUpdateOk (g : Nat → Nat) : Bool :=
  g F.RouteUpdate_OpState == 0 ||
    (prefixOk (g F.RouteUpdate_Prefix) && bitsOf 135 128 (g F.RouteUpdate_Prefix) != 0 &&
      routeResultOk (g F.RouteUpdate_Result))

/-- The unit of a route key (R157): the key's bytes as a number above 2^200, so that families cannot meet. -/
def routeUnit (vrf fam len addr : Nat) : CUnit :=
  ⟨O.RouteUpdate, (vrf * 2 + fam) * 2 ^ 136 + len * 2 ^ 128 + maskAddr len addr⟩

end Sys2Proof.Machine
end

