-- ==== Sys2Proof/Machine/Exact.lean ====
section
/-! DEFINITION. Exact match, ageing and learning (chapter 6). -/
namespace Sys2Proof.Machine

/-- Key bytes of a width: 12, 24 or 48 (R159). -/
def exactBytes (width : Nat) : Nat := 12 * 2 ^ width

/-- Entry positions of a width: 1, 2 or 4 (R160). -/
def exactSize (width : Nat) : Nat := 2 ^ width

/-- The key a profile forms from a field vector, left-aligned in 384 bits (R159). -/
def exactKey (b : Blocks) (g prof : Nat) (fv : Bytes) : Nat :=
  let n := exactBytes (b.rdGen g O.ExactKeyProfile prof F.ExactKeyProfile_Width)
  let sel := beBytes 48 (b.rdGen g O.ExactKeyProfile prof F.ExactKeyProfile_ByteSelect)
  beNat ((sel.take n).map fun i => fv.getD i.toNat 0) * 2 ^ (384 - 8 * n)

/-- The exact key string (R159). -/
def exactString (prof width key : Nat) : Bytes := beBytes 1 prof ++ (beBytes 48 key).take (exactBytes width)

/-- The candidate buckets of R160. -/
def exactCands (b : Blocks) (x : Bytes) : Nat × Nat :=
  let b1 := crc32c (b.sc O.ExactHashSeed1) x % 2 ^ 19
  let b2 := crc32c (b.sc O.ExactHashSeed2) x % 2 ^ 19
  (b1, if b2 = b1 then b1 ^^^ 1 else b2)

abbrev exactWays : Nat := 2097152

def ExactEntry.keyIs (e : ExactEntry) (prof width key : Nat) : Bool :=
  e.prof == prof && e.width == width && e.key == key

/-- A hardware-learned entry is visible whatever the generation, until it is dead for it (R167). -/
def ExactEntry.seenBy (e : ExactEntry) (g : Nat) : Bool :=
  !e.lost && visible (if e.learned then 0 else e.born) e.dead g

/-- The lookup of a key by a packet of generation `g` (R161). -/
def exactFind (b : Blocks) (g prof width key : Nat) : Option ExactEntry :=
  b.exact.entries.find? fun e => e.keyIs prof width key && e.seenBy g

/-- The lines an exact lookup reads: both buckets, and every overflow entry in use (R161). -/
def exactLines (b : Blocks) (prof width key : Nat) : List Line :=
  let (b1, b2) := exactCands b (exactString prof width key)
  [Line.exactBucket b1, Line.exactBucket b2] ++
    (b.exact.entries.filter fun e => exactWays ≤ e.loc).map fun e => Line.exactOverflow (e.loc - exactWays)

/-- A hit refreshes the entry's AgeStamp and takes it out of the ager's hands (R164). -/
def exactTouch (loc : Nat) (s : State) : State :=
  let touch := fun e : ExactEntry => { e with age := s.sc O.ExactAgeClock, found := false }
  s.upExact fun x => { x with entries := updWhere x.entries (fun e => e.loc == loc) touch }

/-! ### Placement -/

/-- The ExactTable rows in use. -/
def exactTaken (es : List ExactEntry) : List Nat :=
  (es.map fun e => (List.range (exactSize e.width)).map (e.loc + ·)).flatten

/-- The lowest free aligned group of a bucket. -/
def exactFreeIn (es : List ExactEntry) (width bucket : Nat) : Option Nat :=
  let taken := exactTaken (es.filter fun e => e.loc / 4 == bucket)
  let n := exactSize width
  (((List.range 4).filter fun i => i % n == 0).find? fun i =>
    (List.range n).all fun j => !taken.contains (bucket * 4 + i + j)).map (bucket * 4 + ·)

/-- The lowest free group of the overflow store: consecutive entries (R160), aligned to the group's size (R162). -/
def exactFreeOverflow (es : List ExactEntry) (width : Nat) : Option Nat :=
  let n := exactSize width
  let taken := exactTaken (es.filter fun e => exactWays ≤ e.loc)
  ((List.range (16384 / n)).find? fun i =>
    (List.range n).all fun j => !taken.contains (exactWays + i * n + j)).map (exactWays + · * n)

/-- The place of a new entry: b1, b2, then the overflow store (R162). -/
def exactPlace (b : Blocks) (es : List ExactEntry) (prof width key : Nat) : Option Nat :=
  let (b1, b2) := exactCands b (exactString prof width key)
  exactFreeIn es width b1 <|> exactFreeIn es width b2 <|> exactFreeOverflow es width

/-- Positions in use (ExactEntriesUsed) and overflow entries in use. -/
def Blocks.exactUsed (b : Blocks) : Nat := (exactTaken b.exact.entries).length

def Blocks.overflowUsed (b : Blocks) : Nat :=
  ((exactTaken b.exact.entries).filter fun r => exactWays ≤ r).length

/-- One ExactUpdate row of a commit. -/
structure ExactOp where
  row : Nat
  op : Nat
  prof : Nat
  width : Nat
  key : Nat
  result : Nat
  static_ : Bool
  deriving DecidableEq, Repr

/-- Why an exact row refuses its commit (R162). -/
inductive ExactFail where
  | present | full
  deriving DecidableEq, Repr

/-- Applies one row, for a commit that opens generation `g` (R162). -/
def exactApplyOne (b : Blocks) (g : Nat) (es : List ExactEntry) (o : ExactOp) :
    Except ExactFail (List ExactEntry) :=
  let isLive := fun e : ExactEntry => e.keyIs o.prof o.width o.key && e.dead.isNone
  let killed := es.map fun e => if isLive e then { e with dead := some g } else e
  if o.op = 1 ∨ o.op = 3 then
    if o.op = 1 ∧ es.any isLive then .error .present
    else match exactPlace b killed o.prof o.width o.key with
      | none => .error .full
      | some loc => .ok (killed ++ [{ prof := o.prof, width := o.width, key := o.key, result := o.result
                                      learned := false, static_ := o.static_, age := b.sc O.ExactAgeClock
                                      loc := loc, born := g, dead := none, found := false, lost := false }])
  else if o.op = 2 then .ok killed
  else .ok es

/-- Applies the rows in ascending row order. -/
def exactApplyAll (b : Blocks) (g : Nat) : List ExactEntry → List ExactOp → Except (ExactFail × Nat) (List ExactEntry)
  | es, [] => .ok es
  | es, o :: t =>
    match exactApplyOne b g es o with
    | .error f => .error (f, o.row)
    | .ok es' => exactApplyAll b g es' t

/-- The overflow store passes 90% of its 16,384 entries: the source of bank 2 (Table 15-1). -/
def overflowEvent (before : Nat) (s : State) : State :=
  raiseIf (before * 10 ≤ 16384 * 9 && 16384 * 9 < s.overflowUsed * 10) (src 2 8) s

/-- The rows of a commit are applied. -/
def exactCommit (g : Nat) (ops : List ExactOp) (s : State) : State :=
  match exactApplyAll s.toBlocks g s.exact.entries ops with
  | .error _ => s
  | .ok es => overflowEvent s.overflowUsed { s with exact := { s.exact with entries := es } }

/-- A refused row is recorded; a refusal with FULL is raised (R162). -/
def exactRefused (f : ExactFail) (row : Nat) (s : State) : State :=
  raiseIf (f == .full) (src 2 6) (s.ws O.ExactLastFailRow row)

/-- Entries dead for every live generation are reclaimed (R109). -/
def exactReclaim (s : State) : State :=
  let stays := fun e : ExactEntry => match e.dead with | some d => decide (s.oldestGen < d) | none => true
  s.upExact fun x => { x with entries := x.entries.filter stays }

/-! ### Ageing -/

/-- The entry's age has reached its profile's limit (R164). -/
def agedOut (b : Blocks) (e : ExactEntry) : Bool :=
  let lim := b.rd O.ExactKeyProfile e.prof F.ExactKeyProfile_AgeLimit
  !e.static_ && e.dead.isNone && lim != 0 && decide (lim ≤ (b.sc O.ExactAgeClock + 65536 - e.age) % 65536)

/-- EXACT_AGER_SCAN: the ager visits every bucket and overflow entry and finds the eligible ones (R164, R165). -/
def execExactAgerScan (s : State) : Out :=
  if s.flag O.ExactAgerEnable 0 0 then
    .next (s.upExact fun x =>
      { x with entries := x.entries.map fun e => if agedOut s.toBlocks e then { e with found := true } else e })
  else .next s

/-- The unit of an exact key (R162). -/
def exactUnit (prof width key : Nat) : CUnit := ⟨O.ExactUpdate, (prof * 4 + width) * 2 ^ 384 + key⟩

/-- The deletion of the entries found eligible, as one commit in the generation it opens (R165). -/
def ageCommit (s : State) : State :=
  let found := s.exact.entries.filter fun e => e.found && e.dead.isNone
  let s := s.openGen
  let g := s.gen.cur
  let seq := s.commitSeq + 1
  let s := { s with commitSeq := seq, changed := (found.map fun e : ExactEntry => (exactUnit e.prof e.width e.key, seq)) ++ s.changed }
  let die := fun e : ExactEntry => if e.found && e.dead.isNone then { e with dead := some g, found := false } else e
  let s := s.upExact fun x => { x with ageWait := none, entries := x.entries.map die }
  raise (src 2 9) (s.add64 O.ExactAgedOut 0 0 found.length)

/-! ### Learning -/

/-- The 64-byte record of a learn, move or FULL notification (Table 14-3). -/
def learnRecord (kind oldTag : Nat) (k : LearnKey) : Bytes :=
  beBytes 64 (kind * 2 ^ 510 + k.prof * 2 ^ 506 + k.width * 2 ^ 504 + oldTag * 2 ^ 496 + k.cause.srcPort * 2 ^ 488
    + k.lookup * 2 ^ 480 + k.key * 2 ^ 96)

/-- The key is remembered as notified within the hold-off (R168). -/
def recentlyNotified (b : Blocks) (id : Nat) : Bool :=
  b.exact.notified.any fun e => e.1 == id &&
    decide (b.time.ticks < e.2 + b.sc O.ExactLearnHoldoff * ticksPerMs)

/-- Remembers a notified key; the memory holds 4,096, the oldest replaced (R168). -/
def rememberNotified (id : Nat) (s : State) : State :=
  s.upExact fun x =>
    { x with notified := ((id, s.time.ticks) :: x.notified.filter fun e => e.1 != id).take 4096 }

/-- A learned key enters the queue of 1,024, unless it is there already; a full queue drops it (R166, R167). -/
def learnQueue (k : LearnKey) (s : State) : State :=
  if s.exact.learnQ.any fun q => q.prof == k.prof && q.width == k.width && q.key == k.key then s
  else if 1024 ≤ s.exact.learnQ.length then raise (src 2 7) (s.add64 O.ExactLearnDropped 0 0 1)
  else s.upExact fun x => { x with learnQ := x.learnQ ++ [k] }

/-- An exact record (Table 6-8). -/
def exactRecord (st prof width : Nat) (learned static_ : Bool) (key result age loc born dead : Nat) : Nat :=
  st * 2 ^ 542 + prof * 2 ^ 538 + width * 2 ^ 536 + bit learned * 2 ^ 535 + bit static_ * 2 ^ 534 + key * 2 ^ 150
    + result * 2 ^ 118 + age * 2 ^ 102 + loc * 2 ^ 80 + born % 2 ^ 32 * 2 ^ 32 + dead % 2 ^ 32

def ExactEntry.record (e : ExactEntry) (st : Nat) : Nat :=
  exactRecord st e.prof e.width e.learned e.static_ e.key e.result e.age e.loc e.born (e.dead.getD 0)

/-- ExactTable row (R160). -/
def exactTableRow (b : Blocks) (row : Nat) : Nat :=
  match b.exact.entries.find? fun e => decide (e.loc ≤ row) && decide (row < e.loc + exactSize e.width) with
  | none => 0
  | some e => if e.loc = row then e.record (if e.dead.isNone then 1 else 2) else 3 * 2 ^ 542

/-- What a session reads from ExactQuery after writing a record (R163). -/
def exactQueryValue (b : Blocks) (q : Nat) : Nat :=
  let prof := bitsOf 541 538 q
  let width := bitsOf 537 536 q
  let key := bitsOf 533 150 q
  match b.exact.entries.find? fun e => e.keyIs prof width key && e.seenBy b.gen.cur with
  | none => prof * 2 ^ 538 + width * 2 ^ 536 + key * 2 ^ 150
  | some e => e.record 1

/-- The check of an ExactUpdate row (R155, Table 6-8). -/
def exactUpdateOk (b : Blocks) (g : Nat → Nat) : Bool :=
  g F.ExactUpdate_OpState == 0 ||
    (g F.ExactUpdate_Width == b.rd O.ExactKeyProfile (g F.ExactUpdate_Profile) F.ExactKeyProfile_Width &&
      g F.ExactUpdate_Key % 2 ^ (384 - 8 * exactBytes (g F.ExactUpdate_Width)) == 0)

/-- The check of an ExactKeyProfile row (Table 6-7). -/
def exactProfileOk (g : Nat → Nat) : Bool :=
  let n := exactBytes (g F.ExactKeyProfile_Width)
  let sel := beBytes 48 (g F.ExactKeyProfile_ByteSelect)
  g F.ExactKeyProfile_AgeLimit != 1 && sel.all (fun x => decide (x.toNat ≤ 127)) &&
    (sel.drop n).all fun x => x == 0

/-- The check of a LookupProfile row (Table 6-1). -/
def lookupProfileOk (g : Nat → Nat) : Bool :=
  decide (g F.LookupProfile_AddrOffset ≤ if g F.LookupProfile_Family = 0 then 108 else 96)

end Sys2Proof.Machine
end

