-- ==== Sys2Proof/Machine/Parse.lean ====
section
/-! DEFINITION. The parse graph (chapter 5): the walk of a packet through the nodes of its generation's bank, the field
vector, the flow hash, and the graph-wide checks of a commit. -/
namespace Sys2Proof.Machine

/-- The kinds of parse failure, ParseStatus of Table 5-1. -/
inductive ParseFail where
  | window | hops | noTransition | truncated
  deriving DecidableEq, Repr

/-- The code of ParseStatus; 0 is OK. -/
def ParseFail.code : ParseFail → Nat
  | .window => 1 | .hops => 2 | .noTransition => 3 | .truncated => 4

/-- What the parser keeps for a packet (R126, R130): `fv` holds the 112 bytes of the graph, `visited` the nodes visited and
`rules` the length rules taken, whose rows the walk has read. -/
structure Walk where
  cursor : Nat
  node : Nat
  hops : Nat
  visited : List Nat
  rules : List Nat
  fv : Bytes
  marks : List Nat
  present : Nat
  profile : Nat
  deriving DecidableEq, Repr

/-- A read of `n` bytes at `first`, checked as R126 orders: WINDOW, then TRUNCATED. -/
def parseRead (data : Bytes) (len first n : Nat) : Except ParseFail Nat :=
  if 512 ≤ first + n - 1 then .error .window
  else if len ≤ first + n - 1 + 4 then .error .truncated
  else .ok (beAt data first n)

/-- A length rule's advance at `cursor` (R129). -/
def lengthRule (b : Blocks) (g rule : Nat) (data : Bytes) (len cursor : Nat) : Except ParseFail Nat := do
  let r := fun f => b.rdGen g O.ParseLengthRule rule f
  let v ← parseRead data len (cursor + r F.ParseLengthRule_Offset) (1 + r F.ParseLengthRule_Width2)
  return (v &&& r F.ParseLengthRule_Mask) / 2 ^ r F.ParseLengthRule_Shift * r F.ParseLengthRule_Scale
    + r F.ParseLengthRule_Add

/-- The advance of a transition or default: a constant or a length rule. -/
def parseAdvance (b : Blocks) (g mode const rule : Nat) (data : Bytes) (len cursor : Nat) : Except ParseFail Nat :=
  if mode = 0 then .ok const else lengthRule b g rule data len cursor

/-- One copy of a node (R130). -/
def parseCopy (b : Blocks) (g row : Nat) (data : Bytes) (len cursor : Nat) (fv : Bytes) : Except ParseFail Bytes :=
  let r := fun f => b.rdGen g O.ParseCopy row f
  if r F.ParseCopy_Valid = 0 then .ok fv
  else do
    let n := r F.ParseCopy_LengthMinusOne + 1
    let v ← parseRead data len (cursor + r F.ParseCopy_SrcOffset) n
    return putBe fv (r F.ParseCopy_DestOffset) n v

/-- The copies of a node in index order; the bytes copied before a failing read stay (R132). -/
def parseCopies (b : Blocks) (g : Nat) (data : Bytes) (len cursor : Nat) :
    List Nat → Bytes → Bytes × Option ParseFail
  | [], fv => (fv, none)
  | row :: t, fv =>
    match parseCopy b g row data len cursor fv with
    | .ok fv' => parseCopies b g data len cursor t fv'
    | .error e => (fv, some e)

/-- What a mark records. -/
def markOf (cursor : Nat) : Nat := if cursor ≤ 0xFFFF then cursor else (Config.markOver cursor).toNat

/-- Step 2 of R127: the node's mark, present bit and hash profile. -/
def applyNode (b : Blocks) (g : Nat) (w : Walk) : Walk :=
  let r := fun f => b.rdGen g O.ParseNode w.node f
  { w with
    marks := if r F.ParseNode_MarkSlot = 0 then w.marks
      else w.marks.set (r F.ParseNode_MarkSlot - 1) (markOf w.cursor)
    present := if r F.ParseNode_SetPresent = 1 then w.present ||| 2 ^ r F.ParseNode_PresentBit else w.present
    profile := if r F.ParseNode_HashProfile = 0 then w.profile else r F.ParseNode_HashProfile }

/-- The length rules read, with the one that an advance takes. -/
def ruleRead (mode rule : Nat) (l : List Nat) : List Nat := if mode = 0 then l else rule :: l

/-- Steps 5 and 6 of R127: the key, the transition it selects (R128) and the advance (R129). -/
def parseSelect (b : Blocks) (g : Nat) (data : Bytes) (len : Nat) (w : Walk) : Except ParseFail Walk := do
  let r := fun f => b.rdGen g O.ParseNode w.node f
  let width := r F.ParseNode_ExtractWidth
  let key ←
    if width = 0 then pure (none : Option Nat)
    else do
      let v ← parseRead data len (w.cursor + r F.ParseNode_ExtractOffset) width
      pure (some (v &&& r F.ParseNode_ExtractMask))
  let entry := match key with
    | none => none
    | some k => (List.range 64).find? fun e =>
        let q := fun f => b.rdGen g O.ParseTransition (w.node * 64 + e) f
        q F.ParseTransition_Valid == 1 && (k &&& q F.ParseTransition_Mask) == q F.ParseTransition_Value
  match entry with
  | some e =>
    let q := fun f => b.rdGen g O.ParseTransition (w.node * 64 + e) f
    let adv ← parseAdvance b g (q F.ParseTransition_AdvMode) (q F.ParseTransition_AdvConst)
      (q F.ParseTransition_LenRule) data len w.cursor
    return { w with cursor := w.cursor + adv, node := q F.ParseTransition_NextNode
                    rules := ruleRead (q F.ParseTransition_AdvMode) (q F.ParseTransition_LenRule) w.rules }
  | none =>
    if r F.ParseNode_DefaultValid = 0 then .error .noTransition
    else
      let adv ← parseAdvance b g (r F.ParseNode_DefaultAdvMode) (r F.ParseNode_DefaultAdvConst)
        (r F.ParseNode_DefaultLenRule) data len w.cursor
      return { w with cursor := w.cursor + adv, node := r F.ParseNode_DefaultNext
                      rules := ruleRead (r F.ParseNode_DefaultAdvMode) (r F.ParseNode_DefaultLenRule) w.rules }

/-- The walk from a visit onward (R127); the fuel is the visits the hop limit allows. -/
def parseWalk (b : Blocks) (g : Nat) (data : Bytes) (len : Nat) : Nat → Walk → Walk × Option ParseFail
  | 0, w => (w, some .hops)
  | fuel + 1, w =>
    let w := { w with hops := w.hops + 1, visited := w.node :: w.visited }
    if 25 ≤ w.hops then (w, some .hops)
    else if b.rdGen g O.ParseNode w.node F.ParseNode_Valid = 0 then (w, some .noTransition)
    else
      let w := applyNode b g w
      let (fv, err) := parseCopies b g data len w.cursor ((List.range 16).map fun i => w.node * 16 + i) w.fv
      let w := { w with fv := fv }
      match err with
      | some e => (w, some e)
      | none =>
        if b.rdGen g O.ParseNode w.node F.ParseNode_End = 1 then (w, none)
        else match parseSelect b g data len w with
          | .error e => (w, some e)
          | .ok w' => parseWalk b g data len fuel w'

/-- The parse of a packet of generation `g` that arrived by `srcPort` (R127). -/
def parsePacket (b : Blocks) (g srcPort : Nat) (data : Bytes) (len : Nat) : Walk × Option ParseFail :=
  parseWalk b g data len 25
    { cursor := 0, node := b.rdGen g O.ParseStart srcPort F.ParseStart_StartNode, hops := 0, visited := [], rules := []
      fv := List.replicate 112 0, marks := [0xFFFF, 0xFFFF, 0xFFFF, 0xFFFF], present := 0, profile := 0 }

/-- A row of the graph that a walk has read, with the hash profile its hash is taken by (R116). A node's copies and its
transitions are read with it. -/
def Walk.read (w : Walk) (srcPort : Nat) : Line → Bool
  | .row obj r =>
    if obj = O.ParseNode then w.visited.contains r
    else if obj = O.ParseTransition then w.visited.contains (r / 64)
    else if obj = O.ParseCopy then w.visited.contains (r / 16)
    else if obj = O.ParseLengthRule then w.rules.contains r
    else if obj = O.ParseHashProfile then r == w.profile
    else obj == O.ParseStart && r == srcPort
  | _ => false

/-- The whole field vector of Table 5-1. -/
def fieldVector (w : Walk) (fail : Option ParseFail) (len srcPort : Nat) (pass : Bool) : Bytes :=
  let status := match fail with | none => 0 | some e => e.code
  w.fv ++ beBytes 2 len ++ beBytes 1 srcPort ++ beBytes 1 (bit pass * 128 + status) ++ beBytes 1 w.node
    ++ beBytes 1 w.hops ++ beBytes 2 w.present ++ (w.marks.map fun m => beBytes 2 m).flatten

/-- The flow hash of R134 over the bytes the profile selects. -/
def flowHash (b : Blocks) (g profile : Nat) (fv : Bytes) : Nat :=
  let sel := b.rdGen g O.ParseHashProfile profile F.ParseHashProfile_ByteSelect
  let input := (fv.zipIdx).map fun (x, i) => if sel.testBit (127 - i) then x else 0
  input.foldl (crcByteMsb 16 0x1021) (b.rdGen g O.FlowHashSeed 0 0)

/-- A parse failure is counted, recorded and raised (R132). -/
def parseFailed (w : Walk) (e : ParseFail) (srcPort : Nat) (s : State) : State :=
  let counter := match e with
    | .window => O.ParseFailWindow | .hops => O.ParseFailHops
    | .noTransition => O.ParseFailNoTransition | .truncated => O.ParseFailTruncated
  let s := s.add64 counter 0 0 1
  let s := s.wr O.ParseLastFail 0 F.ParseLastFail_Kind e.code
  let s := s.wr O.ParseLastFail 0 F.ParseLastFail_Node w.node
  let s := s.wr O.ParseLastFail 0 F.ParseLastFail_Hops w.hops
  let s := s.wr O.ParseLastFail 0 F.ParseLastFail_Cursor (min w.cursor 1023)
  let s := s.wr O.ParseLastFail 0 F.ParseLastFail_SourcePort srcPort
  raise (src 2 0) s

/-! ### Checks of rows and of the whole graph -/

/-- The row checks of Tables 5-3 to 5-6 that span fields (R138); `g` reads the row's fields. -/
def parseRowOk (obj : Nat) (g : Nat → Nat) : Bool :=
  if obj = O.ParseTransition then
    decide (g F.ParseTransition_Value &&& g F.ParseTransition_Mask = g F.ParseTransition_Value)
  else if obj = O.ParseCopy then
    decide (g F.ParseCopy_DestOffset + g F.ParseCopy_LengthMinusOne + 1 ≤ 112)
  else true

/-- The graph-wide rules of R137 over a reader of the staged graph; `nodes` and `trans` are the rows that may be valid.
Answers the failing object. -/
def graphFault (r : Nat → Nat → Nat → Nat) (nodes trans : List Nat) : Option Nat :=
  let valid := fun n => r O.ParseNode n F.ParseNode_Valid == 1
  let inner := nodes.filter fun n => valid n && r O.ParseNode n F.ParseNode_End == 0
  let entries := fun n => trans.filter fun t => t / 64 == n && r O.ParseTransition t F.ParseTransition_Valid == 1
  let ruleBad := fun mode rule => mode == 1 && r O.ParseLengthRule rule F.ParseLengthRule_Scale == 0
  let badTrans := inner.any fun n => (entries n).any fun t =>
    !valid (r O.ParseTransition t F.ParseTransition_NextNode) ||
      ruleBad (r O.ParseTransition t F.ParseTransition_AdvMode) (r O.ParseTransition t F.ParseTransition_LenRule)
  let badNode := inner.any fun n =>
    if r O.ParseNode n F.ParseNode_DefaultValid == 1 then
      !valid (r O.ParseNode n F.ParseNode_DefaultNext) ||
        ruleBad (r O.ParseNode n F.ParseNode_DefaultAdvMode) (r O.ParseNode n F.ParseNode_DefaultLenRule)
    else (entries n).isEmpty
  if badTrans then some O.ParseTransition
  else if badNode then some O.ParseNode
  else if nodes.any valid && (List.range 130).any fun p => !valid (r O.ParseStart p F.ParseStart_StartNode) then
    some O.ParseStart
  else none

/-- The objects of the graph (R135). -/
def isGraphObj (obj : Nat) : Bool := decide (O.ParseNode ≤ obj) && decide (obj ≤ O.ParseGraphClear)

/-- A graph commit may overwrite the inactive bank (R136). -/
def bankFree (b : Blocks) : Bool := decide (b.gen.bankGen ≤ b.oldestGen)

end Sys2Proof.Machine
end

