-- ==== Sys2Proof/Machine/Range.lean ====
section
/-! DEFINITION. Range search (chapter 7): keys, matches in priority order, changes by commit and by direct steps, the
sessions' cursors. -/
namespace Sys2Proof.Machine

/-- A range key: the eight values, and the ternary value (R171). -/
structure RangeKey where
  vals : List Nat
  tern : Nat
  deriving DecidableEq, Repr

/-- The range key a profile forms from a field vector. -/
def rangeKeyOf (b : Blocks) (g prof : Nat) (fv : Bytes) : RangeKey :=
  let val := fun k =>
    let s := b.rdGen g O.RangeProfile prof (F.RangeProfile_Source0 + k)
    let width := [0, 1, 2, 4].getD (s % 4) 0
    beAt fv (s / 4) width
  let sel := beBytes 16 (b.rdGen g O.RangeProfile prof F.RangeProfile_TernarySelect)
  { vals := (List.range 8).map val, tern := beNat (sel.map fun i => fv.getD i.toNat 0) }

/-- Visible content matches a key (R173). -/
def rangeMatches (set : Nat) (k : RangeKey) (c : RangeContent) : Bool :=
  c.set == set &&
  ((List.range 8).all fun i =>
    !c.used.testBit i ||
      (let (lo, hi) := c.ranges.getD i (0, 0)
       decide (lo ≤ k.vals.getD i 0) && decide (k.vals.getD i 0 ≤ hi))) &&
  (k.tern &&& c.tm) == c.tv

/-- Content that packets of generation `g` see. -/
def RangeContent.seenBy (c : RangeContent) (g : Nat) : Bool :=
  !c.written && !c.lost && visible c.born c.dead g

/-- `a` comes before `b` in priority order (R174). -/
def rangeBefore (a b : RangeContent) : Bool :=
  decide (b.prio < a.prio) || (a.prio == b.prio && decide (a.row < b.row))

/-- Inserts into a list kept in priority order. -/
def rangeInsert (c : RangeContent) : List RangeContent → List RangeContent
  | [] => [c]
  | x :: t => if rangeBefore c x then c :: x :: t else x :: rangeInsert c t

/-- Every match of a key for packets of generation `g`, in priority order. -/
def rangeAll (b : Blocks) (g set : Nat) (k : RangeKey) : List RangeContent :=
  (b.range.contents.filter fun c => c.seenBy g && rangeMatches set k c).foldr rangeInsert []

/-- What a search answers the rule stage (R174): the gathered matches and the multiple-match flag. -/
def rangeSearch (b : Blocks) (g prof : Nat) (fv : Bytes) : List RangeContent × Bool :=
  let all := rangeAll b g (b.rdGen g O.RangeProfile prof F.RangeProfile_Set) (rangeKeyOf b g prof fv)
  (all.take (max 1 (b.rdGen g O.RangeProfile prof F.RangeProfile_CollectCount)), decide (2 ≤ all.length))

/-! ### Changes -/

/-- Slots in use (R180): every content's, and those held empty. -/
def rangeSlots (r : RangeRT) : List Nat := r.contents.map (·.slot) ++ r.held.map (·.2)

/-- The lowest free slot (which of the free slots is taken is the model's choice, log 35). -/
def rangeFree (r : RangeRT) : Option Nat := (List.range 147456).find? fun i => !(rangeSlots r).contains i

/-- One RangeUpdate row of a commit, or the record of a RangeDirect WRITE. -/
structure RangeOp where
  row : Nat
  op : Nat
  set : Nat
  used : Nat
  prio : Nat
  result : Nat
  ranges : List (Nat × Nat)
  tv : Nat
  tm : Nat
  deriving DecidableEq, Repr

/-- The operation a record's fields state. -/
def rangeOpOf (row : Nat) (g : Nat → Nat) : RangeOp :=
  { row := row, op := g F.RangeUpdate_OpState, set := g F.RangeUpdate_Set, used := g F.RangeUpdate_RangeUsed
    prio := g F.RangeUpdate_Priority, result := g F.RangeUpdate_Result
    ranges := (List.range 8).map fun k =>
      let v := g (F.RangeUpdate_Range0 + k)
      (v / 2 ^ 32, v % 2 ^ 32)
    tv := g F.RangeUpdate_TernaryValue, tm := g F.RangeUpdate_TernaryMask }

/-- The content an operation writes. -/
def RangeOp.content (o : RangeOp) (slot born : Nat) (written : Bool) : RangeContent :=
  { row := o.row, set := o.set, used := o.used, prio := o.prio, result := o.result, ranges := o.ranges
    tv := o.tv, tm := o.tm, slot := slot, born := born, dead := none, written := written, lost := false, direct := false }

/-- What the staged rows free before any of them is placed (R181, R182): the WRITTEN content and the held slot of each row
that a WRITE or DELETE names. -/
def rangeDiscard (r : RangeRT) (ops : List RangeOp) : RangeRT :=
  let named := fun row => ops.any fun o => o.row == row && o.op != 0
  { contents := r.contents.filter fun c => !(c.written && named c.row)
    held := r.held.filter fun h => !named h.1 }

/-- Applies one staged row in the generation the commit opens (R179): live content dies, a WRITE takes a free slot. `none`
when no slot is free. -/
def rangeApplyOne (g : Nat) (r : RangeRT) (o : RangeOp) : Option RangeRT :=
  if o.op = 0 then some r
  else
    let r1 : RangeRT := { r with
      contents := r.contents.map fun c =>
        if c.row = o.row then { c with dead := some (c.dead.getD g), direct := false } else c }
    if o.op = 1 then
      match rangeFree r1 with
      | none => none
      | some slot => some { r1 with contents := r1.contents ++ [o.content slot g false] }
    else some r1

/-- Places the staged rows in ascending row order; a failure names the first row that found no slot (R180). -/
def rangePlaceAll (g : Nat) : RangeRT → List RangeOp → Except Nat RangeRT
  | r, [] => .ok r
  | r, o :: t =>
    match rangeApplyOne g r o with
    | none => .error o.row
    | some r' => rangePlaceAll g r' t

/-- Applies the staged rows of a commit: first what they discard (R181), then their placement. -/
def rangeApplyAll (g : Nat) (r : RangeRT) (ops : List RangeOp) : Except Nat RangeRT :=
  rangePlaceAll g (rangeDiscard r ops) ops

/-- The rows of a commit are applied. -/
def rangeCommit (g : Nat) (ops : List RangeOp) (s : State) : State :=
  match rangeApplyAll g s.range ops with
  | .error _ => s
  | .ok r => { s with range := r }

/-- A refusal under R180. -/
def rangeRefused (row : Nat) (s : State) : State := raise (src 2 10) (s.ws O.RangeLastFailRow row)

/-- Dead content is reclaimed; a row whose content a direct INVALIDATE killed keeps its slot, held for it alone, unless
the row then has other content (R182). -/
def rangeReclaim (s : State) : State :=
  let old := s.oldestGen
  let gone := fun c : RangeContent => match c.dead with | some d => decide (d ≤ old) | none => false
  let stay := s.range.contents.filter fun c => !gone c
  let held := (s.range.contents.filter gone).filter fun c => c.direct && !(stay.any fun x => x.row == c.row)
  { s with range := { contents := stay, held := s.range.held ++ held.map fun c => (c.row, c.slot) } }

/-- Row `r` has live content. -/
def rangeLive (b : Blocks) (r : Nat) : Option RangeContent :=
  b.range.contents.find? fun c => c.row == r && !c.written && c.dead.isNone

/-- Whether a direct step is accepted (R182). -/
def rangeDirectStatus (b : Blocks) (o : RangeOp) : Status :=
  let mine := b.range.contents.filter fun c => c.row == o.row
  if o.op = 2 then
    if mine.any fun c => !c.written then .busy
    else if mine.isEmpty && !(b.range.held.any fun h => h.1 == o.row) && (rangeFree b.range).isNone then .full
    else .ok
  else if o.op = 3 then (if mine.any (·.written) then .ok else .range)
  else .ok

/-- One direct step in the generation `g` it opens (R182); `none` when a WRITE finds no slot. -/
def rangeDirectOne (g : Nat) (r : RangeRT) (o : RangeOp) : Option RangeRT :=
  if o.op = 1 then
    some { r with contents := r.contents.map fun c =>
             if c.row = o.row ∧ !c.written ∧ c.dead.isNone then { c with dead := some g, direct := true } else c }
  else if o.op = 2 then
    let slot := ((r.contents.find? fun c => c.row == o.row && c.written).map (·.slot)) <|>
      ((r.held.find? fun h => h.1 == o.row).map (·.2)) <|> rangeFree r
    slot.map fun n =>
      { contents := (r.contents.filter fun c => !(c.row == o.row && c.written)) ++ [o.content n g true]
        held := r.held.filter fun h => h.1 != o.row }
  else
    some { r with contents := r.contents.map fun c =>
             if c.row = o.row ∧ c.written then { c with written := false, born := g } else c }

/-- The first of several direct steps in one message that finds no slot, each after those before it (R182). -/
def rangeDirectFull (g : Nat) : RangeRT → List RangeOp → Option Nat
  | _, [] => none
  | r, o :: t =>
    match rangeDirectOne g r o with
    | none => some o.row
    | some r' => rangeDirectFull g r' t

/-- An accepted direct step is counted and done (R182). -/
def rangeDirect (g : Nat) (o : RangeOp) (s : State) : State :=
  (s.sat32 O.RangeDirectCount 0 0 1).upRange fun r => (rangeDirectOne g r o).getD r

/-- A range record (Table 7-2). -/
def rangeRecord (st : Nat) (c : RangeContent) : Nat :=
  st * 2 ^ 958 + c.set * 2 ^ 954 + c.used * 2 ^ 946 + c.prio * 2 ^ 930 + c.result * 2 ^ 898
    + ((c.ranges.zipIdx).foldl (fun a (p, k) => a + p.1 * 2 ^ (864 - 64 * k) + p.2 * 2 ^ (832 - 64 * k)) 0)
    + c.tv * 2 ^ 256 + c.tm * 2 ^ 128 + c.slot * 2 ^ 110 + c.born % 2 ^ 32 * 2 ^ 32 + (c.dead.getD 0) % 2 ^ 32

/-- RangeRule row: the live, written or last dead content; a free row names the slot held for it (R182). -/
def rangeRuleRow (b : Blocks) (row : Nat) : Nat :=
  let mine := b.range.contents.filter fun c => c.row == row
  match mine.find? (·.written) with
  | some c => rangeRecord 3 c
  | none => match mine.find? fun c => c.dead.isNone with
    | some c => rangeRecord 1 c
    | none => match mine.getLast? with
      | some c => rangeRecord 2 c
      | none => match b.range.held.find? fun h => h.1 == row with
        | some h => h.2 * 2 ^ 110
        | none => 0

/-- The check of a range record (R172). -/
def rangeRecordOk (g : Nat → Nat) : Bool :=
  (List.range 8).all (fun k =>
    !(g F.RangeUpdate_RangeUsed).testBit k ||
      (let v := g (F.RangeUpdate_Range0 + k)
       decide (v / 2 ^ 32 ≤ v % 2 ^ 32))) &&
    (g F.RangeUpdate_TernaryValue &&& g F.RangeUpdate_TernaryMask) == g F.RangeUpdate_TernaryValue

/-- The check of a RangeProfile row (R171). -/
def rangeProfileOk (g : Nat → Nat) : Bool :=
  ((List.range 8).all fun k =>
    let s := g (F.RangeProfile_Source0 + k)
    decide (s / 4 + [0, 1, 2, 4].getD (s % 4) 0 ≤ 128)) &&
  (beBytes 16 (g F.RangeProfile_TernarySelect)).all fun x => decide (x.toNat ≤ 127)

/-! ### The sessions' cursors -/

/-- The key a cursor searches. -/
def curKey (rangeKey tern : Nat) : RangeKey :=
  { vals := (List.range 8).map fun k => bitsOf (255 - 32 * k) (224 - 32 * k) rangeKey, tern := tern }

/-- A search starts in the current generation (R177). -/
def curStart (b : Blocks) (set rangeKey tern : Nat) : RangeCur :=
  let all := rangeAll b b.gen.cur set (curKey rangeKey tern)
  let base : RangeCur := { set := set, rangeKey := rangeKey, ternKey := tern, st := 2, gen := b.gen.cur, row := 0
                           prio := 0, result := 0, hit := false, multiple := decide (2 ≤ all.length) }
  match all with
  | [] => base
  | c :: _ => { base with st := 1, row := c.row, prio := c.prio, result := c.result, hit := true }

/-- The cursor moves to the next match (R177, R178); the status the write is answered with. -/
def curNext (b : Blocks) (c : RangeCur) : Status × RangeCur :=
  if c.st = 0 then (.range, c)
  else if c.st = 2 then (.ok, c)
  else if c.st = 3 ∨ c.gen < b.oldestGen then (.range, { c with st := 3, hit := false })
  else
    let all := rangeAll b c.gen c.set (curKey c.rangeKey c.ternKey)
    let later := all.filter fun x => decide (x.prio < c.prio) || (x.prio == c.prio && decide (c.row < x.row))
    match later with
    | [] => (.ok, { c with st := 2, hit := false })
    | x :: _ => (.ok, { c with row := x.row, prio := x.prio, result := x.result })

/-- What a session reads from RangeSearch (Table 7-3). -/
def curValue (c : RangeCur) : Nat :=
  let shown := bit c.hit
  shown * 2 ^ 511 + bit c.multiple * 2 ^ 510 + c.st * 2 ^ 508 + c.set * 2 ^ 504 + shown * c.row * 2 ^ 487
    + shown * c.prio * 2 ^ 471 + shown * c.result * 2 ^ 439 + c.gen % 2 ^ 32 * 2 ^ 384 + c.rangeKey * 2 ^ 128 + c.ternKey

end Sys2Proof.Machine
end

