-- ==== Sys2Proof/Machine/Actions.lean ====
section
/-! DEFINITION. Rules, meters, punts, streams and edit lists on the ingress side (chapter 8, R185 to R203; R249 to R252):
what the answers of the lookups make of a packet. -/
namespace Sys2Proof.Machine

/-- This card's slot: the value MeshCardSlot had at the last module reset. -/
def Blocks.card (b : Blocks) : Nat := b.mesh.slot

/-! ### Combining the sources -/

/-- Where SetDest or a next hop sends a packet. -/
structure Dest where
  card : Nat
  port : Nat
  queue : Nat
  plusClass : Bool
  deriving DecidableEq, Repr

/-- What the sources evaluated so far decided (R188). `dropBy` are the counters of sources that dropped by their own
result (R189); `bad` counts results handled under R185; `lines` the rows read. -/
structure Disp where
  drop : Bool
  dropBy : List Nat
  redirect : Option Nat
  copies : List Nat
  counters : List Nat
  lostCounters : Nat
  recirc : Bool
  sealIt : Bool
  dest : Option Dest
  cls : Option Nat
  edit : Option Nat
  launch : Option Nat
  meter : Option Nat
  mirror : Option Nat
  sampler : Option Nat
  stream : Option Nat
  bad : Nat
  hits : List Nat
  lines : List Line
  deriving DecidableEq, Repr

/-- No source evaluated. -/
def Disp.start : Disp :=
  { drop := false, dropBy := [], redirect := none, copies := [], counters := [], lostCounters := 0, recirc := false
    sealIt := false, dest := none, cls := none, edit := none, launch := none, meter := none, mirror := none
    sampler := none, stream := none, bad := 0, hits := [], lines := [] }

/-- A hit of a sample record (R368). -/
abbrev hitOf (table row : Nat) : Nat := table * 2 ^ 28 + row

/-- A result that names no usable row (R185). -/
def Disp.badIndex (d : Disp) : Disp := { d with drop := true, bad := d.bad + 1 }

/-- A next hop acts as SetDest and SetEdit (R187). -/
def Disp.nextHop (b : Blocks) (g row : Nat) (d : Disp) : Disp :=
  let d := { d with lines := d.lines ++ [Line.row O.NextHop row] }
  if 524288 ≤ row ∨ b.rdGen g O.NextHop row F.NextHop_Valid = 0 then d.badIndex
  else
    { d with
      dest := some ⟨b.rdGen g O.NextHop row F.NextHop_DestCard, b.rdGen g O.NextHop row F.NextHop_DestPort,
        b.rdGen g O.NextHop row F.NextHop_QueueBase, true⟩
      edit := some (b.rdGen g O.NextHop row F.NextHop_EditList)
      redirect := none
      hits := d.hits ++ [hitOf 6 row] }

/-- An ECMP group picks its member by the flow hash (R186). -/
def Disp.ecmp (b : Blocks) (g row hash : Nat) (d : Disp) : Disp :=
  let d := { d with lines := d.lines ++ [Line.row O.EcmpGroup row] }
  if 32768 ≤ row ∨ b.rowLost g O.EcmpGroup row then d.badIndex
  else
    let count := b.rdGen g O.EcmpGroup row F.EcmpGroup_CountMinusOne + 1
    let base := b.rdGen g O.EcmpGroup row F.EcmpGroup_MemberBase
    if 524288 < base + count then d.badIndex
    else
      let m := base + hash * count / 2 ^ 16
      let d := { d with hits := d.hits ++ [hitOf 7 m], lines := d.lines ++ [Line.row O.EcmpMember m] }
      if b.rowLost g O.EcmpMember m then d.badIndex
      else d.nextHop b g (b.rdGen g O.EcmpMember m 0 % 2 ^ 19)

/-- Punting by an action set, after its SetDest (R188). -/
def Disp.punt (mode reason : Nat) (d : Disp) : Disp :=
  if mode = 1 then { d with redirect := some reason }
  else if mode = 2 ∧ ¬ d.copies.contains reason then { d with copies := d.copies ++ [reason] }
  else d

/-- An action set (Table 8-2, R188). -/
def Disp.actionSet (b : Blocks) (g row : Nat) (d : Disp) : Disp :=
  let d := { d with lines := d.lines ++ [Line.row O.ActionSet row] }
  let r := fun f => b.rdGen g O.ActionSet row f
  if 262144 ≤ row ∨ r F.ActionSet_Valid = 0 then d.badIndex
  else
    let set := r F.ActionSet_SetDest = 1
    let count := r F.ActionSet_CountEnable = 1
    let full := 4 ≤ d.counters.length
    let d1 : Disp := { d with
      drop := d.drop || r F.ActionSet_Drop == 1
      recirc := d.recirc || r F.ActionSet_Recirculate == 1
      sealIt := d.sealIt || r F.ActionSet_Seal == 1
      dest := if set then some ⟨r F.ActionSet_DestCard, r F.ActionSet_DestPort, r F.ActionSet_DestQueue, false⟩ else d.dest
      redirect := if set then none else d.redirect
      cls := if r F.ActionSet_SetClass = 1 then some (r F.ActionSet_Class) else d.cls
      edit := if r F.ActionSet_SetEdit = 1 then some (r F.ActionSet_EditList) else d.edit
      launch := if r F.ActionSet_SetLaunch = 1 then some (r F.ActionSet_LaunchOffset) else d.launch
      meter := if r F.ActionSet_MeterEnable = 1 then some (r F.ActionSet_Meter) else d.meter
      mirror := if r F.ActionSet_MirrorEnable = 1 then some (r F.ActionSet_MirrorSession) else d.mirror
      sampler := if r F.ActionSet_SampleEnable = 1 then some (r F.ActionSet_Sampler) else d.sampler
      stream := if r F.ActionSet_StreamEnable = 1 then some (r F.ActionSet_Stream) else d.stream
      counters := if count ∧ ¬ full then d.counters ++ [r F.ActionSet_Counter] else d.counters
      lostCounters := if count ∧ full then d.lostCounters + 1 else d.lostCounters
      hits := d.hits ++ [hitOf 5 row] }
    d1.punt (r F.ActionSet_PuntMode) (r F.ActionSet_PuntReason)

/-- A rule result of Table 8-1. -/
def Disp.result (b : Blocks) (g hash res : Nat) (d : Disp) : Disp :=
  let idx := bitsOf 29 8 res
  match bitsOf 31 30 res with
  | 1 => d.actionSet b g idx
  | 2 => d.nextHop b g idx
  | 3 => d.ecmp b g idx hash
  | _ => d

/-- A route result of Table 6-3 (R152, R187). -/
def Disp.route (b : Blocks) (g hash res : Nat) (d : Disp) : Disp :=
  let idx := bitsOf 23 0 res
  match bitsOf 31 30 res with
  | 0 => d.nextHop b g idx
  | 1 => d.ecmp b g idx hash
  | 2 => { d with drop := true, dropBy := d.dropBy ++ [O.RouteDrops] }
  | _ => { d with redirect := some 1 }

/-- A MissAction (R187): 0 CONTINUE, 1 DROP with its counter, 2 PUNT with the no-match reason. -/
def Disp.miss (action counter : Nat) (d : Disp) : Disp :=
  if action = 1 then { d with drop := true, dropBy := d.dropBy ++ [counter] }
  else if action = 2 then { d with redirect := some 2 }
  else d

/-- An exact lookup's answer. -/
inductive ExactAns where
  | none
  | hit (loc result : Nat)
  | miss (action : Nat)
  deriving DecidableEq, Repr

/-- An exact lookup as a source. -/
def Disp.exact (b : Blocks) (g hash : Nat) (a : ExactAns) (d : Disp) : Disp :=
  match a with
  | .none => d
  | .hit loc res => ({ d with hits := d.hits ++ [hitOf 3 loc] } : Disp).result b g hash res
  | .miss action => d.miss action O.ExactMissDrops

/-- The gathered range matches: the winner, then each further one while the action set before it collects (R187). -/
def Disp.range (b : Blocks) (g hash : Nat) : List RangeContent → Disp → Disp
  | [], d => d
  | c :: t, d =>
    let d1 := ({ d with hits := d.hits ++ [hitOf 4 c.row] } : Disp).result b g hash c.result
    let idx := bitsOf 29 8 c.result
    if bitsOf 31 30 c.result = 1 ∧ b.rdGen g O.ActionSet idx F.ActionSet_Valid = 1 ∧
        b.rdGen g O.ActionSet idx F.ActionSet_Collect = 1 then d1.range b g hash t
    else d1

/-! ### Meters -/

/-- The cost of a packet of `len` bytes in a length mode (R232, Table 10-3); INHERIT is resolved by the caller. -/
def lengthCost (mode overhead len : Nat) : Nat :=
  if mode = 0 then len
  else if mode = 1 then (max 1 ((len : Int) + toSigned 7 overhead)).toNat
  else 1

/-- Meter buckets count in 1 / 32·10^9 of a cost unit, so that a rate adds a whole number at each tick. -/
abbrev meterScale : Nat := 32000000000

/-- What a rate adds in one tick of 1.25 ns: bit/s, or packets/s in PACKETS mode. -/
def rateTick (mode rate : Nat) : Nat := if mode = 2 then 40 * rate else 5 * rate

/-- The rates and bursts of a meter row (R232, R250). A row not in use may keep the zeros it has at reset (log 9). -/
def meterRowOk (g : Nat → Nat) : Bool :=
  let inUse := g F.Meter_Valid == 1
  let rateOk := fun r => (!inUse && r == 0) ||
    (if g F.Meter_LengthMode = 2 then decide (1 ≤ r) && decide (r ≤ 2000000000)
     else decide (8000 ≤ r) && decide (r ≤ 1600000000000))
  rateOk (g F.Meter_Cir) &&
    (g F.Meter_Mode == 0 ||
      (rateOk (g F.Meter_Pir) && decide (g F.Meter_Cir ≤ g F.Meter_Pir) && (!inUse || g F.Meter_EbsPbs != 0)))

/-- The meter's answer (R250): the output colour and the buckets after it. `colour` 0 green, 1 yellow, 2 red. -/
def meterRun (b : Blocks) (idx colour len : Nat) (m : MeterRT) : Nat × MeterRT :=
  let r := fun f => b.rd O.Meter idx f
  let mode := r F.Meter_LengthMode
  let need := lengthCost mode (r F.Meter_Overhead) len * meterScale
  let dt := b.time.ticks - m.last
  let cMax := r F.Meter_Cbs * meterScale
  let eMax := r F.Meter_EbsPbs * meterScale
  let inC := dt * rateTick mode (r F.Meter_Cir)
  let aware := r F.Meter_ColourAware = 1
  if r F.Meter_Mode = 0 then
    let c := m.c - inC
    let e := m.e - (inC - m.c)
    let fitC := decide (c + need ≤ cMax) && !(aware && colour != 0)
    let fitE := decide (e + need ≤ eMax) && !(aware && colour == 2)
    if fitC then (0, ⟨c + need, e, b.time.ticks⟩)
    else if fitE then (1, ⟨c, e + need, b.time.ticks⟩)
    else (2, ⟨c, e, b.time.ticks⟩)
  else
    let c := m.c - inC
    let e := m.e - dt * rateTick mode (r F.Meter_Pir)
    let red := decide (eMax < e + need) || (aware && colour == 2)
    let yellow := decide (cMax < c + need) || (aware && colour == 1)
    if red then (2, ⟨c, e, b.time.ticks⟩)
    else if yellow then (1, ⟨c, e + need, b.time.ticks⟩)
    else (0, ⟨c + need, e + need, b.time.ticks⟩)

/-- An unused meter's buckets are full. -/
abbrev MeterRT.full : MeterRT := ⟨0, 0, 0⟩

/-- Meters a packet once (R249, R250, R252): its colour, and whether DropRed discards it. -/
def meterPacket (idx colour len : Nat) (s : State) : Nat × Bool × State :=
  if s.rd O.Meter idx F.Meter_Valid = 0 then (colour, false, s)
  else
    let (c, m) := meterRun s.toBlocks idx colour len (Tbl.get MeterRT.full s.fe.meters idx)
    let s := s.upFe fun f => { f with meters := Tbl.put MeterRT.full idx m f.meters }
    let s := s.add64 O.MeterColourCount idx (c + 1) 1
    if c = 2 ∧ s.rd O.Meter idx F.Meter_DropRed = 1 then
      (c, true, raise (src 3 5) (s.add64 O.MeterRedDrops 0 0 1))
    else (c, false, s)

/-! ### Edit lists -/

/-- The fields of an edit operation (Table 8-4). -/
abbrev opCode (o : Nat) : Nat := bitsOf 127 122 o

abbrev opAnchor (o : Nat) : Nat := bitsOf 121 119 o

abbrev opOffset (o : Nat) : Int := toSigned 10 (bitsOf 118 109 o)

abbrev opWidth (o : Nat) : Nat := bitsOf 108 105 o

abbrev opParam (o : Nat) : Nat := bitsOf 95 64 o

abbrev opValue (o : Nat) : Nat := bitsOf 63 0 o

/-- The non-NOP operations of an edit list, in order; row 0 holds none. -/
def editOps (b : Blocks) (g row : Nat) : List Nat :=
  if row = 0 then []
  else ((List.range 8).map fun k => b.rdGen g O.EditList row (k + 1)).filter fun o => opCode o != 0

/-- Bytes an operation adds to a packet (Table 8-5). -/
def opGrowth (o : Nat) : Int :=
  match opCode o with
  | 2 => 4 | 3 => -4 | 4 => 4 | 5 => -4 | 8 => 6 | 9 => -6
  | 10 => if (opParam o).testBit 14 then -6 else 0
  | _ => 0

/-- The absolute position of an operation: none when its anchor is missing or the position lies outside bytes 0 to 511
(R191). -/
def opPosition (marks : List Nat) (o : Nat) : Option Nat :=
  let a := if opAnchor o = 0 then 0 else marks.getD (opAnchor o - 1) 0xFFFF
  let p := (a : Int) + opOffset o
  if a = 0xFFFF ∨ p < 0 ∨ 511 < p then none else some p.toNat

/-- The checks of an edit list at commit (R192). -/
def editListOk (ops : List Nat) : Bool :=
  decide ((ops.filter fun o => opCode o == 4).length ≤ 4) && decide ((ops.filter fun o => opCode o == 5).length ≤ 4) &&
    decide ((ops.foldl (fun a o => a + max 0 (opGrowth o)) 0) ≤ 64)

/-- The checks of one operation's fields (Table 8-4). -/
def editOpOk (o : Nat) : Bool :=
  decide (opCode o < 12) && decide (opAnchor o ≤ 4) && bitsOf 104 96 o == 0 &&
    (opCode o != 1 || (decide (1 ≤ opWidth o) && decide (opWidth o ≤ 8)))

/-- R193: the reason a packet bound for a line port is redirected for, if any. -/
def editCheck (b : Blocks) (g card port : Nat) (ops marks : List Nat) (data : Bytes) (len : Nat) : Option Nat :=
  let ttl := ops.any fun o => opCode o == 6 &&
    (match opPosition marks o with
     | none => false
     | some p => decide (p + 4 < len) && decide (byteAt data p ≤ 1))
  let growth : Int := ops.foldl (fun a o => a + opGrowth o) 0
  if ttl then some 4
  else if (len : Int) + growth > b.rdGen g O.EgressMtu (card * 128 + port) 0 then some 5
  else none

/-- An operation in literal form (R194): Anchor 0, its absolute position as Offset, the sequence number in a PUSH_RTAG.
An operation with no position takes the offset −1, which the egress pipeline skips and counts (log 41). -/
def literalOp (marks : List Nat) (seq : Option Nat) (o : Nat) : Nat :=
  let off := match opPosition marks o with | some p => p | none => 0x3FF
  let v := match seq with
    | some n => if opCode o = 8 then opValue o / 2 ^ 16 * 2 ^ 16 + n else opValue o
    | none => opValue o
  opCode o * 2 ^ 122 + off * 2 ^ 109 + opWidth o * 2 ^ 105 + opParam o * 2 ^ 64 + v

/-- The literal block a packet carries, if any (R194). -/
def literalOf (card dest : Nat) (ops marks : List Nat) (seq : Option Nat) : Option (List Nat) :=
  if ops.isEmpty then none
  else if dest ≠ card ∨ ops.any (fun o => opCode o == 8) then some (ops.map (literalOp marks seq))
  else none

/-- Bytes of a literal block. -/
def literalBytes (l : Option (List Nat)) : Nat :=
  match l with
  | none => 0
  | some ops => (ops.length + 1) * 16

/-! ### Copies and punts -/

/-- A packet given an edit list: EditPtr and its literal block. A list of NOPs alone is no edit list (log 41). -/
def Pkt.withEdit (b : Blocks) (g row : Nat) (marks : List Nat) (seq : Option Nat) (p : Pkt) : Pkt :=
  let ops := editOps b g row
  { p with hdr := { p.hdr with editPtr := if ops.isEmpty then 0 else row }
           literal := literalOf b.card p.hdr.destCard ops marks seq }

/-- A packet sent to the host port for a reason (R202): no edit list. -/
def Pkt.punted (b : Blocks) (reason : Nat) (p : Pkt) : Pkt :=
  { p with
    hdr := { p.hdr with
      punt := reason, destCard := b.card, destPort := 128
      destQueue := b.rd O.PuntReason reason F.PuntReason_Queue, editPtr := 0 }
    literal := none }

/-- A packet sent to a destination. -/
def Pkt.sentTo (card port queue : Nat) (p : Pkt) : Pkt :=
  { p with hdr := { p.hdr with destCard := card, destPort := port, destQueue := queue } }

/-- A packet cut to `n` bytes, when `n` is not 0 (R200). R24 does not list Length among the fields that the TM writes in a
copy: that the cut copy's Length is what is left of it is the model's choice (log 33). -/
def Pkt.truncated (n : Nat) (p : Pkt) : Pkt :=
  if n = 0 ∨ p.hdr.length ≤ n then p
  else { p with hdr := { p.hdr with length := n }, data := p.data.take n }

/-- The mirror copy (R200, R201): none for an invalid session or a sealed packet the session may not copy. -/
def mirrorCopy (b : Blocks) (g session : Nat) (marks : List Nat) (p : Pkt) : List Pkt :=
  let r := fun f => b.rd O.MirrorSession session f
  if r F.MirrorSession_Valid = 0 ∨ (p.hdr.sealed ∧ ¬ (b.sc O.SealedCopyAllowed).testBit session) then []
  else
    let c := (({ p with mcast := true, stampRing := none, hdr := { p.hdr with punt := 0 } } : Pkt).sentTo
      (r F.MirrorSession_DestCard) (r F.MirrorSession_DestPort) (r F.MirrorSession_DestQueue))
    [(c.withEdit b g (r F.MirrorSession_EditList) marks none).truncated (r F.MirrorSession_TruncateLength)]

/-- Member `m` of a StreamReplicate row: card, port, queue, edit list (Table 8-6). -/
def streamMember (b : Blocks) (g stream m : Nat) : Nat × Nat × Nat × Nat :=
  let v := b.rdGen g O.StreamReplicate stream (F.StreamReplicate_Member0 + m)
  (bitsOf 46 43 v, bitsOf 42 35 v, bitsOf 34 16 v, bitsOf 15 0 v)

/-- The copies of a stream packet with sequence number `seq` (R197). -/
def streamCopies (b : Blocks) (g stream seq : Nat) (marks : List Nat) (p : Pkt) : List Pkt :=
  (List.range (b.rdGen g O.StreamReplicate stream F.StreamReplicate_MembersMinusOne + 1)).map fun m =>
    let (card, port, queue, edit) := streamMember b g stream m
    (({ p with mcast := true } : Pkt).sentTo card port queue).withEdit b g edit marks (some seq)

/-! ### Samples -/

/-- The sampler's draw (R200, R201). -/
def samplerAdmits (sampler : Nat) (sealed_ : Bool) (s : State) : Bool × State :=
  let n := s.rd O.Sampler sampler F.Sampler_OneInN
  if n = 0 ∨ (sealed_ ∧ ¬ (s.sc O.SealedCopyAllowed).testBit (16 + sampler)) then (false, s)
  else
    let (k, s) := s.fresh
    ((Config.samplerDraw k).toNat % n == 0, s)

/-- What identifies a record beside the packet itself. -/
structure RecordInfo where
  egress : Bool
  drop : Nat
  stamps : List Nat
  hits : List Nat
  deriving DecidableEq, Repr

/-- A sample record (Table 15-9). -/
def sampleRecord (session : Nat) (p : Pkt) (i : RecordInfo) : Bytes :=
  let h := p.hdr
  let master := if !i.egress && h.srcPort == 128 then p.client else 0
  let hits := i.hits.take 6
  let hi := 1 * 2 ^ 12 + bit i.egress * 2 ^ 11 + session * 2 ^ 8 + bit h.sealed * 2 ^ 7 + bit (i.drop != 0) * 2 ^ 6
    + 2 ^ 5
  let f (lo v acc : Nat) : Nat := acc + v * 2 ^ (lo - 1280)
  let top := f 2032 (hi * 1) 0
  let top := f 2028 p.srcCard (f 2024 h.destCard (f 2016 h.srcPort (f 2008 h.destPort (f 1989 h.destQueue top))))
  let top := f 1986 h.cls (f 1984 h.colour (f 1978 h.punt (f 1974 i.drop top)))
  let top := f 1956 h.flowHash (f 1942 h.length (f 1910 (p.gen % 2 ^ 32) (f 1846 h.stamp (f 1830 master top))))
  let top := f 1827 hits.length top
  let top := (hits.zipIdx).foldl (fun a (v, k) => f (1440 - 32 * k) v a) top
  beBytes 96 top ++ ((List.range 8).map fun j => beBytes 4 (i.stamps.getD j 0)).flatten
    ++ (p.data ++ List.replicate 128 0).take 128

/-- A session's filters let a record pass (R367), but for the sealed rule of its owner. -/
def sessionAccepts (b : Blocks) (k : Nat) (p : Pkt) (i : RecordInfo) : Bool :=
  let r := fun f => b.rd O.SampleSession k f
  let kindOk := (r F.SampleSession_Kinds).testBit (bit i.egress)
  let masterOk := match r F.SampleSession_MasterKind with
    | 1 => r F.SampleSession_Master == p.hdr.srcPort
    | 2 => !i.egress && p.hdr.srcPort == 128 && r F.SampleSession_Master == p.client
    | _ => true
  let table := r F.SampleSession_AddrTable
  let addrOk := table == 0 || i.hits.any fun h => h / 2 ^ 28 == table &&
    decide (r F.SampleSession_AddrLow ≤ h % 2 ^ 28) && decide (h % 2 ^ 28 ≤ r F.SampleSession_AddrHigh)
  r F.SampleSession_Enable == 1 && kindOk && (r F.SampleSession_ClassMask).testBit p.hdr.cls && masterOk && addrOk

/-- Its Privilege admits the packet's Sealed bit. -/
def privilegeAdmits (privilege : Nat) (sealed_ : Bool) : Bool :=
  match privilege with
  | 0 => !sealed_
  | 1 => sealed_
  | _ => true

/-- Tallboy may build one more record: at most 50,000,000 in a second (R368), a second that begins with the first record
after the last one has passed (log 182). -/
def recordAllowed (b : Blocks) : Bool :=
  decide (b.tel.second + ticksPerS ≤ b.time.ticks) || decide (b.tel.built < 50000000)

/-- Counts a record built. -/
def recordBuilt (s : State) : State :=
  let now := s.time.ticks
  s.upTel fun t =>
    if t.second + ticksPerS ≤ now then { t with second := now, built := 1 } else { t with built := t.built + 1 }

/-! ### Host slots of sample records (R365) -/

/-- A field of a telemetry host ring. -/
abbrev telRing (b : Blocks) (r fld : Nat) : Nat := b.rd O.TelemetryHostRing r fld

/-- Every slot of a telemetry host ring has been handed over and not consumed. -/
def telFull (b : Blocks) (r : Nat) : Bool :=
  let i := fun f => b.rd O.TelemetryHostIndex r f
  decide (2 ^ telRing b r F.TelemetryHostRing_SlotCountLog2 ≤
    (i F.TelemetryHostIndex_Producer + 2 ^ 32 - i F.TelemetryHostIndex_Consumer) % 2 ^ 32)

/-- Records that a slot of a ring holds, packed whole. -/
def slotRoom (b : Blocks) (r : Nat) : Nat := 2 ^ telRing b r F.TelemetryHostRing_SlotSizeLog2 / 256

/-- Takes up to `n` records of session `k` from the buffer, oldest first. -/
def takeSamples (k : Nat) : Nat → List (Nat × Nat × Bytes) → List (Nat × Bytes) × List (Nat × Nat × Bytes)
  | _, [] => ([], [])
  | n, e :: t =>
    if 0 < n ∧ e.1 = k then
      let (a, b) := takeSamples k (n - 1) t
      (e.2 :: a, b)
    else
      let (a, b) := takeSamples k n t
      (a, e :: b)

/-- Records of the session of row `r` (1 to 8) move from the buffer into the slot that the row fills. -/
def fillSlot (r : Nat) (s : State) : State :=
  if telRing s.toBlocks r F.TelemetryHostRing_Enable = 0 ∨ !s.busMaster ∨ telFull s.toBlocks r then s
  else
    let slot := Tbl.get [] s.tel.slots r
    let (more, rest) := takeSamples (r - 1) (slotRoom s.toBlocks r - slot.length) s.tel.samples
    s.upTel fun t => { t with samples := rest, slots := Tbl.put [] r (slot ++ more) t.slots }

/-- Offers a record to one session (R367, R368): the buffer holds 16,384 records. -/
def offerRecord (k : Nat) (p : Pkt) (i : RecordInfo) (s : State) : State :=
  if !sessionAccepts s.toBlocks k p i then s
  else if p.hdr.sealed && s.rd O.SampleSession k F.SampleSession_OwnerRole != 4 then
    s.add64 O.SampleCounters k F.SampleCounters_SealedSuppressed 1
  else if !privilegeAdmits (s.rd O.SampleSession k F.SampleSession_Privilege) p.hdr.sealed then s
  else
    let s := fillSlot (k + 1) s
    if !recordAllowed s.toBlocks || decide (16384 ≤ s.tel.samples.length) then
      raise (src 9 13) (s.add64 O.SampleCounters k F.SampleCounters_Lost 1)
    else
      let s := recordBuilt (s.add64 O.SampleCounters k F.SampleCounters_Records 1)
      let s := s.upTel fun t => { t with samples := t.samples ++ [(k, s.time.ticks, sampleRecord k p i)] }
      let waits := telRing s.toBlocks (k + 1) F.TelemetryHostRing_Enable == 1 && telFull s.toBlocks (k + 1)
      raiseIf waits (src 9 14) (fillSlot (k + 1) s)

/-- A record of a packet with Sample = 1 goes to every session that accepts it (R366). -/
def recordPacket (p : Pkt) (i : RecordInfo) (s : State) : State :=
  if p.hdr.sample then (List.range 8).foldl (fun a k => offerRecord k p i a) s else s

end Sys2Proof.Machine
end

