-- ==== Sys2Proof/Machine/Edit.lean ====
section
/-! DEFINITION. What an egress pipeline does to a packet's bytes (R191, R194, R199, R209, R96, R97): edit operations,
checksum updates, congestion marking, sequence recovery, transparent-clock correction. -/
namespace Sys2Proof.Machine

/-! ### Headers and checksums -/

/-- The start of what follows up to two VLAN tags after the addresses: the EtherType there and the offset after it
(R209). -/
def skipTags (d : Bytes) : Nat × Nat :=
  let tag := fun i => beAt d i 2 == 0x8100 || beAt d i 2 == 0x88A8
  let i := if tag 12 then (if tag 16 then 20 else 16) else 12
  (beAt d i 2, i + 2)

/-- The offset after a label stack of at most `n` entries, when an entry with S = 1 ends it. -/
def skipLabels (d : Bytes) : Nat → Nat → Option Nat
  | 0, _ => none
  | n + 1, i => if byteAt d (i + 2) % 2 = 1 then some (i + 4) else skipLabels d n (i + 4)

/-- The IP header of a packet: its version and offset, when it begins within the first 64 bytes (R209). -/
def findIp (d : Bytes) : Option (Nat × Nat) :=
  let (et, i) := skipTags d
  let found :=
    if et = 0x8847 then
      match skipLabels d 4 i with
      | none => none
      | some j => if byteAt d j / 16 = 4 then some (4, j) else if byteAt d j / 16 = 6 then some (6, j) else none
    else if et = 0x0800 then some (4, i)
    else if et = 0x86DD then some (6, i)
    else none
  match found with
  | some (v, j) => if j < 64 ∧ j < d.length then some (v, j) else none
  | none => none

/-- One's complement sum of two 16-bit words. -/
def onesAdd (a b : Nat) : Nat := (a + b) % 65536 + (a + b) / 65536

/-- HC' of RFC 1624 for a 16-bit word that changes from `m` to `m'`. -/
def checksumStep (hc m m' : Nat) : Nat := 65535 - onesAdd (onesAdd (65535 - hc) (65535 - m)) m'

/-- Updates the checksum of the IPv4 header at `hs` for the bytes in which `new` differs from `old`; the lengths are
equal (R191). The checksum field's own bytes are left out. -/
def ipv4Fix (hs : Nat) (old new : Bytes) : Bytes :=
  let words := (byteAt old hs % 16) * 2
  let hc := (List.range words).foldl
    (fun h w =>
      if w = 5 then h
      else
        let m := beAt old (hs + 2 * w) 2
        let m' := beAt new (hs + 2 * w) 2
        if m = m' then h else checksumStep h m m') (beAt new (hs + 10) 2)
  if hs + 12 ≤ new.length then putBe new (hs + 10) 2 hc else new

/-- ECN of a stored packet (R209): the bytes after marking, and whether it counts as marked. -/
def ecnMark (d : Bytes) : Bytes × Bool :=
  match findIp d with
  | none => (d, false)
  | some (4, i) =>
    let tos := byteAt d (i + 1)
    if tos % 4 = 0 then (d, false)
    else if tos % 4 = 3 then (d, true)
    else (ipv4Fix i d (putBe d (i + 1) 1 (tos / 4 * 4 + 3)), true)
  | some (_, i) =>
    let w := beAt d i 2
    let ecn := w / 16 % 4
    if ecn = 0 then (d, false)
    else if ecn = 3 then (d, true)
    else (putBe d i 2 (w - ecn * 16 + 48), true)

/-! ### PTP messages (R83, R96, R97) -/

/-- The offset of a PTP header: after EtherType 0x88F7, or after one of `ports` of UDP over IP; with the IP header it stands
behind, if any. -/
def findPtpOn (ports : List Nat) (d : Bytes) : Option (Nat × Option (Nat × Nat)) :=
  let (et, i) := skipTags d
  if et = 0x88F7 then some (i, none)
  else match findIp d with
    | none => none
    | some (v, j) =>
      let u := if v = 4 then j + byteAt d j % 16 * 4 else j + 40
      let proto := if v = 4 then byteAt d (j + 9) else byteAt d (j + 6)
      let port := beAt d (u + 2) 2
      if proto = 17 ∧ ports.contains port then some (u + 8, some (v, j)) else none

/-- The PTP header of what may be an event message: event messages over UDP have port 319. -/
def findPtp (d : Bytes) : Option (Nat × Option (Nat × Nat)) := findPtpOn [319] d

/-- Message type, domainNumber and twoStepFlag of the PTP header at `i`. -/
def ptpType (d : Bytes) (i : Nat) : Nat := byteAt d i % 16

def ptpDomain (d : Bytes) (i : Nat) : Nat := byteAt d (i + 4)

def ptpTwoStep (d : Bytes) (i : Nat) : Bool := (byteAt d (i + 6)).testBit 1

/-- A Pdelay message: request, response or response follow-up (R96; message types 2, 3 and 10 of IEEE 1588). -/
def isPdelay (d : Bytes) : Bool :=
  match findPtpOn [319, 320] d with
  | some (i, _) => [2, 3, 10].contains (ptpType d i)
  | none => false

/-- A PTP event message's domainNumber. -/
def ptpEventDomain (d : Bytes) : Option Nat :=
  match findPtp d with
  | some (i, _) => if ptpType d i < 4 then some (ptpDomain d i) else none
  | none => none

/-- What TC_CORRECT does to a frame: left unchanged, corrected, or uncorrectable (counted). -/
inductive TcOut where
  | same
  | changed (d : Bytes)
  | uncorrectable
  deriving DecidableEq, Repr

/-- Transparent-clock correction (R96, R97) of the correctionField at `pos`, for a port in mode `mode`: `add` is
(D − IngressStamp) × 2^14, `link` MeanLinkDelay of the port it arrived by. -/
def tcCorrect (mode : Nat) (srcPort : Nat) (add : Int) (link : Nat) (pos : Nat) (d : Bytes) : TcOut :=
  match findPtp d with
  | none => .same
  | some (i, ip) =>
    let t := ptpType d i
    if mode = 0 ∨ mode = 3 ∨ i + 8 ≠ pos ∨ 4 ≤ t ∨ (t = 0 ∧ ptpTwoStep d i) then .same
    else
      let m : Int := if mode = 2 ∧ t = 0 ∧ srcPort < 128 then link else 0
      let old := beAt d pos 8
      let new := ofSigned 64 (toSigned 64 old + add + m)
      let d1 := putBe d pos 8 new
      match ip with
      | none => .changed d1
      | some (4, _) => .changed (putBe d1 (i - 2) 2 0)
      | some (_, _) =>
        let udpLen := beAt d (i - 4) 2
        let msgLen := beAt d (i + 2) 2
        if udpLen = msgLen + 10 then
          let sumOf := fun v => onesAdd (onesAdd (v / 2 ^ 48) (v / 2 ^ 32 % 65536)) (onesAdd (v / 2 ^ 16 % 65536) (v % 65536))
          let tr := beAt d (i + msgLen) 2
          .changed (putBe d1 (i + msgLen) 2 (onesAdd (onesAdd tr (sumOf old)) (65535 - sumOf new)))
        else .uncorrectable

/-! ### Sequence recovery (R199) -/

/-- A number's fate under a recovery function: accepted or not, with how many packets it counts out of order and
lost. -/
structure Recovered where
  accept : Bool
  outOfOrder : Nat
  lost : Nat
  rt : StreamRT
  deriving DecidableEq, Repr

/-- A stream that has accepted nothing. -/
abbrev StreamRT.start : StreamRT := ⟨true, 0, 0, 0⟩

/-- The sequence recovery function of IEEE 802.1CB: VECTOR with a history, or MATCH. -/
def recoverSeq (algorithm history now seq : Nat) (r : StreamRT) : Recovered :=
  if r.armed then ⟨true, 0, 0, ⟨false, seq, 1, now⟩⟩
  else
    let delta := toSigned 16 ((seq + 65536 - r.last) % 65536)
    if algorithm = 1 then
      if delta = 0 then ⟨false, 0, 0, r⟩ else ⟨true, if delta = 1 then 0 else 1, 0, ⟨false, seq, 1, now⟩⟩
    else if delta ≥ history ∨ delta ≤ -(history : Int) then ⟨false, 0, 0, r⟩
    else if delta ≤ 0 then
      let k := (-delta).toNat
      if r.history.testBit k then ⟨false, 0, 0, r⟩
      else ⟨true, 1, 0, { r with history := r.history ||| 2 ^ k, acceptedAt := now }⟩
    else
      let k := delta.toNat
      let lost := ((List.range k).filter fun i => !r.history.testBit (history - 1 - i)).length
      ⟨true, if k = 1 then 0 else 1, lost, ⟨false, seq, (r.history * 2 ^ k + 1) % 2 ^ history, now⟩⟩

/-! ### Running an edit list -/

/-- A frame being edited: its bytes without FCS, for each of them its position in the packet as it reached the pipeline
(none for an inserted byte), how many bytes that packet had, operations skipped, and whether it is discarded. -/
structure Editing where
  cur : Bytes
  src : List (Option Nat)
  len : Nat
  missing : Nat
  stop : Option Nat
  deriving DecidableEq, Repr

/-- A frame as it reaches an egress pipeline. -/
def Editing.start (d : Bytes) : Editing := ⟨d, (List.range d.length).map some, d.length, 0, none⟩

/-- Where the byte at original position `p`, or the first that follows it when it was removed, now lies (R191). -/
def Editing.at (e : Editing) (p : Nat) : Nat :=
  match e.src.findIdx? fun o => o.any fun x => decide (p ≤ x) with
  | some i => i
  | none => e.cur.length + (p - e.len)

/-- Inserts bytes at a position. -/
def Editing.insert (e : Editing) (p : Nat) (b : Bytes) : Editing :=
  let q := e.at p
  if e.cur.length < q then { e with missing := e.missing + 1 }
  else { e with cur := e.cur.take q ++ b ++ e.cur.drop q
                src := e.src.take q ++ List.replicate b.length none ++ e.src.drop q }

/-- Removes bytes at a position. -/
def Editing.remove (e : Editing) (p n : Nat) : Editing :=
  let q := e.at p
  { e with cur := e.cur.take q ++ e.cur.drop (q + n), src := e.src.take q ++ e.src.drop (q + n) }

/-- The bytes an operation writes, tests or removes. -/
def opSpan (o : Nat) : Nat :=
  match opCode o with
  | 1 => opWidth o | 3 => 4 | 5 => 4 | 6 => 1 | 7 => 1 | 9 => 6 | 10 => 6 | 11 => 8 | _ => 0

/-- An operation that changes bytes only, at its place `q` (Table 8-5); `hs` is where the anchor now lies. -/
def editBytes (o colour hs q : Nat) (d : Bytes) : Bytes :=
  match opCode o with
  | 1 =>
    let new := putBe d q (opWidth o) (opValue o % 256 ^ opWidth o)
    if (opParam o).testBit 0 then ipv4Fix hs d new else new
  | 6 =>
    let v := byteAt d q
    if v = 0 then d
    else
      let new := putBe d q 1 (v - 1)
      if opParam o % 4 = 0 ∧ 8 ≤ q then ipv4Fix (q - 8) d new else new
  | 7 =>
    let v := bitsOf (23 - 8 * min colour 2) (16 - 8 * min colour 2) (opValue o)
    let mask := opParam o % 256
    let new := putBe d q 1 ((v &&& mask) ||| (byteAt d q &&& (255 - mask)))
    if (opParam o).testBit 8 ∧ 1 ≤ q then ipv4Fix (q - 1) d new else new
  | _ => d

end Sys2Proof.Machine
end

