-- ==== Sys2Proof/Machine/Buffer.lean ====
section
/-! DEFINITION. The egress buffer, deep spill, punt limiters and Shelf (chapter 9; R203, R121). -/
namespace Sys2Proof.Machine

/-! ### Numbers in use -/

/-- The `n` lowest numbers that are not in use. -/
def firstFree (used : List Nat) (n : Nat) : List Nat :=
  ((List.range (used.length + n)).filter fun i => !used.contains i).take n

def QItem.cells : QItem → List Nat
  | .chip _ _ c => c
  | .seg .. => []

def QItem.desc : QItem → Nat
  | .chip _ d _ => d
  | .seg d .. => d

def QItem.pages : QItem → List Nat
  | .chip .. => []
  | .seg _ p .. => p.map (·.2)

def QItem.pkts : QItem → List Pkt
  | .chip p .. => [p]
  | .seg _ _ _ r => r.map (·.2)

def QItem.isSeg : QItem → Bool
  | .chip .. => false
  | .seg .. => true

/-- The packets selected and not yet wholly across Dovetail (R206). -/
def Blocks.crossing (b : Blocks) : List Sel := b.fe.toFe0 ++ b.fe.toFe1

/-- Every item of every queue. -/
def Blocks.items (b : Blocks) : List QItem := (b.tm.queues.map (·.2)).flatten

/-- What queue `q` holds. -/
def Blocks.queue (b : Blocks) (q : Nat) : List QItem := Tbl.get [] b.tm.queues q

def Blocks.usedCells (b : Blocks) : List Nat :=
  (b.items.map (·.cells)).flatten ++ (b.crossing.map (·.cells)).flatten

def Blocks.usedDescs (b : Blocks) : List Nat := b.items.map (·.desc) ++ b.crossing.map (·.desc)

def Blocks.usedPages (b : Blocks) : List Nat :=
  (b.items.map (·.pages)).flatten ++ (b.tm.flushing.map (·.2)).flatten

/-- FreeCells, FreeDescriptors (R205). -/
def Blocks.freeCells (b : Blocks) : Nat := 524288 - b.usedCells.length

def Blocks.freeDescs (b : Blocks) : Nat := 2097152 - b.usedDescs.length

def Blocks.freePages (b : Blocks) : Nat := 6815744 - b.usedPages.length

/-- Cells a packet occupies (R205). -/
def Pkt.cellCount (p : Pkt) : Nat := ceilDiv (p.hdr.length + literalBytes p.literal) 256

/-- Bytes of a packet's record in spill: header, literal block and bytes, to a multiple of 32 (R211). -/
def Pkt.recordBytes (p : Pkt) : Nat := ceilDiv (32 + literalBytes p.literal + p.hdr.length) 32 * 32

/-- OnChipCells of a queue. -/
def onChip (l : List QItem) : Nat := l.foldl (fun a i => a + i.cells.length) 0

/-- TotalBytes of a queue: Length over every packet, on chip and spilled (R208). -/
def totalBytes (l : List QItem) : Nat := l.foldl (fun a i => a + (i.pkts.foldl (fun x p => x + p.hdr.length) 0)) 0

/-- The queue is in spill state (R211, R214). -/
def spilling (l : List QItem) : Bool := l.any (·.isSeg)

/-- SpillQueues. -/
def Blocks.spillQueues (b : Blocks) : Nat := (b.tm.queues.filter fun e => spilling e.2).length

/-- PortClassUsage: cells of the packets of a port and class until they are freed (R206, R208). -/
def Blocks.portClass (b : Blocks) (port cls : Nat) : Nat :=
  let mine := fun p : Pkt => p.hdr.destPort == port && p.hdr.cls == cls
  b.items.foldl (fun a i => match i with | .chip p _ c => if mine p then a + c.length else a | _ => a) 0 +
    b.crossing.foldl (fun a c => if mine c.pkt then a + c.cells.length else a) 0

/-- Replaces what a queue holds. -/
def State.setQueue (s : State) (q : Nat) (l : List QItem) : State :=
  s.upTm fun t => { t with queues := Tbl.put [] q l t.queues }

/-! ### The hierarchy in effect (R225, R226) -/

/-- The object of a scheduler level: 0 port to 4 queue. -/
def levelObj (level : Nat) : Nat :=
  match level with
  | 0 => O.SchedPort | 1 => O.SchedL1 | 2 => O.SchedL2 | 3 => O.SchedL3 | _ => O.SchedQueue

/-- A field of a node's row in effect (R234). -/
def Blocks.node (b : Blocks) (level row fld : Nat) : Nat :=
  Tbl.get (fieldDefault (levelObj level) row fld) b.sched.eff (skey (levelObj level) row fld)

/-- A queue's path in effect: its L3, L2, L1 node and port, when every node is valid. -/
def Blocks.path? (b : Blocks) (q : Nat) : Option (Nat × Nat × Nat × Nat) :=
  let l3 := b.node 4 q F.SchedQueue_Parent
  let l2 := b.node 3 l3 F.SchedQueue_Parent
  let l1 := b.node 2 l2 F.SchedQueue_Parent
  let p := b.node 1 l1 F.SchedQueue_Parent
  let ok := fun level row => b.node level row F.SchedQueue_Valid == 1
  if ok 4 q && ok 3 l3 && ok 2 l2 && ok 1 l1 && ok 0 p then some (l3, l2, l1, p) else none

/-! ### Discards -/

/-- A timestamped inject packet that is discarded anywhere (R345). -/
def noteDiscard (p : Pkt) (s : State) : State :=
  match p.stampRing with
  | none => s
  | some (r, d) => s.upHost fun h => { h with departed := h.departed ++ [(r, d, none)] }

/-- The EGRESS record of a packet discarded after step 4 (R366, R368). -/
def recordDrop (code : Nat) (p : Pkt) (s : State) : State :=
  noteDiscard p (recordPacket p ⟨true, code, p.stamps, []⟩ s)

/-- The reasons of DropByReason. -/
inductive DropReason where
  | disabled | queueMax | onchipLimit | portClass | bufferFull | noDescriptor | aged | flushed | overrun
  deriving DecidableEq, Repr

/-- The row of DropByReason. -/
def DropReason.row : DropReason → Nat
  | .disabled => 0 | .queueMax => 1 | .onchipLimit => 2 | .portClass => 3 | .bufferFull => 4
  | .noDescriptor => 5 | .aged => 6 | .flushed => 7 | .overrun => 8

/-- Dropped and DroppedBytes of a queue. -/
def countDropped (q len : Nat) (s : State) : State :=
  (s.add64 O.QueueCounters q F.QueueCounters_Dropped 1).add64 O.QueueCounters q F.QueueCounters_DroppedBytes len

/-- A discard at a queue (R208): its counters, its reason, its record. -/
def tmDrop (r : DropReason) (p : Pkt) (s : State) : State :=
  let s := countDropped p.hdr.destQueue p.hdr.length s
  recordDrop (r.row + 1) p (s.add64 O.DropByReason r.row 0 1)

/-! ### Token buckets -/

/-- What a bucket lacks now, refilled at `perTick` since it was last brought up to date. -/
def Bucket.debtAt (k : Bucket) (perTick now : Nat) : Nat := k.debt - perTick * (now - k.last)

/-- The bucket holds tokens for `need`. -/
def Bucket.allows (k : Bucket) (perTick burst now need : Nat) : Bool := decide (k.debtAt perTick now + need ≤ burst)

/-- Takes `need` tokens. -/
def Bucket.take (k : Bucket) (perTick now need : Nat) : Bucket := ⟨k.debtAt perTick now + need, now⟩

/-- What SpillBudget adds to a spill bucket in a tick, in 1 / meterScale bytes (R212). -/
def Blocks.spillTick (b : Blocks) : Nat := rateTick 0 (b.sc O.SpillBudget)

/-- The burst of a spill bucket: 256 KiB. -/
abbrev spillBurst : Nat := 262144 * meterScale

/-! ### Spill (R211 to R214) -/

/-- Why a packet may not be written to spill. -/
inductive SpillNo where
  | paused | budget | page | descriptor
  deriving DecidableEq, Repr

/-- The places of the pages that hold `n` bytes from position `at_` of a segment. -/
def pagesOf (at_ n : Nat) : List Nat := (List.range (ceilDiv (at_ + n) 2048 - at_ / 2048)).map (at_ / 2048 + ·)

/-- The queue after a packet is written to spill, or the condition of R212 that fails first. -/
def spillInto (b : Blocks) (l : List QItem) (p : Pkt) : Except SpillNo (List QItem) :=
  let n := p.recordBytes
  if b.sc O.SpillPause = 1 then .error .paused
  else if !(b.tm.spillW.allows b.spillTick spillBurst b.time.ticks (n * meterScale)) then .error .budget
  else
    match l.getLast? with
    | some (.seg d pages wr recs) =>
      let new := (pagesOf wr n).filter fun i => !(pages.any fun e => e.1 == i)
      if b.freePages < new.length then .error .page
      else .ok (l.dropLast ++ [.seg d (pages ++ new.zip (firstFree b.usedPages new.length)) (wr + n) (recs ++ [(wr, p)])])
    | _ =>
      let new := pagesOf 0 n
      if b.freePages < new.length then .error .page
      else if b.freeDescs = 0 then .error .descriptor
      else match firstFree b.usedDescs 1 with
        | [d] => .ok (l ++ [.seg d (new.zip (firstFree b.usedPages new.length)) n [(0, p)]])
        | _ => .error .descriptor

/-- Counts a spill attempt that failed (R212). -/
def spillFailed (r : SpillNo) (s : State) : State :=
  match r with
  | .paused => s
  | .budget => raise (src 4 2) (s.add64 O.SpillNoBudget 0 0 1)
  | .page => raise (src 4 3) (s.add64 O.SpillNoPage 0 0 1)
  | .descriptor => s.add64 O.SpillNoDescriptor 0 0 1

/-- The cells on chip ahead of the first segment. -/
def cellsAhead : List QItem → Nat
  | [] => 0
  | .seg .. :: _ => 0
  | i :: t => i.cells.length + cellsAhead t

/-- A field of the queue's profile. -/
def Blocks.profile (b : Blocks) (q fld : Nat) : Nat :=
  b.rd O.BufferProfile (b.rd O.QueueBuffer q F.QueueBuffer_Profile) fld

/-- The queue needs a return (R213). -/
def needsReturn (b : Blocks) (q : Nat) : Bool :=
  let l := b.queue q
  spilling l && decide (cellsAhead l < b.profile q F.BufferProfile_ReturnAhead)

/-- A queue that needs a return asks for one, once. -/
def askReturn (q : Nat) (s : State) : State :=
  if needsReturn s.toBlocks q ∧ ¬ s.tm.asks.contains q then s.upTm fun t => { t with asks := t.asks ++ [q] } else s

/-! ### Admission (R208, R209) -/

/-- Raises the low-water sources that a change of the free store crosses. -/
def lowWater (cells descs : Nat) (s : State) : State :=
  let s1 := raiseIf (decide (32768 ≤ cells) && decide (s.freeCells < 32768)) (src 4 0) s
  raiseIf (decide (131072 ≤ descs) && decide (s.freeDescs < 131072)) (src 4 1) s1

/-- Step 8: the packet is counted, and the marked bytes are those stored (R209). `chip` says how it is linked. -/
def linkPacket (p : Pkt) (link : Pkt → State → State) (s : State) : State :=
  let q := p.hdr.destQueue
  let deep := s.profile q F.BufferProfile_EcnKiB * 1024 ≤ totalBytes (s.queue q)
  let (data, marked) := if s.profile q F.BufferProfile_EcnEnable = 1 ∧ deep then ecnMark p.data else (p.data, false)
  let stamps := p.stamps ++ [s.stamp % 2 ^ 32]
  let s1 := link { p with data := data, stamps := stamps } s
  let s2 := s1.add64 O.QueueCounters q F.QueueCounters_Enqueued 1
  let s3 := s2.add64 O.QueueCounters q F.QueueCounters_EnqueuedBytes p.hdr.length
  let s4 := if marked then s3.add64 O.QueueCounters q F.QueueCounters_Marked 1 else s3
  askReturn q s4

/-- Steps 4 to 8 on chip. -/
def admitOnChip (p : Pkt) (s : State) : State :=
  let q := p.hdr.destQueue
  let n := p.cellCount
  let l := s.queue q
  if s.profile q F.BufferProfile_OnChipLimit < onChip l + n then tmDrop .onchipLimit p s
  else if s.rd O.PortClassLimit (p.hdr.destPort * 8 + p.hdr.cls) 0 < s.portClass p.hdr.destPort p.hdr.cls + n then
    tmDrop .portClass p s
  else if s.freeCells < n + s.sc O.ReturnReserveCells then tmDrop .bufferFull p s
  else match firstFree s.usedDescs (min 1 s.freeDescs) with
    | [d] =>
      let cells := firstFree s.usedCells n
      let s1 := linkPacket p (fun p s => s.setQueue q (l ++ [.chip p d cells])) s
      lowWater s.freeCells s.freeDescs s1
    | _ => tmDrop .noDescriptor p s

/-- The checks of R208 on an arriving packet for this card. -/
def intake (p : Pkt) (s : State) : State :=
  let q := p.hdr.destQueue
  let l := s.queue q
  let pathOk := match s.path? q with | some (_, _, _, port) => port == p.hdr.destPort | none => false
  if s.rd O.QueueBuffer q F.QueueBuffer_Enable = 0 then tmDrop .disabled p s
  else if !pathOk then raise (src 5 0) ((tmDrop .disabled p s).add64 O.SchedPathMismatch 0 0 1)
  else if s.profile q F.BufferProfile_MaxKiB * 1024 < totalBytes l + p.hdr.length then tmDrop .queueMax p s
  else if s.profile q F.BufferProfile_SpillEnable = 1 ∧
      (spilling l ∨ s.profile q F.BufferProfile_SpillThreshold < onChip l + p.cellCount) then
    match spillInto s.toBlocks l p with
    | .error r => admitOnChip p (spillFailed r s)
    | .ok _ =>
      let n := p.recordBytes
      let write := fun (p : Pkt) (s : State) =>
        match spillInto s.toBlocks l p with
        | .ok l' => s.setQueue q l'
        | .error _ => s
      let s1 := linkPacket p write s
      let s2 := s1.upTm fun t => { t with spillW := t.spillW.take s.spillTick s.time.ticks (n * meterScale) }
      lowWater s.freeCells s.freeDescs (s2.add64 O.SpillBytesWritten 0 0 n)
  else admitOnChip p s

/-- The line port carries frames (R297). -/
def Blocks.carrying (b : Blocks) (port : Nat) : Bool := decide (5 ≤ b.rd O.PortStatus port F.PortStatus_State)

/-- A packet for a port that does not carry, with DownAction PUNT, goes to the host port (R24, R298). -/
def redirectDown (b : Blocks) (p : Pkt) : Pkt :=
  let port := p.hdr.destPort
  if port < 128 ∧ ¬ b.carrying port ∧ b.rd O.PortConfig port F.PortConfig_DownAction = 1 then
    let reason := if p.hdr.punt = 0 then 12 else p.hdr.punt
    { p with hdr := { p.hdr with
        punt := reason, destPort := 128, destQueue := b.rd O.PuntReason reason F.PuntReason_Queue } }
  else p

/-- A full token bucket. -/
abbrev Bucket.full : Bucket := ⟨0, 0⟩

/-- The limiter of a punted packet's reason (R203): whether it is admitted. -/
def puntLimit (p : Pkt) (s : State) : Bool × State :=
  let r := p.hdr.punt
  if r = 0 ∨ p.hdr.destPort ≠ 128 then (true, s)
  else
    let rate := s.rd O.PuntReason r F.PuntReason_Rate
    let burst := s.rd O.PuntReason r F.PuntReason_Burst * meterScale
    let k := Tbl.get Bucket.full s.tm.punts r
    let per := rateTick 2 rate
    if rate ≠ 0 ∧ k.allows per burst s.time.ticks meterScale then
      let k' := k.take per s.time.ticks meterScale
      let s := s.upTm fun t => { t with punts := Tbl.put Bucket.full r k' t.punts }
      (true, s.add64 O.PuntCount r F.PuntCount_Admitted 1)
    else (false, raise (src 3 10) (s.add64 O.PuntCount r F.PuntCount_Dropped 1))

/-- A packet of this card taken from its lane: redirect, limiter, admission. -/
def enqueueLocal (p : Pkt) (s : State) : State :=
  let p := redirectDown s.toBlocks p
  let (ok, s) := puntLimit p s
  if ok then intake p s else recordDrop 13 p s

/-! ### Returns (R213) and flushes (R218) -/

/-- A record lies at least in part in page `i` of its segment. -/
def inPage (i : Nat) (r : Nat × Pkt) : Bool := decide (r.1 < (i + 1) * 2048) && decide (i * 2048 < r.1 + r.2.recordBytes)

/-- A page is freed when its last record has returned or been discarded (R214); an empty segment goes. -/
def segTrim (d : Nat) (pages : List (Nat × Nat)) (wr : Nat) (recs : List (Nat × Pkt)) : List QItem :=
  if recs.isEmpty then [] else [.seg d (pages.filter fun e => recs.any (inPage e.1)) wr recs]

/-! ### Backlog and deficits (R229, R231) -/

/-- The key of a node. -/
abbrev nodeKey (level row : Nat) : Nat := level * 2 ^ 20 + row

/-- A node with nothing charged. -/
abbrev NodeRT.start : NodeRT := ⟨0, 0, 0, 0, true⟩

def Blocks.nodeRT (b : Blocks) (key : Nat) : NodeRT := Tbl.get NodeRT.start b.sched.nodes key

def State.updNode (s : State) (key : Nat) (f : NodeRT → NodeRT) : State :=
  s.upSched fun c => { c with nodes := Tbl.put NodeRT.start key (f (Tbl.get NodeRT.start c.nodes key)) c.nodes }

/-- A queue's head, when it is on chip. -/
def headOf : List QItem → Option Pkt
  | .chip p _ _ :: _ => some p
  | _ => none

/-- The nodes on the paths of backlogged queues. -/
def backloggedNodes (b : Blocks) : List Nat :=
  (b.tm.queues.filterMap fun e =>
    match headOf e.2, b.path? e.1 with
    | some _, some (l3, l2, l1, p) => some [nodeKey 4 e.1, nodeKey 3 l3, nodeKey 2 l2, nodeKey 1 l1, nodeKey 0 p]
    | _, _ => none).flatten

/-- A child that stops being backlogged leaves its round and its deficit is reset (R231). -/
def settleRounds (s : State) : State :=
  let alive := backloggedNodes s.toBlocks
  let idle := (s.sched.nodes.filter fun e => e.2.deficit != 0 && !alive.contains e.1).map (·.1)
  let s1 := idle.foldl (fun a k => a.updNode k fun n => { n with deficit := 0 }) s
  let trim := fun (t : Tbl (List Nat)) (e : Nat × List Nat) =>
    let level := e.1 / 8 / 2 ^ 20
    Tbl.put [] e.1 (e.2.filter fun r => alive.contains (nodeKey (level + 1) r)) t
  s1.upSched fun c =>
    { c with rounds := c.rounds.foldl trim c.rounds, granted := c.granted.filter fun k => alive.contains k }

/-! ### Returning a page -/

/-- Splits a queue at its first segment. -/
def splitSeg : List QItem → List QItem × List QItem
  | [] => ([], [])
  | i :: t => if i.isSeg then ([], i :: t) else (let (a, b) := splitSeg t; (i :: a, b))

/-- Returns the next record of queue `q`: `none` when pacing, cells or descriptors do not allow it. -/
def returnOne (q : Nat) (s : State) : Option State :=
  match splitSeg (s.queue q) with
  | (front, .seg d pages wr ((_, p) :: recs) :: rest) =>
    let n := p.recordBytes
    if s.tm.spillR.allows s.spillTick spillBurst s.time.ticks (n * meterScale) ∧ p.cellCount ≤ s.freeCells ∧ 1 ≤ s.freeDescs
    then
      let cells := firstFree s.usedCells p.cellCount
      let desc := firstFree s.usedDescs 1
      let l := front ++ [.chip p (desc.headD 0) cells] ++ segTrim d pages wr recs ++ rest
      let s1 := (s.setQueue q l).upTm fun t => { t with spillR := t.spillR.take s.spillTick s.time.ticks (n * meterScale) }
      some (lowWater s.freeCells s.freeDescs (s1.add64 O.SpillBytesReturned 0 0 n))
    else none
  | _ => none

/-- Returns records while the queue needs them, until a page's worth of bytes has been read. -/
def returnPage (q : Nat) : Nat → Nat → State → State
  | 0, _, s => s
  | fuel + 1, got, s =>
    if 2048 ≤ got ∨ ¬ needsReturn s.toBlocks q then s
    else
      let before := s.rd O.SpillBytesReturned 0 0
      match returnOne q s with
      | none => s
      | some s' => returnPage q fuel (got + (s'.rd O.SpillBytesReturned 0 0 - before)) s'

/-- The item after its page `page` has failed, and the packets it loses: every record with bytes in that page. -/
def QItem.losePage (page : Nat) : QItem → List QItem × List Pkt
  | .seg d pages wr recs =>
    match pages.find? fun e => e.2 == page with
    | none => ([.seg d pages wr recs], [])
    | some (i, _) => (segTrim d pages wr (recs.filter fun e => !inPage i e), (recs.filter (inPage i)).map (·.2))
  | i => ([i], [])

/-- The packets whose records lie in a failed page of queue `q` are lost (R121, R122). -/
def losePage (q page : Nat) (s : State) : State :=
  let parts := (s.queue q).map (QItem.losePage page)
  let lost := (parts.map (·.2)).flatten
  askReturn q (settleRounds (lost.foldl (fun a p =>
    raise (src 4 8) ((recordDrop 13 p (countDropped q p.hdr.length a)).add64 O.IntegrityTmDrops 0 0 1))
    (s.setQueue q (parts.map (·.1)).flatten)))

/-- The page that a return of queue `q` reads first. -/
def returnPageOf (b : Blocks) (q : Nat) : Option Nat :=
  ((b.queue q).find? (·.isSeg)).bind fun i => i.pages.head?

/-- An uncorrectable HBM word handled by its region (R122). -/
def hbmEvent (s : State) : State := s.sat32 O.IntegrityHbmEvents 0 0 1

/-! ### Errors that a read of the stack shows (R318) -/

/-- The pseudo-channel of a byte address of the stack (R313). -/
abbrev addrPc (a : Nat) : Nat := bitsOf 13 10 a

/-- Appends to HbmErrorLog (Table 13-6). -/
def hbmLog (kind cls synd addr : Nat) (s : State) : State :=
  let e := kind * 2 ^ 110 + cls * 2 ^ 107 + synd * 2 ^ 99 + addr * 2 ^ 64 + s.stamp
  s.upHbm fun h => { h with log := (h.logNext, e) :: h.log.take 1023, logNext := h.logNext + 1 }

/-- An error of a read by client class `cls` is counted, logged and raised; one that was corrected has no other effect
(R318). -/
def hbmNote (cls base : Nat) (r : HbmRead) (s : State) : State :=
  match r with
  | .clean => s
  | .corrected u synd =>
    let a := base + u * 8
    raise (src 8 6) (hbmLog 1 cls synd.toNat a (s.add64 O.HbmEccCounters (addrPc a) F.HbmEccCounters_Corrected 1))
  | .bad u synd =>
    let a := base + u * 8
    raise (src 8 7) (hbmLog 2 cls synd.toNat a (s.add64 O.HbmEccCounters (addrPc a) F.HbmEccCounters_Uncorrectable 1))

/-- The words read cannot be used. -/
def hbmLost : HbmRead → Bool
  | .bad .. => true
  | _ => false

/-- The page a return reads holds an uncorrectable word (R122). -/
def loseReturn (q : Nat) (s : State) : State :=
  match returnPageOf s.toBlocks q with
  | some page => hbmEvent (losePage q page s)
  | none => s

/-- One page is returned to the queue that asked first (R213). It keeps its place when nothing could be returned, and
asks anew, behind the others, when it still needs more. `r` is what the read of the page showed. -/
def serveReturn (r : HbmRead) (q : Nat) (s : State) : State :=
  if !needsReturn s.toBlocks q then s.upTm fun m => { m with asks := m.asks.drop 1 }
  else
    let s1 := hbmNote 1 (((returnPageOf s.toBlocks q).getD 0) * 2048) r s
    let s2 := if hbmLost r then loseReturn q s1 else returnPage q 64 0 s1
    if s2.queue q = s.queue q then s2
    else askReturn q (s2.upTm fun m => { m with asks := m.asks.filter (· != q) })

/-- SPILL_RETURN: a flushed segment's next page is freed; then the queue that asked first is served one page, unless
SpillPause reads 1 (R213 to R215, R218). `r` is what the read of that page showed (R122, R318). -/
def execSpillReturn (r : HbmRead) (s : State) : Out :=
  let s1 := match s.tm.flushing with
    | [] => s
    | (q, pages) :: t =>
      let rest := pages.drop 1
      let s1 := s.upTm fun m => { m with flushing := if rest.isEmpty then t else (q, rest) :: t }
      raiseIf rest.isEmpty (src 4 9) s1
  if s1.sc O.SpillPause = 1 then .next s1
  else match s1.tm.asks with
    | [] => .next s1
    | q :: _ => .next (serveReturn r q s1)

/-- A write of QueueFlush (R218): every packet the queue holds is discarded; the pages of its segments are freed one
by one afterwards. While a flush of the queue is in progress another has no further effect. -/
def flushQueue (q : Nat) (s : State) : State :=
  if s.tm.flushing.any fun f => f.1 == q then s
  else
    let l := s.queue q
    let pages := (l.map (·.pages)).flatten
    let pkts := (l.map (·.pkts)).flatten
    let s1 := (s.setQueue q []).upTm fun t =>
      { t with flushing := if pages.isEmpty then t.flushing else t.flushing ++ [(q, pages)], asks := t.asks.filter (· != q) }
    let s2 := pkts.foldl (fun a p => tmDrop .flushed { p with hdr := { p.hdr with destQueue := q } } a) s1
    raiseIf pages.isEmpty (src 4 9) (settleRounds s2)

/-! ### Integrity (R121) -/

/-- The item uses a failed cell or descriptor. -/
def QItem.hit (cells descs : List Nat) (i : QItem) : Bool :=
  descs.contains i.desc || i.cells.any fun c => cells.contains c

/-- TM_INTEGRITY_ERROR: every packet that uses a failed line is dropped, as a tail drop counts, and in IntegrityTmDrops;
what is left keeps its order, and the free store is what the survivors do not use. -/
def execTmIntegrityError (cells : List (Fin 524288)) (descs : List (Fin 2097152)) (s : State) : Out :=
  let cs := cells.map (·.val)
  let ds := descs.map (·.val)
  let lost := (s.tm.queues.map fun e => ((e.2.filter (·.hit cs ds)).map fun i => i.pkts.map fun p => (e.1, p)).flatten).flatten
  let bad := fun c : Sel => ds.contains c.desc || c.cells.any fun x => cs.contains x
  let gone := (s.crossing.filter bad).map fun c => (c.queue, c.pkt)
  let touched := (s.tm.queues.map (·.1))
  let s1 := touched.foldl (fun a q => a.setQueue q ((a.queue q).filter fun i => !i.hit cs ds)) s
  let s2 := s1.upFe fun f =>
    { f with toFe0 := f.toFe0.filter fun c => !bad c, toFe1 := f.toFe1.filter fun c => !bad c }
  let drop := fun (a : State) (e : Nat × Pkt) =>
    raise (src 4 8) ((recordDrop 13 e.2 (countDropped e.1 e.2.hdr.length a)).add64 O.IntegrityTmDrops 0 0 1)
  let s3 := settleRounds ((lost ++ gone).foldl drop s2)
  .next (raise (src 8 5) (touched.foldl (fun a q => askReturn q a) s3))

/-! ### Shelf (R219 to R223) -/

/-- Free of a pool. -/
def Blocks.shelfFree (b : Blocks) (k : Nat) : Nat := poolBuffers k - (b.shelf.owned.filter fun o => o.1 == k).length

/-- The smallest pool whose buffers hold `size` bytes (R220). -/
def poolFor (size : Nat) : Nat := ((List.range 4).find? fun k => decide (size ≤ poolBytes k)).getD 3

/-- An allocation (R220): the buffer served, or `none` when it fails and is counted. -/
def shelfAlloc (client size : Nat) (s : State) : Option (Nat × Nat) × State :=
  let k := poolFor size
  let free := s.shelfFree k
  if free = 0 ∨ (client / 4096 ≠ 0 ∧ free ≤ 64) then (none, s.add64 O.ShelfAllocFail k 0 1)
  else
    let used := (s.shelf.owned.filter fun o => o.1 == k).map (·.2.1)
    let n := (firstFree used 1).headD 0
    let s1 := s.upShelf fun h => { h with owned := h.owned ++ [(k, n, client)] }
    let s2 := s1.wr O.ShelfPool k F.ShelfPool_LowWater (min (s1.rd O.ShelfPool k F.ShelfPool_LowWater) (free - 1))
    (some (k, n), raiseIf (decide (free = 65)) (src 4 6) s2)

/-- A release (R222): a buffer that the client does not own is left as it is, counted, recorded and raised. -/
def shelfRelease (client k n : Nat) (s : State) : State :=
  if s.shelf.owned.contains (k, n, client) then
    s.upShelf fun h => { h with owned := h.owned.filter fun o => o != (k, n, client) }
  else
    let s1 := s.add64 O.ShelfRejectedRelease k 0 1
    let s2 := s1.wr O.ShelfLastReject 0 F.ShelfLastReject_Client client
    let s3 := s2.wr O.ShelfLastReject 0 F.ShelfLastReject_Pool k
    raise (src 4 7) (s3.wr O.ShelfLastReject 0 F.ShelfLastReject_Buffer n)

/-- A client ends: every buffer it owns is freed (R223). -/
def shelfClientEnd (client : Nat) (s : State) : State :=
  s.upShelf fun h => { h with owned := h.owned.filter fun o => o.2.2 != client }

/-- SHELF_ALLOCATE: a client asks for a buffer of 1 to 65,536 bytes. A size outside that names no allocation. -/
def execShelfAllocate (client : BitVec 16) (size : Nat) (s : State) : Out :=
  if size = 0 ∨ 65536 < size then .next s else .next (shelfAlloc client.toNat size s).2

/-- SHELF_RELEASE. -/
def execShelfRelease (client : BitVec 16) (pool : Fin 4) (buffer : Nat) (s : State) : Out :=
  .next (shelfRelease client.toNat pool.val buffer s)

end Sys2Proof.Machine
end

