-- ==== Sys2Proof/Machine/Time.lean ====
section
/-! DEFINITION. Network time and the schedule grid (chapter 3): the three counters and their tick, steering, grid states,
steps, qualification, captures, triggers and the pulse per second. -/
namespace Sys2Proof.Machine

/-- The counters wrap at 64 bits of 0.25 ns units and 40 fraction bits (R81). -/
abbrev counterMod : Nat := 2 ^ 104

/-- The nominal increment of R81, in 2^-40 ns. -/
abbrev nominalInc : Nat := 0x14000000000

/-- A quotient whose rounding the spec does not give: the floor, or one more where it is not whole (log 20). -/
def roundDiv (num : Int) (den : Nat) : Int :=
  num / den + (if num % den ≠ 0 ∧ Config.roundUp num den = true then 1 else 0)

/-- A difference in units of 2^-42 ns as DUR64 (2^-16 ns), at the limit of its sign when beyond (R466). -/
def durOfUnits (d : Int) : Nat := satDur64 (roundDiv d (2 ^ 26))

/-- Object numbers of domain B lie 0x10 above those of domain A (R104). -/
def domObj (d : Dom) (objA : Nat) : Nat := match d with | .a => objA | .b => objA + 0x10

/-- The running state of a domain. -/
def Blocks.dom (b : Blocks) : Dom → DomRT
  | .a => b.time.domA
  | .b => b.time.domB

/-- Changes the running state of a domain. -/
def State.updDom (s : State) (d : Dom) (f : DomRT → DomRT) : State :=
  match d with
  | .a => { s with time := { s.time with domA := f s.time.domA } }
  | .b => { s with time := { s.time with domB := f s.time.domB } }

/-- The domain that GridSource names. -/
def Blocks.selected (b : Blocks) : Dom := if b.sc O.GridSource = 0 then .a else .b

def otherDom : Dom → Dom | .a => .b | .b => .a

/-- DomainXQualified. -/
def Blocks.qualified (b : Blocks) (d : Dom) : Bool := b.sc (domObj d O.DomainAQualified) == 1

/-- e of R88: the selected domain's time minus grid time, in units; 0 with no qualified selected domain. -/
def Blocks.gridErr (b : Blocks) : Int :=
  if b.qualified b.selected then ((b.dom b.selected).time : Int) - b.time.grid else 0

/-- Nanoseconds in units of 2^-42 ns. -/
abbrev nsUnits (ns : Nat) : Nat := ns * 2 ^ 42

/-- The grid is LOCKED or in HOLDOVER: scheduled functions run (Table 3-2). -/
def Blocks.gridRuns (b : Blocks) : Bool := b.time.st == .locked || b.time.st == .holdover

/-! ### The tick -/

/-- A domain's counter at one tick (R81, R87): a write of its time takes the place of the advance. -/
def tickDom (inc : Nat) (d : DomRT) : DomRT :=
  let t : Int := match d.setReq with
    | some v => v
    | none => (d.time : Int) + 4 * inc
  { d with time := ((t + d.adjReq) % counterMod).toNat, setReq := none, adjReq := 0 }

/-- What the grid advances by at one tick (R88), in units. -/
def gridAdvance (b : Blocks) : Nat :=
  if b.qualified b.selected then
    let inc : Int := 4 * (b.sc (domObj b.selected O.DomainAIncrement) : Int)
    (roundDiv (inc * (b.time.steerDen + b.time.steerNum)) b.time.steerDen).toNat
  else if b.time.st = .holdover then b.time.holdInc
  else 4 * b.sc O.GridFreeIncrement

/-- LONGCASE_TICK: unless the module is held in reset, both domains and the grid advance by their increments (R81, R88). -/
def execLongcaseTick (s : State) : Out :=
  let adv := gridAdvance s.toBlocks
  if s.boot.held then .next s else .next { s with time := { s.time with
    ticks := s.time.ticks + 1
    grid := (s.time.grid + adv) % counterMod
    applied := s.time.applied + adv
    domA := tickDom (s.sc O.DomainAIncrement) s.time.domA
    domB := tickDom (s.sc O.DomainBIncrement) s.time.domB } }

/-! ### Grid states -/

/-- The mean of the applied increment over the 16 s before (R92), in units per tick. With less than 16 s of readings
the mean is not stated: a free value (log 22). -/
def holdoverMean (t : TimeRT) (k : Nat) : Nat :=
  match t.samples.find? fun e => e.1 + 16 * ticksPerS ≤ t.ticks with
  | some (t0, a0) => (roundDiv ((t.applied : Int) - a0) (t.ticks - t0)).toNat
  | none => (Config.holdoverShort k).toNat

/-- Enters a grid state by a transition of Table 3-1. On entry to ACQUIRE a step is requested when |e| exceeds
GridStepThreshold, and a waiting GridSet step is abandoned (R90, R91). -/
def enterGrid (st : GridSt) (s : State) : State :=
  let e := s.gridErr
  let (k, s) := if st = .holdover then s.fresh else (0, s)
  let s := { s with time := { s.time with
    st := st
    err := e
    below := none
    holdInc := if st = .holdover then holdoverMean s.time k else s.time.holdInc
    stepReq :=
      if st = .acquire then (if e.natAbs > nsUnits (s.sc O.GridStepThreshold) then some .err else none)
      else if st = .free then none else s.time.stepReq } }
  raise (src 1 0) s

/-- The selected domain is no longer qualified (R89, R92): the automatic switch, or the fall of the grid state. -/
def selectedLost (s : State) : State :=
  let other := otherDom s.selected
  if s.qualified other && s.flag O.GridAutoSwitch 0 0 then
    raise (src 1 3) (s.ws O.GridSource (match other with | .a => 0 | .b => 1))
  else match s.time.st with
    | .acquire => enterGrid .free s
    | .locked => enterGrid .holdover s
    | _ => s

/-- Domain `d` has become qualified (Table 3-1, R92). -/
def domainQualified (d : Dom) (s : State) : State :=
  if s.time.st = .free ∨ s.time.st = .holdover then
    let up := if s.time.st = .free then GridSt.acquire else GridSt.locked
    if d = s.selected then enterGrid up s
    else if !s.qualified s.selected && s.flag O.GridAutoSwitch 0 0 then
      enterGrid up (raise (src 1 3) (s.ws O.GridSource (match d with | .a => 0 | .b => 1)))
    else s
  else s

/-- A servo write of DomainXQualified takes effect (R85, R89). A write of 0 is a loss of qualification that counts no
source loss (log 23). -/
def setQualified (d : Dom) (v : Nat) (s : State) : State :=
  let was := s.qualified d
  let now := s.time.ticks
  let s := (s.ws (domObj d O.DomainAQualified) v).updDom d fun r =>
    if v = 1 ∧ !was then { r with lastServo := now, linkLost := false } else { r with lastServo := now }
  if v = 1 then (if was then s else domainQualified d s)
  else if was && d = s.selected then selectedLost s else s

/-- GridRelock takes effect in LOCKED or HOLDOVER (Table 3-1). Out of HOLDOVER the selected domain may not be qualified: the grid
then falls on from ACQUIRE to FREE, since no switch is made (log 150). -/
def relockGrid (s : State) : State :=
  let s1 := enterGrid .acquire s
  if s.qualified s.selected then s1 else enterGrid .free s1

/-- A session's write of GridSource takes effect (R89, R92). -/
def gridSourceWritten (s : State) : State :=
  let q := s.qualified s.selected
  match s.time.st with
  | .locked => if q then s else enterGrid .holdover s
  | .acquire => if q then s else enterGrid .free s
  | .holdover => if q then enterGrid .locked s else s
  | .free => if q then enterGrid .acquire s else s

/-- The readings of the last 16 s, newest first, and the newest one before them. -/
def lastSamples (now : Nat) : List (Nat × Nat) → List (Nat × Nat)
  | [] => []
  | p :: l => if now < p.1 + 16 * ticksPerS then p :: lastSamples now l else [p]

/-- GRID_STEER_UPDATE: e is measured and the steering rate set; in ACQUIRE a step is requested when |e| exceeds the
threshold, and the time below the lock threshold is followed (R88 to R90). -/
def execGridSteerUpdate (s : State) : Out :=
  let e := s.gridErr
  let den := s.sc O.GridSteerTimeConstant * 10 ^ 6 * 2 ^ 42
  let lim := s.sc O.GridSlewLimit
  let tooFast := e.natAbs * 10 ^ 9 > lim * den
  let t := s.time
  .next { s with time := { t with
    err := e
    steerNum := if tooFast then (if e < 0 then -(lim : Int) else lim) else e
    steerDen := if tooFast then 10 ^ 9 else den
    samples := (t.ticks, t.applied) :: lastSamples t.ticks t.samples
    below :=
      if t.st = .acquire ∧ s.qualified s.selected ∧ e.natAbs < nsUnits (s.sc O.GridLockThreshold) then
        (match t.below with | some x => some x | none => some t.ticks)
      else none
    stepReq :=
      if t.st = .acquire ∧ e.natAbs > nsUnits (s.sc O.GridStepThreshold) then some .err else t.stepReq } }

/-- GRID_LOCK: ACQUIRE becomes LOCKED once |e| has stayed below the threshold for GridLockHold (R89). Otherwise the
event has not occurred and nothing changes (log 5). -/
def execGridLock (s : State) : Out :=
  match s.time.st, s.time.below with
  | .acquire, some t0 =>
    if s.qualified s.selected ∧ t0 + s.sc O.GridLockHold * ticksPerMs ≤ s.time.ticks then .next (enterGrid .locked s) else .next s
  | _, _ => .next s

/-! ### Qualification -/

/-- A port's link has gone down: a qualified domain on PTP over it has lost its source (R85). -/
def noteLinkLost (p : Nat) (s : State) : State :=
  let one := fun (s : State) (d : Dom) =>
    if s.qualified d && s.sc (domObj d O.DomainASource) == 1 && s.sc (domObj d O.DomainAPort) == p then
      s.updDom d fun r => { r with linkLost := true }
    else s
  one (one s .a) .b

/-- What takes a domain's qualification (R85): the PTP silence is counted from the last event message of the domain, the PPS gap
from the last edge. -/
def lossHolds (b : Blocks) (d : Dom) (meshUsable : Bool) : Bool :=
  let r := b.dom d
  let now := b.time.ticks
  let watchdog := b.sc O.ServoWatchdog
  let bySource :=
    match b.sc (domObj d O.DomainASource) with
    | 1 => r.linkLost || r.lastEvent + b.sc (domObj d O.DomainALossTimeout) * ticksPerMs ≤ now
    | 2 => !meshUsable
    | 3 => r.lastEdge.any fun t => decide (t + 3 * ticksPerS / 2 < now)
    | _ => false
  bySource || (watchdog != 0 && r.lastServo + watchdog * ticksPerMs ≤ now)

/-- A qualified domain loses its source (R85). -/
def loseDomain (d : Dom) (s : State) : State :=
  let s := s.ws (domObj d O.DomainAQualified) 0
  let s := s.sat32 (domObj d O.DomainASourceLoss) 0 0 1
  let s := raise (match d with | .a => src 1 1 | .b => src 1 2) s
  if d = s.selected then selectedLost s else s

/-- DOMAIN_OFFSET_UPDATE: the mean of the millisecond's MESH samples, with the asymmetry added (R83). -/
def execDomainOffsetUpdate (d : Dom) (s : State) : Out :=
  let r := s.dom d
  if s.sc (domObj d O.DomainASource) = 2 ∧ 0 < r.meshCount then
    let mean := roundDiv r.meshSum (r.meshCount * 2 ^ 26)
    let v := satDur64 (mean + toSigned 64 (s.sc (domObj d O.DomainAAsymmetry)))
    .next ((s.ws (domObj d O.DomainAOffset) v).updDom d fun r => { r with meshSum := 0, meshCount := 0 })
  else .next s

/-- DOMAIN_DISAGREEMENT_UPDATE: B minus A while both are qualified, and its limit (R93). -/
def execDomainDisagreementUpdate (s : State) : Out :=
  if s.qualified .a && s.qualified .b then
    let d := (s.time.domB.time : Int) - s.time.domA.time
    let s := s.ws O.DomainDisagreement (durOfUnits d)
    .next (raiseIf (d.natAbs > nsUnits (s.sc O.DomainDisagreeLimit)) (src 1 4) s)
  else .next s

/-! ### Stamps and captures -/

/-- The time of a counter at a point latched `phase` fifths into the tick, in units (R82). -/
def atPhase (t inc phase : Nat) : Nat := (t + inc * phase / 5) % counterMod

/-- The three timestamps of one latch, each as a 0.25 ns count: 0 grid, 1 domain A, 2 domain B (R82). -/
def stampOf (b : Blocks) (scale phase : Nat) : Nat :=
  let u := match scale with
    | 1 => atPhase b.time.domA.time (4 * b.sc O.DomainAIncrement) phase
    | 2 => atPhase b.time.domB.time (4 * b.sc O.DomainBIncrement) phase
    | _ => atPhase b.time.grid (gridAdvance b) phase
  u / unitsPerQuarter % 2 ^ 64

/-- An entry of TimeCaptureLog (Table 3-8). -/
def capEntry (b : Blocks) (input : Nat) (rising : Bool) (phase : Nat) : Nat :=
  let scale := b.rd O.TimeCaptureConfig input F.TimeCaptureConfig_Timescale
  input * 2 ^ 124 + bit rising * 2 ^ 123 + scale * 2 ^ 121 + b.time.st.code * 2 ^ 119 + stampOf b scale phase

/-- The row of a capture input logs edges of this direction (Table 3-7). -/
def edgeLogged (b : Blocks) (input : Nat) (rising : Bool) : Bool :=
  let edge := b.rd O.TimeCaptureConfig input F.TimeCaptureConfig_Edge
  b.flag O.TimeCaptureConfig input F.TimeCaptureConfig_Enable && (if rising then edge % 2 == 1 else edge / 2 == 1)

/-- The input took an edge less than a microsecond ago (R101). -/
def edgeSoon (t : TimeRT) (input : Nat) : Bool :=
  (t.capLast.find? fun e => e.1 == input).any fun e => decide (t.ticks < e.2 + ticksPerUs)

/-- The edge is the input's last. -/
def noteEdge (input : Nat) (s : State) : State :=
  s.upTime fun t => { t with capLast := (input, t.ticks) :: t.capLast.filter fun e => e.1 != input }

/-- An edge is lost (R101). -/
def edgeLost (s : State) : State := raise (src 1 6) (s.sat32 O.TimeCaptureOverrun 0 0 1)

/-- An entry for an edge that the input took; with 4,096 entries unread it is lost (R101). -/
def logEdge (input : Nat) (rising : Bool) (phase : Nat) (s : State) : State :=
  if s.time.capRead + 4096 ≤ s.time.capSeq then edgeLost s
  else
    let e := capEntry s.toBlocks input rising phase
    raise (src 1 7) (s.upTime fun t => { t with capLog := (t.capSeq, e) :: t.capLog.take 4095, capSeq := t.capSeq + 1 })

/-- TIME_CAPTURE_EDGE: an edge on TCAP0 to TCAP7. A pulse below 10 ns is not accepted; an edge that
the row logs is lost when it comes within a microsecond of the last one (R101). -/
def execTimeCaptureEdge (input : Fin 8) (rising : Bool) (edge : PulseEdge) (s : State) : Out :=
  if edge.width < 10 ∨ !edgeLogged s.toBlocks input.val rising then .next s
  else if edgeSoon s.time input.val then .next (edgeLost s)
  else .next (logEdge input.val rising edge.phase.val (noteEdge input.val s))

/-- The offset a PPS edge shows: PPS carries phase only, so the source stands at the whole second nearest to the
domain's time (R83, R85). In units. -/
def ppsOffset (t : Nat) : Int :=
  let sec := nsUnits 1000000000
  let r := t % sec
  if 2 * r < sec then -(r : Int) else (sec : Int) - r

/-- A domain on PPS takes the offset of an edge. -/
def ppsDomain (d : Dom) (phase : Nat) (s : State) : State :=
  if s.sc (domObj d O.DomainASource) = 3 then
    let u := atPhase (s.dom d).time (4 * s.sc (domObj d O.DomainAIncrement)) phase
    let v := satDur64 (roundDiv (ppsOffset u) (2 ^ 26) + toSigned 64 (s.sc (domObj d O.DomainAAsymmetry)))
    (s.ws (domObj d O.DomainAOffset) v).updDom d fun r => { r with lastEdge := some s.time.ticks }
  else s

/-- PPS_IN_EDGE: an edge of a pulse on PPS_IN. A rising edge feeds every domain on PPS (log 24) whether or not row 8 logs
it; one that comes within a microsecond of the last edge is lost and feeds none (R83, R101). -/
def execPpsInEdge (rising : Bool) (edge : PulseEdge) (s : State) : Out :=
  let logged := edgeLogged s.toBlocks 8 rising
  if edge.width < 10 ∨ (!rising && !logged) then .next s
  else if edgeSoon s.time 8 then .next (edgeLost s)
  else
    let s1 := noteEdge 8 s
    let s2 := if rising then ppsDomain .b edge.phase.val (ppsDomain .a edge.phase.val s1) else s1
    .next (if logged then logEdge 8 rising edge.phase.val s2 else s2)

/-! ### Triggers and pulses -/

/-- An instant in 2^-16 ns placed on the 0.25 ns resolution of an edge (R99): never earlier than it (R13, log 151). -/
def edgeAt (t : Nat) : Nat := ceilDiv t (2 ^ 14)

/-- The first instant StartTime + k × Period at or after `t` (units of 2^-16 ns). -/
def nextInstant (start period t : Nat) : Nat :=
  if t ≤ start then start else start + ceilDiv (t - start) period * period

/-- The bounds of a TimeTrigger row (R99), over its fields. -/
def triggerOk (g : Nat → Nat) : Bool :=
  let w := toSigned 64 (g F.TimeTrigger_Width)
  let p := toSigned 64 (g F.TimeTrigger_Period)
  time80Ok (g F.TimeTrigger_StartTime) && decide (10 * 65536 ≤ w) &&
    (if g F.TimeTrigger_Periodic = 1 then decide (100 * 65536 ≤ p) && decide (w < p)
     else decide (w ≤ 1000000000 * 65536))

/-- A write of a TimeTrigger row takes effect (R99, R100): StartedLate is cleared, and with Enable 1 the row's pulses are
scheduled, or start late, or do not start. -/
def triggerWritten (row : Nat) (s : State) : State :=
  let s := s.wr O.TimeTrigger row F.TimeTrigger_StartedLate 0
  let others := s.time.trig.filter fun t => t.row != row
  let stopped := ({ s with time := { s.time with trig := others } }).wr O.TimeTrigger row F.TimeTrigger_Running 0
  if !s.flag O.TimeTrigger row F.TimeTrigger_Enable then stopped
  else
    let start := qOfTime80 (s.rd O.TimeTrigger row F.TimeTrigger_StartTime) * 2 ^ 14
    let now := s.time.grid / 2 ^ 26
    let periodic := s.flag O.TimeTrigger row F.TimeTrigger_Periodic
    let late := start < now
    let period := s.rd O.TimeTrigger row F.TimeTrigger_Period
    let count := s.rd O.TimeTrigger row F.TimeTrigger_Count
    let s1 := if late then raise (src 1 5) (stopped.wr O.TimeTrigger row F.TimeTrigger_StartedLate 1) else stopped
    if late && !periodic then s1
    else
      let t : TrigRT :=
        { row := row
          next := if late then nextInstant start period (now + 10000 * 65536) else start
          left := if periodic then (if count = 0 then none else some count) else some 1 }
      ({ s1 with time := { s1.time with trig := s1.time.trig ++ [t] } }).wr O.TimeTrigger row F.TimeTrigger_Running 1

/-- After a grid step a running periodic row continues at its first instant after the new grid time (R100). -/
def triggersAfterStep (s : State) : State :=
  let now := s.time.grid / 2 ^ 26
  let go := fun t : TrigRT =>
    if s.flag O.TimeTrigger t.row F.TimeTrigger_Periodic then
      { t with next := nextInstant (qOfTime80 (s.rd O.TimeTrigger t.row F.TimeTrigger_StartTime) * 2 ^ 14)
                 (s.rd O.TimeTrigger t.row F.TimeTrigger_Period) (now + 1) }
    else t
  { s with time := { s.time with trig := s.time.trig.map go } }

/-- The row's instant has passed: what remains of it. The row has finished its Count when no pulse is left (R99). -/
def triggerAdvance (t : TrigRT) (emitted : Bool) (s : State) : State :=
  let periodic := s.flag O.TimeTrigger t.row F.TimeTrigger_Periodic
  let left := if emitted then t.left.map (· - 1) else t.left
  let others := s.time.trig.filter fun x => x.row != t.row
  if left = some 0 ∨ ¬ periodic then
    let s1 := ({ s with time := { s.time with trig := others } }).wr O.TimeTrigger t.row F.TimeTrigger_Running 0
    raiseIf periodic (src 1 (8 + t.row)) s1
  else
    let t' := { t with next := t.next + s.rd O.TimeTrigger t.row F.TimeTrigger_Period, left := left }
    { s with time := { s.time with trig := others ++ [t'] } }

/-- A timescale's counter and what one tick adds to it, in units: 0 grid, 1 domain A, 2 domain B. -/
def scaleNow (b : Blocks) : Nat → Nat × Nat
  | 1 => (b.time.domA.time, 4 * b.sc O.DomainAIncrement)
  | 2 => (b.time.domB.time, 4 * b.sc O.DomainBIncrement)
  | _ => (b.time.grid, gridAdvance b)

/-- The whole second that a counter delayed by `delay` (2^-16 ns) stands at: the one it has reached within the last tick, whose
advance is `adv`; none between seconds. -/
def wholeSecond (u adv : Nat) (delay : Int) : Option Nat :=
  let sec := fun (x : Int) => (x - delay * 2 ^ 26) / (nsUnits 1000000000 : Int)
  if sec ((u : Int) - adv) < sec u ∧ 0 ≤ sec u then some (sec u).toNat else none

/-- PPS_OUT may pulse (Table 3-2). -/
def ppsLit (b : Blocks) : Bool :=
  b.flag O.PpsOutConfig 0 F.PpsOutConfig_Enable && (b.gridRuns || b.flag O.PpsOutConfig 0 F.PpsOutConfig_FreeRunEnable)

/-- PPS_OUT_PULSE: PPS_OUT rises at a whole second of its timescale, delayed by PpsOutOffset, once (R102, Table 3-2). -/
def execPpsOutPulse (s : State) : Out :=
  let (u, adv) := scaleNow s.toBlocks (s.rd O.PpsOutConfig 0 F.PpsOutConfig_Timescale)
  match wholeSecond u adv (toSigned 64 (s.sc O.PpsOutOffset)) with
  | none => .next s
  | some sec =>
    if ppsLit s.toBlocks ∧ 0 < s.time.ticks ∧ s.time.ppsLast ≠ some s.time.ticks then
      .next ((s.upTime fun t => { t with ppsLast := some t.ticks }).emit (.pps sec (s.rd O.PpsOutConfig 0 F.PpsOutConfig_Width)))
    else .next s

end Sys2Proof.Machine
end

