-- ==== Sys2Proof/Machine/Ports.lean ====
section
/-! DEFINITION. Line ports (chapter 12): modes, link states, reception with class, colour and timestamp, receive buffers,
flow control, degraded operation, measurement of the cable. -/
namespace Sys2Proof.Machine

/-! ### Modes (Table 12-1), by code -/

/-- Lanes of a mode. -/
def modeLanes (m : Nat) : Nat := [0, 1, 1, 1, 4, 2, 1, 4, 2, 8, 4, 8].getD m 0

/-- Gb/s of a mode. -/
def modeRate (m : Nat) : Nat := [0, 10, 25, 50, 100, 100, 100, 200, 200, 400, 400, 800].getD m 0

/-- The degraded mode's code; 0 for none. -/
def modeDegraded (m : Nat) : Nat := [0, 0, 0, 0, 0, 3, 0, 5, 6, 7, 8, 10].getD m 0

/-- Tx latency to the ball in ns. -/
def modeLatency (m : Nat) : Nat := [0, 96, 88, 104, 92, 84, 80, 84, 80, 84, 80, 80].getD m 0

/-- The codes of FecInUse a mode allows, the default first: 1 none, 2 RS(528,514), 3 RS(544,514). -/
def modeFec (m : Nat) : List Nat :=
  if m = 1 then [1] else if m = 2 then [2, 1] else if m = 4 then [2] else if m = 0 ∨ 11 < m then [] else [3]

/-- FEC of a row: its request, or the mode's default. -/
def fecOf (mode request : Nat) : Nat := if request = 0 then (modeFec mode).headD 0 else request

/-- A port's row of PortConfig. -/
def Blocks.portCfg (b : Blocks) (port fld : Nat) : Nat := b.rd O.PortConfig port fld

/-- The size of a port's receive buffer in bytes (R305). -/
def Blocks.rxSize (b : Blocks) (port : Nat) : Nat := modeLanes (b.portCfg port F.PortConfig_Mode) * 65536

/-- A port no frame has reached. -/
abbrev PortRT.start : PortRT := ⟨[], false, [], [], none, 0, none⟩

/-- A port's running state. -/
def Blocks.port (b : Blocks) (p : Nat) : PortRT := Tbl.get PortRT.start b.ports p

/-- Changes a port's running state. -/
def State.updPort (s : State) (p : Nat) (f : PortRT → PortRT) : State :=
  { s with ports := Tbl.put PortRT.start p (f (s.port p)) s.ports }

/-- Bytes a list of frames takes. -/
def frameBytes (l : List RxFrame) : Nat := l.foldl (fun a f => a + f.data.length) 0

/-- Occupancy per starting class; class 8 stands for the whole buffer (R311). -/
def PortRT.level (r : PortRT) (cls : Nat) : Nat := frameBytes (r.rx.filter fun f => cls == 8 || f.cls == cls)

/-- Ticks that `quanta` × 512 bit times take at a rate of `gbps` (R310). -/
def quantaTicks (quanta gbps : Nat) : Nat := ceilDiv (quanta * 512 * 4) (5 * max gbps 1)

/-! ### Link states (R296 to R300) -/

/-- A port that does not carry runs no mode, uses no FEC and has no lane in lock (Table 12-4, log 163). -/
def clearRunning (p : Nat) (s : State) : State :=
  [F.PortStatus_RunningMode, F.PortStatus_FecInUse, F.PortStatus_LaneLock, F.PortStatus_StoppedLaneLock].foldl
    (fun a f => a.wr O.PortStatus p f 0) s

/-- Gb/s that a port runs at. -/
def Blocks.portRate (b : Blocks) (p : Nat) : Nat := modeRate (b.rd O.PortStatus p F.PortStatus_RunningMode)

/-- Sets PortStatus State; a change between a carrying and a non-carrying state is a link change (R85, R297). The port sends
no more pause frames then, and a frame may be in reception. -/
def setLink (p st : Nat) (s : State) : State :=
  let was := s.carrying p
  let left := if was then some (s.time.ticks, s.portRate p) else (s.port p).left
  let s1 := (s.wr O.PortStatus p F.PortStatus_State st).updPort p fun r => { r with since := s.time.ticks }
  let s2 := if 5 ≤ st then s1 else
    (clearRunning p (if was then noteLinkLost p s1 else s1)).updPort p fun r => { r with left := left, holding := [] }
  if was ≠ decide (5 ≤ st) then setDetail O.PortEventDetail p 0 (src 7 (p / 16)) s2 else s2

/-- The state in which a port begins to come up (R299). -/
def bringUpState (an train : Nat) : Nat := if an = 1 then 2 else if train = 1 then 3 else 4

/-- A port without training reads its insertion losses and its estimated length as 0 (R308). -/
def clearCable (p : Nat) (s : State) : State :=
  if s.portCfg p F.PortConfig_TrainEnable = 1 then s
  else (s.wr O.PortMeasure p F.PortMeasure_InsertionLossCdB 0).wr O.PortMeasure p F.PortMeasure_EstimatedLengthCm 0

/-- The port goes to DOWN and is brought up again in its configuration (R296), unless it is held (R428, R433). Before
READY no port is enabled (Table 20-1). -/
def restartPort (p : Nat) (s : State) : State :=
  let s1 := (setLink p 1 s).updPort p fun r => { r with degrading := none, paused := [] }
  let s2 := clearCable p (s1.wr O.PortStatus p F.PortStatus_PausedClasses 0)
  if s2.portCfg p F.PortConfig_Enable = 0 ∨ !s2.opened then setLink p 0 s2
  else if s2.portHeld p then s2
  else setLink p (bringUpState (s2.portCfg p F.PortConfig_AnEnable) (s2.portCfg p F.PortConfig_TrainEnable)) s2

/-- LeadNs of a running mode (R303). -/
def writeLead (p mode : Nat) (s : State) : State := s.wr O.LaunchPort p F.LaunchPort_LeadNs (480 + modeLatency mode)

/-- The port's state code. -/
def Blocks.link (b : Blocks) (p : Nat) : Nat := b.rd O.PortStatus p F.PortStatus_State

/-- The port is enabled and may come up. -/
def Blocks.portUsable (b : Blocks) (p : Nat) : Bool := b.portCfg p F.PortConfig_Enable == 1 && !b.portHeld p

/-- The partner advertises the technology and the FEC ability that the port is configured for (R299). -/
def abilityMatches (b : Blocks) (p : Nat) (ability : BitVec 16) (fec : BitVec 2) : Bool :=
  let mode := b.portCfg p F.PortConfig_Mode
  let mine := Config.modeAbility mode
  ability &&& mine == mine && fec == Config.fecAbility (fecOf mode (b.portCfg p F.PortConfig_FecRequest))

/-- AUTONEG_COMPLETE: the partner's base page has come: its abilities are shown, and when they are those of the port,
negotiation has succeeded (R299). A port that does not negotiate sees no such event. -/
def execAutonegComplete (port : Fin 128) (ability : BitVec 16) (fec : BitVec 2) (s : State) : Out :=
  let p := port.val
  if s.portUsable p ∧ s.portCfg p F.PortConfig_AnEnable = 1 ∧ (s.link p = 1 ∨ s.link p = 2) then
    let s1 := s.wr O.PortStatus p F.PortStatus_PartnerAbility ability.toNat
    let s2 := s1.wr O.PortStatus p F.PortStatus_PartnerFec fec.toNat
    if abilityMatches s.toBlocks p ability fec then
      .next (setLink p (if s.portCfg p F.PortConfig_TrainEnable = 1 then 3 else 4) (s2.wr O.PortStatus p F.PortStatus_AnFail 0))
    else .next s2
  else .next s

/-- The port has been in its link state for `ms` milliseconds. -/
def Blocks.stateFor (b : Blocks) (p ms : Nat) : Bool := decide ((b.port p).since + ms * ticksPerMs ≤ b.time.ticks)

/-- AUTONEG_TIMEOUT: no match within 500 ms; negotiation restarts (R299). -/
def execAutonegTimeout (port : Fin 128) (ability : BitVec 16) (fec : BitVec 2) (s : State) : Out :=
  let p := port.val
  if s.portUsable p ∧ s.portCfg p F.PortConfig_AnEnable = 1 ∧ (s.link p = 1 ∨ s.link p = 2) ∧ s.stateFor p 500 then
    let s1 := s.wr O.PortStatus p F.PortStatus_PartnerAbility ability.toNat
    let s2 := (s1.wr O.PortStatus p F.PortStatus_PartnerFec fec.toNat).wr O.PortStatus p F.PortStatus_AnFail 1
    .next (setLink p 2 (setDetail O.PortEventDetail p 2 (src 7 9) s2))
  else .next s

/-- EstimatedLengthCm of the lanes' losses (R308). -/
def cableCm (losses : List Nat) (board perMetre : Nat) : Nat := (losses.foldl max 0 - board) * 100 / perMetre

/-- LINK_TRAINING_COMPLETE: each lane's insertion loss and the cable's length are recorded (R300, R308). -/
def execLinkTrainingComplete (port : Fin 128) (losses : List (BitVec 16)) (s : State) : Out :=
  let p := port.val
  let trains := s.portCfg p F.PortConfig_TrainEnable = 1 ∧
    (s.link p = 3 ∨ (s.link p = 1 ∧ s.portCfg p F.PortConfig_AnEnable = 0))
  if s.portUsable p ∧ trains then
    let l := (losses.map (·.toNat)).take (modeLanes (s.portCfg p F.PortConfig_Mode))
    let packed := (l.zipIdx).foldl (fun a (v, i) => a + v * 2 ^ (112 - 16 * i)) 0
    let cm := cableCm l (s.rd O.PortMeasure p F.PortMeasure_BoardLossCdB) (s.rd O.PortMeasure p F.PortMeasure_LossPerMetreCdB)
    let s1 := (s.wr O.PortMeasure p F.PortMeasure_InsertionLossCdB packed).wr O.PortMeasure p
      F.PortMeasure_EstimatedLengthCm (cm % 65536)
    .next (setLink p 4 (s1.wr O.PortStatus p F.PortStatus_TrainFail 0))
  else .next s

/-- The limit of link training in ms (R300): 500 for 25.78125 Gb/s lanes, 3,000 for faster ones; for the slower lane of
10GBASE-R the spec names none, and it is taken as 500 (log 164). -/
def trainingMs (mode : Nat) : Nat := if mode = 1 ∨ mode = 2 ∨ mode = 4 then 500 else 3000

/-- TRAINING_TIMEOUT: a lane did not converge within its limit (R300). -/
def execTrainingTimeout (port : Fin 128) (s : State) : Out :=
  let p := port.val
  let trains := s.portCfg p F.PortConfig_TrainEnable = 1 ∧
    (s.link p = 3 ∨ (s.link p = 1 ∧ s.portCfg p F.PortConfig_AnEnable = 0))
  if s.portUsable p ∧ trains ∧ s.stateFor p (trainingMs (s.portCfg p F.PortConfig_Mode)) then
    .next (setLink p 1 (setDetail O.PortEventDetail p 3 (src 7 10) (s.wr O.PortStatus p F.PortStatus_TrainFail 1)))
  else .next s

/-- Sends a pause frame for a class; a port that does not carry sends none (R297). -/
def sendPause (p cls quanta : Nat) (s : State) : State :=
  if s.carrying p then
    (s.add64 O.PortCounters p F.PortCounters_TxPause 1).emit (.pause p (if cls = 8 then 255 else 2 ^ cls) quanta)
  else s

/-- The classes the port watches: those enabled in PFC mode, the whole buffer (8) in PAUSE mode. -/
def Blocks.watched (b : Blocks) (p : Nat) : List Nat :=
  match b.rd O.PortFlowControl p F.PortFlowControl_Mode with
  | 1 => [8]
  | 2 => (List.range 8).filter fun k => (b.rd O.PortFlowControl p F.PortFlowControl_PfcEnable).testBit k
  | _ => []

/-- Crossings of XoffKiB and XonKiB after a change of the buffer (R311), and the end of an overflow (R305). A port that does
not carry holds nobody off; when it carries again it sends for the classes that stand at XoffKiB. -/
def flowCheck (p : Nat) (s : State) : State :=
  let xoff := s.rd O.PortFlowControl p F.PortFlowControl_XoffKiB * 1024
  let xon := s.rd O.PortFlowControl p F.PortFlowControl_XonKiB * 1024
  let quanta := s.rd O.PortFlowControl p F.PortFlowControl_PauseQuanta
  let one := fun (a : State) (c : Nat) =>
    let level := (a.port p).level c
    let held := (a.port p).holding.any fun h => h.1 == c
    if !held && decide (xoff ≤ level) then
      (sendPause p c quanta a).updPort p fun r => { r with holding := r.holding ++ [(c, a.time.ticks)] }
    else if held && decide (level < xon) then
      (sendPause p c 0 a).updPort p fun r => { r with holding := r.holding.filter fun h => h.1 != c }
    else a
  let s1 := (if s.carrying p then s.watched p else []).foldl one s
  if (s1.port p).level 8 ≤ xoff then s1.updPort p fun r => { r with overRaised := false } else s1

/-- PORT_LINK_UP: alignment completes; the port enters UP in its mode and LeadNs is written (R297, R303). -/
def execPortLinkUp (port : Fin 128) (s : State) : Out :=
  let p := port.val
  let an := s.portCfg p F.PortConfig_AnEnable
  let train := s.portCfg p F.PortConfig_TrainEnable
  if s.portUsable p ∧ (s.link p = 4 ∨ (s.link p = 1 ∧ an = 0 ∧ train = 0)) then
    let m := s.portCfg p F.PortConfig_Mode
    let s1 := (s.wr O.PortStatus p F.PortStatus_RunningMode m).wr O.PortStatus p F.PortStatus_FecInUse
      (fecOf m (s.portCfg p F.PortConfig_FecRequest))
    let s2 := (s1.wr O.PortStatus p F.PortStatus_LaneLock (2 ^ modeLanes m - 1)).wr O.PortStatus p
      F.PortStatus_StoppedLaneLock 0
    .next (flowCheck p (setLink p 5 (writeLead p m (clearCable p s2))))
  else .next s

/-- The half of a port of `lanes` lanes that a set of lanes lies in: 0 lower, 1 upper, none when it is empty or in
both (R301). -/
def halfOf (lanes lost : Nat) : Option Nat :=
  let lower := lost % 2 ^ (lanes / 2)
  let upper := lost / 2 ^ (lanes / 2)
  if lower ≠ 0 ∧ upper = 0 then some 0 else if lower = 0 ∧ upper ≠ 0 then some 1 else none

/-- LANE_LOCK_LOSS: lanes lose alignment-marker lock for 1 µs (R301, R302). `cut` says that a frame was in reception; it is
counted here and none is then in reception any more (R297). -/
def execLaneLockLoss (port : Fin 128) (lanes : BitVec 8) (cut : Bool) (s : State) : Out :=
  let p := port.val
  let m := s.portCfg p F.PortConfig_Mode
  let lost := lanes.toNat % 2 ^ modeLanes m
  if !s.carrying p || lost == 0 then .next s
  else
    let s := s.wr O.PortStatus p F.PortStatus_LaneLock (s.rd O.PortStatus p F.PortStatus_LaneLock &&& (255 - lost))
    let count := fun s : State => if cut then s.add64 O.PortCounters p F.PortCounters_RxErrors 1 else s
    let down := fun s : State =>
      (setLink p 1 (count s)).updPort p fun r => { r with degrading := none, left := none }
    match s.link p, (s.port p).degrading, halfOf (modeLanes m) lost with
    | 5, none, some h =>
      if s.portCfg p F.PortConfig_DegradeEnable = 1 ∧ modeDegraded m ≠ 0 then
        .next (setDetail O.PortEventDetail p 1 (src 7 8) ((count s).updPort p fun r => { r with degrading := some h }))
      else .next (down s)
    | 5, some h, some h' => .next (if h = h' then s else down s)
    | 6, some h, some h' => .next (if h = h' then s else down s)
    | _, _, _ => .next (down s)

/-- PORT_DEGRADE_COMPLETE: the port has restriped onto its surviving half and enters DEGRADED, in which it drains at the
degraded rate (R301, R303); `stopped`
are the stopped lanes locked to the partner's lane-test pattern (R302). -/
def execPortDegradeComplete (port : Fin 128) (stopped : BitVec 8) (s : State) : Out :=
  let p := port.val
  let m := s.portCfg p F.PortConfig_Mode
  match s.link p, (s.port p).degrading with
  | 5, some h =>
    let half := 2 ^ (modeLanes m / 2) - 1
    let lock := if h = 0 then half * 2 ^ (modeLanes m / 2) else half
    let s1 := (s.wr O.PortStatus p F.PortStatus_RunningMode (modeDegraded m)).wr O.PortStatus p F.PortStatus_LaneLock lock
    let s2 := s1.wr O.PortStatus p F.PortStatus_StoppedLaneLock (stopped.toNat &&& (2 ^ modeLanes m - 1 - lock))
    .next (setLink p 6 (writeLead p (modeDegraded m) s2))
  | _, _ => .next s

/-- The recovered clock on a SYNCE_CLK pin (R103): the port and the divisor, or none while it is held low. -/
def syncEOutput (b : Blocks) (row : Nat) : Option (Nat × Nat) :=
  let r := fun f => b.rd O.SyncEClock row f
  if r F.SyncEClock_Enable = 0 ∨ (r F.SyncEClock_SquelchOnLoss = 1 ∧ ¬ b.carrying (r F.SyncEClock_Port)) then none
  else some (r F.SyncEClock_Port, r F.SyncEClock_Divider + 1)

/-! ### Flow control (R309 to R311) -/

/-- The pauses a MAC control frame asks for, as (class, quanta); none when flow control does not consume it. -/
def pausesOf (mode enable : Nat) (d : Bytes) : Option (List (Nat × Nat)) :=
  let op := beAt d 14 2
  if mode = 1 ∧ op = 1 then some ((List.range 8).map fun k => (k, beAt d 16 2))
  else if mode = 2 ∧ op = 0x0101 then
    let vec := beAt d 16 2
    some (((List.range 8).filter fun k => vec.testBit k && enable.testBit k).map fun k => (k, beAt d (18 + 2 * k) 2))
  else none

/-- PausedClasses shows the classes paused. -/
def showPaused (p : Nat) (s : State) : State :=
  s.wr O.PortStatus p F.PortStatus_PausedClasses ((s.port p).paused.foldl (fun a e => a ||| 2 ^ e.1) 0)

/-- A received pause takes effect (R310). -/
def pauseReceived (p : Nat) (l : List (Nat × Nat)) (s : State) : State :=
  let rate := s.portRate p
  let now := s.time.ticks
  let others := (s.port p).paused.filter fun e => !(l.any fun x => x.1 == e.1)
  let fresh := (l.filter fun e => e.2 != 0).map fun e => (e.1, now + quantaTicks e.2 rate)
  showPaused p (s.updPort p fun r => { r with paused := others ++ fresh })

/-- PAUSE_EXPIRE: a received pause runs out (R310). -/
def execPauseExpire (port : Fin 128) (cls : Fin 8) (s : State) : Out :=
  let p := port.val
  if (s.port p).paused.any fun e => e.1 == cls.val && decide (e.2 ≤ s.time.ticks) then
    .next (showPaused p (s.updPort p fun r => { r with paused := r.paused.filter fun e => e.1 != cls.val }))
  else .next s

/-- PFC_REPEAT: half the quanta have passed since the last pause frame of a class that stays above XonKiB (R311). -/
def execPfcRepeat (port : Fin 128) (cls : Fin 9) (s : State) : Out :=
  let p := port.val
  let c := cls.val
  let quanta := s.rd O.PortFlowControl p F.PortFlowControl_PauseQuanta
  let half := quantaTicks quanta (s.portRate p) / 2
  let due := (s.port p).holding.any fun h => h.1 == c && decide (h.2 + half ≤ s.time.ticks)
  if due ∧ s.carrying p ∧ (s.watched p).contains c ∧
      s.rd O.PortFlowControl p F.PortFlowControl_XonKiB * 1024 < (s.port p).level c then
    .next ((sendPause p c quanta s).updPort p fun r =>
      { r with holding := r.holding.map fun h => if h.1 = c then (c, s.time.ticks) else h })
  else .next s

/-! ### Reception (R304 to R307) -/

/-- Starting class and colour (R306). -/
def startClass (b : Blocks) (p : Nat) (d : Bytes) : Nat × Nat :=
  let r := fun f => b.rd O.PortClass p f
  let tpid := beAt d 12 2
  let tci := beAt d 14 2
  if r F.PortClass_UsePcp = 1 ∧ (tpid = 0x8100 ∨ tpid = 0x88A8) then
    let pcp := tci / 2 ^ 13
    (bitsOf (23 - 3 * pcp) (21 - 3 * pcp) (r F.PortClass_PcpMap),
      if r F.PortClass_DeiYellow = 1 ∧ tci.testBit 12 then 1 else 0)
  else (r F.PortClass_DefaultClass, 0)

/-- The arrival stamp: grid time at the latch less RxAdjust (R307). -/
def arrivalStamp (b : Blocks) (p phase : Nat) : Nat :=
  (((stampOf b 0 phase : Int) - toSigned 16 (b.rd O.PortMeasure p F.PortMeasure_RxAdjust)) % 2 ^ 64).toNat

/-- Domain `dm` takes the frame, sent or received on port `p`, as a PTP event message of its source (R83). -/
def ptpFor (b : Blocks) (dm : Dom) (p : Nat) (d : Bytes) : Bool :=
  match ptpEventDomain d with
  | none => false
  | some n => b.sc (domObj dm O.DomainASource) == 1 && b.sc (domObj dm O.DomainAPort) == p &&
      b.sc (domObj dm O.DomainAPtpDomain) == n

/-- A PTP event message of a domain that listens on this port (R83, R85). -/
def ptpHeard (p : Nat) (d : Bytes) (s : State) : State :=
  let hear := fun (dm : Dom) (s : State) =>
    if ptpFor s.toBlocks dm p d then s.updDom dm fun r => { r with lastEvent := s.time.ticks } else s
  hear .b (hear .a s)

/-- The timestamp of a PTP event message as a host servo receives it: the latch of this instant in the timescale of the
domain the message belongs to, with the port's adjustment (R83, R307). None for another frame, or while Bureau owns the
servo; a message of both domains' sources is stamped for domain A (log 155). -/
def servoStamp (b : Blocks) (p phase : Nat) (adjust : Int) (d : Bytes) : Option Nat :=
  let at_ := fun scale => (((stampOf b scale phase : Int) + adjust) % 2 ^ 64).toNat
  if b.sc O.ServoOwner = 0 then none
  else if ptpFor b .a p d then some (at_ 1)
  else if ptpFor b .b p d then some (at_ 2)
  else none

/-- A frame that passed R304 enters the receive buffer or overflows it; the first one lost while the buffer is above XoffKiB
raises the source (R305). -/
def bufferFrame (p : Nat) (f : RxFrame) (s : State) : State :=
  if s.rxSize p < (s.port p).level 8 + f.data.length then
    let s1 := s.add64 O.PortCounters p F.PortCounters_RxOverflow 1
    if (s.port p).overRaised ∨ (s.port p).level 8 ≤ s.rd O.PortFlowControl p F.PortFlowControl_XoffKiB * 1024 then s1
    else (setDetail O.PortEventDetail p 4 (src 7 11) s1).updPort p fun r => { r with overRaised := true }
  else flowCheck p (s.updPort p fun r => { r with rx := r.rx ++ [f] })

/-- What R304 makes of a received frame: the counter it is discarded under, if any. -/
def receiveFault (b : Blocks) (p : Nat) (d : Bytes) : Option Nat :=
  let n := d.length
  if n < 4 ∨ fcsBytes (d.take (n - 4)) ≠ d.drop (n - 4) then some F.PortCounters_RxErrors
  else if n < 64 then some F.PortCounters_RxUndersize
  else if b.portCfg p F.PortConfig_RxMaxFrame < n then some F.PortCounters_RxOversize
  else none

/-- A frame of `n` bytes that ends now was in reception when the port left a carrying state at tick `t0` and `rate` Gb/s: its
`n` + 20 bytes on the wire began before. -/
def wasReceiving (n : Nat) (now : Nat) : Option (Nat × Nat) → Bool
  | none => false
  | some (t0, rate) => decide ((now - t0) * 5 * rate < (n + 20) * 32)

/-- What the FEC decoder of a port counted (Table 12-2). -/
def countFec (p : Nat) (fec : FecCount) (s : State) : State :=
  (s.add64 O.PortCounters p F.PortCounters_FecCorrected fec.corrected.toNat).add64 O.PortCounters p
    F.PortCounters_FecUncorrected fec.uncorrected.toNat

/-- FRAME_RECEIVE: a whole frame arrives, FCS included; `phase` is the fifth of the tick its timestamp falls in. A port that does not carry receives nothing; the frame that was
in reception when it left is discarded and counted (R297). -/
def execFrameReceive (port : Fin 128) (rx : LineBytes) (phase : Fin 5) (s : State) : Out :=
  let data := rx.bytes
  let p := port.val
  if !s.carrying p then
    if wasReceiving data.length s.time.ticks (s.port p).left then
      .next ((s.add64 O.PortCounters p F.PortCounters_RxErrors 1).updPort p fun r => { r with left := none })
    else .next s
  else
  let s := if s.rd O.PortStatus p F.PortStatus_FecInUse ≤ 1 then s else countFec p rx.fec s
  match receiveFault s.toBlocks p data with
    | some c => .next (s.add64 O.PortCounters p c 1)
    | none =>
      if beAt data 12 2 = 0x8808 then
        match pausesOf (s.rd O.PortFlowControl p F.PortFlowControl_Mode) (s.rd O.PortFlowControl p F.PortFlowControl_PfcEnable)
            data with
        | some l => .next (pauseReceived p l (s.add64 O.PortCounters p F.PortCounters_RxPause 1))
        | none => .next (s.add64 O.PortCounters p F.PortCounters_RxMacControl 1)
      else
        let (cls, colour) := startClass s.toBlocks p data
        let s1 := s.add64 O.PortCounters p F.PortCounters_RxFrames 1
        let s2 := ptpHeard p data (s1.add64 O.PortCounters p F.PortCounters_RxBytes data.length)
        let ptp := servoStamp s.toBlocks p phase.val (-(toSigned 16 (s.rd O.PortMeasure p F.PortMeasure_RxAdjust))) data
        .next (bufferFrame p ⟨data, arrivalStamp s.toBlocks p phase.val, ptp, cls, colour⟩ s2)

/-! ### Writes (R294, R296, R308, R311) -/

/-- The commit-wide check of PortConfig (R294): `get` reads the rows as they would stand. -/
def portConfigFault (get : Nat → Nat → Nat) (rows : List Nat) : Bool :=
  let enabled := rows.filter fun p => get p F.PortConfig_Enable == 1
  let lanes := fun p => modeLanes (get p F.PortConfig_Mode)
  enabled.any fun p =>
    lanes p == 0 || p % lanes p != 0 || decide (128 < p + lanes p) ||
    !(modeFec (get p F.PortConfig_Mode)).contains (fecOf (get p F.PortConfig_Mode) (get p F.PortConfig_FecRequest)) ||
    enabled.any fun q => q != p && decide (q < p + lanes p) && decide (p < q + lanes q)

/-- XoffKiB fits the receive buffer of a port in a mode (R311). -/
def xoffFits (mode xoff : Nat) : Bool := decide (xoff ≤ 64 * max 1 (modeLanes mode))

/-- The checks of a PortFlowControl row by itself (R311); that XoffKiB fits the buffer is judged on the commit's whole
result. -/
def flowRowOk (g : Nat → Nat) : Bool :=
  decide (g F.PortFlowControl_XonKiB < g F.PortFlowControl_XoffKiB) && decide (1 ≤ g F.PortFlowControl_XoffKiB)

/-- A PortConfig row as committed: a change of Mode, FecRequest, AnEnable, TrainEnable, Enable or polarity restarts the
port (R296). -/
def portConfigApplied (p : Nat) (changed : List Nat) (s : State) : State :=
  let retrain := [F.PortConfig_Mode, F.PortConfig_FecRequest, F.PortConfig_AnEnable, F.PortConfig_TrainEnable,
    F.PortConfig_Enable, F.PortConfig_TxInvert, F.PortConfig_RxInvert]
  if changed.any fun f => retrain.contains f then restartPort p s else s

/-- PORT_RETRAIN takes effect: an enabled port goes to DOWN and comes up again (R296). -/
def portRetrain (p : Nat) (s : State) : State :=
  if s.portCfg p F.PortConfig_Enable = 1 then restartPort p s else s

/-- A write of MeanLinkDelay updates PathLengthCm on a P2P port (R308). -/
def tcPortWritten (p : Nat) (s : State) : State :=
  let d := s.rd O.TcPort p F.TcPort_MeanLinkDelay
  if s.rd O.TcPort p F.TcPort_Mode = 2 ∧ d ≠ 0 then
    s.wr O.PortMeasure p F.PortMeasure_PathLengthCm
      (d * 1000 * 100 / (65536 * s.rd O.PortMeasure p F.PortMeasure_PropagationPsPerM) % 2 ^ 24)
  else s

end Sys2Proof.Machine
end

