-- ==== Sys2Proof/Machine/Sched.lean ====
section
/-! DEFINITION. Scheduling, shaping, calendar, gates and launch time (chapter 10; frame ageing, R216). -/
namespace Sys2Proof.Machine

/-! ### Nodes -/

/-- The port a node lies under, by the parents in effect. -/
def nodePort (b : Blocks) : Nat → Nat → Nat
  | 0, row => row
  | level + 1, row => nodePort b level (b.node (level + 1) row F.SchedQueue_Parent)

/-- Length mode and Overhead of a node; INHERIT takes its port's (R232). -/
def nodeMode (b : Blocks) (level row : Nat) : Nat × Nat :=
  let m := b.node level row F.SchedQueue_LengthMode
  if m = 3 then
    let p := nodePort b level row
    (b.node 0 p F.SchedQueue_LengthMode, b.node 0 p F.SchedQueue_Overhead)
  else (m, b.node level row F.SchedQueue_Overhead)

/-- Cost of a packet at a node's shapers. -/
def nodeCost (b : Blocks) (level row len : Nat) : Nat :=
  let (m, o) := nodeMode b level row
  lengthCost m o len

/-- Cost of a packet in the round robin of a parent: 64 units in PACKETS mode (Table 10-3). -/
def drrCost (b : Blocks) (level row len : Nat) : Nat :=
  let (m, o) := nodeMode b level row
  if m = 2 then 64 else lengthCost m o len

/-- Credits count in 2^-32 cost units (R233). -/
abbrev creditUnit : Nat := 2 ^ 32

/-- The refill tick of a level in ns (Table 10-1). -/
def levelTick (level : Nat) : Nat := [1024, 1024, 512, 256, 128].getD level 128

/-- R × T of R233, in credit units. -/
def refillAmount (mode rate tick : Nat) : Int :=
  if mode = 2 then roundDiv ((rate * tick * creditUnit : Nat) : Int) 1000000000
  else roundDiv ((rate * tick * creditUnit : Nat) : Int) 8000000000

/-- A credit at a refill tick (R233). -/
def refillCredit (c : Int) (burst : Nat) (amount : Int) : Int :=
  min (c + amount) (burst * creditUnit : Nat)

/-- A credit under a new burst (R234): debt and credit are clipped to it. -/
def clipCredit (c : Int) (burst : Nat) : Int :=
  let b : Int := (burst * creditUnit : Nat)
  min (if c < 0 then max c (-b) else c) b

/-- The fields of a node row. -/
abbrev nodeFields : List Nat := (List.range 17).map (· + 1)

/-- Copies fields of a committed node row into effect. -/
def installFields (level row : Nat) (flds : List Nat) (s : State) : State :=
  let obj := levelObj level
  let put := fun (t : Tbl Nat) (f : Nat) => Tbl.put (fieldDefault obj row f) (skey obj row f) (s.rd obj row f) t
  s.upSched fun c => { c with eff := flds.foldl put c.eff }

/-- A waiting row takes effect at the node's refill tick (R234): a shaper that it enables starts full. A change of
CalendarMode, or of PeakRate in calendar mode, waits for the node's next selection (R238). -/
def installRow (level row : Nat) (s : State) : State :=
  let obj := levelObj level
  let wasC := s.node level row F.SchedQueue_CommittedEnable
  let wasP := s.node level row F.SchedQueue_PeakEnable
  let cal := s.node level row F.SchedQueue_CalendarMode
  let turns := s.rd obj row F.SchedQueue_CalendarMode ≠ cal ∨ cal = 1
  let flds := if turns then
      nodeFields.filter fun f => f != F.SchedQueue_CalendarMode && f != F.SchedQueue_PeakRate
    else nodeFields
  let s1 := installFields level row flds s
  let key := nodeKey level row
  let s2 := if turns then s1.upSched fun c => { c with calWait := key :: c.calWait.filter (· != key) } else s1
  let onC := wasC = 0 ∧ s1.node level row F.SchedQueue_CommittedEnable = 1
  let onP := wasP = 0 ∧ s1.node level row F.SchedQueue_PeakEnable = 1
  let burstC := s1.node level row F.SchedQueue_CommittedBurst
  let burstP := s1.node level row F.SchedQueue_PeakBurst
  s2.updNode key fun n =>
    { n with
      comm := if onC then burstC * creditUnit else clipCredit n.comm burstC
      peak := if onP then burstP * creditUnit else clipCredit n.peak burstP }

/-- Refills a node's enabled shapers. -/
def refillNode (level row : Nat) (s : State) : State :=
  let r := fun f => s.node level row f
  let mode := (nodeMode s.toBlocks level row).1
  let tick := levelTick level
  s.updNode (nodeKey level row) fun n =>
    { n with
      comm := if r F.SchedQueue_CommittedEnable = 1 then
          refillCredit n.comm (r F.SchedQueue_CommittedBurst) (refillAmount mode (r F.SchedQueue_CommittedRate) tick)
        else n.comm
      peak := if r F.SchedQueue_PeakEnable = 1 then
          refillCredit n.peak (r F.SchedQueue_PeakBurst) (refillAmount mode (r F.SchedQueue_PeakRate) tick)
        else n.peak }

/-- The rows of a level whose committed or peak shaper is enabled in effect. -/
def shapedRows (b : Blocks) (level : Nat) : List Nat :=
  let obj := levelObj level
  let isOn := fun e : Nat × Nat => e.1 / 2 ^ 40 == obj && e.2 == 1 &&
    (e.1 % 256 == F.SchedQueue_CommittedEnable || e.1 % 256 == F.SchedQueue_PeakEnable)
  ((b.sched.eff.filter isOn).map fun e => e.1 / 256 % 2 ^ 32).dedup

/-- SHAPER_REFILL: a refill tick of a level (R233, R234). -/
def execShaperRefill (level : Fin 5) (s : State) : Out :=
  let mine := s.sched.waiting.filter fun k => k / 2 ^ 20 == level.val
  let s1 := mine.foldl (fun a k => installRow level.val (k % 2 ^ 20) a) s
  let s2 := s1.upSched fun c => { c with waiting := c.waiting.filter fun k => k / 2 ^ 20 != level.val }
  .next ((shapedRows s2.toBlocks level.val).foldl (fun a row => refillNode level.val row a) s2)

/-! ### Calendar (R235 to R238) -/

/-- Grid time in slots of 64 ns with 16 fractional bits. -/
def Blocks.slotTime (b : Blocks) : Nat := b.gridQ * 256

/-- CALENDAR_SLOT_RELEASE: of the nodes whose NE lies in a slot that has started, the wheel releases 64, those of
earlier slots first; every other one slips (R237). Within a slot the order is that of the node keys (log 52). -/
def execCalendarSlotRelease (s : State) : Out :=
  let now := s.slotTime / 65536
  let due := s.sched.nodes.filter fun e => !e.2.released && decide (e.2.ne / 65536 ≤ now)
  let sorted := due.insertionSort fun a b => a.2.ne / 65536 ≤ b.2.ne / 65536
  let s1 := (sorted.take 64).foldl (fun a e => a.updNode e.1 fun n => { n with released := true }) s
  let late := sorted.drop 64
  .next (late.foldl (fun a _ => raise (src 5 2) (a.add64 O.CalendarSlip 0 0 1)) s1)

/-- Charges a calendar node (R236). -/
def chargeCalendar (level row cost : Nat) (s : State) : State :=
  let rate := s.node level row F.SchedQueue_PeakRate
  let mode := (nodeMode s.toBlocks level row).1
  let num : Nat := if mode = 2 then cost * 1000000000 * 65536 else cost * 8 * 1000000000 * 65536
  let step := if rate = 0 then 0 else (roundDiv (num : Int) (64 * rate)).toNat
  let limit := 65535 * 65536
  let s1 := if limit < step then raise (src 5 5) (s.add64 O.CalendarClip 0 0 1) else s
  s1.updNode (nodeKey level row) fun n => { n with ne := max n.ne s.slotTime + min step limit, released := false }

/-! ### Gates (R240 to R245) -/

/-- A port without a list. -/
abbrev GateRT.start : GateRT := ⟨none, none, 0, 0, false, 0⟩

def Blocks.gate (b : Blocks) (p : Nat) : GateRT := Tbl.get GateRT.start b.gates p

def State.updGate (s : State) (p : Nat) (f : GateRT → GateRT) : State :=
  { s with gates := Tbl.put GateRT.start p (f (s.gate p)) s.gates }

/-- The entry of a list in force `off` 0.25 ns units into its cycle: its index, states, and how long it stays in force;
the last entry lasts to the cycle's end (R240). -/
def entryAt (cycleQ : Nat) : List (Nat × Nat) → Nat → Nat → Nat → Nat × Nat × Nat
  | [], _, _, off => (0, 255, cycleQ - off)
  | [(st, _)], i, _, off => (i, st, cycleQ - off)
  | (st, ns) :: t, i, start, off =>
    if off < start + ns * 4 then (i, st, min (start + ns * 4) cycleQ - off)
    else entryAt cycleQ t (i + 1) (start + ns * 4) off

/-- The entry of a list in force at an instant (0.25 ns count). -/
def GateList.now (l : GateList) (q : Nat) : Nat × Nat × Nat :=
  let c := l.cycle * 4
  entryAt c l.entries 0 0 ((((q : Int) - l.base) % (c : Int)).toNat)

/-- Class `k` stays open under a list from `q` for `dur`. -/
def GateList.openFor (l : GateList) (k : Nat) : Nat → Nat → Nat → Bool
  | 0, _, _ => false
  | fuel + 1, q, dur =>
    let (_, st, left) := l.now q
    st.testBit k && (decide (dur ≤ left) || l.openFor k fuel (q + max left 1) (dur - left))

/-- The states a port applies when no list runs (R241). -/
def Blocks.notRunning (b : Blocks) (p : Nat) : Nat := b.rd O.GateConfig p F.GateConfig_NotRunningStates

/-- Gating applies to the port. -/
def Blocks.gated (b : Blocks) (p : Nat) : Bool := decide (p < 128) && b.rd O.GateConfig p F.GateConfig_Enable == 1

/-- The list that runs now: none outside LOCKED and HOLDOVER (R241). -/
def Blocks.runningList (b : Blocks) (p : Nat) : Option GateList := if b.gridRuns then (b.gate p).oper else none

/-- CurrentEntry and CurrentStates: the entry that grid time falls in and what it opens; every class on a port without
gating, NotRunningStates while no list runs (R240, R241). -/
def gateNow (b : Blocks) (p : Nat) : Nat × Nat :=
  if !b.gated p then (0, 255)
  else match b.runningList p with
    | none => (0, b.notRunning p)
    | some l => (let (i, st, _) := l.now b.gridQ; (i, st))

/-- A gate change latches the entry now in force. -/
def gateRefresh (p : Nat) (s : State) : State :=
  s.updGate p fun g => { g with entry := (gateNow s.toBlocks p).1, states := (gateNow s.toBlocks p).2 }

/-- The gate test of a packet of `dur` 0.25 ns units on the wire in gate class `k` (R245). -/
def gateOpen (b : Blocks) (p k dur : Nat) : Bool :=
  if !b.gated p then true
  else
    let q := b.gridQ
    let fuel := dur / 16 + 8
    let under := fun (l : Option GateList) (q dur : Nat) => match l with
      | none => (b.notRunning p).testBit k
      | some l => l.openFor k fuel q dur
    let cur := b.runningList p
    let nowOpen := (gateNow b p).2.testBit k
    let stays := match (b.gate p).pend with
      | some (l, start) =>
        if b.gridRuns ∧ q < start ∧ start < q + dur then under cur q (start - q) && under (some l) start (q + dur - start)
        else under cur q dur
      | none => under cur q dur
    nowOpen && stays

/-- The wire time of a packet at the port's running rate, Length + 20 bytes (R245, R303), in 0.25 ns units. -/
def wireTime (b : Blocks) (p len : Nat) : Nat :=
  ceilDiv ((len + 20) * 32) (max 1 (modeRate (b.rd O.PortStatus p F.PortStatus_RunningMode)))

/-- GATE_ENTRY_CHANGE: an entry's interval or the cycle ends, and the entry that grid time falls in applies (R240). -/
def execGateEntryChange (port : Fin 128) (s : State) : Out := .next (gateRefresh port.val s)

/-- GATE_LIST_START: at S the pending list becomes the operational list (R241, R242). -/
def execGateListStart (port : Fin 128) (s : State) : Out :=
  let p := port.val
  match (s.gate p).pend with
  | some (l, start) =>
    if start ≤ s.gridQ then
      .next (raise (src 5 6) (gateRefresh p (s.updGate p fun g => { g with oper := some l, pend := none })))
    else .next s
  | none => .next s

/-- The administrative list of a port. -/
def adminList (b : Blocks) (p : Nat) : GateList :=
  let n := b.rd O.GateConfig p F.GateConfig_AdminEntryCount
  { base := qOfTime80 (b.rd O.GateConfig p F.GateConfig_AdminBaseTime)
    cycle := b.rd O.GateConfig p F.GateConfig_AdminCycleTimeNs
    entries := (List.range n).map fun i =>
      (b.rd O.GateAdminList (p * 1024 + i) F.GateAdminList_GateStates,
        b.rd O.GateAdminList (p * 1024 + i) F.GateAdminList_IntervalNs) }

/-- A GateConfigChange commit schedules the administrative list (R242, R243). -/
def gateChange (p : Nat) (s : State) : State :=
  let l := adminList s.toBlocks p
  let now := s.gridQ
  let c := l.cycle * 4
  if now ≤ l.base then
    s.updGate p fun g => { g with pend := some (l, l.base), late := false, change := l.base }
  else
    let t := now + max (2 * c) 40000
    let start := l.base + ceilDiv (t - l.base) c * c
    let s1 := s.updGate p fun g => { g with pend := some (l, start), late := true, change := start }
    raise (src 5 1) (s1.sat32 O.GateStartedLateCount 0 0 1)

/-- The commit-wide checks of a GateConfigChange row (R242, R243), over a reader of the rows as they would stand. -/
def gateChangeFault (get : Nat → Nat → Nat → Nat) (p : Nat) : Option Nat :=
  let n := get O.GateConfig p F.GateConfig_AdminEntryCount
  if get O.GateConfig p F.GateConfig_Enable = 0 then some O.GateConfigChange
  else if (List.range n).any fun i => get O.GateAdminList (p * 1024 + i) F.GateAdminList_IntervalNs == 0 then
    some O.GateAdminList
  else none

/-! ### Eligibility (R229) -/

/-- A queue under consideration, with its path and its head. -/
structure Cand where
  q : Nat
  l3 : Nat
  l2 : Nat
  l1 : Nat
  port : Nat
  head : Pkt
  deriving DecidableEq, Repr

/-- The node of a candidate's path at a level. -/
def Cand.at (c : Cand) (level : Nat) : Nat :=
  match level with
  | 0 => c.port | 1 => c.l1 | 2 => c.l2 | 3 => c.l3 | _ => c.q

/-- The backlogged queues of a port, with their paths. -/
def backlogged (b : Blocks) (port : Nat) : List Cand :=
  b.tm.queues.filterMap fun e =>
    match headOf e.2, b.path? e.1 with
    | some p, some (l3, l2, l1, pt) => if pt = port then some ⟨e.1, l3, l2, l1, pt, p⟩ else none
    | _, _ => none

/-- A ring without anything. -/
abbrev RingRT.start : RingRT := ⟨0, 0, 0, 0, 0, none, []⟩

def Blocks.ring (b : Blocks) (r : Nat) : RingRT := Tbl.get RingRT.start b.host.rings r

/-- The enabled punt ring that names a queue. -/
def Blocks.puntRingOf (b : Blocks) (q : Nat) : Option Nat :=
  ((b.host.rings.filter fun e => decide (e.1 < 4096) && e.2.st != 0).map (·.1)).find? fun r =>
    b.rd O.PuntRing r F.PuntRing_Enable == 1 && b.rd O.PuntRing r F.PuntRing_Queue == q

/-- Descriptors posted and not yet used. -/
def RingRT.posted (r : RingRT) : Nat := (r.prod + 2 ^ 32 - r.next) % 2 ^ 32

/-- A host-port queue may be served (R340). -/
def hostQueueReady (b : Blocks) (q : Nat) : Bool :=
  match b.puntRingOf q with
  | none => false
  | some r => (b.ring r).st == 1 && decide (b.rd O.PuntRing r F.PuntRing_MinFree ≤ (b.ring r).posted)

/-- The port may send now: a line port carries and is not restriping (R298, R301). -/
def portReady (b : Blocks) (p : Nat) : Bool :=
  decide (128 ≤ p) || (b.carrying p && ((b.port p).degrading.isNone || b.rd O.PortStatus p F.PortStatus_State == 6))

/-- The partner has paused the queue's class (R229, R310). -/
def classPaused (b : Blocks) (p k : Nat) : Bool := decide (p < 128) && (b.port p).paused.any fun e => e.1 == k

/-- LeadNs and LateWindowNs of a port; ports without a row have lead 0 and the default window (log 53). -/
def leadOf (b : Blocks) (p : Nat) : Nat := if p < 128 then b.rd O.LaunchPort p F.LaunchPort_LeadNs else 0

def lateOf (b : Blocks) (p : Nat) : Nat := if p < 128 then b.rd O.LaunchPort p F.LaunchPort_LateWindowNs else 1000

/-- A packet's launch time, compensated for grid steps (R91, R246). -/
def launchOf (b : Blocks) (p : Pkt) : Nat := b.compStamp p.gen p.hdr.launch

/-- A head packet has outlived its class (R216). -/
def agedHead (b : Blocks) (p : Pkt) : Bool :=
  decide (b.rd O.FrameAgeLimit p.hdr.cls 0 * 4000 < stampAge (b.compStamp p.gen p.hdr.stamp) b.stamp)

/-- The launch test of R248: the head may leave its launch-time queue, being neither aged nor past its late window nor
before its time. In FREE and ACQUIRE none may. -/
def launchOk (b : Blocks) (c : Cand) : Bool :=
  if b.node 4 c.q F.SchedQueue_LaunchQueue = 0 then true
  else b.gridRuns && !agedHead b c.head && (!c.head.hdr.launchValid ||
    (stampReached b.stamp ((launchOf b c.head + lateOf b c.port * 4) % 2 ^ 64) &&
      stampReached ((launchOf b c.head + 2 ^ 64 - leadOf b c.port * 4) % 2 ^ 64) b.stamp))

/-- A node's own shaping lets it send (R229, R238). -/
def selfEligible (b : Blocks) (level row : Nat) : Bool :=
  if b.node level row F.SchedQueue_CalendarMode = 1 then
    (b.nodeRT (nodeKey level row)).released && b.node level row F.SchedQueue_PeakRate != 0
  else b.node level row F.SchedQueue_PeakEnable == 0 || decide (0 ≤ (b.nodeRT (nodeKey level row)).peak)

/-- Its committed side lets it send. -/
def selfCommitted (b : Blocks) (level row : Nat) : Bool :=
  if b.node level row F.SchedQueue_CalendarMode = 1 then (b.nodeRT (nodeKey level row)).released
  else b.node level row F.SchedQueue_CommittedEnable == 1 && decide (0 ≤ (b.nodeRT (nodeKey level row)).comm)

/-- A backlogged queue passes the tests of its own head, its shaping apart (R229). -/
def headPasses (b : Blocks) (c : Cand) : Bool :=
  let k := b.node 4 c.q F.SchedQueue_GateClass
  !classPaused b c.port k && gateOpen b c.port k (wireTime b c.port c.head.hdr.length) &&
    launchOk b c && (c.port != 128 || hostQueueReady b c.q)

/-- A backlogged queue may be chosen: its port carries, and its head passes (R298). -/
def headEligible (b : Blocks) (c : Cand) : Bool := portReady b c.port && headPasses b c

/-! ### Arbitration (R230, R231) -/

/-- One child of a node as the arbitration sees it: its row, the queue it would send, that packet's cost in the parent's
mode, and what its own subtree's rounds become. -/
structure Child where
  row : Nat
  cand : Cand
  cost : Nat
  committed : Bool
  rounds : List (Nat × List Nat)
  deficits : List (Nat × Nat)
  granted : List (Nat × Bool)
  deriving DecidableEq, Repr

/-- The round of a parent and group after its turn: the child chosen, the order, deficits and quanta as they become. -/
structure Turn where
  row : Nat
  order : List Nat
  deficits : List (Nat × Nat)
  granted : List Nat
  deriving DecidableEq, Repr

/-- The value listed last for a key. -/
def lastOf (d : Nat) (k : Nat) (l : List (Nat × Nat)) : Nat :=
  match (l.reverse).find? fun e => e.1 == k with
  | some e => e.2
  | none => d

/-- Deficit round robin (R231): `elig` are the rows that may be chosen, `weight` and `cost` theirs. -/
def drrTurn (elig : List Nat) (weight cost : Nat → Nat) : Nat → Turn → Option Turn
  | 0, _ => none
  | fuel + 1, t =>
    match t.order.find? fun r => elig.contains r with
    | none => none
    | some h =>
      let d0 := lastOf 0 h t.deficits
      let d := if t.granted.contains h then d0 else d0 + weight h * 64
      if cost h ≤ d then
        some { t with row := h, deficits := t.deficits ++ [(h, d - cost h)], granted := h :: t.granted.filter (· != h) }
      else
        drrTurn elig weight cost fuel
          { t with order := (t.order.filter (· != h)) ++ [h], deficits := t.deficits ++ [(h, d)]
                   granted := t.granted.filter (· != h) }

/-- The child a node picks among its children (R230). -/
def pickChild (b : Blocks) (level row : Nat) (children : List Child) : Option Child :=
  let com := children.filter (·.committed)
  let pool := if com.isEmpty then children else com
  let group := fun c : Child => b.node (level + 1) c.row F.SchedQueue_PriorityGroup
  match (pool.map group).min? with
  | none => none
  | some g =>
    let elig := (pool.filter fun c => group c == g).map (·.row)
    let key := nodeKey level row * 8 + g
    let old := Tbl.get [] b.sched.rounds key
    let order := old ++ elig.filter fun r => !old.contains r
    let child := fun r => nodeKey (level + 1) r
    let t0 : Turn := { row := 0, order := order
                       deficits := order.map fun r => (r, (b.nodeRT (child r)).deficit)
                       granted := order.filter fun r => b.sched.granted.contains (child r) }
    let cost := fun r => ((children.find? fun c => c.row == r).map (·.cost)).getD 0
    match drrTurn elig (fun r => b.node (level + 1) r F.SchedQueue_Weight) cost (elig.length * 300 + 1) t0 with
    | none => none
    | some t =>
      (children.find? fun c => c.row == t.row).map fun c =>
        { c with rounds := c.rounds ++ [(key, t.order)]
                 deficits := c.deficits ++ order.map fun r => (child r, lastOf 0 r t.deficits)
                 granted := c.granted ++ order.map fun r => (child r, t.granted.contains r) }

/-- The choice below a node, `depth` levels above the queues, among candidates that lie under it. -/
def pickBelow (b : Blocks) : Nat → Nat → List Cand → Option Child
  | 0, row, cs =>
    match cs.find? fun c => c.q == row with
    | some c => some ⟨row, c, 0, false, [], [], []⟩
    | none => none
  | depth + 1, row, cs =>
    let level := 3 - depth
    let rows := (cs.map (·.at (level + 1))).dedup
    let children := rows.filterMap fun r =>
      if !selfEligible b (level + 1) r then none
      else (pickBelow b depth r (cs.filter fun c => c.at (level + 1) == r)).map fun c =>
        { c with row := r, cost := drrCost b level row c.cand.head.hdr.length, committed := selfCommitted b (level + 1) r }
    pickChild b level row children

/-- The queue a port would send from now, and what the rounds become. -/
def pickPort (b : Blocks) (port : Nat) (cs : List Cand) : Option Child :=
  if b.node 0 port F.SchedQueue_Valid = 1 ∧ selfEligible b 0 port then pickBelow b 4 port cs else none

/-! ### Charging -/

/-- A change of PeakRate and CalendarMode that waited takes effect at the node's selection; clearing CalendarMode fills
both credits (R238). -/
def installCalendar (level row : Nat) (s : State) : State :=
  let key := nodeKey level row
  if !s.sched.calWait.contains key then s
  else
    let was := s.node level row F.SchedQueue_CalendarMode
    let s1 := installFields level row [F.SchedQueue_CalendarMode, F.SchedQueue_PeakRate] s
    let s2 := s1.upSched fun c => { c with calWait := c.calWait.filter (· != key) }
    if was = 1 ∧ s2.node level row F.SchedQueue_CalendarMode = 0 then
      s2.updNode key fun n =>
        { n with comm := s2.node level row F.SchedQueue_CommittedBurst * creditUnit
                 peak := s2.node level row F.SchedQueue_PeakBurst * creditUnit, released := true }
    else s2

/-- Charges one node of the path (R230, R233, R236). -/
def chargeNode (level row len : Nat) (s : State) : State :=
  let s := installCalendar level row s
  let cost := nodeCost s.toBlocks level row len
  let r := fun f => s.node level row f
  if r F.SchedQueue_CalendarMode = 1 then chargeCalendar level row cost s
  else if r F.SchedQueue_CommittedEnable = 0 ∧ r F.SchedQueue_PeakEnable = 0 then s
  else s.updNode (nodeKey level row) fun n =>
    { n with comm := if r F.SchedQueue_CommittedEnable = 1 then n.comm - cost * creditUnit else n.comm
             peak := if r F.SchedQueue_PeakEnable = 1 then n.peak - cost * creditUnit else n.peak }

/-! ### Ageing and selection -/

/-- Takes the head item off a queue. -/
def popHead (q : Nat) (s : State) : State := askReturn q (s.setQueue q ((s.queue q).drop 1))

/-- Discards an aged head (R216, R340). -/
def dropAged (q : Nat) (p : Pkt) (s : State) : State :=
  let s1 := popHead q s
  let s2 := s1.add64 O.QueueCounters q F.QueueCounters_Aged 1
  let s3 := (s2.add64 O.AgedByClass p.hdr.cls 0 1).add64 O.DropByReason DropReason.aged.row 0 1
  let s4 := if p.hdr.destPort = 128 ∧ (s.puntRingOf q).isNone then s3.add64 O.PuntNoRing 0 0 1 else s3
  raise (src 4 4) (recordDrop (DropReason.aged.row + 1) p s4)

/-- Discards launch-time heads beyond their late window (R248). -/
def dropLate (q port : Nat) : Nat → State → State
  | 0, s => s
  | fuel + 1, s =>
    match headOf (s.queue q) with
    | none => s
    | some p =>
      let tooLate := p.hdr.launchValid && s.gridRuns && !agedHead s.toBlocks p &&
        !(stampReached s.stamp ((launchOf s.toBlocks p + lateOf s.toBlocks port * 4) % 2 ^ 64))
      if tooLate then
        let s1 := popHead q s
        let s2 := countDropped q p.hdr.length (s1.add64 O.LaunchCounters port F.LaunchCounters_Discarded 1)
        dropLate q port fuel (raise (src 5 3) (recordDrop 13 p s2))
      else s

/-- The tests a decision makes on a queue's head before it may be chosen: ageing, then the late window of a launch-time
queue. Heads of a class the partner paused are left to the pause (log 51). `true`: the queue takes no further part in
this decision. -/
def headTests (c : Cand) (s : State) : Bool × State :=
  if classPaused s.toBlocks c.port (s.node 4 c.q F.SchedQueue_GateClass) then (false, s)
  else if agedHead s.toBlocks c.head then (true, dropAged c.q c.head s)
  else if s.node 4 c.q F.SchedQueue_LaunchQueue = 1 then
    let s1 := dropLate c.q c.port ((s.queue c.q).length) s
    match headOf (s1.queue c.q) with
    | some p => if agedHead s1.toBlocks p then (true, dropAged c.q p s1) else (false, s1)
    | none => (true, s1)
  else (false, s)

/-- The Dovetail link a packet crosses by (R17, R18): bit 0 of its flow hash, or the link that is up. -/
def linkFor (b : Blocks) (hash : Nat) : Option Nat :=
  let up := b.sc O.DovetailLinkState
  let k := hash % 2
  if up.testBit k then some k else if up.testBit (1 - k) then some (1 - k) else none

/-- The counters of a packet selected from a launch-time queue (R246, R248). -/
def countLaunch (c : Cand) (s : State) : State :=
  if s.node 4 c.q F.SchedQueue_LaunchQueue = 0 ∨ 128 ≤ c.port then s
  else if !c.head.hdr.launchValid then s.add64 O.LaunchCounters c.port F.LaunchCounters_NoTime 1
  else
    let due := (launchOf s.toBlocks c.head + 2 ^ 64 - leadOf s.toBlocks c.port * 4) % 2 ^ 64
    if 64 < stampAge due s.stamp then raise (src 5 4) (s.add64 O.LaunchCounters c.port F.LaunchCounters_Late 1)
    else s.add64 O.LaunchCounters c.port F.LaunchCounters_OnTime 1

/-- The rounds, deficits and quanta after a choice. -/
def applyRounds (c : Child) (s : State) : State :=
  let s1 := s.upSched fun x =>
    { x with rounds := c.rounds.foldl (fun t e => Tbl.put [] e.1 e.2 t) x.rounds
             granted := (x.granted.filter fun k => !(c.granted.any fun e => e.1 == k)) ++
               (c.granted.filter (·.2)).map (·.1) }
  c.deficits.foldl (fun a e => a.updNode e.1 fun n => { n with deficit := e.2 }) s1

/-- The chosen head leaves its queue for the forwarding die. -/
def sendHead (c : Child) (link : Nat) (s : State) : State :=
  match s.queue c.cand.q with
  | .chip p desc cells :: _ =>
    let p' : Pkt := { p with stamps := p.stamps ++ [s.stamp % 2 ^ 32] }
    let sel : Sel := ⟨p', c.cand.port, c.cand.q, desc, cells⟩
    let s1 := (popHead c.cand.q s).upFe fun f =>
      if link = 0 then { f with toFe0 := f.toFe0 ++ [sel] } else { f with toFe1 := f.toFe1 ++ [sel] }
    let s2 := (List.range 5).foldl (fun a level => chargeNode level (c.cand.at level) p.hdr.length a) s1
    settleRounds (applyRounds c s2)
  | _ => s

/-- SCHEDULER_SELECT: one decision of a port (R229 to R231): heads that are too old or too late go, then the port picks
a head packet, charges its path and sends it to the forwarding die. With both links down nothing is selected (R18). -/
def execSchedulerSelect (port : Fin 160) (s : State) : Out :=
  if !s.traffic then .next s else
  let p := port.val
  let test := fun (a : List Nat × State) (c : Cand) =>
    let (out, s') := headTests c a.2
    (if out then c.q :: a.1 else a.1, s')
  let (blocked, s1) := (backlogged s.toBlocks p).foldl test ([], s)
  let s1 := settleRounds s1
  let cs := (backlogged s1.toBlocks p).filter fun c => !blocked.contains c.q && headEligible s1.toBlocks c
  match pickPort s1.toBlocks p cs with
  | none => .next s1
  | some c =>
    match linkFor s1.toBlocks c.cand.head.hdr.flowHash with
    | none => .next s1
    | some link => .next (sendHead c link (countLaunch c.cand s1))

/-! ### Row checks (R227, R232) -/

/-- A rate lies within R232: packets per second, bit/s, or either while the mode is not known. -/
def rateOk (packets : Option Bool) (r : Nat) : Bool :=
  match packets with
  | some true => decide (1 ≤ r) && decide (r ≤ 2000000000)
  | some false => decide (8000 ≤ r) && decide (r ≤ 1600000000000)
  | none => decide (1 ≤ r) && decide (r ≤ 1600000000000)

/-- The checks of a node row on its own: rates and bursts of enabled shapers within R232, a weight, a port's mode. A row
with INHERIT takes the mode of the port at which the staged rows end, which only the commit knows (`packets` none). -/
def nodeRowOk (level : Nat) (packets : Option Bool) (g : Nat → Nat) : Bool :=
  let rateOk := rateOk packets
  let burstOk := fun r => decide (1 ≤ r)
  g F.SchedQueue_Weight != 0 && (level != 0 || g F.SchedQueue_LengthMode != 3) &&
    (g F.SchedQueue_CommittedEnable == 0 ||
      (rateOk (g F.SchedQueue_CommittedRate) && burstOk (g F.SchedQueue_CommittedBurst))) &&
    (g F.SchedQueue_PeakEnable == 0 || (rateOk (g F.SchedQueue_PeakRate) && burstOk (g F.SchedQueue_PeakBurst)))

/-- Rows of a level. -/
def levelRows (level : Nat) : Nat := [160, 4096, 32768, 131072, 524288].getD level 0

/-- The port at which a node's path ends, over a reader of rows. -/
def portOver (get : Nat → Nat → Nat → Nat) : Nat → Nat → Nat
  | 0, row => row
  | level + 1, row => portOver get level (get (levelObj (level + 1)) row F.SchedQueue_Parent)

/-- A node row counts packets, INHERIT resolved over a reader of rows (R232). -/
def packetsOver (get : Nat → Nat → Nat → Nat) (level row : Nat) : Bool :=
  let m := get (levelObj level) row F.SchedQueue_LengthMode
  (if m = 3 then get O.SchedPort (portOver get level row) F.SchedQueue_LengthMode else m) == 2

/-- The commit-wide checks of a staged node row (R227, R232), over a reader of the rows as they would stand. -/
def nodeCommitOk (get : Nat → Nat → Nat → Nat) (level row : Nat) : Bool :=
  let g := fun f => get (levelObj level) row f
  let parent := g F.SchedQueue_Parent
  let parentOk := level == 0 || g F.SchedQueue_Valid == 0 ||
    (decide (parent < levelRows (level - 1)) && get (levelObj (level - 1)) parent F.SchedQueue_Valid == 1)
  parentOk && (decide (3 ≤ level) || g F.SchedQueue_CalendarMode == 0) &&
    (level == 4 || g F.SchedQueue_LaunchQueue == 0) && nodeRowOk level (some (packetsOver get level row)) g

/-- Some queue below a node, by the committed rows, holds a packet (R227). -/
def nodeBusy (b : Blocks) (level row : Nat) : Bool :=
  b.tm.queues.any fun e =>
    let l3 := b.rd O.SchedQueue e.1 F.SchedQueue_Parent
    let l2 := b.rd O.SchedL3 l3 F.SchedQueue_Parent
    let l1 := b.rd O.SchedL2 l2 F.SchedQueue_Parent
    let p := b.rd O.SchedL1 l1 F.SchedQueue_Parent
    let here := match level with
      | 0 => p | 1 => l1 | 2 => l2 | 3 => l3 | _ => e.1
    !e.2.isEmpty && here == row

end Sys2Proof.Machine
end

