-- ==== Sys2Proof/Machine/Ingress.lean ====
section
/-! DEFINITION. The ingress pipelines (chapters 1, 4 to 8): admission, repair-pending lookups and the repair queue, the
rule stage's disposition, learning, and the commands PACKET_ADMIT, LINE_REPAIR_COMPLETE, EXACT_LEARN_INSERT and
EXACT_AGE_TICK. A packet's walk through a pipeline is one command: nothing else can be seen of the table versions it
reads, since they are those of its generation (R109). -/
namespace Sys2Proof.Machine

/-! ### The lookups of one pass -/

/-- Lookup A or B as made. -/
structure ExactLook where
  prof : Nat
  width : Nat
  key : Nat
  entry : Option ExactEntry
  deriving DecidableEq, Repr

/-- Everything the parser and the lookups give for a packet (R127, R141, R142, R170). -/
structure Look where
  walk : Walk
  fail : Option ParseFail
  hash : Nat
  route : Option RouteAnswer
  a : Option ExactLook
  b : Option ExactLook
  range : Option (List RangeContent × Bool)
  rangeMiss : Nat
  lines : List Line
  deriving DecidableEq, Repr

/-- Lookup A or B, when it is enabled and its profile is valid (Table 6-1, Table 6-7). -/
def exactLook (b : Blocks) (g enable prof : Nat) (fv : Bytes) : Option ExactLook :=
  if enable = 0 ∨ b.rdGen g O.ExactKeyProfile prof F.ExactKeyProfile_Valid = 0 then none
  else
    let width := b.rdGen g O.ExactKeyProfile prof F.ExactKeyProfile_Width
    let key := exactKey b g prof fv
    some ⟨prof, width, key, exactFind b g prof width key⟩

/-- The VRF of a packet (R142). -/
def vrfOf (b : Blocks) (g row : Nat) (a : Option ExactLook) (fv : Bytes) : Nat :=
  let r := fun f => b.rdGen g O.LookupProfile row f
  match r F.LookupProfile_VrfMode with
  | 1 => beAt fv (r F.LookupProfile_VrfOffset) 2
  | 2 => match a.bind (·.entry) with
    | some e => e.result % 65536
    | none => r F.LookupProfile_VrfConst
  | _ => r F.LookupProfile_VrfConst

/-- The route lookup of a packet (R141, R143). -/
def routeLook (b : Blocks) (g row vrf : Nat) (fv : Bytes) : Option RouteAnswer :=
  let r := fun f => b.rdGen g O.LookupProfile row f
  if r F.LookupProfile_RouteEnable = 0 then none
  else
    let off := r F.LookupProfile_AddrOffset
    let fam := r F.LookupProfile_Family
    some (routeLookup b g vrf fam (if fam = 0 then beAt fv off 4 * 2 ^ 96 else beAt fv off 16))

/-- Lines an exact lookup read: its profile, its buckets and the overflow entries. -/
def lookLines (b : Blocks) (l : Option ExactLook) : List Line :=
  match l with
  | none => []
  | some x => Line.row O.ExactKeyProfile x.prof :: exactLines b x.prof x.width x.key

/-- Parse, hash and lookups of a packet in its generation. A packet whose parse failed makes no lookup (R132), nor does
one whose descriptor decides for it (R344). -/
def lookUp (b : Blocks) (e : Entering) : Look :=
  let p := e.pkt
  let g := p.gen
  let (w, fail) := parsePacket b g p.hdr.srcPort p.data p.hdr.length
  let fv := fieldVector w fail p.hdr.length p.hdr.srcPort p.hdr.pass
  let hash := flowHash b g w.profile fv
  let none_ : Look := ⟨w, fail, hash, none, none, none, none, 0, []⟩
  if fail.isSome || e.direct then none_
  else
    let row := w.profile
    let r := fun f => b.rdGen g O.LookupProfile row f
    let la := exactLook b g (r F.LookupProfile_ExactAEnable) (r F.LookupProfile_ExactAProfile) fv
    let lb := exactLook b g (r F.LookupProfile_ExactBEnable) (r F.LookupProfile_ExactBProfile) fv
    let route := routeLook b g row (vrfOf b g row la fv) fv
    let ranged := b.rdGen g O.RangeProfile row F.RangeProfile_Enable = 1
    let set := b.rdGen g O.RangeProfile row F.RangeProfile_Set
    let slots := (b.range.contents.filter fun c => c.set == set && c.seenBy g).map fun c => Line.rangeSlot c.slot
    { none_ with
      a := la
      b := lb
      route := route
      range := if ranged then some (rangeSearch b g row fv) else none
      rangeMiss := b.rdGen g O.RangeProfile row F.RangeProfile_MissAction
      lines := [Line.row O.LookupProfile row, Line.row O.RangeProfile row] ++ lookLines b la ++ lookLines b lb ++
        ((route.map (·.lines)).getD []) ++ (if ranged then slots else []) }

/-- An exact lookup as a source of the rule stage. -/
def ExactLook.answer (b : Blocks) (g : Nat) (l : Option ExactLook) : ExactAns :=
  match l with
  | none => .none
  | some x => match x.entry with
    | some e => .hit e.loc e.result
    | none => .miss (b.rdGen g O.ExactKeyProfile x.prof F.ExactKeyProfile_MissAction)

/-- A stream whose row is not valid acts as a drop (R197, R185); a second pass replicates nothing. -/
def Disp.checkStream (b : Blocks) (g : Nat) (pass : Bool) (d : Disp) : Disp :=
  match d.stream with
  | none => d
  | some n =>
    if pass then { d with stream := none }
    else
      let d := { d with lines := d.lines ++ [Line.row O.StreamReplicate n] }
      if b.rdGen g O.StreamReplicate n F.StreamReplicate_Valid = 0 then { d.badIndex with stream := none } else d

/-- The sources evaluated in the order of R187. -/
def evaluate (b : Blocks) (g : Nat) (pass : Bool) (l : Look) : Disp :=
  let d0 := match l.route with
    | none => Disp.start
    | some r => ({ Disp.start with hits := [r.hit] } : Disp).route b g l.hash r.result
  let d1 := d0.exact b g l.hash (ExactLook.answer b g l.a)
  let d2 := d1.exact b g l.hash (ExactLook.answer b g l.b)
  let d3 := match l.range with
    | none => d2
    | some ([], _) => d2.miss l.rangeMiss O.RangeMissDrops
    | some (ms, _) => d2.range b g l.hash ms
  d3.checkStream b g pass

/-- The rows that a disposition's actions name: edit list, meter, sampler, mirror session with its edit list, the edit
lists of a stream's members, punt reasons, and the MTU of a line port. -/
def Disp.rows (b : Blocks) (g : Nat) (d : Disp) : List Line :=
  let edit := fun row : Nat => if row = 0 then [] else [Line.row O.EditList row]
  let one := fun (obj : Nat) (o : Option Nat) => (o.map (Line.row obj)).toList
  let mirror := (d.mirror.map fun m => edit (b.rd O.MirrorSession m F.MirrorSession_EditList)).getD []
  let members := (d.stream.map fun n =>
    ((List.range (b.rdGen g O.StreamReplicate n F.StreamReplicate_MembersMinusOne + 1)).map fun m =>
      edit (streamMember b g n m).2.2.2).flatten).getD []
  let mtu := match d.dest with
    | some t => if t.port < 128 then [Line.row O.EgressMtu (t.card * 128 + t.port)] else []
    | none => []
  edit (d.edit.getD 0) ++ one O.Meter d.meter ++ one O.Sampler d.sampler ++ one O.MirrorSession d.mirror ++ mirror ++
    members ++ (d.redirect.toList ++ d.copies).map (Line.row O.PuntReason) ++ mtu

/-! ### Towards the TM -/

/-- A packet with the copies the TM makes of it crosses Dovetail (R17); with both links down nothing crosses (R18). -/
def crossToTm (hash : Nat) (bundle : List Pkt) (s : State) : State :=
  if bundle.isEmpty then s
  else match linkFor s.toBlocks hash with
    | some 0 => s.upFe fun f => { f with toTm0 := f.toTm0 ++ [bundle] }
    | some _ => s.upFe fun f => { f with toTm1 := f.toTm1 ++ [bundle] }
    | none => s

/-- A packet discarded by the FE: its INGRESS record (R366), and the completion its sender waits for (R345). -/
def ingressDrop (code : Nat) (p : Pkt) (s : State) : State :=
  noteDiscard p (recordPacket p ⟨false, code, p.stamps, p.hits⟩ s)

/-! ### Learning (R166 to R168) -/

/-- What identifies a key in the memory of notified keys. -/
def learnId (k : LearnKey) : Nat := (k.prof * 4 + k.width) * 2 ^ 384 + k.key

/-- A notification of kind `kind` (Table 14-3), unless the key was notified within the hold-off: a punted packet of
reason 7 with the stamp and source port of the packet that caused it (R168, R342). -/
def notifyLearn (kind oldTag : Nat) (k : LearnKey) (s : State) : State :=
  if recentlyNotified s.toBlocks (learnId k) then s
  else
    let s1 := (rememberNotified (learnId k) s).add64 O.ExactLearnNotified 0 0 1
    let rec_ := learnRecord kind oldTag k
    let g := s.gen.cur
    let h : Hdr := { k.cause with
      genTag := g % 64, colour := 0, sealed := false, sample := false, launchValid := false, launch := 0
      length := 68, editPtr := 0 }
    let p : Pkt := { hdr := h, gen := g, literal := none, data := rec_ ++ fcsBytes rec_, srcCard := s.card, mcast := false
                     mcId := none, stampRing := none, client := 0, hits := [], stamps := [], ptp := none }
    crossToTm h.flowHash [p.punted s.toBlocks 7] s1

/-- What lookup A (0) or B (1) asks of the learning machinery. -/
def learnFrom (which : Nat) (l : Option ExactLook) (g : Nat) (p : Pkt) (s : State) : State :=
  match l with
  | none => s
  | some x =>
    let r := fun f => s.rdGen g O.ExactKeyProfile x.prof f
    let mode := r F.ExactKeyProfile_LearnMode
    let tmpl := r F.ExactKeyProfile_LearnResult
    let k : LearnKey := { prof := x.prof, width := x.width, key := x.key
                          result := tmpl / 256 * 256 + p.hdr.srcPort, lookup := which, cause := p.hdr }
    match x.entry with
    | none => if mode = 1 then learnQueue k s else if mode = 2 then notifyLearn 0 0 k s else s
    | some e => if mode ≠ 0 ∧ e.result % 256 ≠ p.hdr.srcPort then notifyLearn 1 (e.result % 256) k s else s

/-- A hit of lookup A or B refreshes its entry (R164). -/
def touchHit (l : Option ExactLook) (s : State) : State :=
  match l.bind (·.entry) with
  | some e => exactTouch e.loc s
  | none => s

/-- The counters of a completed route lookup and range search (R151, R176). -/
def countLookups (l : Look) (s : State) : State :=
  let s1 := match l.route with
    | none => s
    | some r => s.add64 O.RouteCycleHistogram (min r.cycles 8 - 1) 0 1
  match l.range with
  | none => s1
  | some (ms, many) =>
    let s2 := s1.add64 (if ms.isEmpty then O.RangeMisses else O.RangeHits) 0 0 1
    if many then s2.add64 O.RangeMultiple 0 0 1 else s2

/-! ### The rule stage's disposition (R188, R189) -/

/-- Every counter pair named counts the packet (R361). -/
def countPairs (cs : List Nat) (len : Nat) (s : State) : State :=
  cs.foldl (fun a c => (a.add64 O.CounterPair c F.CounterPair_Packets 1).add64 O.CounterPair c F.CounterPair_Bytes len) s

/-- Sequence number of a stream packet (R197, R198). -/
def takeSeq (stream : Nat) (s : State) : Nat × State :=
  let n := s.rd O.StreamReplicate stream F.StreamReplicate_SeqNext
  (n, s.wr O.StreamReplicate stream F.StreamReplicate_SeqNext ((n + 1) % 65536))

/-- Sends a packet to a destination with its edit list, unless R193 redirects it. -/
def forwardPacket (dst : Dest) (edit : Nat) (marks : List Nat) (p : Pkt) (s : State) : Pkt × State :=
  let g := p.gen
  let queue := if dst.plusClass then dst.queue + p.hdr.cls else dst.queue
  let ops := editOps s.toBlocks g edit
  let check := if dst.port < 128 then editCheck s.toBlocks g dst.card dst.port ops marks p.data p.hdr.length else none
  match check with
  | some reason => (p.punted s.toBlocks reason, raise (src 3 (if reason = 4 then 8 else 9)) s)
  | none => ((p.sentTo dst.card dst.port queue).withEdit s.toBlocks g edit marks none, s)

/-- The original's way (R189 steps 2 to 5): the packets that cross in its place, and whether it was discarded for want of
a destination. -/
def dispose (d : Disp) (marks : List Nat) (p : Pkt) (s : State) : List Pkt × State :=
  let g := p.gen
  let edit := d.edit.getD 0
  match d.redirect with
  | some r => ([p.punted s.toBlocks r], s)
  | none =>
    let again := d.recirc && !p.hdr.pass
    if again then
      let q := s.sc O.RecircQueueBase + p.hdr.cls
      ([(p.sentTo s.card 129 q).withEdit s.toBlocks g edit marks none], s)
    else match d.stream with
      | some n =>
        let (seq, s1) := takeSeq n s
        (streamCopies s1.toBlocks g n seq marks p, s1)
      | none => match d.dest with
        | some dst =>
          let (q, s1) := forwardPacket dst edit marks p s
          ([q], s1)
        | none => ([], ingressDrop 13 p (s.add64 O.ActionNoDest 0 0 1))

/-- The header fields a disposition sets: Class, Sealed, launch time (R188, R190). -/
def Disp.mark (d : Disp) (p : Pkt) : Pkt :=
  let h := p.hdr
  let h1 : Hdr := { h with cls := d.cls.getD h.cls, sealed := h.sealed || d.sealIt }
  match d.launch with
  | none => { p with hdr := h1 }
  | some off => { p with hdr := { h1 with launchValid := true, launch := (h.stamp + off * 4) % 2 ^ 64 } }

/-- The sampler of a disposition: Sample, and the COPY punt of CopyToHost (R200, R201). -/
def sampleBy (d : Disp) (p : Pkt) (s : State) : List Nat × Pkt × State :=
  match d.sampler with
  | none => (d.copies, p, s)
  | some k =>
    let (yes, s1) := samplerAdmits k p.hdr.sealed s
    if !yes then (d.copies, p, s1)
    else
      let p1 := { p with hdr := { p.hdr with sample := true } }
      let toHost := s1.rd O.Sampler k F.Sampler_CopyToHost = 1
      (if toHost ∧ ¬ d.copies.contains 8 then d.copies ++ [8] else d.copies, p1, s1)

/-- A copy made by the TM carries neither the record stamps of the original nor its timestamp request. -/
def Pkt.asCopy (p : Pkt) : Pkt := { p with stamps := [], stampRing := none, hits := [] }

/-- Only the first of a stream's copies stands for the original. -/
def firstIsOriginal : List Pkt → List Pkt
  | [] => []
  | p :: t => p :: t.map Pkt.asCopy

/-- The rule stage (R187 to R189, R197 to R202, R249): counters, meter, sampler, copies and the disposition. -/
def ruleStage (d : Disp) (marks : List Nat) (p : Pkt) (s : State) : State :=
  let g := p.gen
  let s := raiseN d.bad (src 3 0) (s.add64 O.ActionBadIndex 0 0 d.bad)
  let s := raiseN d.lostCounters (src 3 2) (s.add64 O.CounterActionsLost 0 0 d.lostCounters)
  let s := if d.recirc && p.hdr.pass then raise (src 3 3) (s.add64 O.RecircIgnored 0 0 1) else s
  let s := countPairs d.counters p.hdr.length s
  let p := d.mark p
  let (colour, red, s) := match d.meter with
    | some m => if d.drop then (p.hdr.colour, false, s) else meterPacket m p.hdr.colour p.hdr.length s
    | none => (p.hdr.colour, false, s)
  let p := { p with hdr := { p.hdr with colour := colour } }
  let hits := if p.hdr.pass then p.hits else d.hits
  let p := { p with hits := hits }
  let (copies, p, s) := sampleBy d p s
  let mirrors := match d.mirror with
    | some m => (mirrorCopy s.toBlocks g m marks p).map Pkt.asCopy
    | none => []
  let quiet := p.hdr.sealed && !copies.isEmpty
  let s := if quiet then raise (src 3 4) (s.add64 O.SealedCopySuppressed 0 0 copies.length) else s
  let punts := if quiet then [] else copies.map fun r => (p.punted s.toBlocks r).asCopy
  let (kept, s) :=
    if d.drop then ([], ingressDrop 10 p (d.dropBy.foldl (fun a c => a.add64 c 0 0 1) (s.add64 O.ActionDrops 0 0 1)))
    else if red then ([], ingressDrop 11 p s)
    else dispose d marks p s
  crossToTm p.hdr.flowHash (firstIsOriginal kept ++ mirrors ++ punts) s

/-! ### Repair-pending lookups (R116 to R119) -/

/-- The packets of the repair queue ahead of a packet: all of them, or, for one that re-enters from place `i`, those before
that place. -/
def aheadOf (b : Blocks) (again : Option Nat) : List Parked :=
  match again with
  | none => b.repair.queue
  | some i => b.repair.queue.take i

/-- Whether packets of the flow are ahead in the repair queue (R116): they hold a packet back. -/
def flowParked (b : Blocks) (again : Option Nat) (hash : Nat) : Bool :=
  (aheadOf b again).any fun e => e.entering.pkt.hdr.flowHash == hash

/-- A packet is put in the repair queue, one that re-entered back at its place, so that the order of parking stays
(R117, R124). `pending`: one of its own lines is under repair. Otherwise it is ready as soon as its flow's packets ahead of
it are. -/
def park (e : Entering) (again : Option Nat) (new : List Line) (pending : Bool) (s : State) : State :=
  let mine := (aheadOf s.toBlocks again).filter fun x => x.entering.pkt.hdr.flowHash == e.pkt.hdr.flowHash
  let x : Parked := ⟨e, !pending && mine.all (·.ready)⟩
  let s1 := s.upRepair fun r =>
    { r with lines := r.lines ++ new
             queue := match again with
               | none => r.queue ++ [x]
               | some i => r.queue.take i ++ [x] ++ r.queue.drop i }
  let s2 := s1.wr O.RepairQueueHighWater 0 0 (max s1.repair.queue.length (s1.rd O.RepairQueueHighWater 0 0))
  raiseIf (!new.isEmpty) (src 8 0) s2

/-- A Pdelay message that arrived by a line port in P2P mode: it is not forwarded but reaches the servo owner (R96), a host
servo under the PTP punt reason (Table 8-7), Bureau's without a trace elsewhere (log 155). -/
def pdelayHeard (b : Blocks) (p : Pkt) : Bool :=
  decide (p.hdr.srcPort < 128) && b.rd O.TcPort p.hdr.srcPort F.TcPort_Mode == 2 && isPdelay p.data

/-- The lines that a packet's parse, lookups and actions read (R116). -/
def linesRead (b : Blocks) (e : Entering) (l : Look) (d : Disp) (x : Line) : Bool :=
  let own := if e.direct then Disp.rows b e.pkt.gen { Disp.start with
      dest := some ⟨e.pkt.hdr.destCard, e.pkt.hdr.destPort, e.pkt.hdr.destQueue, false⟩, edit := some e.pkt.hdr.editPtr }
    else Disp.rows b e.pkt.gen d
  l.walk.read e.pkt.hdr.srcPort x || (l.fail.isNone && (l.lines.contains x || d.lines.contains x || own.contains x))

/-- The packet goes on through the rule stage. -/
def passOn (e : Entering) (l : Look) (d : Disp) (s : State) : State :=
  let p := e.pkt
  match l.fail with
  | some f =>
    let s1 := parseFailed l.walk f p.hdr.srcPort s
    crossToTm p.hdr.flowHash [p.punted s1.toBlocks 3] s1
  | none =>
    if pdelayHeard s.toBlocks p then
      if s.sc O.ServoOwner = 0 then s else crossToTm p.hdr.flowHash [p.punted s.toBlocks 11] s
    else if e.direct then
      let dst : Dest := ⟨p.hdr.destCard, p.hdr.destPort, p.hdr.destQueue, false⟩
      let (q, s1) := forwardPacket dst p.hdr.editPtr l.walk.marks p s
      crossToTm p.hdr.flowHash [q] s1
    else
      let s1 := touchHit l.b (touchHit l.a (countLookups l s))
      let s2 := learnFrom 1 l.b p.gen p (learnFrom 0 l.a p.gen p s1)
      ruleStage d l.walk.marks p s2

/-- A packet enters a pipeline: parsed and looked up in its generation, and parked, overflowed or passed on (R116,
R118). `errs` are the lines whose read shows an uncorrectable error. A failed parse is counted and recorded although the
full repair queue decides the packet's punt reason (R132). -/
def enter (e : Entering) (again : Option Nat) (errs : List Line) (s : State) : State :=
  let l := lookUp s.toBlocks e
  let p := { e.pkt with hdr := { e.pkt.hdr with flowHash := l.hash } }
  let e := { e with pkt := p }
  let d := if l.fail.isSome || e.direct then Disp.start else evaluate s.toBlocks p.gen p.hdr.pass l
  let read := linesRead s.toBlocks e l d
  let new := errs.dedup.filter fun x => read x && !s.repair.lines.contains x
  let pending := !new.isEmpty || s.repair.lines.any read
  if !pending && !flowParked s.toBlocks again l.hash then passOn e l d s
  else if 8192 ≤ s.repair.queue.length ∨ 16 < s.repair.lines.length + new.length then
    let s1 := match l.fail with
      | some f => parseFailed l.walk f p.hdr.srcPort s
      | none => s
    crossToTm l.hash [p.punted s1.toBlocks 10] (s1.add64 O.RepairOverflowDrops 0 0 1)
  else park e again new pending s

/-- A packet as an ingress pipeline stamps it (R108). -/
def stamped (s : State) (srcPort cls colour stamp : Nat) (data : Bytes) : Pkt :=
  let g := s.gen.cur
  { hdr := { genTag := g % 64, flowHash := 0, destCard := s.card, destPort := 0, destQueue := 0, cls := cls, colour := colour
             sealed := false, sample := false, punt := 0, launchValid := false, pass := false, srcPort := srcPort
             length := data.length, editPtr := 0, stamp := stamp, launch := 0 }
    gen := g, literal := none, data := data, srcCard := s.card, mcast := false, mcId := none, stampRing := none
    client := 0, hits := [], stamps := [], ptp := none }

/-- The stamps of an INGRESS record that the FE takes: arrival, parse complete, lookups complete (R368). The last two
have no instant in the model (log 66). -/
def withStamps (p : Pkt) (s : State) : Pkt × State :=
  let (k, s1) := s.fresh
  let (j, s2) := s1.fresh
  ({ p with stamps := [p.hdr.stamp % 2 ^ 32, (Config.stageStamp k).toNat, (Config.stageStamp j).toNat] }, s2)

/-- The inject packet as it enters the pipelines (R344). -/
def injected (i : InjPkt) (s : State) : Entering :=
  let p := stamped s 128 i.cls 0 s.stamp i.data
  let h : Hdr := { p.hdr with launchValid := i.launchValid, launch := if i.launchValid then i.launch else 0 }
  let h1 : Hdr := if i.direct then { h with destCard := i.card, destPort := i.port, destQueue := i.queue, editPtr := i.edit } else h
  ⟨{ p with hdr := h1, client := i.client, stampRing := i.stampRing }, i.direct⟩

/-- The next packet of a source, taken from it. -/
def takeFrom (a : AdmitSrc) (s : State) : Option (Entering × Option Nat × State) :=
  match a with
  | .port p => match (s.port p.val).rx with
    | [] => none
    | f :: t =>
      let e : Entering := ⟨{ stamped s p.val f.cls f.colour f.stamp f.data with ptp := f.ptp }, false⟩
      some (e, none, flowCheck p.val (s.updPort p.val fun r => { r with rx := t }))
  | .inject => match s.fe.inject with
    | [] => none
    | i :: t => some (injected i s, none, shelfRelease i.client i.buf.1 i.buf.2 (s.upFe fun f => { f with inject := t }))
  | .recirc => match s.fe.recirc with
    | [] => none
    | p :: t => some (⟨p, false⟩, none, (s.upFe fun f => { f with recirc := t }).add64 O.RecircPackets 0 0 1)
  | .reenter => match s.repair.queue.findIdx? (·.ready) with
    | none => none
    | some i => (s.repair.queue[i]?).map fun x =>
      (x.entering, some i, s.upRepair fun r => { r with queue := r.queue.eraseIdx i })

/-- PACKET_ADMIT: a pipeline admits the next packet of `a`, having held admission for `held` cycles for a full Dovetail
link; `errs` is what the FE's memories show now (R116, R120). Holding happens with one link down only; with both
down nothing is admitted (R18). -/
def execPacketAdmit (a : AdmitSrc) (held : Nat) (errs : SramErrors) (s : State) : Out :=
  let up := popCount 2 (s.sc O.DovetailLinkState)
  if up = 0 ∨ !s.traffic then .next s
  else
    let s1 := if up = 1 then s.add64 O.DovetailHeldCycles 0 0 held else s
    match takeFrom a s1 with
    | none => .next s1
    | some (e, again, s2) =>
      let (p, s3) := withStamps e.pkt s2
      .next (enter { e with pkt := p } again errs.bad (raiseN errs.fixed (src 8 2) s3))

/-- A row of a store table is lost in every generation (R119): nothing of its content stays, live or kept for older
generations, so that only what the host writes again is restored. -/
def loseRow (obj row : Nat) (s : State) : State :=
  let n := ((objInfo? obj).map (·.fields.length)).getD 0
  let s1 := (List.range (n + 1)).foldl (fun a f => a.wr obj row f 0) s
  let s2 := s1.upGen fun g => { g with hist := g.hist.filter fun e => e.key / 256 != skey obj row 0 / 256 }
  s2.upRepair fun r => { r with lostRows := ⟨obj, row, none⟩ :: r.lostRows.filter fun x => !(x.obj == obj && x.row == row) }

/-- A line whose master copy is unreadable matches nothing in every generation (R119). -/
def markLost (l : Line) (s : State) : State :=
  match l with
  | .routeBucket n =>
    s.upRoute fun r => { r with entries := updWhere r.entries (fun e => e.inBucket n) fun e => { e with lost := true } }
  | .exactBucket n =>
    s.upExact fun x => { x with entries := updWhere x.entries (fun e => e.loc / 4 == n) fun e => { e with lost := true } }
  | .exactOverflow n =>
    let covers := fun e : ExactEntry => decide (e.loc ≤ exactWays + n) && decide (exactWays + n < e.loc + exactSize e.width)
    s.upExact fun x => { x with entries := updWhere x.entries covers fun e => { e with lost := true } }
  | .rangeSlot n =>
    s.upRange fun r => { r with contents := updWhere r.contents (fun c => c.slot == n) fun c => { c with lost := true } }
  | .row obj row => loseRow obj row s

/-- LINE_REPAIR_COMPLETE: Bureau has rewritten a line under repair, or found its master copy unreadable; the parked
packets re-enter in the order they were parked (R117, R119). Single-bit errors corrected in Bureau's SRAM meanwhile are raised
(R120). -/
def execLineRepairComplete (l : Line) (done : Rewrite) (s : State) : Out :=
  let s := raiseN done.fixed (src 8 4) s
  if !s.repair.lines.contains l then .next s
  else
    let s1 := s.upRepair fun r =>
      { r with lines := r.lines.filter fun x => x != l, queue := r.queue.map fun x => { x with ready := true } }
    if done.readable then .next (s1.add64 O.RepairCount 0 0 1)
    else .next (raise (src 8 1) (markLost l (s1.sat32 O.RepairUnrepairable 0 0 1)))

/-! ### Learned keys and ageing -/

/-- EXACT_LEARN_INSERT: the oldest queued key is inserted, at most ExactLearnRate a second (R166, R167). -/
def execExactLearnInsert (s : State) : Out :=
  let early := match s.exact.lastInsert with
    | some t => decide ((s.time.ticks - t) * s.sc O.ExactLearnRate < ticksPerS)
    | none => false
  match s.exact.learnQ with
  | [] => .next s
  | k :: t =>
    if early then .next s
    else
      let s1 := s.upExact fun x => { x with learnQ := t, lastInsert := some s.time.ticks }
      let es := s1.exact.entries
      if es.any fun e => e.keyIs k.prof k.width k.key && e.dead.isNone then
        .next (raise (src 2 7) (s1.add64 O.ExactLearnDropped 0 0 1))
      else match exactPlace s1.toBlocks es k.prof k.width k.key with
        | none => .next (notifyLearn 2 0 k (raise (src 2 7) (s1.add64 O.ExactLearnDropped 0 0 1)))
        | some loc =>
          let e : ExactEntry := { prof := k.prof, width := k.width, key := k.key, result := k.result, learned := true
                                  static_ := false, age := s1.sc O.ExactAgeClock, loc := loc, born := s1.gen.cur
                                  dead := none, found := false, lost := false }
          let used := s1.overflowUsed
          let s2 := s1.upExact fun x => { x with entries := x.entries ++ [e] }
          .next (overflowEvent used (s2.add64 O.ExactLearned 0 0 1))

/-- Live generations and those that accepted timed commits reserve (R115). -/
def State.gensLive (s : State) : Nat :=
  let timed := s.sessions.filter fun x => (x.txn.map (·.genKept)).getD false
  s.gen.closed.length + 1 + timed.length + (s.orphans.filter fun o => o.2.2.genKept).length

/-- A commit that needs a generation finds one free: fewer than 63 are live or reserved, and no step of the grid and no
commit is waiting for one, since those take the next ones in their order (R91, R115, log 158). -/
def State.genFree (s : State) : Bool :=
  decide (s.gensLive < 63) && s.time.stepReq.isNone && s.exact.ageWait.isNone && s.waits.all fun w => w.waitFor != .gen

/-- EXACT_AGE_TICK: every ExactAgeTick the age clock advances, and the entries found eligible are deleted by one commit, or
wait for a generation (R164, R165). -/
def execExactAgeTick (s : State) : Out :=
  if s.time.ticks < s.exact.agedAt + s.sc O.ExactAgeTick * ticksPerMs then .next s else
  let s0 := s.upExact fun x => { x with agedAt := s.time.ticks }
  let s1 := s0.ws O.ExactAgeClock ((s.sc O.ExactAgeClock + 1) % 65536)
  if !(s1.exact.entries.any fun e => e.found && e.dead.isNone) then .next s1
  else if s1.genFree then .next (ageCommit s1)
  else if s1.exact.ageWait.isSome then .next s1
  else
    let s2 := s1.upExact fun x => { x with ageWait := some s1.orderNext }
    let s3 := { s2 with orderNext := s2.orderNext + 1 }
    .next (raise (src 2 2) (s3.sat32 O.GenerationWaitCount 0 0 1))

end Sys2Proof.Machine
end

