-- ==== Sys2Proof/Machine/MeshWire.lean ====
section
/-! DEFINITION. The mesh on the wire (chapter 11): cells, header cells, records, their check sequences, scrambling, and the
framing arithmetic of R258. The spreading of the byte stream over lanes (R257) is below this level (log 8). -/
namespace Sys2Proof.Machine

/-! ### Cycles and frames (R258) -/

/-- 0.25 ns units in a frame and in a cycle. -/
abbrev frameQ : Nat := 500

abbrev cycleQ : Nat := 40000

/-- CycleCount of the present grid time. -/
def Blocks.cycle (b : Blocks) : Nat := b.gridQ / cycleQ % 2 ^ 32

/-- D(W) of Table 11-2. -/
def slotsOf (w : Nat) : Nat := 129 * w / 12 - 1

/-- Fill of the `n`th frame since grid time zero at width `w`: a frame lasts w × 2409375 / 6144 words of 8 bytes, and each
header cell starts at the last word at or before its instant, so that it stays within 8 bytes of it over any number of
cycles (R254, R258). -/
def fillOf (w n : Nat) : Nat :=
  (n + 1) * w * 2409375 / 6144 - n * w * 2409375 / 6144 - (slotsOf w + 1) * 36

/-- `a` is before `b` in serial arithmetic of `n` bits. -/
def serialBefore (n a b : Nat) : Bool :=
  let d := (b + 2 ^ n - a % 2 ^ n) % 2 ^ n
  decide (1 ≤ d) && decide (d < 2 ^ (n - 1))

/-! ### Scrambling (R259) -/

/-- The PRBS31 generator's 31 bits after an alignment word, the newest at bit 0. -/
abbrev prbsStart : Nat := 2 ^ 31 - 1

/-- The generator's next eight bits, the first at bit 7: each is the XOR of the bits 31 and 28 places before it (log 16). -/
def prbsByte (g : Nat) : Nat := (g / 2 ^ 23 ^^^ g / 2 ^ 20) % 256

def prbsNext (g : Nat) : Nat := (g * 256 + prbsByte g) % 2 ^ 31

/-- The generator `n` bytes after an alignment word. -/
def prbsAfter : Nat → Nat
  | 0 => prbsStart
  | n + 1 => prbsNext (prbsAfter n)

/-- Bytes XORed with the output of the generator: scrambling, and descrambling. -/
def scramble : Nat → Bytes → Bytes
  | _, [] => []
  | g, b :: t => (b ^^^ BitVec.ofNat 8 (prbsByte g)) :: scramble (prbsNext g) t

/-- A header cell's bytes as the wire carries them, and back: all but the alignment word are scrambled. -/
def headerOnWire (b : Bytes) : Bytes := b.take 8 ++ scramble prbsStart (b.drop 8)

/-- The bytes of a frame's data-cell slot as the wire carries them, and back: the slot stands after the 280 scrambled
bytes of the header cell and the slots before it. -/
def slotOnWire (slot : Nat) (b : Bytes) : Bytes := scramble (prbsAfter (280 + 288 * slot)) b

/-! ### Cells (Table 11-4) -/

/-- The 28 header bytes that CellCrc covers. -/
def cellHeader (c : Cell) : Bytes :=
  beBytes 28 ((c.kind * 2 ^ 252 + bit c.relayed * 2 ^ 251 + c.src * 2 ^ 247 + c.dst * 2 ^ 243 + c.via * 2 ^ 239
    + c.cls * 2 ^ 236 + c.seq * 2 ^ 212 + c.index * 2 ^ 208 + c.size * 2 ^ 204 + c.first * 2 ^ 195 + c.valid * 2 ^ 186
    + bit c.mc * 2 ^ 185 + c.mcId * 2 ^ 169 + c.stamp * 2 ^ 137) / 2 ^ 32)

/-- A cell's 288 bytes (R261). -/
def cellBytes (c : Cell) : Bytes :=
  cellHeader c ++ beBytes 4 (crc32c 0xFFFFFFFF (cellHeader c ++ c.payload)) ++ c.payload

/-- A received cell, when its CRC holds. -/
def readCell (b : Bytes) : Option Cell :=
  let h := beAt b 0 32
  let payload := (b.drop 32).take 256
  if b.length ≠ 288 ∨ crc32c 0xFFFFFFFF (b.take 28 ++ payload) ≠ beAt b 28 4 then none
  else some
    { kind := bitsOf 255 252 h, relayed := h.testBit 251, src := bitsOf 250 247 h, dst := bitsOf 246 243 h
      via := bitsOf 242 239 h, cls := bitsOf 238 236 h, seq := bitsOf 235 212 h, index := bitsOf 211 208 h
      size := bitsOf 207 204 h, first := bitsOf 203 195 h, valid := bitsOf 194 186 h, mc := h.testBit 185
      mcId := bitsOf 184 169 h, stamp := bitsOf 168 137 h, payload := payload, starts := 0 }

/-- Bits [203:169] of a cell header, which parity covers. -/
def parityField (c : Cell) : Nat := c.first * 2 ^ 26 + c.valid * 2 ^ 17 + bit c.mc * 2 ^ 16 + c.mcId

/-- The cell with other framing fields and payload. -/
def withParity (c : Cell) (v : Nat) (payload : Bytes) : Cell :=
  { c with first := bitsOf 34 26 v, valid := bitsOf 25 17 v, mc := v.testBit 16, mcId := bitsOf 15 0 v, payload := payload }

def xorBytes (a b : Bytes) : Bytes := List.zipWith (· ^^^ ·) a b

/-- XOR of the framing fields and of the payloads of cells. -/
def xorCells (cs : List Cell) : Nat × Bytes :=
  cs.foldl (fun a c => (a.1 ^^^ parityField c, xorBytes a.2 c.payload)) (0, List.replicate 256 0)

/-- A data cell before it belongs to a group. -/
def dataCell (src dst cls first valid : Nat) (mc : Option Nat) (payload : Bytes) (starts : Nat) : Cell :=
  { kind := 1, relayed := false, src := src, dst := dst, via := dst, cls := cls, seq := 0, index := 0, size := 0
    first := first, valid := valid, mc := mc.isSome, mcId := mc.getD 0, stamp := 0
    payload := (payload ++ List.replicate 256 0).take 256, starts := starts }

/-- A closed parity group: its data cells numbered, and the parity cell (R261, R275). -/
def closeCells (seq : Nat) (cells : List Cell) : List Cell :=
  let k := cells.length
  let data := (cells.zipIdx).map fun (c, i) => { c with seq := seq, index := i, size := k }
  match data with
  | [] => []
  | c :: _ =>
    let (v, p) := xorCells data
    data ++ [withParity { c with kind := 2, index := k, starts := 0 } v p]

/-! ### Records (R262) -/

/-- The carriage header's 32 bytes (Table 1-4). -/
def hdrBytes (h : Hdr) : Bytes :=
  let hi := h.genTag * 2 ^ 250 + h.flowHash * 2 ^ 234 + h.destCard * 2 ^ 230 + h.destPort * 2 ^ 222 + h.destQueue * 2 ^ 203
    + h.cls * 2 ^ 200 + h.colour * 2 ^ 198 + bit h.sealed * 2 ^ 197 + bit h.sample * 2 ^ 196 + h.punt * 2 ^ 190
  let lo := bit h.launchValid * 2 ^ 189 + bit h.pass * 2 ^ 188 + h.srcPort * 2 ^ 180 + h.length * 2 ^ 166 + h.editPtr * 2 ^ 142
    + h.stamp * 2 ^ 64 + h.launch
  beBytes 32 (hi + lo)

/-- A carriage header read back. -/
def readHdr (b : Bytes) : Hdr :=
  let v := beAt b 0 32
  { genTag := bitsOf 255 250 v, flowHash := bitsOf 249 234 v, destCard := bitsOf 233 230 v, destPort := bitsOf 229 222 v
    destQueue := bitsOf 221 203 v, cls := bitsOf 202 200 v, colour := bitsOf 199 198 v, sealed := v.testBit 197
    sample := v.testBit 196, punt := bitsOf 195 190 v, launchValid := v.testBit 189, pass := v.testBit 188
    srcPort := bitsOf 187 180 v, length := bitsOf 179 166 v, editPtr := bitsOf 165 142 v, stamp := bitsOf 127 64 v
    launch := bitsOf 63 0 v }

/-- A literal block's bytes (R194). -/
def literalBlock (l : Option (List Nat)) : Bytes :=
  match l with
  | none => []
  | some ops => beBytes 16 (ops.length * 2 ^ 124) ++ (ops.map fun o => beBytes 16 o).flatten

/-- A packet's record. -/
def recordOf (p : Pkt) : Bytes := hdrBytes p.hdr ++ literalBlock p.literal ++ p.data

/-- The length of the record that starts `b`, once enough of it is there to tell: its header says the packet's bytes, and
with a non-zero EditPtr the first word of the literal block its operations. -/
def recordLength (b : Bytes) : Option Nat :=
  if b.length < 32 then none
  else
    let h := readHdr b
    if h.editPtr = 0 then some (32 + h.length)
    else if b.length < 48 then none
    else some (32 + (beAt b 32 1 / 16 + 1) * 16 + h.length)

/-- The packet of a whole record that came from card `src`. -/
def packetOf (b : Bytes) (src : Nat) (mc : Option Nat) : Pkt :=
  let h := readHdr b
  let n := if h.editPtr = 0 then 0 else beAt b 32 1 / 16
  let lit := if h.editPtr = 0 then none else some ((List.range n).map fun k => beAt b (48 + 16 * k) 16)
  let skip := if h.editPtr = 0 then 32 else 32 + (n + 1) * 16
  { hdr := h, gen := 0, literal := lit, data := b.drop skip, srcCard := src, mcast := mc.isSome, mcId := mc
    stampRing := none, client := 0, hits := [], stamps := [], ptp := none }

/-- The next cell of a record stream (R262): its payload, the offset of the first record start (511: none), the multicast
identity of the record its first byte belongs to, the records that start in it, what is left, and whether the cell is
full or must end here because a multicast copy starts the next one. -/
structure Cut where
  payload : Bytes
  first : Nat
  mc : Option Nat
  starts : Nat
  recs : List (Bytes × Option Nat)
  off : Nat
  done : Bool
  deriving DecidableEq, Repr

/-- Gathers bytes for a cell. -/
def cutFrom : List (Bytes × Option Nat) → Nat → Cut → Cut
  | [], _, c => { c with recs := [], off := 0 }
  | (b, mc) :: t, off, c =>
    if c.payload.length ≠ 0 ∧ off = 0 ∧ mc.isSome then { c with recs := (b, mc) :: t, off := off, done := true }
    else
      let room := 256 - c.payload.length
      let c1 := { c with
        payload := c.payload ++ (b.drop off).take room
        first := if c.first = 511 ∧ off = 0 then c.payload.length else c.first
        mc := if c.payload.isEmpty then mc else c.mc
        starts := if off = 0 then c.starts + 1 else c.starts }
      if room < b.length - off then { c1 with recs := (b, mc) :: t, off := off + room, done := true }
      else if room = b.length - off then { c1 with recs := t, off := 0, done := true }
      else cutFrom t 0 c1

/-- The next cell of a stream; none when the stream is empty. -/
def cutCell (recs : List (Bytes × Option Nat)) (off : Nat) : Option Cut :=
  if recs.isEmpty then none else some (cutFrom recs off ⟨[], 511, none, 0, [], 0, false⟩)

/-! ### Header cells (Table 11-3) -/

abbrev alignWord : Nat := 0x5A3C96E10FF0A5C3

/-- HeaderCrc over bytes 8 to 285. -/
def headerCrc (b : Bytes) : Nat := ((b.drop 8).take 278).foldl (crcByteMsb 16 0x1021) 0xFFFF

/-- A header cell's 288 bytes. -/
def headerBytes (h : PeerHdr) : Bytes :=
  let body := beBytes 8 alignWord ++ beBytes 1 h.frame ++ beBytes 4 h.cycle ++ beBytes 1 (h.card * 16 + h.group)
    ++ beBytes 1 (h.width * 16 + h.mode) ++ beBytes 1 h.fill
    ++ beBytes 1 (h.grid * 64 + bit h.pdi * 32 + h.align * 8 + bit h.leaving * 4 + bit h.swapValid * 2 + bit h.step)
    ++ beBytes 1 h.version ++ beBytes 2 h.txMap ++ beBytes 2 h.active ++ beBytes 2 h.xoff ++ beBytes 4 h.page
    ++ beBytes 4 h.standby ++ beBytes 4 h.swapCycle ++ beBytes 2 h.agree ++ beBytes 8 h.relay ++ beBytes 1 h.echoFrame
    ++ beBytes 1 0 ++ beBytes 4 h.echoStamp ++ beBytes 2 h.request ++ beBytes 2 h.grant ++ beBytes 2 h.accept
    ++ beBytes 2 h.lanes ++ beBytes 4 0 ++ (h.mgmt ++ List.replicate 128 0).take 128 ++ List.replicate 94 0
  body ++ beBytes 2 (headerCrc body)

/-- The bytes begin with AlignWord. -/
def alignsAt (b : Bytes) : Bool := beAt b 0 8 == alignWord

/-- A header cell read back, when AlignWord stands at its place and HeaderCrc holds. -/
def readHeader (b : Bytes) : Option PeerHdr :=
  if b.length ≠ 288 ∨ !alignsAt b ∨ headerCrc b ≠ beAt b 286 2 then none
  else
    let st := beAt b 16 1
    some
      { frame := beAt b 8 1 % 128, cycle := beAt b 9 4, card := beAt b 13 1 / 16, group := beAt b 13 1 % 16
        width := beAt b 14 1 / 16, mode := beAt b 14 1 % 16, fill := beAt b 15 1, grid := st / 64, pdi := st.testBit 5
        align := st / 8 % 4, leaving := st.testBit 2, swapValid := st.testBit 1, step := st.testBit 0
        version := beAt b 17 1, txMap := beAt b 18 2, active := beAt b 20 2, xoff := beAt b 22 2, page := beAt b 24 4
        standby := beAt b 28 4, swapCycle := beAt b 32 4, agree := beAt b 36 2, relay := beAt b 38 8
        echoFrame := beAt b 46 1 % 128, echoStamp := beAt b 48 4, request := beAt b 52 2, grant := beAt b 54 2 % 8192
        accept := beAt b 56 2 % 8192, lanes := beAt b 58 2 % 4096, mgmt := (b.drop 64).take 128 }

end Sys2Proof.Machine
end

