-- ==== Sys2Proof/Machine/Mesh.lean ====
section
/-! DEFINITION. The mesh, sending side (chapter 11): groups, the active set, paths, builders, spreading, held streams,
pages, request/grant/accept, and the frames a card sends. -/
namespace Sys2Proof.Machine

/-! ### Groups and the active set (R254 to R256, R266, R268) -/

/-- A group as a module reset leaves it. -/
abbrev GroupRT.start : GroupRT :=
  { align := 0, good := 0, bad := 0, hdr := none, rxStamp := 0, stepAt := none, defects := 0, deviated := 0, locGood := 0
    pdiGood := 0, deg := ⟨0, 0, 0, 0⟩, crcAt := none, mismatch := false, lanes := 0, txLanes := 0xFFF, rttSum := 0, rttCount := 0, oneWay := 0, okSince := none
    joined := false, dispatch := [], rga := [], step := false, mgmt := [] }

def Blocks.group (b : Blocks) (g : Nat) : GroupRT := Tbl.get GroupRT.start b.mesh.groups g

def State.updGroup (s : State) (g : Nat) (f : GroupRT → GroupRT) : State :=
  s.upMesh fun m => { m with groups := Tbl.put GroupRT.start g (f (Tbl.get GroupRT.start m.groups g)) m.groups }

/-- The group is in use from READY on; Standalone holds every group disabled (R254, Table 11-1, R440). -/
def Blocks.groupOn (b : Blocks) (g : Nat) : Bool :=
  b.opened && b.mesh.mode != 0 && b.rd O.MeshGroupConfig g F.MeshGroupConfig_Enable == 1

/-- The group's lanes run as well (R433, Table 19-2). -/
def Blocks.groupRuns (b : Blocks) (g : Nat) : Bool := b.groupOn g && !b.groupHeld g

/-- Defect `d` (1 LOS to 8 CCE) is raised (R266). -/
def GroupRT.has (r : GroupRT) (d : Nat) : Bool := r.defects.testBit d

/-- The highest active defect; 0 for none (R266). -/
def GroupRT.defect (r : GroupRT) : Nat := ((List.range 8).map (· + 1)).find? r.has |>.getD 0

/-- The group is active (R268): a group not in SYNC is not, whether or not its LOF has been raised yet. -/
def Blocks.groupActive (b : Blocks) (g : Nat) : Bool :=
  let r := b.group g
  b.groupOn g && r.align == 2 && !(r.has 1 || r.has 2 || r.has 3 || r.has 4) && !r.mismatch && r.hdr.isSome

/-- The group is transmit-active (R268). -/
def Blocks.groupTx (b : Blocks) (g : Nat) : Bool := b.groupActive g && !(b.group g).has 5

/-- The peer card a group's header cells announce. -/
def Blocks.peerOf (b : Blocks) (g : Nat) : Option Nat := (b.group g).hdr.map (·.card)

/-- The groups that meet a condition and lead to card `c`, ascending. -/
def groupsTo (b : Blocks) (ok : Nat → Bool) (c : Nat) : List Nat :=
  (List.range 16).filter fun g => ok g && b.peerOf g == some c

/-- A set of cards as a bit map. -/
def mapOf (p : Nat → Bool) : Nat := (List.range 16).foldl (fun a c => if p c then a + 2 ^ c else a) 0

/-- This card's TxActiveMap (R268). -/
def Blocks.txMap (b : Blocks) : Nat := mapOf fun c => c != b.card && !(groupsTo b b.groupTx c).isEmpty

/-- The last header cell of a peer, from its lowest active group. -/
def Blocks.peerHdr (b : Blocks) (c : Nat) : Option PeerHdr :=
  match groupsTo b b.groupActive c with
  | [] => none
  | g :: _ => (b.group g).hdr

/-- TxActiveMap of card `c` as this card knows it (MeshLinkMatrix). -/
def Blocks.linkMap (b : Blocks) (c : Nat) : Nat :=
  if c = b.card then b.txMap else ((b.peerHdr c).map (·.txMap)).getD 0

/-- A peer with an active group that has met MeshJoinHold (R268, R291 step 3). -/
def Blocks.joinedPeer (b : Blocks) (c : Nat) : Bool :=
  c != b.card && (groupsTo b b.groupActive c).any fun g => (b.group g).joined

/-- ActiveCards (R268). -/
def Blocks.activeSet (b : Blocks) : Nat :=
  mapOf fun c => c == b.card || b.joinedPeer c ||
    (List.range 16).any fun j => b.joinedPeer j && (b.linkMap j).testBit c

/-- Destinations that some card announces in XOFF (R278). -/
def Blocks.xoffMap (b : Blocks) : Nat :=
  (List.range 16).foldl
    (fun a g => if b.groupActive g then a ||| ((b.group g).hdr.map (·.xoff)).getD 0 else a) b.mesh.xoff

/-! ### Pages (R270 to R274) -/

/-- An entry of a page that its base gives (R274). -/
def baseEntry (base frame slot : Nat) : Nat :=
  if base = 0 then 0
  else if frame = 0 ∧ slot = 127 then 4 * 2 ^ 29
  else if base = 1 ∧ slot % 2 = 1 then 2 * 2 ^ 29
  else 1 * 2 ^ 29

/-- The entry of a page at a group, frame and slot. -/
def Page.entry (p : Page) (g frame slot : Nat) : Nat :=
  Tbl.get (baseEntry p.base frame slot) p.entries (g * 10240 + frame * 128 + slot)

/-- Writes row `row` of a page. -/
def Page.put (p : Page) (row v : Nat) : Page :=
  { p with entries := Tbl.put (baseEntry p.base (row / 128 % 80) (row % 128)) row v p.entries }

/-- The fields of an entry (Table 11-7). -/
abbrev entKind (e : Nat) : Nat := bitsOf 31 29 e

abbrev entRelay (e : Nat) : Bool := e.testBit 28

abbrev entSrc (e : Nat) : Nat := bitsOf 27 24 e

abbrev entDst (e : Nat) : Nat := bitsOf 23 20 e

abbrev entCls (e : Nat) : Nat := bitsOf 19 17 e

abbrev entVia (e : Nat) : Nat := bitsOf 16 13 e

/-- The rules a committed entry keeps (R270). -/
def connEntryOk (mode me expect e : Nat) : Bool :=
  let kind := entKind e
  decide (kind ≤ 4) && bitsOf 12 0 e == 0 && (mode != 0 || kind == 0 || kind == 4) && (mode != 1 || kind != 2) &&
    (kind != 3 ||
      ((if entRelay e then entVia e == me else entSrc e == me) &&
        (if entVia e == entDst e then expect == entDst e else expect == entVia e)))

/-- The HELD entries of a page, as (row, entry); no base holds one. -/
def Page.held (p : Page) : List (Nat × Nat) := p.entries.filter fun x => entKind x.2 == 3

/-- The Vias over which a page holds this card's stream to `d` in class `c` (R282). -/
def Page.vias (p : Page) (me d c : Nat) : List Nat :=
  ((p.held.filter fun x => !entRelay x.2 && entSrc x.2 == me && entDst x.2 == d && entCls x.2 == c).map
    fun x => entVia x.2).dedup

/-- This card and card `d` announce different active pages (R273). -/
def pageDiffers (b : Blocks) (d : Nat) : Bool :=
  match b.peerHdr d with
  | some h => h.page != b.mesh.active.id
  | none => false

/-- The active page carries class `c` for `d` as a held stream (R282, R273). -/
def heldService (b : Blocks) (d c : Nat) : Bool :=
  b.gridRuns && !pageDiffers b d && !(b.mesh.active.vias b.card d c).isEmpty

/-- Request/grant/accept serves destination `d` (R286). -/
def useRga (b : Blocks) (d : Nat) : Bool :=
  !b.gridRuns || !(b.mesh.pageCards.testBit b.card && b.mesh.pageCards.testBit d) || pageDiffers b d

/-! ### Paths (R269, R275, R286) -/

/-- A path of a pair: a direct group, or an intermediate card. -/
inductive Path where
  | direct (g : Nat)
  | via (j : Nat)
  deriving DecidableEq, Repr

/-- The usable intermediates of the pair from this card to `d`; a card that announced Leaving before this cycle is none
(R269, R292). -/
def intermediates (b : Blocks) (d : Nat) : List Nat :=
  if b.mesh.mode ≠ 2 then []
  else (List.range 16).filter fun j =>
    j != b.card && j != d && b.txMap.testBit j && (b.linkMap j).testBit d && !b.mesh.noVia.testBit j

/-- The paths of the pair to `d`, direct groups first (R276). -/
def pathsTo (b : Blocks) (d : Nat) : List Path :=
  let direct := (groupsTo b b.groupTx d).map Path.direct
  if useRga b d then direct else direct ++ (intermediates b d).map Path.via

/-- Data cells of a full parity group (R275). -/
def groupCells (b : Blocks) (d : Nat) : Nat := max 1 (min 15 ((pathsTo b d).length - 1))

/-- Some usable intermediate or some transmit-active group leads to `d` (R288). -/
def reachable (b : Blocks) (d : Nat) : Bool := !(groupsTo b b.groupTx d).isEmpty || !(intermediates b d).isEmpty

/-! ### Builders (R275, R278) -/

abbrev Builder.start : Builder := ⟨[], 0, [], [], 0, 0⟩

def Blocks.builder (b : Blocks) (d c : Nat) : Builder := Tbl.get Builder.start b.mesh.builders (d * 8 + c)

def State.setBuilder (s : State) (d c : Nat) (x : Builder) : State :=
  s.upMesh fun m => { m with builders := Tbl.put Builder.start (d * 8 + c) x m.builders }

/-- A cut as a data cell. -/
def Cut.cell (x : Cut) (me d c : Nat) : Cell := dataCell me d c x.first x.payload.length x.mc x.payload x.starts

/-- The builder closes the cells it holds as one group. -/
def Builder.close (x : Builder) : Builder :=
  if x.cells.isEmpty then x
  else { x with cells := [], closed := x.closed ++ [closeCells x.seq x.cells], seq := (x.seq + 1) % 2 ^ 24 }

/-- A builder holds as many closed groups as one that may not release them can (R278). -/
def Builder.full (x : Builder) : Bool := decide (4 ≤ x.closed.length)

/-- Cuts every cell that is full or must end, closing each group that reaches `k` cells; with `flush`, the last partial
cell too. A builder that is `held` cuts no further once it is full. -/
def Builder.cut (me d c k : Nat) (flush held : Bool) : Nat → Builder → Builder
  | 0, x => x
  | fuel + 1, x =>
    match cutCell x.recs x.off with
    | none => x
    | some q =>
      if (!q.done && !flush) || (held && x.full) then x
      else
        let x1 := { x with recs := q.recs, off := q.off, cells := x.cells ++ [q.cell me d c] }
        Builder.cut me d c k flush held fuel (if k ≤ x1.cells.length then x1.close else x1)

/-- The bytes a builder's stream holds. -/
def Builder.bytes (x : Builder) : Nat := x.recs.foldl (fun a r => a + r.1.length) 0

/-- Enough fuel to cut all that a builder holds. -/
def Builder.fuel (x : Builder) : Nat := x.bytes / 256 + x.recs.length + 1

/-- The pair moves to held service, or to spreading, and may not send on that new one yet; the old one drains (R285). -/
def isMoving (b : Blocks) (toHeld : Bool) (d c : Nat) : Bool :=
  b.mesh.moving.any fun e => e.1 == d * 8 + c && e.2.1 == toHeld

/-- Sources release no groups for the destination, or this pair may not spread yet (R278, R285). -/
def Blocks.holdsGroups (b : Blocks) (d c : Nat) : Bool := b.xoffMap.testBit d || isMoving b false d c

/-- Records that begin in a group. -/
def groupStarts (l : List Cell) : Nat := l.foldl (fun a c => a + c.starts) 0

/-- Multicast copies that begin in a group: each starts a cell. -/
def groupCopies (l : List Cell) : Nat := (l.filter fun c => c.kind == 1 && c.mc && c.first == 0).length

/-- A closed group enters the spreading queue of its class, or is discarded (R275). -/
def spreadGroup (d c : Nat) (l : List Cell) (s : State) : State :=
  let q := Tbl.get [] s.mesh.spread c
  let used := q.foldl (fun a e => a + e.2.length) 0
  if 4096 < used + l.length then s.add64 O.MeshSpreadDrops c 0 (groupStarts l)
  else s.upMesh fun m => { m with spread := Tbl.put [] c (q ++ [(d, l)]) m.spread }

/-- The builder releases its closed groups, with what it could not cut while it held them, unless the destination is in XOFF
or the pair moves to spreading (R278, R285). -/
def release (d c : Nat) (s : State) : State :=
  if s.holdsGroups d c then s
  else
    let x0 := s.builder d c
    let x := Builder.cut s.card d c (groupCells s.toBlocks d) false false x0.fuel x0
    x.closed.foldl (fun a l => spreadGroup d c l a) (s.setBuilder d c { x with closed := [] })

/-- A record enters the builder of its destination and class. -/
def buildRecord (d c : Nat) (bytes : Bytes) (mc : Option Nat) (s : State) : State :=
  let x := s.builder d c
  let x1 := { x with recs := x.recs ++ [(bytes, mc)], lastAdd := s.time.ticks }
  let x2 := Builder.cut s.card d c (groupCells s.toBlocks d) false (s.holdsGroups d c) x1.fuel x1
  release d c (s.setBuilder d c x2)

/-! ### Held streams at their source (R282) -/

abbrev HeldTx.start : HeldTx := ⟨[], 0, [], 0, []⟩

def Blocks.heldTx (b : Blocks) (d c : Nat) : HeldTx := Tbl.get HeldTx.start b.mesh.heldTx (d * 8 + c)

def State.setHeldTx (s : State) (d c : Nat) (x : HeldTx) : State :=
  s.upMesh fun m => { m with heldTx := Tbl.put HeldTx.start (d * 8 + c) x m.heldTx }

/-- The next number that the copy over `v` sends. -/
def HeldTx.posOf (x : HeldTx) (v : Nat) : Nat := ((x.pos.find? fun e => e.1 == v).map (·.2)).getD x.next

/-- The next cell of a held stream over `v`, with the Vias of the stream: a cell another copy has sent already, or a new
one, partly filled if need be. A cell stays until every copy has gone. -/
def HeldTx.take (x : HeldTx) (me d c v : Nat) (vias : List Nat) : Option (Cell × HeldTx) :=
  let p := x.posOf v
  let step := fun (cell : Cell) (y : HeldTx) =>
    let pos := (v, (p + 1) % 2 ^ 24) :: y.pos.filter fun e => e.1 != v
    let y1 := { y with pos := pos }
    let waits := fun (k : Cell) => vias.any fun w => w != v && !serialBefore 24 k.seq (y1.posOf w)
    ({ cell with via := v }, { y1 with cells := y1.cells.filter fun k => k.seq != p || waits k })
  match x.cells.find? fun k => k.seq == p with
  | some k => some (step k x)
  | none => match cutCell x.recs x.off with
    | none => none
    | some q =>
      let cell := { q.cell me d c with kind := 3, seq := x.next }
      let pos := vias.map fun w => (w, x.posOf w)
      some (step cell { x with recs := q.recs, off := q.off, cells := x.cells ++ [cell], next := (x.next + 1) % 2 ^ 24
                               pos := pos })

/-! ### Packets for other cards (R262, R275, R278, R282, R287, R288) -/

/-- A packet bound for card `d` is discarded on the way; the sender's timestamp request ends without a stamp. -/
def meshDiscard (p : Pkt) (obj row fld source : Nat) (s : State) : State :=
  noteDiscard p (raise source (s.add64 obj row fld 1))

/-- A packet whose destination is another card. -/
def meshSend (p : Pkt) (s : State) : State :=
  let d := p.hdr.destCard
  let c := p.hdr.cls
  let mc := if p.mcast then p.mcId else none
  if !s.activeSet.testBit d || !reachable s.toBlocks d then
    meshDiscard p O.MeshUnreachable d (if p.mcast then F.MeshUnreachable_Multicast else F.MeshUnreachable_Unicast) (src 6 19) s
  else if heldService s.toBlocks d c then
    let x := s.heldTx d c
    s.setHeldTx d c { x with recs := x.recs ++ [(recordOf p, mc)] }
  else if s.holdsGroups d c && (s.builder d c).full then
    meshDiscard p O.MeshXoffDrops d 0 (src 6 20) s
  else buildRecord d c (recordOf p) mc s

/-- MESH_PACK_TIMEOUT: a builder that got no record for MeshPackTimeout closes what it holds as a short group (R275); one that
is held and full keeps it open (R278). -/
def execMeshPackTimeout (d : Fin 16) (c : Fin 8) (s : State) : Out :=
  let x := s.builder d.val c.val
  if (x.recs.isEmpty && x.cells.isEmpty) || (s.holdsGroups d.val c.val && x.full) || decide (s.time.ticks < x.lastAdd + nsTicks (s.sc O.MeshPackTimeout)) then .next s
  else
    let held := s.holdsGroups d.val c.val
    let x1 := Builder.cut s.card d.val c.val (groupCells s.toBlocks d.val) true held x.fuel x
    .next (release d.val c.val (s.setBuilder d.val c.val (if held && x1.full then x1 else x1.close)))

/-! ### Spreading (R276, R277) -/

/-- Room in a dispatch queue. -/
abbrev dispatchRoom : Nat := 64

/-- The group a cell through `j` takes: the groups to `j` in turn. -/
def viaGroup (b : Blocks) (j turn : Nat) : Option Nat :=
  let gs := groupsTo b b.groupTx j
  gs[turn % max 1 gs.length]?

/-- Places the cells of a group: each on its path, as (group, cell); the turns taken. -/
def placeCells (b : Blocks) (paths : List Path) (r : Nat) : List Cell → Tbl Nat → List (Nat × Cell) × Tbl Nat
  | [], t => ([], t)
  | c :: rest, t =>
    let path := paths[(r + c.index) % max 1 paths.length]?
    match path with
    | some (.direct g) =>
      let (l, t') := placeCells b paths r rest t
      ((g, c) :: l, t')
    | some (.via j) =>
      let n := Tbl.get 0 t j
      match viaGroup b j n with
      | some g =>
        let (l, t') := placeCells b paths r rest (Tbl.put 0 j (n + 1) t)
        ((g, { c with via := j }) :: l, t')
      | none => placeCells b paths r rest t
    | none => placeCells b paths r rest t

/-- The group at the head of the spreading queue of class `c` leaves it, when every queue it needs has room. A group whose
destination only intermediates reach, while request/grant/accept serves it, waits for a path; one whose destination is no
longer reachable is discarded (R288). -/
def dispatchHead (c : Nat) (s : State) : Option State :=
  match Tbl.get [] s.mesh.spread c with
  | [] => none
  | (d, l) :: rest =>
    let pop := fun (s : State) => s.upMesh fun m => { m with spread := Tbl.put [] c rest m.spread }
    let paths := pathsTo s.toBlocks d
    if paths.isEmpty then
      if reachable s.toBlocks d then none
      else
        let copies := groupCopies l
        let s1 := s.add64 O.MeshUnreachable d F.MeshUnreachable_Multicast copies
        some (pop (raise (src 6 19) (s1.add64 O.MeshUnreachable d F.MeshUnreachable_Unicast (groupStarts l - copies))))
    else
      let rga := useRga s.toBlocks d
      let (placed, turns) := placeCells s.toBlocks paths (Tbl.get 0 s.mesh.rot d) l s.mesh.turn
      let queueOf := fun g => if rga then (s.group g).rga else (s.group g).dispatch
      let fits := (List.range 16).all fun g =>
        let n := (placed.filter fun x => x.1 == g).length
        n == 0 || decide ((queueOf g).length + n ≤ dispatchRoom)
      if !fits then none
      else
        let put := fun (a : State) (x : Nat × Cell) =>
          a.updGroup x.1 fun q => if rga then { q with rga := q.rga ++ [x.2] } else { q with dispatch := q.dispatch ++ [x.2] }
        let s1 := placed.foldl put (pop s)
        some (s1.upMesh fun m => { m with rot := Tbl.put 0 d (Tbl.get 0 m.rot d + 1) m.rot, turn := turns })

/-- The module forwards: not both Dovetail links are down (R18). -/
def Blocks.forwards (b : Blocks) : Bool := b.sc O.DovetailLinkState != 0

/-- GROUP_DISPATCH: the builders release what they may, and the highest class whose head group can leave sends it to the
dispatch queues (R277). -/
def execGroupDispatch (s : State) : Out :=
  if !s.forwards then .next s else
  let keys := s.mesh.builders.map (·.1)
  let s1 := keys.foldl (fun a k => release (k / 8) (k % 8) a) s
  let order := (List.range 8).map (7 - ·)
  match order.find? fun c => (dispatchHead c s1).isSome with
  | some c => .next ((dispatchHead c s1).getD s1)
  | none => .next s1

/-! ### Defects (R266) -/

/-- A defect's condition begins: its flag, and its event unless a defect of higher precedence hides it. -/
def raiseDefect (g d : Nat) (s : State) : State :=
  let r := s.group g
  if r.has d then s
  else
    let hidden := r.defect ≠ 0 ∧ r.defect < d
    let s1 := s.updGroup g fun r => { r with defects := r.defects ||| 2 ^ d }
    if hidden then s1 else setDetail O.GroupEventDetail g (d - 1) (src 6 g) s1

/-- A defect's condition ends. -/
def clearDefect (g d : Nat) (s : State) : State :=
  let r := s.group g
  if !r.has d then s
  else
    let hidden := r.defect ≠ 0 ∧ r.defect < d
    let s1 := s.updGroup g fun r => { r with defects := r.defects &&& (511 - 2 ^ d) }
    if hidden then s1 else setDetail O.GroupEventDetail g (7 + d) (src 6 g) s1

/-- A group that is not active has left the join (R291). -/
def dropJoin (g : Nat) (s : State) : State :=
  if s.groupActive g then s else s.updGroup g fun r => { r with joined := false, okSince := none }

/-- The 1 ms window of the present tick (log 167). -/
def Blocks.window (b : Blocks) : Nat := b.time.ticks / ticksPerMs

/-- The windows of DEG brought up to window `w`: those without a count lie at or below the threshold. -/
def DegRT.roll (limit w : Nat) (x : DegRT) : DegRT :=
  if w ≤ x.window then x
  else
    let gap := w - x.window - 1
    if limit < x.symbols then ⟨w, 0, if gap = 0 then x.above + 1 else 0, gap⟩
    else ⟨w, 0, 0, x.within + 1 + gap⟩

/-- The windows of DEG at the present tick. -/
def Blocks.degNow (b : Blocks) (g : Nat) : DegRT := (b.group g).deg.roll (b.sc O.MeshDegThreshold) b.window

/-- A whole window without a cell CRC error has passed since the last one. -/
def Blocks.crcClean (b : Blocks) (g : Nat) : Bool := (b.group g).crcAt.all fun w => decide (w + 2 ≤ b.window)

/-- What the FEC decoder of a group counted, and the windows it ends: DEG's condition and its end, and CCE's end (R266). -/
def fecCounted (g : Nat) (fec : FecCount) (s : State) : State :=
  let n := fec.corrected.toNat
  let s1 := (s.add64 O.MeshGroupCounters g F.MeshGroupCounters_CorrectedSymbols n).add64 O.MeshGroupCounters g
    F.MeshGroupCounters_UncorrectedCodewords fec.uncorrected.toNat
  let x := s1.degNow g
  let s2 := s1.updGroup g fun r => { r with deg := { x with symbols := x.symbols + n } }
  let s3 := if 3 ≤ x.above then raiseDefect g 7 s2 else if 3 ≤ x.within then clearDefect g 7 s2 else s2
  if s3.crcClean g then clearDefect g 8 s3 else s3

/-- Whether the model itself sees the condition of LOF to CCE; LOS and LOL are seen by their hardware. -/
def defectSeen (b : Blocks) (g d : Nat) : Option Bool :=
  let r := b.group g
  match d with
  | 3 => some (r.align != 2)
  | 4 => some (decide (3 ≤ r.deviated))
  | 5 => some (match r.hdr with | some h => h.pdi || h.align != 2 | none => false)
  | 6 => some (decide (8 ≤ popCount 12 r.txLanes) && decide (popCount 12 r.txLanes < 12))
  | 7 => some (decide (3 ≤ (b.degNow g).above))
  | 8 => some (r.crcAt == some b.window)
  | _ => none

/-- MESH_GROUP_DEFECT_RAISE: the condition that raises a defect has been met. -/
def execMeshGroupDefectRaise (g : Fin 16) (d : Fin 8) (s : State) : Out :=
  let d := d.val + 1
  if !s.groupOn g.val ∨ defectSeen s.toBlocks g.val d = some false then .next s
  else .next (dropJoin g.val (raiseDefect g.val d s))

/-- MESH_GROUP_DEFECT_CLEAR: the condition that clears a defect has held. -/
def execMeshGroupDefectClear (g : Fin 16) (d : Fin 8) (s : State) : Out :=
  let d := d.val + 1
  let r := s.group g.val
  let waits : Bool := match d with
    | 4 => decide (r.locGood < 16)
    | 5 => decide (r.pdiGood < 16)
    | 2 => s.groupHeld g.val
    | 7 => decide ((s.degNow g.val).within < 3)
    | 8 => !s.crcClean g.val
    | _ => defectSeen s.toBlocks g.val d == some true
  if !s.groupOn g.val ∨ waits then .next s else .next (clearDefect g.val d s)

/-! ### Cycle start (R258, R265, R267, R273, R281) -/

/-- A group at a cycle start: its delay averaged, its lanes as the peer receives them. -/
def groupCycle (g : Nat) (s : State) : State :=
  let r := s.group g
  let s1 := if r.rttCount = 0 then s else s.updGroup g fun r =>
    { r with oneWay := (roundDiv (roundDiv r.rttSum r.rttCount) 2).toNat, rttSum := 0, rttCount := 0 }
  match r.hdr with
  | none => s1
  | some h =>
    let s2 := s1.updGroup g fun r => { r with txLanes := h.lanes }
    let w := popCount 12 h.lanes
    let s3 := if w < 8 then raiseDefect g 2 s2 else s2
    if 8 ≤ w ∧ w < 12 then raiseDefect g 6 s3 else if w = 12 then clearDefect g 6 s3 else s3

/-- RACK_CYCLE_START: a cycle of 10 µs begins; it begins once. -/
def rackCycleStart (s : State) : State :=
  let n := s.gridQ / cycleQ
  if s.mesh.lastCycle = some n then s
  else
    let on := (List.range 16).filter s.groupRuns
    let s1 := on.foldl (fun a g => groupCycle g a) (s.upMesh fun m => { m with lastCycle := some n })
    let leaving := mapOf fun c => match s1.peerHdr c with | some h => h.leaving | none => false
    let s2 := s1.upMesh fun m => { m with noVia := leaving }
    let rtt := on.foldl (fun a g => if s2.groupActive g then max a (2 * (s2.group g).oneWay) else a) 0
    let s3 := s2.ws O.MeshReseqTimeoutMin (2000 + 2 * ceilDiv rtt 4)
    let differs := (List.range 16).any fun c => c != s3.card && s3.activeSet.testBit c && pageDiffers s3.toBlocks c
    if differs then raise (src 6 22) (s3.sat32 O.MeshPageMismatch 0 0 1) else s3

/-! ### Moving between held service and spreading (R285) -/

/-- The old service of a pair still holds cells or records. -/
def oldServiceHolds (b : Blocks) (toHeld : Bool) (d c : Nat) : Bool :=
  let mine := fun x : Cell => x.dst == d && x.cls == c && x.src == b.card && !x.relayed
  if toHeld then
    let x := b.builder d c
    !x.recs.isEmpty || !x.cells.isEmpty || !x.closed.isEmpty || (Tbl.get [] b.mesh.spread c).any (fun e => e.1 == d) ||
      (List.range 16).any fun g => (b.group g).dispatch.any mine || (b.group g).rga.any mine
  else
    let x := b.heldTx d c
    !x.recs.isEmpty || !x.cells.isEmpty

/-- The pairs that may send on their new service. -/
def settleMoving (s : State) : State :=
  let wait := nsTicks (max (s.sc O.MeshReseqTimeout) (s.sc O.MeshReseqTimeoutMin))
  let step := fun (e : Nat × Bool × Option Nat) =>
    let (k, toHeld, since) := e
    match since with
    | none => if oldServiceHolds s.toBlocks toHeld (k / 8) (k % 8) then some e else some (k, toHeld, some s.time.ticks)
    | some t => if t + wait ≤ s.time.ticks then none else some e
  s.upMesh fun m => { m with moving := m.moving.filterMap step }

/-- The class of the highest held stream to card `d` that is to drain into spreading and still holds something. -/
def drainClass (b : Blocks) (d : Nat) : Option Nat :=
  ((List.range 8).map (7 - ·)).find? fun c => isMoving b false d c && oldServiceHolds b false d c

/-- A held stream whose page is gone: what it still holds goes as direct copies, from the first cell that went on no direct
copy (R285; in which slots, the spec does not say: log 170). -/
def HeldTx.drain (x : HeldTx) (d : Nat) : HeldTx :=
  let first := (x.cells.head?.map (·.seq)).getD x.next
  let from_ := ((x.pos.find? fun e => e.1 == d).map (·.2)).getD first
  { x with pos := [(d, from_)], cells := x.cells.filter fun k => !serialBefore 24 k.seq from_ }

/-- The pairs whose service a change of page changes. -/
def movedPairs (me : Nat) (before after : Page) : List (Nat × Bool) :=
  let keys := ((before.held ++ after.held).filter fun x => !entRelay x.2 && entSrc x.2 == me).map
    fun x => entDst x.2 * 8 + entCls x.2
  keys.dedup.filterMap fun k =>
    let was := !(before.vias me (k / 8) (k % 8)).isEmpty
    let now := !(after.vias me (k / 8) (k % 8)).isEmpty
    if was == now then none else some (k, now)

/-! ### Page swap (R272, R274) -/

/-- During cycle SwapCycle − 2 every other card of ActiveCards announced this card's standby page and swap, and agreement of
all (R272); of a card that announced several things in that cycle the last counts (log 168). -/
def swapAgreed (b : Blocks) (cycle : Nat) : Bool :=
  let all := b.activeSet
  (List.range 16).all fun c =>
    !all.testBit c || c == b.card ||
      (match (Tbl.get [] b.mesh.said c).find? fun x => x.cycle == (cycle + 2 ^ 32 - 2) % 2 ^ 32 with
       | none => false
       | some h => h.swapValid && h.standby == b.mesh.standby.id && h.swapCycle == cycle && (h.agree &&& all) == all)

/-- PAGE_SWAP_DECIDE: at the start of cycle SwapCycle − 1 the card decides (R272). -/
def execPageSwapDecide (s : State) : Out :=
  match s.mesh.swap with
  | some (c, false) =>
    if (s.cycle + 1) % 2 ^ 32 ≠ c then .next s
    else if s.gridRuns && swapAgreed s.toBlocks c then .next (s.upMesh fun m => { m with swap := some (c, true) })
    else
      let why := if s.gridRuns then 2 else 3
      .next (raise (src 6 17) (s.upMesh fun m => { m with swap := none, lastResult := why }))
  | _ => .next s

/-- A set of cards holds another card than `me`. -/
def othersIn (me set : Nat) : Bool := set &&& (65535 - 2 ^ me) != 0

/-- PAGE_SWAP: the pages exchange roles at the first frame of the swap cycle (R272); the first page with other cards since
this card was alone completes its join (R291). -/
def execPageSwap (s : State) : Out :=
  match s.mesh.swap with
  | some (c, true) =>
    if s.cycle ≠ c then .next s
    else
      let moved := movedPairs s.card s.mesh.active s.mesh.standby
      let set := s.activeSet
      let joins := othersIn s.card set && !s.mesh.joined
      let drained := fun (t : Tbl HeldTx) (e : Nat × Bool) =>
        if e.2 then t else Tbl.put HeldTx.start e.1 ((Tbl.get HeldTx.start t e.1).drain (e.1 / 8)) t
      let s1 := s.upMesh fun m =>
        { m with active := m.standby, standby := m.active, swap := none, lastResult := 1, pageCards := set
                 joined := m.joined || joins, heldTx := moved.foldl drained m.heldTx
                 moving := (m.moving.filter fun e => !moved.any fun x => x.1 == e.1) ++
                   moved.map fun x => (x.1, x.2, none) }
      .next (raiseIf joins (src 6 21) s1)
  | _ => .next s

/-- The first multiple of 1,000 at least 2,000 cycles ahead (R274). -/
def autoSwapCycle (cycle : Nat) : Nat :=
  let n := ceilDiv (cycle + 2000) 1000 * 1000
  if n < 2 ^ 32 then n else if cycle + 2000 ≤ 2 ^ 32 then 0 else ceilDiv (cycle + 2000 - 2 ^ 32) 1000 * 1000

/-- AUTO_PAGE_PLAN: the default page of the set, once it has changed and then stayed for 5 ms while LOCKED (R274). -/
def execAutoPagePlan (s : State) : Out :=
  let set := s.mesh.activeCards
  if s.flag O.MeshAutoPage 0 0 && s.mesh.mode != 0 && s.time.st == .locked && s.mesh.planDue &&
      s.activeSet == set && decide (s.mesh.activeSince + 5 * ticksPerMs ≤ s.time.ticks) then
    .next (s.upMesh fun m =>
      { m with standby := ⟨2 ^ 31 + set, if m.mode = 2 then 1 else 2, []⟩, planned := set
               planDue := false, swap := some (autoSwapCycle s.cycle, false) })
  else .next s

/-- A committed MeshPageSwap that names grid instant `q` (R272). -/
def pageSwapWritten (q : Nat) (s : State) : State :=
  s.upMesh fun m => { m with swap := some (ceilDiv q cycleQ % 2 ^ 32, false) }

/-! ### Joining and leaving (R291, R292) -/

/-- MESH_JOIN: the peer of group `g` has announced a matching mode and version for MeshJoinHold, with no mismatch. -/
def execMeshJoin (g : Fin 16) (s : State) : Out :=
  let r := s.group g.val
  match r.okSince with
  | some t =>
    if s.groupActive g.val && !r.joined && decide (t + s.sc O.MeshJoinHold * ticksPerUs ≤ s.time.ticks) then
      .next (s.updGroup g.val fun r => { r with joined := true })
    else .next s
  | none => .next s

/-- Every relay queue is empty. -/
def relaysEmpty (b : Blocks) : Bool := b.mesh.relay.isEmpty && b.mesh.heldRelay.isEmpty

/-- Keeps the instant since which the relay queues are empty. -/
def noteRelays (s : State) : State :=
  s.upMesh fun m => { m with
    relayEmptySince := if relaysEmpty s.toBlocks then some (m.relayEmptySince.getD s.time.ticks) else none }

/-- A write of MeshLeaveRequest takes effect. -/
def leaveWritten (v : Nat) (s : State) : State :=
  let s1 := s.upMesh fun m => { m with leaving := v == 1 }
  noteRelays (s1.ws O.MeshLeaveReady 0)

/-- MESH_LEAVE_READY: the relay queues of a leaving card have been empty for 1 ms. -/
def execMeshLeaveReady (s : State) : Out :=
  let s1 := noteRelays s
  match s1.mesh.relayEmptySince with
  | some t =>
    if s1.mesh.leaving && s1.sc O.MeshLeaveReady == 0 && decide (t + ticksPerMs ≤ s1.time.ticks) then
      .next (raise (src 6 26) (s1.ws O.MeshLeaveReady 1))
    else .next s1
  | none => .next s1

/-! ### Relay queues (R277, R278) -/

/-- Replaces a relay queue, with its XOFF. -/
def setRelay (d : Nat) (l : List Cell) (s : State) : State :=
  s.upMesh fun m =>
    let x := if 2048 ≤ l.length then m.xoff ||| 2 ^ d
      else if l.length ≤ 1024 then m.xoff &&& (65535 - 2 ^ d) else m.xoff
    { m with relay := Tbl.put [] d l m.relay, xoff := x }

/-- The cells of a relay queue whose destination has no transmit-active group left are discarded. -/
def purgeRelay (d : Nat) (s : State) : State :=
  let l := Tbl.get [] s.mesh.relay d
  if l.isEmpty ∨ !(groupsTo s.toBlocks s.groupTx d).isEmpty then s
  else raiseN l.length (src 6 23) ((setRelay d [] s).add64 O.MeshRelayDrops 0 0 l.length)

/-- The cell that leaves a relay queue: the first of its highest class. -/
def relayHead (l : List Cell) : Option Cell :=
  match ((List.range 8).map (7 - ·)).find? fun c => l.any fun x => x.cls == c with
  | none => none
  | some c => l.find? fun x => x.cls == c

/-! ### Frames (R258, R271, R286) -/

/-- Request of a peer: the highest class waiting, and the cells waiting for it. -/
def requestTo (b : Blocks) (y : Nat) : Nat :=
  let cells := ((groupsTo b b.groupTx y).map fun g => (b.group g).rga).flatten
  let top := cells.foldl (fun a c => max a c.cls) 0
  top * 2 ^ 13 + min 8191 cells.length

/-- Cells that this card has accepted to send to a peer in the next frame, over all its groups to it. -/
def acceptedFor (b : Blocks) (y : Nat) : Nat :=
  (groupsTo b b.groupTx y).foldl (fun a g => a + Tbl.get 0 b.mesh.accepts g) 0

/-- Divides MeshRgaGrantPerFrame among the requesting peers, from peer `k` upward in rotation. -/
def divideGrants (requests : Tbl Nat) : Nat → Nat → Nat → Tbl Nat → Tbl Nat
  | 0, _, _, t => t
  | n + 1, k, left, t =>
    let want := min left (Tbl.get 0 requests (k % 16) % 8192)
    divideGrants requests n (k + 1) (left - want) (Tbl.put 0 (k % 16) want t)

/-- A message of the management channel: type, payload length, payload (R396). -/
def mgmtMessage (typ : Nat) (payload : Bytes) : Bytes := beBytes 1 typ ++ beBytes 1 payload.length ++ payload

/-- FW_ACK of a transfer (Table 17-4). -/
def ackMessage (tid next status : Nat) : Bytes := mgmtMessage 3 (beBytes 2 tid ++ beBytes 4 next ++ beBytes 1 status)

/-- The group on which the messages of a hop leave: the lowest-numbered transmit-active one to the peer (R396). -/
def hopGroup (b : Blocks) (h : FwHop) : Nat := (groupsTo b b.groupTx h.card).headD h.group

/-- The firmware message of a header cell in which no other waits (R398): FW_BEGIN of a hop that has had no answer, and at
frame 0 and every 8 frames after it the acknowledgement of a load that arrives on this group. -/
def fwMessage (b : Blocks) (f g : Nat) : Bytes :=
  match b.fw.load with
  | none => []
  | some l =>
    if l.hop.any fun h => hopGroup b h == g && h.acked.isNone then
      mgmtMessage 1 (beBytes 2 l.tid ++ beBytes 1 l.entry ++ beBytes 1 0 ++ beBytes 2 l.map ++ beBytes 4 (l.len.getD 0))
    else if f % 8 = 0 ∧ l.code.isNone ∧ l.via.any (fun v => v.2 == g) then
      ackMessage l.tid (b.rd O.FwLoadStatus 0 F.FwLoadStatus_BytesReceived) 0
    else []

/-- The header cell of group `g` for the frame that runs at instant `q` of the framing: the framing's own grid time, in 0.25 ns
units, which lags the grid while a step is not followed yet (R264). -/
def headerOf (b : Blocks) (g q : Nat) (step : Bool) : PeerHdr :=
  let n := q / frameQ
  let frame := n % 80
  let r := b.group g
  let y := (r.hdr.map (·.card)).getD b.card
  let same := fun c => match b.peerHdr c with
    | some h => h.swapValid && h.standby == b.mesh.standby.id && some h.swapCycle == b.mesh.swap.map (·.1)
    | none => false
  let w := max 8 (popCount 12 r.txLanes)
  { frame := frame, cycle := n / 80 % 2 ^ 32, card := b.card, group := g, width := w, mode := b.mesh.mode, fill := fillOf w n
    grid := b.time.st.code, pdi := r.align != 2 || r.has 1 || r.has 2, align := r.align, leaving := b.mesh.leaving
    swapValid := b.mesh.swap.isSome, step := step, version := 1, txMap := b.txMap, active := b.activeSet, xoff := b.mesh.xoff
    page := b.mesh.active.id, standby := b.mesh.standby.id, swapCycle := (b.mesh.swap.map (·.1)).getD 0
    agree := if b.mesh.swap.isSome then mapOf fun c => c == b.card || same c else 0
    relay := (b.gridQ + 2 ^ 64 - q % frameQ) % 2 ^ 64
    echoFrame := (r.hdr.map (·.frame)).getD 0, echoStamp := r.rxStamp % 2 ^ 32, request := requestTo b y
    grant := Tbl.get 0 b.mesh.granted y, accept := acceptedFor b y, lanes := r.lanes
    mgmt := r.mgmt.headD (fwMessage b frame g) }

/-- A cell leaves on a slot. -/
def emitCell (g slot : Nat) (c : Cell) (s : State) : State :=
  let c := { c with stamp := s.stamp % 2 ^ 32 }
  (s.emit (.cell g slot (slotOnWire slot (cellBytes c)))).add64 O.MeshGroupCounters g F.MeshGroupCounters_CellsSent 1

/-- The cell of a slot's own kind, taken from its queue (R271). In FREE and ACQUIRE the pages are suspended and every slot is
request/grant/accept's (R94, R264). -/
def slotCell (g e : Nat) (s : State) : Option (Cell × State) :=
  if !s.gridRuns then none else
  match entKind e with
  | 1 => match (s.group g).dispatch with
    | [] => none
    | c :: t => some (c, s.updGroup g fun r => { r with dispatch := t })
  | 2 => match s.peerOf g with
    | none => none
    | some y =>
      let l := Tbl.get [] s.mesh.relay y
      match relayHead l with
      | none => none
      | some c => some ({ c with relayed := true }, setRelay y (l.erase c) s)
  | 3 =>
    let d := entDst e
    let c := entCls e
    if pageDiffers s.toBlocks (if entRelay e then entSrc e else d) then none
    else if entRelay e then
      let k := (entSrc e * 16 + d) * 8 + c
      match Tbl.get [] s.mesh.heldRelay k with
      | [] => none
      | x :: t => some ({ x with relayed := true }, s.upMesh fun m => { m with heldRelay := Tbl.put [] k t m.heldRelay })
    else if isMoving s.toBlocks true d c then none
    else match (s.heldTx d c).take s.card d c (entVia e) (s.mesh.active.vias s.card d c) with
      | none => none
      | some (x, h) => some (x, s.setHeldTx d c h)
  | 4 => match s.mesh.control with
    | [] => none
    | p :: t =>
      let y := (s.peerOf g).getD s.card
      some ({ dataCell s.card y 0 0 p.length none p 0 with kind := 4 }, s.upMesh fun m => { m with control := t })
  | _ => none

/-- The slots of frame `f` on a group that its queues, as they stand, leave to request/grant/accept (R271, R286). -/
def offeredOn (f g : Nat) (s : State) : Nat :=
  ((List.range (slotsOf (popCount 12 (s.group g).txLanes))).foldl
    (fun (a : Nat × State) n =>
      match slotCell g (s.mesh.active.entry g f n) a.2 with
      | some (_, s1) => (a.1, s1)
      | none => (a.1 + 1, a.2)) (0, s)).1

/-- Divides a peer's grant over the groups to it: on each at most the cells that wait there beyond those of this frame, and
the slots that frame `f` offers. -/
def acceptOn (f : Nat) (s : State) (a : Nat × Tbl Nat) (g : Nat) : Nat × Tbl Nat :=
  let waiting := (s.group g).rga.length - Tbl.get 0 s.mesh.accepts g
  let n := if waiting = 0 then 0 else min a.1 (min waiting (offeredOn f g s))
  (a.1 - n, Tbl.put 0 g n a.2)

/-- The exchange of one frame start: what was announced as accepted is now sent; new accepts from the grants received, new
grants from the requests received (R286). -/
def rgaFrame (f : Nat) (s : State) : Tbl Nat × State :=
  let b := s.toBlocks
  let peers := (List.range 16).filter fun y => y != b.card && !(groupsTo b b.groupTx y).isEmpty
  let accept := fun (t : Tbl Nat) y =>
    ((groupsTo b b.groupTx y).foldl (acceptOn ((f + 1) % 80) s) (Tbl.get 0 b.mesh.grants y, t)).2
  let accepts := peers.foldl accept []
  let granted := divideGrants b.mesh.requests 16 b.mesh.grantTurn (b.sc O.MeshRgaGrantPerFrame) []
  (b.mesh.accepts, s.upMesh fun m =>
    { m with accepts := accepts, granted := granted, grantTurn := (m.grantTurn + 1) % 16, requests := [], grants := [] })

/-- A cell of a slot with nothing to send (R261); its fields beside Kind and payload the spec leaves open (log 166). -/
def idleCell (g : Nat) (s : State) : Cell :=
  { dataCell s.card ((s.peerOf g).getD s.card) 0 511 0 none [] 0 with kind := 0 }

/-- What one slot with entry `e` sends, and what is then left of the cells accepted on the group; none for an IDLE cell. Of
the slots still to come `free` are no held slots: when as many cells are accepted, they have those slots (R286, log 171).
Else the slot's own kind comes first, then an accepted cell, then what a held stream to the peer has left over. Nothing
goes while both Dovetail links are down (R18). -/
def slotSend (g e free left : Nat) (s : State) : Option Cell × Nat × State :=
  if !s.forwards then (none, left, s)
  else
    let own := if entKind e ≠ 3 ∧ left ≠ 0 ∧ free ≤ left then none else slotCell g e s
    match own, (s.group g).rga with
    | some (c, s1), _ => (some c, left, s1)
    | none, x :: t =>
      if left = 0 then (none, left, s) else (some x, left - 1, s.updGroup g fun r => { r with rga := t })
    | none, [] =>
      let y := (s.peerOf g).getD s.card
      match drainClass s.toBlocks y with
      | none => (none, left, s)
      | some c => match (s.heldTx y c).take s.card y c y [y] with
        | none => (none, left, s)
        | some (x, h) => (some x, left, s.setHeldTx y c h)

/-- The slots of a frame on a group, in order. -/
def sendSlots (f g : Nat) : List Nat → Nat × State → Nat × State
  | [], a => a
  | n :: t, (left, s) =>
    let entry := fun k => s.mesh.active.entry g f k
    let free := ((n :: t).filter fun k => entKind (entry k) != 3).length
    let (c, left', s1) := slotSend g (entry n) free left s
    sendSlots f g t (left', emitCell g n (c.getD (idleCell g s)) s1)

/-- One group's frame: its header cell, and its slots when it is transmit-active; `left` are the cells accepted on each
group. -/
def sendFrame (q g : Nat) (left : Tbl Nat) (s : State) : State :=
  let r := s.group g
  let s1 := s.emit (.header g (headerOnWire (headerBytes (headerOf s.toBlocks g q r.step))))
  let s2 := s1.updGroup g fun r => { r with step := false, mgmt := r.mgmt.drop 1 }
  if !s2.groupTx g then s2
  else (sendSlots (q / frameQ % 80) g (List.range (slotsOf (popCount 12 r.txLanes))) (Tbl.get 0 left g, s2)).2

/-- ActiveCards is followed at each frame (R269). -/
def followSet (s : State) : State :=
  let set := s.activeSet
  if set = s.mesh.activeCards then s
  else s.upMesh fun m =>
    { m with activeCards := set, activeSince := s.time.ticks, planDue := true, joined := m.joined && othersIn s.card set }

/-- The framing's own grid time, in 0.25 ns units: without the steps `l` that it has not followed (R264). -/
def Blocks.framingQ (b : Blocks) (l : List Int) : Nat := (((b.gridQ : Int) - l.sum) % 2 ^ 64).toNat

/-- The present instant in 0.25 ns units since reset. -/
def Blocks.quarters (b : Blocks) : Nat := 5 * b.time.ticks

/-- Every group that runs sets Step in its next header cell (R264). -/
def markStep (s : State) : State :=
  ((List.range 16).filter s.groupRuns).foldl (fun a g => a.updGroup g fun r => { r with step := true }) s

/-- The frame at instant `q` of the framing begins on every group that runs. -/
def rackFrame (q : Nat) (s : State) : State :=
  let s1 := settleMoving (followSet (s.upMesh fun m => { m with lastFrame := some (q / frameQ) }))
  let s2 := (List.range 16).foldl (fun a d => purgeRelay d a) s1
  let (left, s3) := rgaFrame (q / frameQ % 80) s2
  noteRelays (((List.range 16).filter s.groupRuns).foldl (fun a g => sendFrame q g left a) s3)

/-- The frame that carries Step begins at instant `q` of the framing, and its end is noted. -/
def stepFrame (q : Nat) (s : State) : State :=
  rackFrame q (s.upMesh fun m => { m with stepEnd := some (s.quarters + frameQ - q % frameQ) })

/-- RACK_FRAME_START: a frame of 125 ns begins on every enabled group; it begins once. After a grid step the next frame of
the timing before it carries Step; the framing resumes under the new grid time at the first frame start at least 125 ns
after that frame's end, where a step that came meanwhile is followed in the same way (R264). -/
def execRackFrameStart (s : State) : Out :=
  match s.mesh.steps, s.mesh.stepEnd with
  | [], _ =>
    let q := s.framingQ []
    .next (if s.mesh.lastFrame = some (q / frameQ) then s else rackFrame q s)
  | l, none =>
    let q := s.framingQ l
    .next (if s.mesh.lastFrame = some (q / frameQ) then s else stepFrame q s)
  | _ :: rest, some e =>
    let q := s.framingQ rest
    if s.quarters < e + frameQ + q % frameQ then .next s
    else
      let s1 := s.upMesh fun m => { m with steps := rest, stepEnd := none }
      .next (if rest.isEmpty then rackFrame q s1 else stepFrame q (markStep s1))

/-- A grid step by `d` units of 0.25 ns moves the frames of every enabled group (R264). One that comes before the frame with
Step has begun joins the step that waits. -/
def meshStepped (d : Int) (s : State) : State :=
  if ((List.range 16).filter s.groupRuns).isEmpty then
    s.upMesh fun m => { m with steps := [], stepEnd := none, lastFrame := none }
  else match s.mesh.steps, s.mesh.stepEnd with
    | a :: rest, some _ => s.upMesh fun m => { m with steps := [a, rest.sum + d] }
    | l, _ => markStep (s.upMesh fun m => { m with steps := [l.sum + d] })

/-- A write of a MeshGroupConfig row takes effect: a group that is not enabled forgets its alignment. -/
def groupConfigWritten (g : Nat) (s : State) : State :=
  if s.rd O.MeshGroupConfig g F.MeshGroupConfig_Enable = 1 then s
  else s.upMesh fun m => { m with groups := Tbl.put GroupRT.start g GroupRT.start m.groups }

end Sys2Proof.Machine
end

