-- ==== Sys2Proof/Machine/MeshRx.lean ====
section
/-! DEFINITION. The mesh, receiving side (chapter 11): alignment, delay and what header cells tell, cells relayed,
resequenced, rebuilt from parity and reassembled, held streams at their destination. -/
namespace Sys2Proof.Machine

/-! ### Header cells (R256, R263 to R267, R286) -/

/-- `h` stands `n` frames after `last`, and in the next cycle where the numbers wrap. -/
def followsBy (n : Nat) (last h : PeerHdr) : Bool :=
  h.frame == (last.frame + n) % 80 && h.cycle == (last.cycle + (last.frame + n) / 80) % 2 ^ 32

/-- `h` follows `last`: the next frame number, and the next cycle where it wraps (Table 11-5). -/
abbrev followsHdr (last h : PeerHdr) : Bool := followsBy 1 last h

/-- The group searches again; from SYNC this is the defect LOF (R263, R266). -/
def toHunt (g : Nat) (s : State) : State :=
  let was := (s.group g).align
  let s1 := if was = 2 then raiseDefect g 3 s else s
  dropJoin g (s1.updGroup g fun r => { r with align := 0, good := 0, bad := 0, stepAt := none })

/-- The peer's announcements contradict the configuration (R256). -/
def peerMismatch (b : Blocks) (g : Nat) (h : PeerHdr) : Bool :=
  let r := fun f => b.rd O.MeshGroupConfig g f
  (r F.MeshGroupConfig_CheckPeer == 1 && (h.card != r F.MeshGroupConfig_ExpectCard || h.group != r F.MeshGroupConfig_ExpectGroup)) ||
    h.card == b.card || h.mode != b.mesh.mode || h.version != 1

/-- The header cell deviates by more than 31.25 ns from its instant, both grids running (R266). -/
def deviates (b : Blocks) (g stamp : Nat) (h : PeerHdr) : Bool :=
  let m := 2 ^ 32 * cycleQ
  let due := (h.cycle * cycleQ + h.frame * frameQ + (b.group g).oneWay) % m
  let d := (stamp % m + m - due) % m
  b.gridRuns && decide (2 ≤ h.grid) && decide (125 < min d (m - d))

/-- The round-trip delay a header cell shows, in 0.25 ns units (R265). -/
def roundTrip (stamp : Nat) (h : PeerHdr) : Int :=
  let n := stamp / frameQ
  let t1 := (n - (n + 80 - h.echoFrame % 80) % 80) * frameQ
  ((stamp : Int) - t1) - ((h.relay + 2 ^ 32 - h.echoStamp % 2 ^ 32) % 2 ^ 32 : Nat)

/-- LOC's condition and its end, as a good header cell shows them; the frames of errored header cells before it count as
passed. -/
def checkLoc (g stamp : Nat) (h : PeerHdr) (s : State) : State :=
  let r := s.group g
  let inOrder := r.stepAt.isSome || (match r.hdr with | some l => followsBy (r.bad + 1) l h | none => true)
  let n := if deviates s.toBlocks g stamp h then r.deviated + 1 else 0
  let bad := !inOrder || decide (3 ≤ n)
  let s1 := s.updGroup g fun r => { r with deviated := n, locGood := if bad then 0 else r.locGood + 1 }
  if bad then raiseDefect g 4 s1 else if 16 ≤ (s1.group g).locGood then clearDefect g 4 s1 else s1

/-- PDI's condition and its end. -/
def checkPdi (g : Nat) (h : PeerHdr) (s : State) : State :=
  let bad := h.pdi || h.align != 2
  let s1 := s.updGroup g fun r => { r with pdiGood := if bad then 0 else r.pdiGood + 1 }
  if bad then raiseDefect g 5 s1 else if 16 ≤ (s1.group g).pdiGood then clearDefect g 5 s1 else s1

/-- Mismatch, and since when the peer announces what it should (R256, R291). -/
def checkPeer (g : Nat) (h : PeerHdr) (s : State) : State :=
  let bad := peerMismatch s.toBlocks g h
  let was := (s.group g).mismatch
  let since := fun r : GroupRT => if bad then none else some (r.okSince.getD s.time.ticks)
  let s1 := s.updGroup g fun r => { r with mismatch := bad, okSince := since r, joined := r.joined && !bad }
  if bad && !was then setDetail O.GroupEventDetail g 16 (src 6 16) s1 else s1

/-- A sample of the grid-time relay for the domains whose source is the card it came from: one a cycle, with half the
round trip added, taken from a card whose grid runs (R83, R84). -/
def relaySample (g : Nat) (h : PeerHdr) (phase : Nat) (s : State) : State :=
  if h.frame ≠ 0 ∨ h.grid < 2 then s
  else
    let feed := fun (d : Dom) (s : State) =>
      if s.sc (domObj d O.DomainASource) = 2 ∧ s.sc (domObj d O.DomainAPort) = h.card then
        let here : Int := atPhase (s.dom d).time (4 * s.sc (domObj d O.DomainAIncrement)) phase
        let there : Int := ((h.relay + (s.group g).oneWay : Nat) : Int) * (unitsPerQuarter : Int)
        let diff := toSigned 104 (((there - here) % counterMod).toNat)
        s.updDom d fun r => { r with meshSum := r.meshSum + diff, meshCount := r.meshCount + 1 }
      else s
    feed .b (feed .a s)

/-- What a header cell announces of a page swap is kept for its cycle and the two before (R272). -/
def noteSaid (h : PeerHdr) (s : State) : State :=
  let x : Said := ⟨h.cycle, h.swapValid, h.standby, h.swapCycle, h.agree⟩
  s.upMesh fun m =>
    { m with said := Tbl.put [] h.card (x :: ((Tbl.get [] m.said h.card).filter fun y => y.cycle != h.cycle).take 2) m.said }

/-- A good header cell in SYNC. -/
def headerGood (g phase : Nat) (h : PeerHdr) (s : State) : State :=
  let stamp := stampOf s.toBlocks 0 phase
  let s1 := checkPeer g h (checkPdi g h (checkLoc g stamp h s))
  let rtt := roundTrip stamp h
  let s2 := s1.updGroup g fun r =>
    { r with hdr := some h, rxStamp := stamp, bad := 0, good := r.good + 1
             stepAt := if h.step then some s.time.ticks else none
             rttSum := if h.align = 2 then r.rttSum + rtt else r.rttSum
             rttCount := if h.align = 2 then r.rttCount + 1 else r.rttCount }
  let s3 := s2.upMesh fun m =>
    { m with requests := Tbl.put 0 h.card (h.request % 8192) m.requests, grants := Tbl.put 0 h.card h.grant m.grants }
  dropJoin g (relaySample g h phase (noteSaid h s3))

/-- HEADER_CELL_RECEIVE: the bytes found where the group looks for a header cell, with the lanes it receives in lock.
HUNT takes a candidate, PRESYNC confirms it, SYNC follows the peer (Table 11-5). -/
def execHeaderCellReceive (g : Fin 16) (rx : LineBytes) (lanes : BitVec 12) (phase : Fin 5) (s : State) : Out :=
  let g := g.val
  let bytes := rx.bytes
  if !s.groupRuns g then .next s
  else
    let s := fecCounted g rx.fec (s.updGroup g fun r => { r with lanes := lanes.toNat })
    let stamp := stampOf s.toBlocks 0 phase.val
    let r := s.group g
    let h? := readHeader (headerOnWire bytes)
    let crcBad := alignsAt bytes && h?.isNone
    let counted := if crcBad && r.align != 0 && r.stepAt.isNone
      then s.add64 O.MeshGroupCounters g F.MeshGroupCounters_HeaderCrcErrors 1 else s
    match r.align, h? with
    | 0, some h => .next (s.updGroup g fun r => { r with align := 1, good := 1, bad := 0, hdr := some h, rxStamp := stamp })
    | 0, none => .next s
    | 1, some h =>
      let ok := match r.hdr with | some l => followsHdr l h | none => false
      if !ok then .next (toHunt g s)
      else if r.good + 1 < s.sc O.MeshSyncConfirm then
        .next (s.updGroup g fun r => { r with good := r.good + 1, hdr := some h, rxStamp := stamp })
      else
        let s1 := (clearDefect g 3 s).updGroup g fun r => { r with align := 2, stepAt := none }
        .next (headerGood g phase.val h s1)
    | 1, none => .next (toHunt g counted)
    | _, some h => .next (headerGood g phase.val h s)
    | _, none =>
      if r.stepAt.isSome then .next s
      else
        let s1 := counted.updGroup g fun r => { r with bad := r.bad + 1, locGood := 0 }
        if s1.sc O.MeshSyncLoss ≤ r.bad + 1 then .next (toHunt g s1) else .next s1

/-- MESH_STEP_SEARCH_TIMEOUT: 500 ns without a header cell after the end of the frame that carried Step (R264). -/
def execMeshStepSearchTimeout (g : Fin 16) (s : State) : Out :=
  match (s.group g.val).stepAt with
  | some t => if t + nsTicks 625 ≤ s.time.ticks then .next (toHunt g.val s) else .next s
  | none => .next s

/-! ### Reassembly (R262, R281, R287) -/

/-- What tells apart the copies that one source sends to one card under one McId: port, queue and edit list (log 172). -/
def copyPlace (h : Hdr) : Nat := (h.destPort * 2 ^ 19 + h.destQueue) * 2 ^ 24 + h.editPtr

/-- A copy for place `at_` under McId `k` has come already, among the last 1,024 McIds of its source (R287). -/
def copySeen (seen : List (Nat × List Nat)) (k at_ : Nat) : Bool := seen.any fun e => e.1 == k && e.2.contains at_

/-- The memory of McIds with one more copy. -/
def noteCopy (seen : List (Nat × List Nat)) (k at_ : Nat) : List (Nat × List Nat) :=
  if seen.any fun e => e.1 == k then seen.map fun e => if e.1 = k then (k, at_ :: e.2) else e
  else ((k, [at_]) :: seen).take 1024

/-- A whole record from card `src` becomes a packet of this card, unless it repeats a multicast copy (R111, R287). -/
def acceptRecord (src : Nat) (bytes : Bytes) (mc : Option Nat) (s : State) : State :=
  let seen := Tbl.get [] s.mesh.mcSeen src
  let at_ := copyPlace (readHdr bytes)
  let again := match mc with | some k => copySeen seen k at_ | none => false
  if again then s.add64 O.MeshReseqCounters src F.MeshReseqCounters_McDuplicates 1
  else
    let s1 := match mc with
      | some k => s.upMesh fun m => { m with mcSeen := Tbl.put [] src (noteCopy seen k at_) m.mcSeen }
      | none => s
    let p := packetOf bytes src mc
    let p1 : Pkt := { p with hdr := { p.hdr with genTag := s.gen.cur % 64 }, gen := s.gen.cur
                             stamps := [s.stamp % 2 ^ 32] }
    s1.upTm fun t => { t with fromMesh := t.fromMesh ++ [p1] }

/-- Takes whole records off the front of `bytes`; the first one's multicast identity is `mc`, the later ones' none. -/
def takeRecords (src : Nat) : Nat → Bytes → Option Nat → State → Bytes × Option Nat × State
  | 0, b, mc, s => (b, mc, s)
  | fuel + 1, b, mc, s =>
    match recordLength b with
    | none => (b, mc, s)
    | some n =>
      if b.length < n then (b, mc, s)
      else takeRecords src fuel (b.drop n) none (acceptRecord src (b.take n) mc s)

abbrev RxStream.start : RxStream := ⟨[], false, none, none⟩

/-- Bytes of a record still to come, after `n` bytes more; none for unknown. -/
def tornAfter (t n : Option Nat) : Option Nat :=
  match t, n with
  | some 0, _ => some 0
  | some a, some b => some (a - b)
  | _, _ => none

/-- The next cell of a record stream (R262): a stream that lost its place takes it again at FirstOffset. What stands before
that place belongs to a record that touches the gap, which is counted here when it is another than the one that was in
progress at the gap (R281, log 169). -/
def feedStream (src : Nat) (c : Cell) (x : RxStream) (s : State) : RxStream × State :=
  let data := c.payload.take c.valid
  let mcOf := fun atStart : Bool => if atStart && c.mc then some c.mcId else none
  let go := fun (b : Bytes) (mc : Option Nat) (s : State) =>
    let (rest, mc', s') := takeRecords src (b.length / 33 + 1) b mc s
    ((⟨rest, true, if rest.isEmpty then none else mc', none⟩ : RxStream), s')
  if x.synced then go (x.acc ++ data) (if x.acc.isEmpty then mcOf true else x.mc) s
  else
    let tail := if c.first = 511 then c.valid else min c.first c.valid
    let fresh := tail != 0 && x.torn == some 0
    let s1 := if fresh then s.add64 O.MeshReseqCounters src F.MeshReseqCounters_PacketsLost 1 else s
    if c.first = 511 then ({ x with torn := if fresh then none else tornAfter x.torn (some tail) }, s1)
    else go (data.drop c.first) (mcOf (c.first == 0)) s1

/-- A gap of `n` bytes in a record stream, none for a gap of unknown size: the record in progress is lost (R281). -/
def gapStream (src : Nat) (n : Option Nat) (x : RxStream) (s : State) : RxStream × State :=
  if !x.synced then ({ x with torn := tornAfter x.torn n }, s)
  else if x.acc.isEmpty then ({ RxStream.start with torn := some 0 }, s)
  else
    let left := (recordLength x.acc).map (· - x.acc.length)
    ({ RxStream.start with torn := tornAfter left n }, s.add64 O.MeshReseqCounters src F.MeshReseqCounters_PacketsLost 1)

/-! ### Resequencing (R279 to R281) -/

/-- A resequencer that has received nothing: its record stream begins at a record start. -/
abbrev Reseq.start : Reseq := ⟨none, [], [], [], RxStream.start⟩

def Blocks.reseqOf (b : Blocks) (key : Nat) : Reseq := Tbl.get Reseq.start b.mesh.reseq key

def State.setReseq (s : State) (key : Nat) (x : Reseq) : State :=
  s.upMesh fun m => { m with reseq := Tbl.put Reseq.start key x m.reseq }

/-- Cells in the buffer that all resequencers share. -/
def Blocks.reseqCells (b : Blocks) : Nat :=
  b.mesh.reseq.foldl (fun a e => e.2.groups.foldl (fun x g => x + g.cells.length) a) 0

/-- Data cells that a group has. -/
def RxGroup.data (g : RxGroup) : List Cell := g.cells.filter fun c => c.kind == 1

/-- The group is complete (R280). -/
def RxGroup.complete (g : RxGroup) : Bool :=
  match g.cells with
  | [] => false
  | c :: _ => decide (c.size ≤ g.cells.length)

/-- A group that lacks one data cell is completed from parity at once (R280). -/
def RxGroup.rebuild (g : RxGroup) : Option RxGroup :=
  match g.cells.find? (fun c => c.kind == 2) with
  | none => none
  | some p =>
    let data := g.data
    if data.length + 1 ≠ p.size then none
    else match (List.range p.size).find? fun i => !data.any fun c => c.index == i with
      | none => none
      | some i =>
        let (v, x) := xorCells (p :: data)
        some { g with cells := withParity { p with kind := 1, index := i } v x :: g.cells }

/-- The data cells of a group in Index order: none where one is missing. -/
def RxGroup.inOrder (g : RxGroup) (size : Nat) : List (Option Cell) :=
  (List.range size).map fun i => g.data.find? fun c => c.index == i

/-- Delivers cells to the record stream; a missing cell is a gap of its 256 bytes. -/
def deliverCells (src : Nat) : List (Option Cell) → RxStream → State → RxStream × State
  | [], x, s => (x, s)
  | some c :: t, x, s => let (x', s') := feedStream src c x s; deliverCells src t x' s'
  | none :: t, x, s => let (x', s') := gapStream src (some 256) x s; deliverCells src t x' s'

/-- Group numbers not more than 2^23 behind `n`: older ones would be mistaken for new after the numbers wrap. -/
def recent (n : Nat) (l : List Nat) : List Nat := l.filter fun e => decide ((n + 2 ^ 24 - e) % 2 ^ 24 < 2 ^ 23)

/-- Delivers every complete group from the awaited one on. -/
def deliverReady (key : Nat) : Nat → State → State
  | 0, s => s
  | fuel + 1, s =>
    let q := s.reseqOf key
    match q.next with
    | none => s
    | some n =>
      match q.groups.find? fun g => g.seq == n with
      | none => s
      | some g =>
        if !g.complete then s
        else
          let size := (g.cells.headD (dataCell 0 0 0 0 0 none [] 0)).size
          let (x, s1) := deliverCells (key / 8) (g.inOrder size) q.stream s
          let groups := q.groups.filter fun y => y.seq != n
          let owed := if g.parity then q.owed else n :: recent n q.owed
          deliverReady key fuel
            (s1.setReseq key { q with next := some ((n + 1) % 2 ^ 24), groups := groups, owed := owed, stream := x })

/-- A DATA or PARITY cell for this card (R279, R280). The first copy of a parity cell that finds its group complete is
discarded and not counted. -/
def resequence (c : Cell) (s : State) : State :=
  let key := c.src * 8 + c.cls
  let q := s.reseqOf key
  let next := q.next.getD c.seq
  let q1 := { q with next := some next }
  if 131072 ≤ s.reseqCells then raise (src 6 24) (s.add64 O.MeshReseqFull 0 0 1)
  else if q.lost.contains c.seq then s.add64 O.MeshReseqCounters c.src F.MeshReseqCounters_LateDiscards 1
  else
    let dup := s.add64 O.MeshReseqCounters c.src F.MeshReseqCounters_Duplicates 1
    if serialBefore 24 c.seq next then
      if c.kind = 2 ∧ q.owed.contains c.seq then s.setReseq key { q with owed := q.owed.filter (· != c.seq) } else dup
    else
      let g := (q1.groups.find? fun g => g.seq == c.seq).getD ⟨c.seq, [], s.time.ticks, false⟩
      let others := q1.groups.filter fun x => x.seq != c.seq
      if g.cells.any (fun x => x.index == c.index) then dup
      else if g.complete then
        if c.kind = 1 ∨ g.parity then dup else s.setReseq key { q1 with groups := others ++ [{ g with parity := true }] }
      else
        let g1 := { g with cells := c :: g.cells, parity := g.parity || c.kind == 2 }
        let (g2, s1) := match g1.rebuild with
          | some x => (x, s.add64 O.MeshReseqCounters c.src F.MeshReseqCounters_Reconstructed 1)
          | none => (g1, s)
        let groups := others ++ [g2]
        deliverReady key (groups.length + 1) (s1.setReseq key { q1 with groups := groups })

/-- RESEQ_TIMEOUT: the awaited group of a source and class has not completed within MeshReseqTimeout of its first cell, or
of the first cell of a later group: it is lost (R281). -/
def execReseqTimeout (source : Fin 16) (cls : Fin 8) (s : State) : Out :=
  let key := source.val * 8 + cls.val
  let q := s.reseqOf key
  let limit := nsTicks (max (s.sc O.MeshReseqTimeout) (s.sc O.MeshReseqTimeoutMin))
  match q.next, (q.groups.map (·.since)).min? with
  | some n, some since =>
    if s.time.ticks < since + limit then .next s
    else
      let s1 := raise (src 6 18) (s.add64 O.MeshReseqCounters source.val F.MeshReseqCounters_GroupsLost 1)
      let (x, s2) := match q.groups.find? fun g => g.seq == n with
        | some g => deliverCells source.val (g.inOrder ((g.cells.headD (dataCell 0 0 0 0 0 none [] 0)).size)) q.stream s1
        | none => gapStream source.val none q.stream s1
      let groups := q.groups.filter fun y => y.seq != n
      let q1 : Reseq :=
        { next := some ((n + 1) % 2 ^ 24), groups := groups, lost := n :: recent n q.lost, owed := q.owed, stream := x }
      .next (deliverReady key (groups.length + 1) (s2.setReseq key q1))
  | _, _ => .next s

/-! ### Held streams at their destination (R283) -/

abbrev HeldRx.start : HeldRx := ⟨none, [], [], RxStream.start⟩

def Blocks.heldRx (b : Blocks) (key : Nat) : HeldRx := Tbl.get HeldRx.start b.mesh.heldRx key

def State.setHeldRx (s : State) (key : Nat) (x : HeldRx) : State :=
  s.upMesh fun m => { m with heldRx := Tbl.put HeldRx.start key x m.heldRx }

/-- Delivers the waiting cells that are next in sequence. -/
def deliverHeld (key : Nat) : Nat → State → State
  | 0, s => s
  | fuel + 1, s =>
    let q := s.heldRx key
    match q.next with
    | none => s
    | some n =>
      match q.wait.find? fun e => e.1.seq == n with
      | none => s
      | some (c, _) =>
        let (x, s1) := feedStream (key / 8) c q.stream s
        let s2 := s1.add64 O.MeshHeldCounters (key / 8) F.MeshHeldCounters_Delivered 1
        deliverHeld key fuel
          (s2.setHeldRx key { q with next := some ((n + 1) % 2 ^ 24), wait := q.wait.filter fun e => e.1.seq != n, stream := x })

/-- A HELD cell for this card. Numbers skipped more than 2^23 ago are forgotten. -/
def heldArrives (c : Cell) (s : State) : State :=
  let key := c.src * 8 + c.cls
  let q := s.heldRx key
  let next := q.next.getD c.seq
  let dup := s.add64 O.MeshHeldCounters c.src F.MeshHeldCounters_Duplicates 1
  let q := { q with skipped := recent next q.skipped }
  if q.skipped.contains c.seq then s.setHeldRx key { q with skipped := q.skipped.filter fun e => e != c.seq }
  else if serialBefore 24 c.seq next ∨ q.wait.any (fun e => e.1.seq == c.seq) then dup
  else
    let q1 := { q with next := some next, wait := q.wait ++ [(c, s.time.ticks)] }
    deliverHeld key (q1.wait.length + 1) (s.setHeldRx key q1)

/-- The numbers from `n` up to and without `m`. -/
def seqSpan (n m : Nat) : List Nat := (List.range ((m + 2 ^ 24 - n) % 2 ^ 24)).map fun i => (n + i) % 2 ^ 24

/-- HELD_SEQUENCE_SKIP: a cell has waited 425 ns for an earlier number: the numbers missing before it are skipped. -/
def execHeldSequenceSkip (source : Fin 16) (cls : Fin 8) (s : State) : Out :=
  let key := source.val * 8 + cls.val
  let q := s.heldRx key
  let ripe := q.wait.filter fun e => decide (e.2 + nsTicks 425 ≤ s.time.ticks)
  match q.next with
  | none => .next s
  | some n =>
    match (ripe.map fun e => (e.1.seq + 2 ^ 24 - n) % 2 ^ 24).min? with
    | none => .next s
    | some k =>
      let m := (n + k) % 2 ^ 24
      let gone := (seqSpan n m).filter fun e => !q.wait.any fun x => x.1.seq == e
      let (x, s1) := gapStream source.val (some (256 * gone.length)) q.stream s
      let s2 := raiseN gone.length (src 6 25) (s1.add64 O.MeshHeldCounters source.val F.MeshHeldCounters_Skipped gone.length)
      let s3 := s2.setHeldRx key { q with next := some m, skipped := gone ++ q.skipped, stream := x }
      .next (deliverHeld key (q.wait.length + 1) s3)

/-! ### Received cells (R261, R277, R282) -/

/-- A cell of another pair, to be relayed: its queue has room for it and a group to its destination, or it is discarded. -/
def relayCell (c : Cell) (s : State) : State :=
  let l := Tbl.get [] s.mesh.relay c.dst
  if 4096 ≤ l.length ∨ groupsTo s.toBlocks s.groupTx c.dst = [] then
    raise (src 6 23) (s.add64 O.MeshRelayDrops 0 0 1)
  else setRelay c.dst (l ++ [c]) s

/-- The via copy of a held stream: at most 16 cells of a stream are held (R282). -/
def relayHeld (c : Cell) (s : State) : State :=
  let k := (c.src * 16 + c.dst) * 8 + c.cls
  let l := Tbl.get [] s.mesh.heldRelay k
  if 16 ≤ l.length then s.add64 O.MeshHeldCounters c.src F.MeshHeldCounters_Dropped 1
  else s.upMesh fun m => { m with heldRelay := Tbl.put [] k (l ++ [c]) m.heldRelay }

/-- What becomes of a good cell. -/
def placeCell (c : Cell) (s : State) : State :=
  if c.kind = 1 ∨ c.kind = 2 then
    if c.dst = s.card then resequence c s
    else if !c.relayed ∧ s.mesh.mode = 2 then relayCell c s
    else s
  else if c.kind = 3 then
    if c.dst = s.card then heldArrives c s
    else if c.via = s.card ∧ !c.relayed ∧ !pageDiffers s.toBlocks c.src then relayHeld c s
    else s
  else s

/-- DATA_CELL_RECEIVE: the bytes of one data-cell slot of a group in SYNC (R259, R261, R263, R277). -/
def execDataCellReceive (g : Fin 16) (slot : Fin 128) (bytes : Bytes) (s : State) : Out :=
  let r := s.group g.val
  if !s.groupRuns g.val ∨ r.align ≠ 2 ∨ r.mismatch then .next s
  else
    let s1 := s.add64 O.MeshGroupCounters g.val F.MeshGroupCounters_CellsReceived 1
    match readCell (slotOnWire slot.val bytes) with
    | none =>
      let s2 := s1.updGroup g.val fun r => { r with crcAt := some s1.window }
      .next (raiseDefect g.val 8 (s2.add64 O.MeshGroupCounters g.val F.MeshGroupCounters_CellCrcErrors 1))
    | some c => .next (noteRelays (placeCell c s1))

end Sys2Proof.Machine
end

