-- ==== Sys2Proof/Machine/Egress.lean ====
section
/-! DEFINITION. The way through the TM and the egress pipelines (Table 1-3, steps 5 to 10): TM_ENQUEUE, EGRESS_PROCESS,
STREAM_RECOVERY_RESET, and the retirement of generations (R112, R113). -/
namespace Sys2Proof.Machine

/-! ### Arrival at the TM (R207, R287, R366) -/

/-- The enqueue lane of a packet. -/
def laneOf (p : Pkt) : Nat :=
  Config.lane (BitVec.ofNat 16 p.hdr.flowHash) (BitVec.ofNat 3 p.hdr.cls) (BitVec.ofNat 8 p.hdr.destPort)
    (BitVec.ofNat 19 p.hdr.destQueue) % 10

/-- The oldest packet of a lane is enqueued. -/
def serveLane (k : Nat) (s : State) : State :=
  match Tbl.get [] s.tm.lanes k with
  | [] => s
  | p :: t => enqueueLocal p (s.upTm fun m => { m with lanes := Tbl.put [] k t m.lanes })

/-- A packet of this card enters its lane's FIFO, or overruns it; unless the lane is busy, its oldest packet is then
enqueued. -/
def toLane (busy : Bool) (p : Pkt) (s : State) : State :=
  let k := laneOf p
  let l := Tbl.get [] s.tm.lanes k
  if 4096 ≤ l.length then raise (src 4 5) (tmDrop .overrun p s)
  else
    let s1 := s.upTm fun m => { m with lanes := Tbl.put [] k (l ++ [p]) m.lanes }
    if busy then s1 else serveLane k s1

/-- The packet's INGRESS record (R366); from here its stamps are those of an EGRESS record. -/
def recordIngress (p : Pkt) (s : State) : Pkt × State :=
  let now := s.stamp % 2 ^ 32
  let s1 := if p.stamps.length = 3 then recordPacket p ⟨false, 0, p.stamps ++ [now, now], p.hits⟩ s else s
  ({ p with stamps := [now] }, s1)

/-- One packet of a bundle: towards the mesh, or into its lane. -/
def tmTake (busy : Bool) (mc : Nat) (p : Pkt) (s : State) : State :=
  let (p, s1) := recordIngress p s
  let p := if p.mcast then { p with mcId := some mc } else p
  if p.hdr.destCard = s1.card then toLane busy p s1 else meshSend p s1

/-- A packet with the copies the TM makes of it; copies share one multicast identity (R287). -/
def tmBundle (busy : Bool) (l : List Pkt) (s : State) : State :=
  let mc := s.tm.mcNext
  let s1 := if l.any (·.mcast) then s.upTm fun m => { m with mcNext := (mc + 1) % 65536 } else s
  l.foldl (fun a p => tmTake busy mc p a) s1

/-- TM_ENQUEUE: the TM takes what waits first on a Dovetail link or from the mesh; when the lane it belongs to
has no operation free, the packet waits in the lane's FIFO. Or a lane serves its oldest packet (R207, R208). Single-bit
errors corrected on the way are raised (R120). -/
def execTmEnqueue (a : TmSrc) (turn : LaneTurn) (s : State) : Out :=
  let busy := turn.busy
  let s := raiseN turn.fixed (src 8 3) s
  match a with
  | .link k => match (if k.val = 0 then s.fe.toTm0 else s.fe.toTm1) with
    | [] => .next s
    | l :: t =>
      .next (tmBundle busy l (s.upFe fun f => if k.val = 0 then { f with toTm0 := t } else { f with toTm1 := t }))
  | .mesh => match s.tm.fromMesh with
    | [] => .next s
    | p :: t => .next (toLane busy p (s.upTm fun m => { m with fromMesh := t }))
  | .lane k => .next (serveLane k.val s)

/-! ### The egress pipeline (R191, R194, R199) -/

/-- The ring engine stages a punted packet in a Shelf buffer of its ring (R341); a refused allocation discards it. A packet
whose ring was disabled while it crossed has no ring and is discarded (log 159). -/
def stagePunt (p : Pkt) (s : State) : State :=
  match s.puntRingOf p.hdr.destQueue with
  | none => noteDiscard p s
  | some row => match shelfAlloc (0x1000 + row) (max 1 p.data.length) s with
    | (none, s1) => noteDiscard p (s1.add64 O.RingCounters row F.RingCounters_NoShelf 1)
    | (some buf, s1) => s1.upHost fun h => { h with punts := h.punts ++ [⟨p, row, buf⟩] }

/-- The recovery function of a stream applied to sequence number `seq` (R199): whether the packet passes. A row that is
not valid passes every packet. -/
def eliminate (g stream seq : Nat) (s : State) : Bool × State :=
  let r := fun f => s.rdGen g O.StreamRecovery stream f
  if r F.StreamRecovery_Valid = 0 then (true, s)
  else
    let out := recoverSeq (r F.StreamRecovery_Algorithm) (r F.StreamRecovery_HistoryLength) s.time.ticks seq
      (Tbl.get StreamRT.start s.fe.streams stream)
    let s1 := s.upFe fun f => { f with streams := Tbl.put StreamRT.start stream out.rt f.streams }
    let s2 := s1.add64 O.StreamRecoveryCount stream
      (if out.accept then F.StreamRecoveryCount_Passed else F.StreamRecoveryCount_Discarded) 1
    let s3 := s2.add64 O.StreamRecoveryCount stream F.StreamRecoveryCount_OutOfOrder out.outOfOrder
    let s4 := s3.add64 O.StreamRecoveryCount stream F.StreamRecoveryCount_Lost out.lost
    (out.accept, raiseIf (decide (0 < out.lost)) (src 3 7) s4)

/-- What an operation needs to know of its packet. -/
structure EditCtx where
  gen : Nat
  marks : List Nat
  colour : Nat
  srcPort : Nat
  port : Nat
  add : Int
  deriving DecidableEq, Repr

/-- Skips an operation (R191). -/
def Editing.skip (e : Editing) : Editing := { e with missing := e.missing + 1 }

/-- Transparent-clock correction of a running edit (R96, R97). -/
def tcStep (c : EditCtx) (q : Nat) (e : Editing) (s : State) : Editing × State :=
  let mode := if c.port < 128 then s.rd O.TcPort c.port F.TcPort_Mode else 0
  let link := s.rd O.TcPort c.srcPort F.TcPort_MeanLinkDelay
  match tcCorrect mode c.srcPort c.add link q e.cur with
  | .same => (e, s)
  | .changed d => ({ e with cur := d }, s)
  | .uncorrectable => (e, s.add64 O.TcUncorrectable 0 0 1)

/-- One edit operation (Table 8-5). -/
def editStep (c : EditCtx) (a : Editing × State) (o : Nat) : Editing × State :=
  let (e, s) := a
  if e.stop.isSome then (e, s)
  else match opPosition c.marks o with
    | none => (e.skip, s)
    | some p =>
      let q := e.at p
      if e.cur.length < q + opSpan o then (e.skip, s)
      else match opCode o with
        | 2 => (e.insert p (beBytes 4 (opValue o % 2 ^ 32)), s)
        | 4 => (e.insert p (beBytes 4 (opValue o % 2 ^ 32)), s)
        | 8 => (e.insert p (beBytes 4 0xF1C10000 ++ beBytes 2 (opValue o % 2 ^ 16)), s)
        | 3 => (e.remove p 4, s)
        | 5 =>
          let last := (byteAt e.cur (q + 2)) % 2 = 1
          let e1 := if last ∧ 2 ≤ q then { e with cur := putBe e.cur (q - 2) 2 (opParam o % 2 ^ 16) } else e
          (e1.remove p 4, s)
        | 9 => (e.remove p 6, s)
        | 10 =>
          let (pass, s1) := eliminate c.gen (opParam o % 2 ^ 14) (beAt e.cur (q + 4) 2) s
          if !pass then ({ e with stop := some 12 }, s1)
          else (if (opParam o).testBit 14 then e.remove p 6 else e, s1)
        | 11 => tcStep c q e s
        | _ =>
          let anchor := if opAnchor o = 0 then 0 else e.at (c.marks.getD (opAnchor o - 1) 0)
          ({ e with cur := editBytes o c.colour anchor q e.cur }, s)

/-- The operations a packet's egress applies, their marks, and the EditList row read (R194). -/
def egressOps (b : Blocks) (p : Pkt) : List Nat × List Nat × List Nat :=
  match p.literal with
  | some ops => (ops, [], [])
  | none =>
    if p.hdr.editPtr = 0 then ([], [], [])
    else
      let (w, _) := parsePacket b p.gen p.hdr.srcPort p.data p.hdr.length
      (editOps b p.gen p.hdr.editPtr, w.marks, [hitOf 8 p.hdr.editPtr])

/-- The departure timestamp: grid time at the latch plus TxAdjust (R307). -/
def departureStamp (b : Blocks) (port phase : Nat) : Nat :=
  (((stampOf b 0 phase : Int) + toSigned 16 (b.rd O.PortMeasure port F.PortMeasure_TxAdjust)) % 2 ^ 64).toNat

/-- The edited packet, its frame check sequence new (R191). -/
def Pkt.rebuilt (p : Pkt) (body : Bytes) : Pkt :=
  let d := body ++ fcsBytes body
  { p with data := d, literal := none, hdr := { p.hdr with length := d.length } }

/-- The second pass of a packet (R196). -/
def Pkt.secondPass (p : Pkt) : Pkt :=
  { p with hdr := { p.hdr with srcPort := 129, pass := true, punt := 0, editPtr := 0, sample := false, colour := 0 }
           stamps := [] }

/-- A frame leaves a line port (R191, R297, R307): padded, counted, stamped, recorded. A port that has ceased to carry
cuts it. `ptp` is the departure in a domain's timescale, for a host servo (R83). -/
def sendFrameOut (port stamp : Nat) (ptp : Option Nat) (body : Bytes) (hits : List Nat) (p : Pkt) (s : State) : State :=
  let q := p.rebuilt (body ++ List.replicate (60 - body.length) 0)
  if !s.carrying port then recordDrop 13 p s
  else
    let s1 := s.emit (.frame port q.data)
    let s2 := s1.add64 O.PortCounters port F.PortCounters_TxFrames 1
    let s3 := s2.add64 O.PortCounters port F.PortCounters_TxBytes q.data.length
    let s4 := match p.stampRing with
      | none => s3
      | some (r, d) => s3.upHost fun h => { h with departed := h.departed ++ [(r, d, some (ptp.getD stamp))] }
    recordPacket p ⟨true, 0, p.stamps ++ [stamp % 2 ^ 32], hits⟩ s4

/-- Where an edited packet goes (Table 1-3, steps 9 and 10; R195, R202). -/
def leave (port stamp : Nat) (ptp : Option Nat) (body : Bytes) (hits : List Nat) (p : Pkt) (s : State) : State :=
  let p := { p with stamps := p.stamps ++ [s.stamp % 2 ^ 32] }
  if port < 128 then sendFrameOut port stamp ptp body hits p s
  else
    let q := p.rebuilt body
    let s1 := recordPacket p ⟨true, 0, p.stamps ++ [s.stamp % 2 ^ 32], hits⟩ s
    if port = 128 then stagePunt q s1
    else if port = 129 then s.upFe fun f => { f with recirc := f.recirc ++ [q.secondPass] }
    else s1.emit (.local_ port q)

/-- A Pdelay message that a port in P2P mode does not forward: it reaches the servo owner instead, as the PTP punt reason
for a host servo (R96, Table 8-7). -/
def pdelayKept (b : Blocks) (port : Nat) (p : Pkt) : Bool :=
  decide (port < 128) && b.rd O.TcPort port F.TcPort_Mode == 2 && decide (p.hdr.srcPort < 128) && isPdelay p.data

/-- EGRESS_PROCESS: the packet first on a link to the forwarding die has crossed whole: its cells and descriptor are free
(R206), an egress pipeline edits it, and it leaves. `phase` is the fifth of the tick in which its departure is latched. -/
def execEgressProcess (link : Fin 2) (phase : Fin 5) (s : State) : Out :=
  if !s.traffic then .next s else
  match (if link.val = 0 then s.fe.toFe0 else s.fe.toFe1) with
  | [] => .next s
  | c :: t =>
    let s1 := s.upFe fun f => if link.val = 0 then { f with toFe0 := t } else { f with toFe1 := t }
    let p := c.pkt
    if pdelayKept s1.toBlocks c.port p then
      .next (if s1.sc O.ServoOwner = 0 then s1 else stagePunt (p.punted s1.toBlocks 11) s1)
    else
    let (ops, marks, hits) := egressOps s1.toBlocks p
    let stamp := departureStamp s1.toBlocks c.port phase.val
    let residence := toSigned 64 ((stamp + 2 ^ 64 - p.hdr.stamp % 2 ^ 64) % 2 ^ 64)
    let ctx : EditCtx := ⟨p.gen, marks, p.hdr.colour, p.hdr.srcPort, c.port, residence * 2 ^ 14⟩
    let start := Editing.start (p.data.take (p.data.length - 4))
    let (e, s2) := ops.foldl (editStep ctx) (start, s1)
    let s3 := raiseN e.missing (src 3 1) (s2.add64 O.EditAnchorMissing 0 0 e.missing)
    match e.stop with
    | some code => .next (recordDrop code p s3)
    | none =>
      let ptp := servoStamp s1.toBlocks c.port phase.val (toSigned 16 (s1.rd O.PortMeasure c.port F.PortMeasure_TxAdjust)) e.cur
      .next (leave c.port stamp ptp e.cur hits p s3)

/-- STREAM_RECOVERY_RESET: a stream's function has accepted nothing for ResetMs (R199). -/
def execStreamRecoveryReset (stream : Fin 16384) (s : State) : Out :=
  let k := stream.val
  let r := Tbl.get StreamRT.start s.fe.streams k
  let ms := s.rd O.StreamRecovery k F.StreamRecovery_ResetMs
  if s.rd O.StreamRecovery k F.StreamRecovery_Valid = 0 ∨ r.armed ∨ s.time.ticks < r.acceptedAt + ms * ticksPerMs then .next s
  else
    let s1 := s.upFe fun f => { f with streams := Tbl.put StreamRT.start k StreamRT.start f.streams }
    .next (raise (src 3 6) (s1.add64 O.StreamRecoveryCount k F.StreamRecoveryCount_Resets 1))

/-! ### Retirement (R112 to R114) -/

/-- Every packet that a drain counts: the ingress pipelines, repair queue, Dovetail, the egress buffer and spill, the
scheduler, and the recirculation path (R112). -/
def Blocks.counted (b : Blocks) : List Pkt :=
  b.repair.queue.map (·.entering.pkt) ++ b.fe.recirc ++ (b.fe.toTm0 ++ b.fe.toTm1).flatten
    ++ (b.tm.lanes.map (·.2)).flatten ++ b.tm.fromMesh ++ (b.items.map (·.pkts)).flatten ++ b.crossing.map (·.pkt)

/-- Both drains of generation `g` are complete: no counted packet carries its tag. -/
def drained (b : Blocks) (g : Nat) : Bool := !b.counted.any fun p => p.gen % 64 == g % 64

/-- GenerationAgeLimit in ticks: the largest class limit plus 1 ms (R113). -/
def ageLimitUs (b : Blocks) : Nat := ((List.range 8).foldl (fun a c => max a (b.rd O.FrameAgeLimit c 0)) 0) + 1000

/-- The oldest closed generation retires, and what is dead for every live generation is reclaimed (R109). -/
def retireOldest (s : State) : State :=
  let s1 := s.upGen fun g => { g with closed := g.closed.drop 1 }
  let old := s1.oldestGen
  let s2 := s1.upGen fun g => { g with hist := g.hist.filter fun e => decide (old < e.dead) }
  let lost := fun l : List LostRow => l.filter fun e => e.until_.all fun d => decide (old < d)
  rangeReclaim (exactReclaim (routeReclaim (s2.upRepair fun r => { r with lostRows := lost r.lostRows })))

/-- GENERATION_RETIRE: the oldest closed generation has drained. -/
def execGenerationRetire (s : State) : Out :=
  match s.gen.closed with
  | [] => .next s
  | g :: _ => if drained s.toBlocks g.num then .next (retireOldest s) else .next s

/-- GENERATION_AGE_LIMIT: the oldest closed generation has been closed for longer than GenerationAgeLimit and its drains
are not complete. -/
def execGenerationAgeLimit (s : State) : Out :=
  match s.gen.closed with
  | [] => .next s
  | g :: _ =>
    if g.closedAt + ageLimitUs s.toBlocks * ticksPerUs < s.time.ticks ∧ ¬ drained s.toBlocks g.num then
      .next (raise (src 2 1) ((retireOldest s).sat32 O.GenerationForcedRetire 0 0 1))
    else .next s

end Sys2Proof.Machine
end

