-- ==== Sys2Proof/Machine/Host.lean ====
section
/-! DEFINITION. Rings and Trolley (chapter 14): doorbells, punt and inject packets, completions and their signals, the
bulk DMA engine. What the module reads from host memory arrives as operands; what it writes there is output. -/
namespace Sys2Proof.Machine

/-! ### Host memory (R336) -/

/-- Splits a write at every 4 KiB boundary and at `size` bytes. -/
def splitWrite (size : Nat) : Nat → Nat → Bytes → List (Nat × Bytes)
  | 0, _, _ => []
  | fuel + 1, a, d =>
    if d.isEmpty then []
    else
      let n := min (min (max size 1) (4096 - a % 4096)) d.length
      (a, d.take n) :: splitWrite size fuel (a + n) (d.drop n)

/-- Writes bytes to host memory. -/
def hostWrite (a : Nat) (d : Bytes) (s : State) : State :=
  (splitWrite s.host.payload (d.length + 1) a d).foldl (fun s w => s.emit (.hostWrite w.1 w.2)) s

/-- Writes a segment as the funnel does: a head up to the next 64-byte boundary, whole 64-byte units, and a tail (R351). -/
def funnelWrite (a : Nat) (d : Bytes) (s : State) : State :=
  let head := min ((64 - a % 64) % 64) d.length
  let whole := head + (d.length - head) / 64 * 64
  hostWrite (a + whole) (d.drop whole) (hostWrite (a + head) ((d.take whole).drop head) (hostWrite a (d.take head) s))

/-! ### Rings -/

def State.updRing (s : State) (r : Nat) (f : RingRT → RingRT) : State :=
  s.upHost fun h => { h with rings := Tbl.put RingRT.start r (f (Tbl.get RingRT.start h.rings r)) h.rings }

/-- A field of a ring's row, by its name in PuntRing and in InjectRing. -/
def ringField (b : Blocks) (r punt inject : Nat) : Nat :=
  if r < 4096 then b.rd O.PuntRing r punt else b.rd O.InjectRing (r - 4096) inject

def ringSize (b : Blocks) (r : Nat) : Nat := 2 ^ ringField b r F.PuntRing_SizeLog2 F.InjectRing_SizeLog2

/-- The host address of descriptor `i` (R338). -/
def descAddr (b : Blocks) (r i : Nat) : Nat :=
  ringField b r F.PuntRing_Base F.InjectRing_Base * 4096 + i % ringSize b r * 32

/-- Client identity of a ring (R221): kind 1 for a punt ring, kind 2 for an inject ring. -/
def ringClient (r : Nat) : Nat := if r < 4096 then 0x1000 + r else 0x2000 + (r - 4096)

/-- A ring meets a defect: ERROR until a commit disables and re-enables it (R339). -/
def ringError (r : Nat) (s : State) : State := raise (src 9 1) (s.updRing r fun x => { x with st := 2 })

/-- Signals a ring: the Consumer write-back, then its vector (R336, R347). -/
def ringSignal (r : Nat) (s : State) : State :=
  let wb := ringField s.toBlocks r F.PuntRing_WriteBack F.InjectRing_WriteBack * 8
  let s1 := hostWrite wb (leBytes 4 (s.ring r).cons) s
  (s1.emit (.msix (ringField s.toBlocks r F.PuntRing_Vector F.InjectRing_Vector))).updRing r fun x =>
    { x with unsig := 0, oldest := none }

/-- `n` descriptors of a ring have been completed: Consumer passes them, and the ring signals when its batch is full or
its hold-off is 0 (R338, R347). -/
def ringCompleted (r n : Nat) (s : State) : State :=
  let s1 := s.updRing r fun x =>
    { x with cons := (x.cons + n) % 2 ^ 32, unsig := x.unsig + n, oldest := some (x.oldest.getD s.time.ticks) }
  let batch := ringField s1.toBlocks r F.PuntRing_Batch F.InjectRing_Batch
  let hold := ringField s1.toBlocks r F.PuntRing_HoldoffUs F.InjectRing_HoldoffUs
  if batch ≤ (s1.ring r).unsig ∨ hold = 0 then ringSignal r s1 else s1

/-- RING_INTERRUPT_HOLDOFF: HoldoffUs have passed since a ring's oldest unsignalled completion (R347). -/
def execRingInterruptHoldoff (r : Fin 8192) (s : State) : Out :=
  let x := s.ring r.val
  let hold := ringField s.toBlocks r.val F.PuntRing_HoldoffUs F.InjectRing_HoldoffUs
  match x.oldest with
  | some t => if x.st ≠ 0 ∧ s.busMaster ∧ t + hold * ticksPerUs ≤ s.time.ticks then .next (ringSignal r.val s) else .next s
  | none => .next s

/-- RING_DOORBELL: the host writes a ring's Producer (R338, R339). -/
def execRingDoorbell (r : Fin 8192) (value : BitVec 32) (s : State) : Out :=
  let x := s.ring r.val
  let new := value.toNat
  let bad := s.add64 O.DoorbellErrors 0 0 1
  if x.st = 0 then .next bad
  else if x.st = 2 then .next s
  else if 2 ^ 31 ≤ (new + 2 ^ 32 - x.prod) % 2 ^ 32 ∨ ringSize s.toBlocks r.val < (new + 2 ^ 32 - x.cons) % 2 ^ 32 then
    .next (ringError r.val bad)
  else .next (s.updRing r.val fun x => { x with prod := new })

/-- A ring ends: its indices and completions, the buffers it holds, and the punted packets in them (R223, R339). -/
def endRing (r : Nat) (s : State) : State :=
  let s1 := shelfClientEnd (ringClient r) (s.updRing r fun _ => RingRT.start)
  s1.upHost fun h => { h with punts := h.punts.filter fun p => p.row != r }

/-- A committed row of PuntRing or InjectRing takes effect: enabling starts the ring with both indices 0, disabling
ends it (R339). -/
def ringWritten (r : Nat) (s : State) : State :=
  let on := ringField s.toBlocks r F.PuntRing_Enable F.InjectRing_Enable = 1
  if on then (if (s.ring r).st = 0 then s.updRing r fun _ => { RingRT.start with st := 1 } else s)
  else endRing r s

/-! ### Punt rings (R341) -/

/-- A punt descriptor's completion (Table 14-2). -/
def puntDesc (addr len written : Nat) (p : Pkt) (first last trunc err : Bool) : Nat :=
  let h := p.hdr
  let top := addr * 2 ^ 192 + len * 2 ^ 176 + written * 2 ^ 160 + (p.ptp.getD h.stamp) * 2 ^ 96 + h.length * 2 ^ 82 + h.punt * 2 ^ 76
  let mid := h.srcPort * 2 ^ 68 + h.flowHash * 2 ^ 52 + h.cls * 2 ^ 49 + h.colour * 2 ^ 47 + bit h.sealed * 2 ^ 46
    + bit h.pass * 2 ^ 45
  top + mid + bit first * 2 ^ 44 + bit last * 2 ^ 43 + bit trunc * 2 ^ 42 + h.genTag * 2 ^ 36 + bit err * 2 ^ 35 + 1

/-- One buffer of a packet: its address and length, the bytes written into it, and whether it is too small. -/
structure PuntBuf where
  addr : Nat
  len : Nat
  data : Bytes
  err : Bool
  deriving DecidableEq, Repr

/-- The buffers a packet uses, in order, and the bytes that found none. -/
def fillBuffers : List (Nat × Nat) → Bytes → List PuntBuf × Bytes
  | [], d => ([], d)
  | (a, n) :: t, d =>
    if d.isEmpty then ([], d)
    else if n < 64 then
      let (l, rest) := fillBuffers t d
      (⟨a, n, [], true⟩ :: l, rest)
    else
      let (l, rest) := fillBuffers t (d.drop n)
      (⟨a, n, d.take n, false⟩ :: l, rest)

/-- Writes the completions of one packet: each descriptor used, in ring order. -/
def completePunt (r : Nat) (p : Pkt) (bufs : List PuntBuf) (cut : Bool) (s : State) : State :=
  let n := bufs.length
  let start := (s.ring r).next
  let one := fun (s : State) (e : PuntBuf × Nat) =>
    let (x, i) := e
    let last := decide (i + 1 = n)
    let d := puntDesc x.addr x.len x.data.length p (i == 0) last (last && cut) x.err
    hostWrite (descAddr s.toBlocks r (start + i)) (leBytes 32 d) s
  let s1 := bufs.zipIdx.foldl one s
  ringCompleted r n (s1.updRing r fun x => { x with next := (x.next + n) % 2 ^ 32 })

/-- The first packet for a ring among those that the ring engine holds, and the others. -/
def takePunt (row : Nat) : List PuntPkt → Option (PuntPkt × List PuntPkt)
  | [] => none
  | p :: t =>
    if p.row = row then some (p, t)
    else match takePunt row t with
      | none => none
      | some (x, l) => some (x, p :: l)

/-- A packet of ring `r` is written into the posted buffers, from its Shelf buffer `buf`, and its completion pushed
(R341). The bytes counted include the frame check sequence (R12), of a cut packet those written and the 4 of the sequence
(log 156). -/
def puntWritten (r : Nat) (p : Pkt) (posted : List (Nat × Nat)) (buf : Nat × Nat) (s : State) : State :=
  let whole := p.data.take (p.data.length - 4)
  let limit := s.rd O.PuntRing r F.PuntRing_TruncateBytes
  let body := if limit = 0 then whole else whole.take limit
  let (used, left) := fillBuffers posted body
  let cut := !left.isEmpty || decide (body.length < whole.length)
  let s1 := used.foldl (fun a x => if x.data.isEmpty then a else hostWrite x.addr x.data a) s
  let s2 := completePunt r p used cut s1
  let s3 := s2.add64 O.RingCounters r F.RingCounters_Packets 1
  let s4 := s3.add64 O.RingCounters r F.RingCounters_Bytes (body.length - left.length + 4)
  let s5 := if cut then s4.add64 O.RingCounters r F.RingCounters_Truncated 1 else s4
  let errs := (used.filter (·.err)).length
  shelfRelease (ringClient r) buf.1 buf.2 (s5.add64 O.RingCounters r F.RingCounters_Errors errs)

/-- PUNT_RING_WRITE: the ring engine delivers the oldest packet it holds for a ring into the buffers that the ring's next
posted descriptors name (R341). -/
def execPuntRingWrite (row : Fin 4096) (bufs : List (BitVec 64 × BitVec 16)) (s : State) : Out :=
  let r := row.val
  let posted := (bufs.take (s.ring r).posted).map fun e => (e.1.toNat, e.2.toNat)
  if (s.ring r).st ≠ 1 ∨ !s.busMaster ∨ !s.traffic ∨ posted.isEmpty ∨ s.hbm.change.isSome then .next s
  else match takePunt r s.host.punts with
    | none => .next s
    | some (p, rest) =>
      .next (puntWritten r p.pkt posted p.buf (s.upHost fun h => { h with punts := rest }))

/-! ### Inject rings (R343 to R346) -/

/-- The fields of an inject descriptor (Table 14-4). -/
abbrev injLen (d : Nat) : Nat := bitsOf 191 176 d

abbrev injFirst (d : Nat) : Bool := d.testBit 175

abbrev injLast (d : Nat) : Bool := d.testBit 174

/-- An inject descriptor as completed. -/
def injDone (d status stamp : Nat) : Nat := d / 2 ^ 96 * 2 ^ 96 + stamp * 2 ^ 32 + status * 2 ^ 24 + 1

/-- Writes completions in ring order, as far as the packets at the head are done (R345), unless Bus Master Enable is 0
(R335). -/
def flushComps (r : Nat) : Nat → State → State
  | 0, s => s
  | fuel + 1, s =>
    match (s.ring r).comps with
    | [] => s
    | c :: t =>
      match (if s.busMaster then c.status else none) with
      | none => s
      | some st =>
        let one := fun (s : State) (e : Nat × Nat) =>
          hostWrite (descAddr s.toBlocks r (c.first + e.2)) (leBytes 32 (injDone e.1 st c.stamp)) s
        let s1 := c.descs.zipIdx.foldl one (s.updRing r fun x => { x with comps := t })
        flushComps r fuel (ringCompleted r c.descs.length s1)

/-- A packet's descriptors join the completions of their ring, with their status if it is known. -/
def pushComp (r : Nat) (descs : List Nat) (status : Option Nat) (wants : Bool) (s : State) : State :=
  let x := s.ring r
  let c : Comp := { first := x.next, descs := descs, status := status, stamp := 0, since := s.time.ticks, wants := wants }
  let s1 := s.updRing r fun x => { x with next := (x.next + descs.length) % 2 ^ 32, comps := x.comps ++ [c] }
  flushComps r (s1.ring r).comps.length s1

/-- An offer covers a whole packet, from First to Last, within what Producer posts. -/
def offerWhole (b : Blocks) (o : Offer) : Bool :=
  let r := 4096 + o.row.val
  let d := o.descs.map (·.toNat)
  (b.ring r).st == 1 && !d.isEmpty && decide (d.length ≤ (b.ring r).posted) && injLast (d.getLastD 0) &&
    !(d.dropLast.any fun x => injLast x)

/-- The ring served next: the highest priority, and within it the first row after the one served last (R343). -/
def pickOffer (b : Blocks) (offers : List Offer) : Option Offer :=
  let ready := offers.filter (offerWhole b)
  let prio := fun o : Offer => b.rd O.InjectRing o.row.val F.InjectRing_Priority
  match (ready.map prio).max? with
  | none => none
  | some k =>
    let mine := ready.filter fun o => prio o == k
    let turn := fun o : Offer => (o.row.val + 4096 - (Tbl.get 4095 b.host.served k + 1) % 4096) % 4096
    match (mine.map turn).min? with
    | none => none
    | some t => mine.find? fun o => turn o == t

/-- A descriptor list that the ring engine cannot send (R343, R344). -/
def offerBad (b : Blocks) (row len : Nat) (d : List Nat) : Bool :=
  let h := d.headD 0
  let direct := h.testBit 173
  let port := bitsOf 163 156 h
  !injFirst h || (d.drop 1).any injFirst || d.any (fun x => injLen x == 0) || decide (9212 < len) ||
    (direct && (b.rd O.InjectDirectEnable row 0 == 0 || !(decide (port < 128) || port == 130)))

/-- INJECT_PACKET: the ring engine takes one packet from the rings that offer one and presents it to the ingress
pipelines (R343 to R345). -/
def execInjectPacket (offers : List Offer) (s : State) : Out :=
  if !s.busMaster || !s.traffic || s.hbm.change.isSome then .next s
  else match pickOffer s.toBlocks offers with
    | none => .next s
    | some o =>
      let row := o.row.val
      let r := 4096 + row
      let d := o.descs.map (·.toNat)
      let h := d.headD 0
      let total := d.foldl (fun a x => a + injLen x) 0
      let prio := s.rd O.InjectRing row F.InjectRing_Priority
      let s1 := s.upHost fun x => { x with served := Tbl.put 4095 prio row x.served }
      if offerBad s1.toBlocks row total d then
        .next (pushComp r d (some 2) false (s1.add64 O.RingCounters r F.RingCounters_Errors 1))
      else match shelfAlloc (ringClient r) (max 60 total + 4) s1 with
        | (none, s2) => .next (pushComp r d (some 5) false (s2.add64 O.RingCounters r F.RingCounters_NoShelf 1))
        | (some buf, s2) =>
          let body := (o.data ++ List.replicate (total - o.data.length) 0).take total
          let frame := body ++ List.replicate (60 - body.length) 0
          let wants := h.testBit 172
          let p : InjPkt :=
            { data := frame ++ fcsBytes frame, client := ringClient r
              stampRing := if wants then some (r, (s2.ring r).next) else none
              direct := h.testBit 173
              cls := if h.testBit 173 then bitsOf 170 168 h else s2.rd O.InjectRing row F.InjectRing_Class
              card := bitsOf 167 164 h, port := bitsOf 163 156 h, queue := bitsOf 155 137 h, edit := bitsOf 136 121 h
              launchValid := h.testBit 171, launch := bitsOf 95 32 h, buf := buf }
          let s3 := s2.upFe fun f => { f with inject := f.inject ++ [p] }
          let s4 := s3.add64 O.RingCounters r F.RingCounters_Packets 1
          let s5 := s4.add64 O.RingCounters r F.RingCounters_Bytes (frame.length + 4)
          .next (pushComp r d (if wants then none else some 0) wants s5)

/-- The completion of the packet whose first descriptor is `first` becomes known. -/
def settleComp (r first status stamp : Nat) (s : State) : State :=
  let hit := fun c : Comp => c.wants && c.status.isNone && c.first == first
  let s1 := s.updRing r fun x =>
    { x with comps := updWhere x.comps hit fun c => { c with status := some status, stamp := stamp } }
  flushComps r ((s1.ring r).comps.length + 1) s1

/-- INJECT_TIMESTAMP_COMPLETE: the next timestamped packet has departed, or was discarded (R345). -/
def execInjectTimestampComplete (s : State) : Out :=
  match s.host.departed with
  | [] => .next s
  | (r, first, stamp) :: t =>
    let s1 := s.upHost fun h => { h with departed := t }
    match stamp with
    | some v => .next (settleComp r first 0 v s1)
    | none => .next (settleComp r first 1 0 s1)

/-- INJECT_STAMP_TIMEOUT: the packets of a ring that have waited 25 ms for a departure complete without a stamp (R345). -/
def execInjectStampTimeout (row : Fin 4096) (s : State) : Out :=
  let r := 4096 + row.val
  let late := fun c : Comp => c.wants && c.status.isNone && decide (c.since + 25 * ticksPerMs ≤ s.time.ticks)
  if !(s.ring r).comps.any late then .next s
  else
    let s1 := s.updRing r fun x => { x with comps := updWhere x.comps late fun c => { c with status := some 1, stamp := 0 } }
    .next (flushComps r ((s1.ring r).comps.length + 1) s1)

/-! ### Trolley (R348 to R353) -/

abbrev ChanRT.start : ChanRT := ⟨0, 0, 0, 0, 0, 0⟩

def Blocks.chan (b : Blocks) (c : Nat) : ChanRT := Tbl.get ChanRT.start b.host.chans c

def State.updChan (s : State) (c : Nat) (f : ChanRT → ChanRT) : State :=
  s.upHost fun h => { h with chans := Tbl.put ChanRT.start c (f (Tbl.get ChanRT.start h.chans c)) h.chans }

/-- Who owns a channel: 0 HOST; channels 4 to 31 belong to the host. -/
def chanOwner (b : Blocks) (c : Nat) : Nat := if c < 4 then b.rd O.TrolleyOwner c 0 else 0

/-- The channel that is running. -/
def Blocks.runningChan (b : Blocks) : Option Nat := (List.range 32).find? fun c => (b.chan c).st == 2

/-- A Go with descriptor address `addr` (R348): its status, and its effect. -/
def trolleyGo (c addr : Nat) (s : State) : Status × State :=
  if addr % 64 ≠ 0 then (.range, s)
  else if chanOwner s.toBlocks c ≠ 0 ∨ (s.chan c).st = 1 ∨ (s.chan c).st = 2 then (.busy, s)
  else
    let s1 := s.updChan c fun _ => { ChanRT.start with st := 1, addr := addr, order := s.host.chanNext }
    (.ok, s1.upHost fun h => { h with chanNext := h.chanNext + 1 })

/-- TROLLEY_RUN_START: with no channel running, the READY channel that became ready first starts (R348). -/
def execTrolleyRunStart (s : State) : Out :=
  let ready := (List.range 32).filter fun c => (s.chan c).st == 1
  if s.runningChan.isSome ∨ !s.busMaster then .next s
  else match (ready.map fun c => (s.chan c).order).min? with
    | none => .next s
    | some k => match ready.find? fun c => (s.chan c).order == k with
      | none => .next s
      | some c =>
        .next ((s.updChan c fun x => { x with st := 2, status := 0, bytes := 0, hops := 0 }).add64
          O.TrolleyCounters c F.TrolleyCounters_Runs 1)

/-- Bytes of the staging window and of the telemetry region (Tables 2-12 and 13-1). -/
def spaceBytes (space : Nat) : Nat := if space = 0 then 0x4000000 - 0x40000 else 2 ^ 30

/-- The segments one side of a descriptor names: pairs, or lines. -/
def lineSegs (base len stride count : Nat) : List (Nat × Nat) := (List.range count).map fun i => (base + i * stride, len)

/-- What a descriptor moves: the host segments and the module segments. -/
def trolleySegs (d : Nat) (pairs : List (BitVec 64 × BitVec 32)) : List (Nat × Nat) × List (Nat × Nat) :=
  let host := bitsOf 447 384 d
  let off := bitsOf 351 312 d
  if bitsOf 367 366 d = 0 then
    let ps := (pairs.take (bitsOf 383 368 d)).map fun e => (e.1.toNat, e.2.toNat + 1)
    (ps, [(off, ps.foldl (fun a e => a + e.2) 0)])
  else
    (lineSegs host (bitsOf 287 264 d) (bitsOf 263 232 d) (bitsOf 231 208 d),
      lineSegs off (bitsOf 207 184 d) (bitsOf 183 152 d) (bitsOf 151 128 d))

def segBytes (l : List (Nat × Nat)) : Nat := l.foldl (fun a e => a + e.2) 0

/-- The defects of R350. -/
def trolleyBad (c d : Nat) (host mod_ : List (Nat × Nat)) : Bool :=
  let mode := bitsOf 367 366 d
  let space := bitsOf 365 364 d
  let n := bitsOf 383 368 d
  decide (2 ≤ mode) || decide (2 ≤ space) || (decide (4 ≤ c) && (mode == 1 || space == 1)) ||
    mod_.any (fun e => decide (spaceBytes space < e.1 + e.2)) ||
    (mode == 0 && (n == 0 || decide (4096 < n))) ||
    (mode == 1 && (segBytes host != segBytes mod_ || bitsOf 287 264 d == 0 || decide (bitsOf 263 232 d < bitsOf 287 264 d) ||
      decide (bitsOf 183 152 d < bitsOf 207 184 d)))

/-- Writes bytes into segments, in order. -/
def memScatter (m : List Host.Cell) : List (Nat × Nat) → Bytes → List Host.Cell
  | [], _ => m
  | (a, n) :: t, d => memScatter (memWrite m a (d.take n)) t (d.drop n)

/-- The module space a descriptor names. -/
def spaceOf (b : Blocks) (space : Nat) : List Host.Cell := if space = 0 then b.host.staging else b.tel.region

def setSpace (space : Nat) (m : List Host.Cell) (s : State) : State :=
  if space = 0 then s.upHost fun h => { h with staging := m } else s.upTel fun t => { t with region := m }

/-- The write-back of a descriptor: BytesDone, Status and Done in its last 8 bytes of layout, stored little-endian. -/
def trolleyWriteBack (addr bytes status : Nat) (s : State) : State :=
  hostWrite addr (leBytes 8 (bytes * 2 ^ 24 + status * 2 ^ 16 + 1)) s

/-- A channel's run ends (R349, R352, R353). -/
def trolleyEnd (c status : Nat) (s : State) : State :=
  let s1 := s.updChan c fun x => { x with st := if status = 0 then 3 else 4, status := status }
  match status with
  | 1 => s1.add64 O.TrolleyCounters c F.TrolleyCounters_DescLimit 1
  | 2 => s1.add64 O.TrolleyCounters c F.TrolleyCounters_NoResponse 1
  | 3 => s1.add64 O.TrolleyCounters c F.TrolleyCounters_HostError 1
  | _ => s1

/-- Moves the bytes of a good descriptor (R350, R351). -/
def trolleyMove (d : Nat) (host mod_ : List (Nat × Nat)) (data : Bytes) (s : State) : State :=
  let space := bitsOf 365 364 d
  if d.testBit 363 then
    let bytes := (mod_.map fun e => memRead (spaceOf s.toBlocks space) e.1 e.2).flatten
    (host.foldl (fun (a : Bytes × State) e => (a.1.drop e.2, funnelWrite e.1 (a.1.take e.2) a.2)) (bytes, s)).2
  else
    let total := segBytes host
    let bytes := (data ++ List.replicate (total - data.length) 0).take total
    setSpace space (memScatter (spaceOf s.toBlocks space) mod_ bytes) s

/-- Moves the bytes of a descriptor whose reads failed after `data`: beyond them the module bytes are undefined, a free
value each (R353, log 60). -/
def trolleyPart (d : Nat) (host mod_ : List (Nat × Nat)) (data : Bytes) (s : State) : State :=
  if d.testBit 363 then s
  else
    let (k, s1) := s.fresh
    let rest := (List.range (segBytes host - data.length)).map fun i => Config.undefinedByte k i
    trolleyMove d host mod_ (data ++ rest) s1

/-- TROLLEY_DESCRIPTOR_DONE: the running channel has followed its next descriptor, read as `desc`, with the pairs of its
list and, towards the module, the host bytes (R349 to R352). -/
def execTrolleyDescriptorDone (desc : BitVec 512) (pairs : List (BitVec 64 × BitVec 32)) (data : Bytes) (s : State) : Out :=
  match s.runningChan with
  | none => .next s
  | some c =>
    if !s.busMaster then .next s
    else
      let d := desc.toNat
      let addr := (s.chan c).addr
      let next := bitsOf 511 448 d
      let (host, mod_) := trolleySegs d pairs
      let s1 := s.updChan c fun x => { x with hops := x.hops + 1 }
      let done := fun (s : State) => raiseIf (d.testBit 362) (src 9 2) s
      if trolleyBad c d host mod_ then .next (done (trolleyEnd c 4 (trolleyWriteBack addr 0 4 s1)))
      else
        let n := segBytes host
        let s2 := (trolleyMove d host mod_ data s1).add64 O.TrolleyCounters c F.TrolleyCounters_Bytes n
        let s3 := s2.updChan c fun x => { x with bytes := x.bytes + n, addr := next }
        let tooMany := next ≠ 0 ∧ s3.sc O.TrolleyHopLimit ≤ (s3.chan c).hops
        let status := if tooMany then 1 else 0
        let s4 := done (trolleyWriteBack addr n status s3)
        .next (if tooMany then trolleyEnd c 1 s4 else if next = 0 then trolleyEnd c 0 s4 else s4)

/-- A channel stops: READY returns to IDLE, a running one stops with ABORTED (R335, R353). -/
def trolleyHalt (c : Nat) (s : State) : State :=
  match (s.chan c).st with
  | 1 => s.updChan c fun x => { x with st := 0 }
  | 2 => trolleyEnd c 5 s
  | _ => s

/-- A write of `c` to TrolleyStop (R353): the descriptor that a running channel would move next carries the error that ended
the run (R349, log 181). -/
def trolleyStop (c : Nat) (s : State) : State :=
  trolleyHalt c (if (s.chan c).st = 2 ∧ s.busMaster then trolleyWriteBack (s.chan c).addr 0 5 s else s)

/-! ### Failed reads (R337, R346, R353) -/

/-- A host read failed: `status` 3 or 2 for no response and 4 or 3 for a host error, as rings and Trolley code it. -/
def readFailed (who : Reader) (f : ReadFail) (s : State) : State :=
  let field := match f with | .noResponse => F.PcieErrorCounters_Timeouts | .hostError => F.PcieErrorCounters_HostErrors
  let s1 := raise (src 9 3) (s.add64 O.PcieErrorCounters 0 field 1)
  match who with
  | .ring r descs =>
    if (s1.ring r.val).st ≠ 1 then s1
    else
      let st := match f with | .noResponse => 3 | .hostError => 4
      let d := (descs.map (·.toNat)).take (s1.ring r.val).posted
      let s2 := s1.add64 O.RingCounters r.val F.RingCounters_Errors 1
      let s3 := if r.val < 4096 ∨ d.isEmpty then s2 else pushComp r.val d (some st) false s2
      ringError r.val s3
  | .channel desc pairs data =>
    match s1.runningChan with
    | none => s1
    | some c =>
      let st := match f with | .noResponse => 2 | .hostError => 3
      let (host, mod_) := trolleySegs desc.toNat pairs
      let n := min data.length (segBytes host)
      let s2 := if trolleyBad c desc.toNat host mod_ then s1 else trolleyPart desc.toNat host mod_ (data.take n) s1
      let s3 := (s2.updChan c fun x => { x with bytes := x.bytes + n }).add64 O.TrolleyCounters c F.TrolleyCounters_Bytes n
      raiseIf (desc.toNat.testBit 362) (src 9 2) (trolleyEnd c st (trolleyWriteBack (s1.chan c).addr n st s3))

/-- PCIE_COMPLETION_TIMEOUT: a read got no completion within PcieCompletionTimeout (R337). -/
def execPcieCompletionTimeout (who : Reader) (s : State) : Out := .next (readFailed who .noResponse s)

/-- PCIE_HOST_ERROR: a read was answered with an error or with poisoned data (R337). -/
def execPcieHostError (who : Reader) (s : State) : Out := .next (readFailed who .hostError s)

/-- PCIE_LINK_UP: the link has trained at a speed of 1 to 5 and a width (R332). -/
def execPcieLinkUp (speed : Fin 5) (width : Fin 4) (s : State) : Out :=
  let s1 := s.wr O.PcieLinkStatus 0 F.PcieLinkStatus_Speed (speed.val + 1)
  .next (s1.wr O.PcieLinkStatus 0 F.PcieLinkStatus_Width (2 ^ width.val))

/-- Bus Master Enable is set: the messages held are sent, and the completions that wait are written (R335). -/
def busMasterSet (s : State) : State :=
  let s1 := s.host.msixHeld.foldl (fun a v => sendMsix v a) (s.upHost fun h => { h with msixHeld := [] })
  s1.host.rings.foldl (fun a e => flushComps e.1 ((a.ring e.1).comps.length) a) s1

/-- BUS_MASTER_ENABLE: the host sets or clears Bus Master Enable; rings and channels pause and resume where they stand
(R335). -/
def execBusMasterEnable (on_ : Bool) (s : State) : Out :=
  let s1 := s.wr O.PcieLinkStatus 0 F.PcieLinkStatus_BusMasterEnable (bit on_)
  .next (if on_ then busMasterSet s1 else s1)

/-- What R335 does to rings, channels, their buffers and the messages held. -/
def hostReset (s : State) : State :=
  let rings := s.host.rings.map (·.1)
  let s1 := rings.foldl (fun a r => endRing r a) (s.upHost fun h => { h with msixHeld := [] })
  let stop := fun (a : State) (c : Nat) =>
    if chanOwner a.toBlocks c = 0 then shelfClientEnd (0x3000 + c) (trolleyHalt c a) else a
  (List.range 32).foldl stop s1

end Sys2Proof.Machine
end

