-- ==== Sys2Proof/Machine/Session.lean ====
section
/-! DEFINITION. Sessions (R38 to R41), responses and their wire form (R62 to R66), the response buffers of mailbox slots
(R77), NOTIFY queues (R70), and the end of a transaction, a wait and a session (R39, R53, R55, R58). -/
namespace Sys2Proof.Machine

/-! ### Who may do what -/

/-- LifeCycleState. -/
def Blocks.life (b : Blocks) : Nat := b.sc O.LifeCycleState

/-- The role code of a session (Table 2-4): mailbox and BAR0 sessions hold the role of R374 and R447; 0 is no role. -/
def roleOf (b : Blocks) (x : Sess) : Nat :=
  match x.kind with
  | .bar0 | .mailbox =>
    if b.boot.phase = 9 then (if x.id = .mailbox 0 then 3 else 0)
    else if b.life = 0 then 4
    else if b.life = 4 then 1
    else b.sc O.HostRole
  | _ => x.role

/-- A set of roles, bit n for role n + 1, holds `role`. -/
def roleIn (set role : Nat) : Bool := decide (1 ≤ role) && set.testBit (role - 1)

/-- Bureau, or ROM in RECOVERY, serves sessions (R440, R441, R446, R447). -/
def Blocks.served (b : Blocks) : Bool := decide (6 ≤ b.boot.phase)

/-- The row of NetAddress that holds the address of a port (Table 2-14). -/
def addressRow : NetPort → Nat
  | .mgmtA => 0
  | .mgmtB => 1
  | .line _ => 2

/-- The address that an association is sent to is configured (R80, log 144). -/
def hasAddress (b : Blocks) (a : Arrival) : Bool :=
  b.rd O.NetAddress (addressRow a.port) (if a.v6 then F.NetAddress_Ipv6Len else F.NetAddress_Ipv4Len) != 0

/-- The association comes in-band. -/
def isInband (a : Arrival) : Bool := match a.port with | .line _ => true | _ => false

/-- ZOA is served on the way that an association comes: at the UDP port of the last module reset (R61), on a management
port, or on the line port InbandPort while it carries and InbandEnable is 1 (R78). -/
def zoaServed (b : Blocks) (a : Arrival) : Bool :=
  b.served && b.boot.phase != 9 && b.life != 4 && a.udp.toNat == b.boot.zoaPort && hasAddress b a &&
    match a.port with
    | .line p => b.sc O.InbandEnable == 1 && b.sc O.InbandPort == p.val && b.carrying p.val
    | _ => true

/-- Cleartext ZOA is accepted: on a management port, outside OPERATIONAL and DECOMMISSIONED, while ZoaCleartextEnable is 1
(R61, R78). -/
def cleartextOk (b : Blocks) (a : Arrival) : Bool :=
  !isInband a && b.life != 2 && b.life != 4 && b.sc O.ZoaCleartextEnable == 1

/-- Requests of a session reach the module: a ZOA session's while its way carries ZOA, and cleartext ones while cleartext is
accepted (R61, R78, R80). -/
def Sess.reached (b : Blocks) (x : Sess) : Bool :=
  match x.kind with
  | .bar0 | .mailbox => b.served
  | k => x.net.any fun a => zoaServed b a && (k != .cleartext || cleartextOk b a)

/-- The mailbox slot of a session. -/
def slotOf : SessId → Option Nat
  | .mailbox k => some k.val
  | _ => none

/-- Changes a mailbox slot. -/
def State.updMbox (s : State) (k : Nat) (f : Mbox → Mbox) : State :=
  { s with mbox := s.mbox.zipIdx.map fun e => if e.2 = k then f e.1 else e.1 }

/-! ### Wire form of responses (R65, R66) -/

/-- An item: its 12-byte header, its value and the padding to a multiple of 4. -/
def itemBytes (i : RItem) : Bytes :=
  let n := i.val.length
  beBytes 12 (i.obj * 2 ^ 76 + i.typ * 2 ^ 64 + i.row * 2 ^ 32 + i.fld * 2 ^ 24 + i.status * 2 ^ 16 + n)
    ++ i.val ++ List.replicate (ceilDiv n 4 * 4 - n) 0

/-- A message of the module: operation code as sent, status, flags, RequestId, Context and items. -/
def messageBytes (op status flags rid ctx : Nat) (items : List RItem) : Bytes :=
  let body := (items.map itemBytes).flatten
  beBytes 16 (1 * 2 ^ 120 + op * 2 ^ 112 + status * 2 ^ 104 + flags * 2 ^ 96 + rid * 2 ^ 64 + ctx * 2 ^ 48
    + items.length * 2 ^ 32 + body.length * 2 ^ 16) ++ body

/-- A response on the wire. Of the flags it carries More alone (DEDUCED, log 116). -/
def respBytes (r : Resp) : Bytes := messageBytes (0x80 + r.op) r.status (bit r.more * 128) r.rid r.ctx r.items

/-- A NOTIFY on the wire. -/
def noteBytes (n : Note) : Bytes := messageBytes 0x31 0 0 n.seq 0 n.items

/-- The longest prefix of the items that a message of `limit` bytes holds. -/
def fitItems (limit : Nat) : List RItem → List RItem
  | [] => []
  | i :: t =>
    let n := (itemBytes i).length
    if n ≤ limit then i :: fitItems (limit - n) t else []

/-! ### Delivery -/

/-- Puts a message in a slot's response buffer: the buffer is the host's, Done is set with a Sequence, and the completion
source is raised (R77). -/
def placeInSlot (k seq : Nat) (data : Bytes) (s : State) : State :=
  raise (src 9 0) (s.updMbox k fun m =>
    { m with busy := none, done := true, doneSeq := seq, respLen := data.length, respBuf := data, hostOwns := true })

/-- The session has carried a message now (R39). -/
def State.heard (s : State) (id : SessId) : State := s.updSess id fun x => { x with last := s.time.ticks }

/-- Sends a response once. A mailbox slot takes it in its buffer. -/
def deliver (id : SessId) (r : Resp) (s : State) : State :=
  let s1 := (s.heard id).emit (.resp id r)
  match slotOf id with
  | some k =>
    match (s1.mbox[k]?).bind (·.busy) with
    | some seq => placeInSlot k seq (respBytes r) s1
    | none => s1
  | none => s1

/-- Delivers a response `n` times. -/
def deliverN (id : SessId) (r : Resp) : Nat → State → State
  | 0, s => s
  | n + 1, s => deliverN id r n (deliver id r s)

/-- The response of a request completes: it is cut to what its message holds, kept among the last 64, and sent once for
the request and once for each repeat of it received meanwhile (R62, R64). BAR0 has no responses. -/
def respond (id : SessId) (op rid ctx : Nat) (small : Bool) (status : Status) (items : List RItem) (s : State) : State :=
  if id = .bar0 then s
  else
    let fit := fitItems ((if small then 1400 else 9000) - 16) items
    let r : Resp :=
      { op := op, status := status.code, more := decide (fit.length < items.length), small := small, rid := rid
        ctx := ctx, items := fit }
    let repeats := match s.sess? id with
      | some x => ((x.running.find? fun e => e.1 == rid).map (·.2)).getD 0
      | none => 0
    let keep := fun (x : Sess) =>
      { x with kept := (rid, r) :: x.kept.take 63, running := x.running.filter fun e => e.1 != rid }
    deliverN id r (1 + repeats) (s.updSess id keep)

/-- Runs a request of a session unless it repeats one that is kept or still runs (R64). -/
def request (q : Req) (run : Sess → State → State) (s : State) : State :=
  match s.sess? q.sess with
  | none => s
  | some x =>
    if q.sess = .bar0 ∨ !x.reached s.toBlocks then s
    else
      let rid := q.rid.toNat
      let s1 := s.heard q.sess
      match x.kept.find? fun e => e.1 == rid with
      | some (_, r) => deliver q.sess r s1
      | none =>
        if x.running.any fun e => e.1 == rid then
          s1.updSess q.sess fun y => { y with running := updWhere y.running (fun e => e.1 == rid) fun e => (e.1, e.2 + 1) }
        else run { x with last := s.time.ticks } s1

/-- A NOTIFY of a session: numbered, and put into its send queue; with 64 waiting it is dropped and counted (R70). -/
def notify (id : SessId) (items : List RItem) (s : State) : State :=
  match s.sess? id with
  | none => s
  | some x =>
    let seq := (x.noteSeq + 1) % 2 ^ 32
    let n : Note := ⟨seq, items⟩
    let s1 := s.updSess id fun y => { y with noteSeq := seq }
    if 64 ≤ x.sendq.length then raise (src 9 10) (s1.add64 O.NotifyDropped 0 0 1)
    else s1.updSess id fun y => { y with sendq := y.sendq ++ [n] }

/-- The send queue of a network session leaves, oldest first; a mailbox slot's waits for its response buffer (R77). -/
def sendNotes (id : SessId) (s : State) : State :=
  match s.sess? id with
  | none => s
  | some x =>
    if (slotOf id).isSome || x.sendq.isEmpty then s
    else x.sendq.foldl (fun a n => a.emit (.note id n)) ((s.heard id).updSess id fun y => { y with sendq := [] })

/-! ### Transactions -/

/-- The value of TxnStatus that a session reads (Table 2-6). -/
def txnStatus (x : Sess) : Nat :=
  match x.txn with
  | none => x.ended.st * 2 ^ 56 + x.ended.status * 2 ^ 48 + (if x.ended.st = 0 then 0 else x.ended.handle) * 2 ^ 32
      + x.ended.failedObj * 2 ^ 8
  | some t =>
    let st := match t.st with
      | .open_ => 1
      | .pending => 2
      | .waiting => 3
      | .failed => 6
    st * 2 ^ 56 + t.lastStatus * 2 ^ 48 + t.handle * 2 ^ 32 + t.failedObj * 2 ^ 8 + min 64 (ceilDiv t.bytes 1048576)

/-- The response item of TxnStatus. -/
def txnItem (x : Sess) : RItem := ⟨O.TxnStatus, 0x13, 0, 0, 0, beBytes 8 (txnStatus x)⟩

/-- A session's TxnStatus item as it stands in a state. -/
def txnItems (id : SessId) (s : State) : List RItem :=
  match s.sess? id with
  | some x => [txnItem x]
  | none => []

/-- The transaction of a session ends, applied (4) or aborted (5): its Shelf buffers are free and TxnStatus says so; an
announced page swap is withdrawn (R55, R56, R223, R272). -/
def endTxn (id : SessId) (st : Nat) (status : Status) (s : State) : State :=
  match s.sess? id with
  | none => s
  | some x =>
    match x.txn with
    | none => s
    | some t =>
      let s1 := s.updSess id fun y => { y with txn := none, ended := ⟨st, status.code, t.handle, t.failedObj⟩ }
      let swaps := st == 5 && t.st == .pending && t.staged.any fun w => w.obj == O.MeshPageSwap
      shelfClientEnd x.client (if swaps then s1.upMesh fun m => { m with swap := none } else s1)

/-- What BarLastStatus shows once a BAR0 operation on object `obj` has ended with a status (Table 2-11). -/
def barDone (st : Status) (obj : Nat) (s : State) : State :=
  (s.wr O.BarLastStatus 0 F.BarLastStatus_Status st.code).wr O.BarLastStatus 0 F.BarLastStatus_Object obj

/-- The answer to a request that commits (R48, R53): TxnStatus for TXN_COMMIT, else the items of the write as they stand in
the request; nothing for a commit inside a message that was answered before. BAR0 has BarLastStatus in its place. -/
def replyWait (w : Wait) (st : Status) (s : State) : State :=
  if w.sess = .bar0 then barDone st (if w.direct then (w.writes.getLast?.map (·.obj)).getD 0 else O.TxnCommit) s
  else if w.op = 0xFF then s
  else respond w.sess w.op w.rid w.ctx w.small st (if w.op = 0x11 then txnItems w.sess s else w.items) s

/-- The request with a status on the items that `p` picks. -/
def Wait.mark (w : Wait) (p : RItem → Bool) (st : Status) : Wait :=
  { w with items := updWhere w.items p fun i => { i with status := st.code } }

/-- The waiting commit request of a session's transaction is answered with BUSY (R53). -/
def dropWait (id : SessId) (s : State) : State :=
  match s.waits.find? fun w => w.sess == id && !w.direct with
  | none => s
  | some w => replyWait (w.mark (fun i => i.status == 0) .busy) .busy { s with waits := s.waits.filter fun v => v.order != w.order }

/-- A transaction is aborted by its owner or by the module: a wait ends, and so does the transaction (R51, R53, R55). -/
def abortTxn (id : SessId) (status : Status) (s : State) : State := dropWait id (endTxn id 5 status s)

/-! ### Snapshots and sessions -/

/-- Bytes of the copies of committed units that a snapshot holds. -/
def copiedBytes (l : List CUnit) : Nat := l.foldl (fun a u => a + ((objInfo? u.obj).map (·.width)).getD 0) 0

/-- A counter or status value, which Tallboy shadows: of class V, and written by no session (R57, R362). -/
def shadowed (obj : Nat) : Bool := match objInfo? obj with | some o => o.pers == 0 && o.wr == 0 | none => false

/-- Bytes of the shadows that a snapshot's latch context holds: 8 for each value that has changed since the latch (R362,
log 145). -/
def shadowBytes (old now : Tbl Nat) : Nat :=
  8 * (((old ++ now).map (·.1)).dedup.filter fun k => shadowed (k / 2 ^ 40) && getKey old k != getKey now k).length

/-- The copies that a snapshot holds stay within 64 MiB (R58). -/
def Snap.fits (b : Blocks) (n : Snap) : Bool :=
  decide (copiedBytes n.copied + shadowBytes n.blocks.store b.store ≤ 67108864)

/-- The snapshot of a session, unless its copies have passed 64 MiB (R58). -/
def Sess.liveSnap (b : Blocks) (x : Sess) : Option Snap := x.snap.filter fun n => n.fits b

/-- What a session has asked by its own objects. -/
def Sess.asked (x : Sess) : Queries := ⟨x.routeQ, x.exactQ, x.schedQ, x.range⟩

/-- A snapshot ends (R58). -/
def endSnap (id : SessId) (s : State) : State := s.updSess id fun x => { x with snap := none }

/-- A session lets go of its event banks (R359). -/
def releaseBanks (client : Nat) (s : State) : State :=
  (List.range 10).foldl (fun a b =>
    if a.rd O.EventBanks b F.EventBanks_Owner = client then a.wr O.EventBanks b F.EventBanks_Owner 0xFFFF else a) s

/-- What a session holds is released at its end: its transaction, unless its timed commit has been accepted, its waits,
its snapshot, its buffers and banks (R39, R53, R223, R359). A firmware load it owns is ended by `closeSession`. -/
def releaseSession (id : SessId) (s : State) : State :=
  match s.sess? id with
  | none => s
  | some x =>
    let keep := match x.txn with
      | some t => if t.st = .pending ∨ (t.st = .waiting ∧ t.genKept) then [(x.client, roleOf s.toBlocks x, t)] else []
      | none => []
    let s1 := { s with waits := s.waits.filter fun w => w.sess != id, orphans := s.orphans ++ keep }
    let s2 := s1.updSess id fun y => { newSess y.id y.kind y.role y.client s.time.ticks y.cred with net := y.net }
    releaseBanks x.client (shelfClientEnd x.client s2)

/-- A ZOA session is gone; BAR0 and mailbox sessions begin anew. -/
def removeSession (id : SessId) (s : State) : State :=
  match id with
  | .zoa _ => { s with sessions := s.sessions.filter fun x => x.id != id }
  | .bar0 => { s with barq := [] }
  | .mailbox k => s.updMbox k.val fun _ => Mbox.start

/-- The sessions of ZOA. -/
def State.zoaSessions (s : State) : List Sess :=
  s.sessions.filter fun x => match x.id with | .zoa _ => true | _ => false

/-- Transactions in the module: open, pending and waiting (R46). A direct write is no transaction of its session, and while
its commit waits it is not counted (DESIGN CHOICE, log 173). -/
def State.txnsOpen (s : State) : Nat := (s.sessions.filter fun x => x.txn.isSome).length + s.orphans.length

/-- Snapshots in the module. -/
def State.snapsOpen (s : State) : Nat := (s.sessions.filter fun x => (x.liveSnap s.toBlocks).isSome).length

end Sys2Proof.Machine
end

