-- ==== Sys2Proof/Machine/Hbm.lean ====
section
/-! DEFINITION. The HBM controller (chapter 13): temperature and refresh, scrubbing and the handling of bad words (R122),
frequency changes, training, retraining, the wipe, service mode. -/
namespace Sys2Proof.Machine

/-! ### Bring-up phases (R440, R446) -/

/-- The module enters a bring-up phase: BringUpTimes records the instant in µs. -/
def enterPhase (n : Nat) (s : State) : State :=
  (s.upBoot fun b => { b with phase := n }).wr O.BringUpTimes n 0 (s.time.ticks / ticksPerUs % 2 ^ 32)

/-- HOLD with its reason (R446). -/
def enterHold (reason : Nat) (s : State) : State := enterPhase 8 (s.upBoot fun b => { b with hold := reason })

/-- A wipe verification has failed in a region of Table 16-5, or in Chest (4): Failed is set and the audit log says so
(R383, R385). -/
def wipeFailed (region : Nat) (s : State) : State :=
  let s1 := s.wr O.WipeStatus 0 F.WipeStatus_Failed 1
  let s2 := s1.wr O.WipeStatus 0 F.WipeStatus_FailedRegion region
  auditEntry .wipe 0xFFFF 0 0 0 0 0 0 s2

/-! ### Temperature and refresh (R321, R322) -/

/-- The refresh rate of a stack temperature (Table 13-4). -/
def refreshRate (celsius : Nat) : Nat := if celsius ≤ 85 then 1 else if celsius ≤ 95 then 2 else 4

/-- The temperature up to which the next lower rate holds. -/
def lowerThreshold (rate : Nat) : Nat := if rate = 4 then 95 else 85

/-- HBM_TEMPERATURE_SAMPLE: the rate rises at once, and falls one step after 1 s at 2 °C below its lower threshold; it
takes effect at the next interval boundary. -/
def execHbmTemperatureSample (celsius : BitVec 8) (s : State) : Out :=
  let t := celsius.toNat
  let now := s.time.ticks
  let step := fun h : HbmRT =>
    if h.rateNext < refreshRate t then { h with rateNext := refreshRate t, coolSince := none }
    else if 1 < h.rateNext ∧ t + 2 ≤ lowerThreshold h.rateNext then
      let since := h.coolSince.getD now
      if since + ticksPerS ≤ now then { h with rateNext := h.rateNext / 2, coolSince := none }
      else { h with coolSince := some since }
    else { h with coolSince := none }
  .next (raiseIf (decide (105 < t)) (src 8 8) ((s.ws O.HbmTemperature t).upHbm step))

/-- `n` banks of a pseudo-channel have been refreshed. -/
def countRefresh (n pc : Nat) (h : HbmRT) : HbmRT :=
  { h with refreshes := Tbl.put 0 pc (Tbl.get 0 h.refreshes pc + n) h.refreshes }

/-- HBM_REFRESH: an interval boundary of a pseudo-channel: a decided rate and a written mode take effect, and the next
bank, or in mode ALL_BANK every bank, is refreshed. -/
def execHbmRefresh (pc : Fin 16) (s : State) : Out :=
  let mode := s.sc O.HbmRefreshMode
  let n := if mode = 0 then 1 else 32
  .next (((s.ws O.HbmRefreshRate s.hbm.rateNext).upHbm fun h => { h with modeNow := mode }).upHbm (countRefresh n pc.val))

/-! ### Errors by region (R122, R318) -/

abbrev telemetryBase : Nat := 0x340000000

abbrev shelfBase : Nat := 0x380000000

abbrev bureauBase : Nat := 0x3C0000000

/-- The training rows: the top 16 KiB of the Bureau region, row 32,767 of bank 31 in each pseudo-channel, which only
training and retraining use; Bureau's usable region ends below them (R314). -/
abbrev trainingBase : Nat := 0x3FFFFC000

/-- Bytes of a dump: header and body (R364). -/
def dumpBytes (b : Blocks) (k : Nat) : Nat :=
  64 + if b.rd O.TallboyDump k F.TallboyDump_Kind = 0 then 33554432 else 16 * b.rd O.TallboyDump k F.TallboyDump_ListCount

/-- A slot of a dump area, rounded up to 64 KiB. -/
def dumpSlot (b : Blocks) (k : Nat) : Nat := ceilDiv (dumpBytes b k) 65536 * 65536

/-- Where a dump area begins in the telemetry region. -/
def dumpArea (b : Blocks) (k : Nat) : Nat := b.rd O.TallboyDump k F.TallboyDump_AreaOffset * 65536

/-- A dump in the region that holds byte `off` is marked invalid: Valid of its header becomes 0. -/
def invalidateDump (off k : Nat) (s : State) : State :=
  let size := dumpSlot s.toBlocks k
  let area := dumpArea s.toBlocks k
  let slots := s.rd O.TallboyDump k F.TallboyDump_Slots
  if s.rd O.TallboyDump k F.TallboyDump_Enable = 1 ∧ area ≤ off ∧ off < area + slots * size then
    let a := area + (off - area) / size * size + 5
    s.upTel fun t => { t with region := memWrite t.region a [memByte t.region a &&& 0xF7] }
  else s

/-- A record of the sample buffer is marked invalid: Valid becomes 0. -/
def invalidateSample (i : Nat) (s : State) : State :=
  let mark := fun d : Bytes => putBe d 1 1 (byteAt d 1 &&& 0xDF)
  s.upTel fun t => { t with samples := t.samples.zipIdx.map fun e =>
    if e.2 = i then (e.1.1, e.1.2.1, mark e.1.2.2) else e.1 }

/-- A Shelf buffer holds a bad word: the transaction that owns it fails, or the punt or inject packet in it is dropped and
counted as a ring drop, which is NoShelf of its ring (R122, log 160). -/
def loseBuffer (pool n : Nat) (s : State) : State :=
  match s.shelf.owned.find? fun o => o.1 == pool && o.2.1 == n with
  | none => s
  | some (_, _, client) =>
    match client / 4096 with
    | 4 =>
      match s.sessions.find? fun x => x.client == client && x.txn.isSome with
      | some x => abortTxn x.id .busy s
      | none => shelfClientEnd client { s with orphans := s.orphans.filter fun o => o.1 != client }
    | 2 =>
      match s.fe.inject.find? fun p => p.buf == (pool, n) with
      | none => s
      | some p =>
        let s1 := s.upFe fun f => { f with inject := f.inject.filter fun x => x.buf != (pool, n) }
        let s2 := shelfRelease client pool n (s1.add64 O.RingCounters (client % 4096 + 4096) F.RingCounters_NoShelf 1)
        match p.stampRing with
        | some (r, first) => settleComp r first 1 0 s2
        | none => s2
    | 1 =>
      match s.host.punts.find? fun p => p.buf == (pool, n) with
      | none => s
      | some p =>
        let s1 := s.upHost fun h => { h with punts := h.punts.filter fun x => x.buf != (pool, n) }
        shelfRelease client pool n (noteDiscard p.pkt (s1.add64 O.RingCounters p.row F.RingCounters_NoShelf 1))
    | _ => s

/-- An uncorrectable word of the stack handled by its region; a word of a training row belongs to no region of R122. -/
def hbmBadWord (a : Nat) (holds : Holds) (s : State) : State :=
  if trainingBase ≤ a then s else
  let s1 := hbmEvent s
  if a < telemetryBase then
    let page := a / 2048
    match s1.tm.queues.find? fun e => e.2.any fun i => i.pages.contains page with
    | some (q, _) => losePage q page s1
    | none => s1
  else if a < shelfBase then
    let s2 := (List.range 8).foldl (fun x k => invalidateDump (a - telemetryBase) k x) s1
    match holds with
    | .sample i => invalidateSample i.toNat s2
    | _ => s2
  else if a < bureauBase then
    match holds with
    | .shelf p n => loseBuffer p.val n.toNat s1
    | _ => s1
  else s1

/-- One erroneous word that a requester of class `cls` read (R318). -/
def hbmWord (cls unit : Nat) (w : EccWord) (s : State) : State :=
  let a := unit * 32 + w.word.val * 8
  if w.bad then hbmBadWord a w.holds (hbmNote cls a (.bad 0 w.syndrome) s)
  else hbmNote cls a (.corrected 0 w.syndrome) s

/-- HbmTrainStatus State. -/
def Blocks.hbmState (b : Blocks) : Nat := b.rd O.HbmTrainStatus 0 F.HbmTrainStatus_State

def setHbmState (v : Nat) (s : State) : State := s.wr O.HbmTrainStatus 0 F.HbmTrainStatus_State v

/-- A scrub period in ticks. -/
def scrubPeriod (b : Blocks) : Nat := b.sc O.HbmScrubPeriod * ticksPerS

/-- The pass is behind schedule: the fraction of the period elapsed exceeds the fraction of the stack scrubbed by more than
0.1 (R320). -/
def scrubBehind (b : Blocks) : Bool :=
  decide (b.hbm.scrubUnit * scrubPeriod b * 10 + scrubPeriod b * 2 ^ 29 < (b.time.ticks - b.hbm.scrubStart) * 2 ^ 29 * 10)

/-- The arbiter's priority number of a requester class (Table 13-3): scrub's is 7, and 2 while a pass is behind (R315).
Training, retraining and wipe have the stack to themselves. -/
def hbmPriority (b : Blocks) (cls : Nat) : Nat :=
  if cls = 6 ∧ scrubBehind b then 2 else [4, 3, 1, 2, 5, 6, 7, 0].getD cls 0

/-- The arbiter of a pseudo-channel serves class `cls` before every waiting request of another class: the lowest priority
number goes first (R315). Which of two classes with the number 2 goes first the spec leaves open: scrub (log 161). -/
def hbmServes (b : Blocks) (cls : Nat) (waiting : List (Fin 8)) : Bool :=
  waiting.all fun w => decide (hbmPriority b cls ≤ hbmPriority b w.val)

/-- HBM_SCRUB_STEP: the scrubber's request for the next 32-byte unit stands beside those that wait at that unit's
pseudo-channel. When the arbiter serves it, the unit is read, its erroneous words are handled, and a corrected one is
rewritten (R315, R319); a pass starts once in a period. -/
def execHbmScrubStep (turn : ScrubTurn) (s : State) : Out :=
  if !(s.flag O.HbmScrubEnable 0 0) || !(s.hbmState == 3 || s.hbmState == 5) || s.hbm.change.isSome ||
      !hbmServes s.toBlocks 6 turn.waiting || decide (s.time.ticks < s.hbm.scrubStart) then .next s
  else
    let u := s.hbm.scrubUnit
    let s1 := turn.words.foldl (fun a w => hbmWord 6 u w a) s
    if u + 1 < 2 ^ 29 then .next (s1.upHbm fun h => { h with scrubUnit := u + 1 })
    else .next ((s1.sat32 O.HbmScrubPass 0 0 1).upHbm fun h =>
      { h with scrubUnit := 0, scrubStart := max (h.scrubStart + scrubPeriod s.toBlocks) s.time.ticks })

/-! ### Frequency change (R323 to R325) -/

abbrev hbmFreq (b : Blocks) : Nat := b.rd O.HbmFreqStatus 0 F.HbmFreqStatus_Current

/-- The frequency the stack runs at, or is changing to. -/
def freqTarget (b : Blocks) : Nat :=
  match b.hbm.change with
  | some (_, v) => v
  | none => hbmFreq b

/-- The cause that refuses a change, as LastResult codes it; 0 for none. -/
def freqRefusal (b : Blocks) : Nat := if b.hbmState ≠ 3 then 3 else if b.spillQueues ≠ 0 then 2 else 0

/-- A write of HbmFreqRequest is answered with BUSY. -/
def freqBusy (b : Blocks) (v : Nat) : Bool := b.hbm.change.isNone && v != hbmFreq b && freqRefusal b != 0

/-- LastResult. -/
def freqResult (r : Nat) (s : State) : State := s.wr O.HbmFreqStatus 0 F.HbmFreqStatus_LastResult r

/-- Key of a trained delay: frequency, delay or strobe, row within a set. -/
abbrev trainKey (freq kind j : Nat) : Nat := (freq * 2 + kind) * 65536 + j

/-- A delay row as one number, and back. -/
def tapPair (hi lo : Nat) : Nat := hi * 256 + lo

def setDelay (row v : Nat) (s : State) : State :=
  (s.wr O.HbmDelay row F.HbmDelay_RdTap (v / 256)).wr O.HbmDelay row F.HbmDelay_WrTap (v % 256)

def setStrobe (row v : Nat) (s : State) : State :=
  (s.wr O.HbmStrobe row F.HbmStrobe_WdqsTap (v / 256)).wr O.HbmStrobe row F.HbmStrobe_RdqsTap (v % 256)

/-- Loads a timing set with the delays trained for a frequency. -/
def loadSet (set freq : Nat) (s : State) : State :=
  let s1 := (List.range 1152).foldl (fun a j => setDelay (set * 1152 + j) (Tbl.get 0 s.hbm.trained (trainKey freq 0 j)) a) s
  (List.range 32).foldl (fun a j => setStrobe (set * 32 + j) (Tbl.get 0 s.hbm.trained (trainKey freq 1 j)) a) s1

/-- An accepted change begins: spill pauses, and the set not in use is loaded. -/
def freqAccept (v : Nat) (s : State) : State :=
  let other := 1 - s.rd O.HbmFreqStatus 0 F.HbmFreqStatus_ActiveSet
  let s1 := loadSet other v ((s.ws O.SpillPause 1).ws O.HbmFreqRequest v)
  (s1.wr O.HbmFreqStatus 0 F.HbmFreqStatus_Changing 1).upHbm fun h => { h with change := some (s.time.ticks, v) }

/-- A write of HbmFreqRequest takes effect: none for the frequency that runs or is being changed to; during a change it
waits for the end; otherwise it is checked in this cycle, also when a timed commit brings it, and refused or accepted
(R323). -/
def freqWritten (v : Nat) (s : State) : State :=
  if v = freqTarget s.toBlocks then s
  else if s.hbm.change.isSome then s.upHbm fun h => { h with waiting := some v }
  else match freqRefusal s.toBlocks with
    | 0 => freqAccept v s
    | r => (freqResult r s).ws O.HbmFreqRequest (hbmFreq s.toBlocks)

/-- The check of R323 made again when a change ends. -/
def freqAgain (s : State) : State :=
  match s.hbm.waiting with
  | none => s
  | some v =>
    let s1 := s.upHbm fun h => { h with waiting := none }
    if v = hbmFreq s1.toBlocks then s1
    else match freqRefusal s1.toBlocks with
      | 0 => freqAccept v s1
      | r => (freqResult r s1).ws O.HbmFreqRequest (hbmFreq s1.toBlocks)

/-- HBM_FREQ_CHANGE: steps 3 to 6 of R324: the sets and clocks swap, every pseudo-channel is refreshed once, and requests
resume. -/
def execHbmFreqChange (s : State) : Out :=
  match s.hbm.change with
  | none => .next s
  | some (t0, v) =>
    let set := s.rd O.HbmFreqStatus 0 F.HbmFreqStatus_ActiveSet
    let s1 := s.wr O.HbmFreqStatus 0 F.HbmFreqStatus_Current v
    let s2 := s1.wr O.HbmFreqStatus 0 F.HbmFreqStatus_ActiveSet (1 - set)
    let s3 := freqResult 1 (s2.wr O.HbmFreqStatus 0 F.HbmFreqStatus_Changing 0)
    let s4 := s3.wr O.HbmFreqStatus 0 F.HbmFreqStatus_LastDurationNs ((s.time.ticks - t0) * 5 / 4 % 2 ^ 32)
    let s5 := raise (src 8 9) (s4.sat32 O.HbmFreqChangeCount 0 0 1)
    let s6 := if v = 0 then s5.ws O.SpillPause 0 else s5
    let s7 := s6.upHbm fun h => (List.range 16).foldl (fun a pc => countRefresh 32 pc a) { h with change := none }
    .next (freqAgain s7)

/-! ### Training and the wipe (R326 to R328) -/

/-- The middle of a window, rounded down (Example 13-2). -/
def tapMiddle (lo hi : BitVec 7) : Nat := (lo.toNat + hi.toNat) / 2

/-- The delays of one frequency as training set them, by key. -/
def trainedTaps (freq : Nat) (taps : List TapWindow) (strobes : List StrobeTaps) (t : Tbl Nat) : Tbl Nat :=
  let one := fun (a : Tbl Nat) (w : TapWindow) =>
    Tbl.put 0 (trainKey freq 0 (w.pc.val * 72 + w.bit.val)) (tapPair (tapMiddle w.rdLo w.rdHi) (tapMiddle w.wrLo w.wrHi)) a
  let two := fun (a : Tbl Nat) (w : StrobeTaps) =>
    Tbl.put 0 (trainKey freq 1 (w.pc.val * 2 + w.strobe.val)) (tapPair w.wdqs.toNat w.rdqs.toNat) a
  strobes.foldl two (taps.foldl one t)

/-- Training begins: at bring-up, and after a reset of the HBM block (R433), which leaves service mode, finds the stack at
HIGH again and keeps spill paused until the wipe (log 93). -/
def trainBegin (s : State) : State :=
  let s1 := setHbmState 1 (s.wr O.HbmTrainStatus 0 F.HbmTrainStatus_Step 1)
  let s2 := (s1.wr O.HbmFreqStatus 0 F.HbmFreqStatus_Current 0).wr O.HbmFreqStatus 0 F.HbmFreqStatus_ActiveSet 0
  let s3 := ((s2.wr O.HbmFreqStatus 0 F.HbmFreqStatus_Changing 0).ws O.HbmFreqRequest 0).ws O.HbmServiceMode 0
  let s4 := if s.boot.phase = 3 then s3 else s3.ws O.SpillPause 1
  s4.upHbm fun h => { h with trainStart := s.time.ticks, change := none, waiting := none, op := none
                             trainLow := false, trainTries := 0 }

/-- A step's criterion fails: the step is repeated twice; after the third failure training has failed, and the status names
the step, pseudo-channel and bit (R327). -/
def trainFailed (step pc : Nat) (bit_ : Option Nat) (s : State) : State :=
  let s1 := s.wr O.HbmTrainStatus 0 F.HbmTrainStatus_Step step
  if s1.hbm.trainTries < 2 then s1.upHbm fun h => { h with trainTries := h.trainTries + 1 }
  else
    let s2 := s1.wr O.HbmTrainStatus 0 F.HbmTrainStatus_PseudoChannel pc
    let s3 := s2.wr O.HbmTrainStatus 0 F.HbmTrainStatus_Bit (bit_.getD 127)
    enterHold 1 (raise (src 8 10) (setHbmState 4 s3))

/-- A step has met its criterion: the next begins, first through the eight at HIGH, then at LOW (Table 13-5). The last one
ends with what was measured. -/
def trainStepped (s : State) : State :=
  let k := s.rd O.HbmTrainStatus 0 F.HbmTrainStatus_Step
  let s1 := s.upHbm fun h => { h with trainTries := 0 }
  if k < 8 then s1.wr O.HbmTrainStatus 0 F.HbmTrainStatus_Step (k + 1)
  else if s.hbm.trainLow then s
  else (s1.upHbm fun h => { h with trainLow := true }).wr O.HbmTrainStatus 0 F.HbmTrainStatus_Step 1

/-- The first bit whose measured window misses its criterion of 20 taps, with the step that measures it: 5 READ_CENTRE or 7
WRITE_CENTRE (Table 13-5). A bit that was not measured has no window. -/
def windowFault : Nat → List TapWindow → Option (Nat × Nat)
  | j, [] => if j < 1152 then some (5, j) else none
  | j, w :: t =>
    if w.pc.val * 72 + w.bit.val ≠ j ∨ w.rdHi.toNat < w.rdLo.toNat + 19 then some (5, j)
    else if w.wrHi.toNat < w.wrLo.toNat + 19 then some (7, j)
    else windowFault (j + 1) t

/-- The strobes of a set were all measured, in order (step 3). -/
def strobesWhole (l : List StrobeTaps) : Bool := l.map (fun w => w.pc.val * 2 + w.strobe.val) == List.range 32

/-- What a finished training fails: the step, and the bit's place. The controller never carries traffic on a partly trained
stack (R327). -/
def trainFault (high low : List TapWindow) (sHigh sLow : List StrobeTaps) : Option (Nat × Nat) :=
  (windowFault 0 high <|> windowFault 0 low) <|> (if strobesWhole sHigh && strobesWhole sLow then none else some (3, 0))

/-- HBM_TRAIN: a report of initial training. Its end is the end of the last step at LOW, with every window and strobe
measured; set B is then loaded with the HIGH values, and the wipe follows. -/
def execHbmTrain (r : TrainResult) (s : State) : Out :=
  if s.hbmState ≠ 1 then .next s
  else match r with
    | .stepped => .next (trainStepped s)
    | .failed step pc bit_ =>
      if s.rd O.HbmTrainStatus 0 F.HbmTrainStatus_Step = step.val then
        .next (trainFailed step.val pc.val (bit_.map (·.val)) s)
      else .next s
    | .passed high low sHigh sLow =>
      if !s.hbm.trainLow ∨ s.rd O.HbmTrainStatus 0 F.HbmTrainStatus_Step ≠ 8 then .next s
      else match trainFault high low sHigh sLow with
        | some (step, j) => .next (trainFailed step (j / 72) (some (j % 72)) s)
        | none =>
          let t := trainedTaps 1 low sLow (trainedTaps 0 high sHigh [])
          let s1 := s.upHbm fun h => { h with trained := t, initial := t, scrubStart := s.time.ticks }
          let s2 := loadSet 1 0 (loadSet 0 0 (setHbmState 2 s1))
          let s3 := s2.wr O.HbmTrainStatus 0 F.HbmTrainStatus_Step 0
          .next (if s.boot.phase = 3 then enterPhase 4 s3 else s3)

/-- HBM_WIPE: the wipe of the stack has ended; `verified` is the comparison of R328. -/
def execHbmWipe (verified : Bool) (s : State) : Out :=
  if s.hbmState ≠ 2 then .next s
  else
    let us := (s.time.ticks - s.hbm.scrubStart) / ticksPerUs % 2 ^ 32
    let s1 := s.wr O.WipeStatus 0 F.WipeStatus_DurationUs us
    if !verified then .next (enterHold 3 (wipeFailed 3 s1))
    else
      let ms := (s.time.ticks - s.hbm.trainStart) / ticksPerMs % 2 ^ 32
      let s2 := setHbmState 3 (s1.wr O.HbmTrainStatus 0 F.HbmTrainStatus_TrainMs ms)
      let s3 := (s2.wr O.WipeStatus 0 F.WipeStatus_HbmDone 1).upTel fun t => { t with region := [] }
      let now := s.time.ticks
      let s4 := (s3.upHost fun h => { h with staging := [] }).upHbm fun h =>
        { h with scrubUnit := 0, scrubStart := now
                 retrained := (List.range 16).foldl (fun a k => Tbl.put 0 k now a) h.retrained }
      .next (if s.boot.phase = 4 then enterPhase 5 s4 else s4.ws O.SpillPause 0)

/-! ### Retraining (R329) -/

/-- A tap after a run: one step towards the centre measured, within 0 to 127. -/
def tapStep (moves : List TapMove) (bit_ : Nat) (write : Bool) (tap : Nat) : Nat :=
  match moves.find? fun m => m.bit.val == bit_ && m.write == write with
  | some m => if m.up then min (tap + 1) 127 else tap - 1
  | none => tap

/-- Retrains one bit of a pseudo-channel: its new delays in the set in use and in the values kept, and whether a tap that
moved lies beyond HbmDriftLimit. -/
def retrainBit (pc : Nat) (moves : List TapMove) (a : State × Bool) (b : Nat) : State × Bool :=
  let s := a.1
  let f := hbmFreq s.toBlocks
  let j := pc * 72 + b
  let row := s.rd O.HbmFreqStatus 0 F.HbmFreqStatus_ActiveSet * 1152 + j
  let rd := s.rd O.HbmDelay row F.HbmDelay_RdTap
  let wr := s.rd O.HbmDelay row F.HbmDelay_WrTap
  let v := tapPair (tapStep moves b false rd) (tapStep moves b true wr)
  if v = tapPair rd wr then a
  else
    let i := Tbl.get 0 s.hbm.initial (trainKey f 0 j)
    let lim := s.sc O.HbmDriftLimit
    let beyond := fun (x y : Nat) => decide (lim < max (x - y) (y - x))
    let far := beyond (v / 256) (i / 256) || beyond (v % 256) (i % 256)
    ((setDelay row v s).upHbm fun h => { h with trained := Tbl.put 0 (trainKey f 0 j) v h.trained }, a.2 || far)

/-- HBM_RETRAIN: a pseudo-channel is retrained in an idle window once a period, or in a forced one after two. -/
def execHbmRetrain (pc : Fin 16) (forced : Bool) (moves : List TapMove) (s : State) : Out :=
  let period := s.sc O.HbmRetrainPeriod * ticksPerMs
  let due := Tbl.get 0 s.hbm.retrained pc.val + (if forced then 2 * period else period)
  if s.hbmState ≠ 3 ∨ s.hbm.change.isSome ∨ s.time.ticks < due then .next s
  else
    let s1 := s.add64 O.HbmRetrainCount 0 0 1
    let s2 := if forced then s1.add64 O.HbmRetrainForced 0 0 1 else s1
    let s3 := s2.upHbm fun h => { h with retrained := Tbl.put 0 pc.val s.time.ticks h.retrained }
    let (s4, far) := (List.range 72).foldl (retrainBit pc.val moves) (s3, false)
    .next (raiseIf far (src 8 11) s4)

/-! ### Service mode (R330) -/

/-- A write of HbmServiceMode is answered with BUSY. -/
def serviceBusy (b : Blocks) (v : Nat) : Bool :=
  v == 1 && b.hbmState != 5 && (b.life != 3 || freqRefusal b != 0 || b.hbm.change.isSome)

/-- HbmServiceMode was written. -/
def serviceWritten (v : Nat) (s : State) : State :=
  if v = 1 then (setHbmState 5 s).ws O.SpillPause 1
  else if s.hbmState = 5 then
    (setHbmState 3 (s.ws O.SpillPause (hbmFreq s.toBlocks))).upHbm fun h => { h with op := none }
  else s

/-- The helper objects act in service mode only. -/
def helperBusy (b : Blocks) : Bool := b.hbmState != 5

/-- HbmPatternGen was written with Start = 1: the operation runs, and Done is cleared. -/
def patternStart (s : State) : State :=
  let op := (s.rd O.HbmPatternGen 0 F.HbmPatternGen_Op, s.rd O.HbmPatternGen 0 F.HbmPatternGen_PseudoChannel)
  let s1 := s.wr O.HbmPatternGen 0 F.HbmPatternGen_Start 0
  (s1.wr O.HbmCompare 0 F.HbmCompare_Done 0).upHbm fun h => { h with op := some op }

/-- HBM_PATTERN_DONE: the running operation completes; a WRITE compares nothing. -/
def execHbmPatternDone (mask : BitVec 72) (count : BitVec 32) (s : State) : Out :=
  match s.hbm.op with
  | none => .next s
  | some (op, _) =>
    let s1 := s.wr O.HbmCompare 0 F.HbmCompare_ErrorMask (if op = 0 then 0 else mask.toNat)
    let s2 := s1.wr O.HbmCompare 0 F.HbmCompare_ErrorCount (if op = 0 then 0 else count.toNat)
    .next ((s2.wr O.HbmCompare 0 F.HbmCompare_Done 1).upHbm fun h => { h with op := none })

/-- A row of HbmDelay or HbmStrobe was written: the value is what the frequency of that set runs on next (R330). -/
def delayWritten (strobe : Bool) (row : Nat) (s : State) : State :=
  let n := if strobe then 32 else 1152
  let f := if row / n = s.rd O.HbmFreqStatus 0 F.HbmFreqStatus_ActiveSet then hbmFreq s.toBlocks else 1 - hbmFreq s.toBlocks
  let v := if strobe then tapPair (s.rd O.HbmStrobe row F.HbmStrobe_WdqsTap) (s.rd O.HbmStrobe row F.HbmStrobe_RdqsTap)
    else tapPair (s.rd O.HbmDelay row F.HbmDelay_RdTap) (s.rd O.HbmDelay row F.HbmDelay_WrTap)
  s.upHbm fun h => { h with trained := Tbl.put 0 (trainKey f (bit strobe) (row % n)) v h.trained }

end Sys2Proof.Machine
end

