-- ==== Sys2Proof/Machine/Reset.lean ====
section
/-! DEFINITION. The module reset (R430 to R432, R442) and what a boot finds in Chest (R415, R417). -/
namespace Sys2Proof.Machine

/-- A record without its commit mark leaves no trace (R417). -/
def discardRec (c : Chest) (r : JRec) : Chest :=
  { c with
    home := r.undo.foldl (fun h e => putKey h e.1 e.2) c.home
    audit := match r.audit with
      | some n => (c.audit.filter fun e => e.1 != n) ++ r.lostAudit.toList
      | none => c.audit
    auditNext := r.audit.getD c.auditNext
    fwMeta := r.meta_.getD c.fwMeta
    intent := r.intent.getD c.intent }

/-- Chest as a boot finds it: what the incomplete records held is gone, newest first; the records themselves are scanned
in RESTORE. -/
def bootChest (c : Chest) : Chest :=
  let c1 := (c.journal.filter fun r => !r.marked).reverse.foldl discardRec c
  { c1 with journal := c.journal.map fun r => { JRec.plain with marked := r.marked, found := true } }

/-- An object of class P that no session writes: Coffer and Bureau keep it by themselves, and it reads its value at once
after a boot (log 83). -/
def moduleKept (obj : Nat) : Bool :=
  match objInfo? obj with
  | some o => o.pers == 1 && o.wr == 0
  | none => false

/-- The module is held in reset: POR_N low, no power, or SYS_REF lost (Table 19-2, Table 19-4). -/
def Pins.holds (p : Pins) : Bool := p.porLow || p.noPower || !p.refs.testBit 0

/-- The lost ones of SERDES_REF0 to 3, by bit. -/
def Pins.lostRefs (p : Pins) : Nat := 15 - p.refs / 2 % 16

/-- A module reset for a cause of Table 19-4. Sessions, transactions, snapshots, waiting and timed commits are gone;
ModuleResetCount and ResetCause are written by the boot that follows, so that a reset of a module held in reset records
the lowest of the causes (R432). -/
def moduleReset (cause : Nat) (s : State) : State :=
  let again := s.boot.held
  let before := s.rd O.ResetCause 0 F.ResetCause_Cause
  let chest := bootChest s.chest
  let boot := { BootRT.start with held := s.pins.holds, lost := s.pins.lostRefs }
  let s1 : State := { s with
    toBlocks := { Blocks.start with store := chest.home.filter fun e => moduleKept (e.1 / 2 ^ 40), boot := boot }
    sessions := hostSessions 0, mbox := List.replicate 4 Mbox.start, nextSess := 5, nextHandle := 1, nextSnap := 1
    commitSeq := 0, changed := [], orderNext := 0, waits := [], barq := [], orphans := [], chest := chest }
  let s2 := s1.wr O.ResetCause 0 F.ResetCause_Cause (if again then min before cause else cause)
  let s3 := if again then s2
    else s2.wrHome O.ModuleResetCount 0 0 (satInc 32 (s2.homeRd O.ModuleResetCount 0 0))
  let s4 := s3.wr O.PowerSequence 0 F.PowerSequence_Violation (bit s.ao.seqViolation)
  let s5 := s4.wr O.PowerSequence 0 F.PowerSequence_FirstRail (if s.ao.seqViolation then s.ao.seqRail else 0)
  s5.wr O.PowerNvGuard 0 F.PowerNvGuard_Asserted (bit s.pins.guard)

/-- The causes of the hold have gone: the module leaves reset and begins phase SENSE (R440). -/
def leaveReset (s : State) : State :=
  if s.boot.held && !s.pins.holds then s.upBoot fun b => { b with held := false } else s

end Sys2Proof.Machine
end

