-- ==== Sys2Proof/Machine/Board.lean ====
section
/-! DEFINITION. Power supervision, the journal's progress, die temperature and Sideboard (chapter 18), and the Dovetail
links (R17 to R19). -/
namespace Sys2Proof.Machine

/-! ### The NV guard and the rails (R408 to R414) -/

/-- A cause of the guard is noted: its source, BySagN, and for a rail its BelowGuard and the last rail (log 84). -/
def guardCause (c : GuardCause) (s : State) : State :=
  match c with
  | .sag => raise (src 0 4) (s.wr O.PowerNvGuard 0 F.PowerNvGuard_BySagN 1)
  | .rail r =>
    let s1 := s.wr O.PowerNvGuard 0 F.PowerNvGuard_BySagN 0
    let s2 := s1.wr O.PowerNvGuard 0 F.PowerNvGuard_LastRail r.val
    raise (src 0 5) (s2.wr O.PowerRailStatus r.val F.PowerRailStatus_BelowGuard 1)

/-- NV_GUARD_ASSERT: a rail falls below its guard threshold, or SAG_N is low (R412). A further cause while the guard is
asserted is noted and is no new assertion (log 84). -/
def execNvGuardAssert (c : GuardCause) (s : State) : Out :=
  if s.pins.guard then .next (guardCause c s)
  else
    let s1 : State := { s with pins := { s.pins with guard := true } }
    let s2 := s1.wr O.PowerNvGuard 0 F.PowerNvGuard_Asserted 1
    .next (guardCause c (raise (src 0 3) (s2.sat32 O.PowerNvGuard 0 F.PowerNvGuard_AssertCount 1)))

/-- NV_GUARD_RELEASE: every sense point and SAG_N have been good for 1 ms (R413). -/
def execNvGuardRelease (s : State) : Out :=
  .next (({ s with pins := { s.pins with guard := false } } : State).wr O.PowerNvGuard 0 F.PowerNvGuard_Asserted 0)

/-- OVER_VOLTAGE: a rail stays above its over-voltage threshold; nothing further follows (R412). -/
def execOverVoltage (rail : Fin 10) (s : State) : Out :=
  .next (raise (src 0 6) (s.wr O.PowerRailStatus rail.val F.PowerRailStatus_OverVoltage 1))

/-- VAUX has browned out: the always-on domain is cleared, and a power-on reset follows (R414, R431, R432). -/
def powerLost (s : State) : State :=
  let s1 : State := { s with ao := ⟨false, 15, none⟩, pins := { s.pins with noPower := true } }
  moduleReset 1 s1

/-- LOSS_OF_POWER: VAUX falls below its brown-out threshold. -/
def execLossOfPower (s : State) : Out := .next (powerLost s)

/-- BROWN_OUT: the latch in the always-on domain, the module reset with cause 3, and PowerBrownout as Coffer writes it at
the boot (R414). VAUX's own is a loss of power. -/
def execBrownOut (rail : Fin 10) (s : State) : Out :=
  if rail.val = 8 then .next (powerLost s)
  else
    let s1 := moduleReset 3 { s with ao := { s.ao with brownRail := some rail.val } }
    let s2 := s1.wrHome O.PowerBrownout 0 F.PowerBrownout_Count
      (satInc 32 (s1.homeRd O.PowerBrownout 0 F.PowerBrownout_Count))
    .next (s2.wrHome O.PowerBrownout 0 F.PowerBrownout_LastRail rail.val)

/-! ### The journal (R415, R416) -/

/-- A record whose commit mark is missing and that no boot has found. -/
def JRec.waits (r : JRec) : Bool := !r.marked && !r.found

/-- The first record without a commit mark gets it; `copied` says that its data have reached their home as well. -/
def markFirst (copied : Bool) : List JRec → List JRec
  | [] => []
  | r :: t => if r.waits then (if copied then t else { r with marked := true } :: t) else r :: markFirst copied t

/-- JOURNAL_RECORD_WRITE: the records marked before are home and retired, and the oldest of the others is completed. While
the NV guard is asserted only a commit-mark line already in flight is written (R413). -/
def execJournalRecordWrite (inFlight copied : Bool) (s : State) : Out :=
  if s.pins.guard && !inFlight then .next s
  else
    let kept := s.chest.journal.filter fun r => r.waits || r.found
    .next { s with chest := { s.chest with journal := markFirst copied kept } }

/-- Bytes of the incomplete records. -/
def State.pendingBytes (s : State) : Nat := (s.chest.journal.filter JRec.waits).foldl (fun a r => a + r.bytes) 0

/-- A commit that writes an object of class P is answered with BUSY (R416). -/
def State.journalFull (s : State) : Bool := decide (6 * 2 ^ 20 < s.pendingBytes)

/-! ### Temperatures and levels (R411, R418) -/

/-- The sense points of a rail (Table 18-1). -/
def railPoints (r : Nat) : List Nat :=
  [[0, 1, 2], [3, 4, 5], [6], [7], [8, 9], [10], [11], [12], [13, 14], [15]].getD r []

/-- A rail's level is the lowest of its sense points, and its lowest value is kept. -/
def railSample (r : Nat) (s : State) : State :=
  let mv := (railPoints r).map fun p => s.rd O.PowerSense p 0
  let now := mv.foldl min 65535
  let least := s.rd O.PowerRailStatus r F.PowerRailStatus_MinMv
  let s1 := s.wr O.PowerRailStatus r F.PowerRailStatus_NowMv now
  s1.wr O.PowerRailStatus r F.PowerRailStatus_MinMv (if least = 0 then now else min least now)

/-- DIE_TEMPERATURE_SAMPLE: the readings of this millisecond, in 0.1 °C, and with them the levels of the sense points (log
85). Each die above a threshold raises its source. -/
def execDieTemperatureSample (fe tm : BitVec 16) (sense : List (BitVec 16)) (s : State) : Out :=
  let s1 := (s.wr O.DieTemperature 0 0 fe.toNat).wr O.DieTemperature 1 0 tm.toNat
  let s2 := ((sense.take 16).zipIdx).foldl (fun a e => a.wr O.PowerSense e.2 0 e.1.toNat) s1
  let s3 := if sense.isEmpty then s2 else (List.range 10).foldl (fun a r => railSample r a) s2
  let above := fun (v : BitVec 16) (tenths : Int) => decide (tenths < v.toInt)
  let warn : Int := 10 * s.sc O.DieTempWarn
  let s4 := raiseIf (above tm warn) (src 0 7) (raiseIf (above fe warn) (src 0 7) s3)
  let s5 := raiseIf (above tm 1080) (src 0 8) (raiseIf (above fe 1080) (src 0 8) s4)
  .next (s5.upBoard fun b => { b with hot := bit (above fe 1080) + 2 * bit (above tm 1080) })

/-! ### Sideboard sequences (R419 to R422) -/

/-- Inserts a trigger by its instant, lower sequence numbers first. -/
def waitInsert (e : Nat × Nat) : List (Nat × Nat) → List (Nat × Nat)
  | [] => [e]
  | x :: t => if e.1 < x.1 ∨ (e.1 = x.1 ∧ e.2 < x.2) then e :: x :: t else x :: waitInsert e t

/-- Sequence `q` is triggered for the instant `at_` (0.25 ns count): it waits, or is an overrun (R421). -/
def sideTrigger (q at_ : Nat) (s : State) : State :=
  let busy := (s.board.seqRun.any fun r => r.1 == q) || s.board.seqWait.any fun e => e.2 == q
  if busy then s.add64 O.SideboardCounters q F.SideboardCounters_Overruns 1
  else s.upBoard fun b => { b with seqWait := waitInsert (at_, q) b.seqWait }

/-- A write of SideboardStart triggers its sequence for the next microsecond. -/
def sideStart (q : Nat) (s : State) : State := sideTrigger q ((s.gridQ / 4000 + 1) * 4000) s

/-- SIDEBOARD_SEQUENCE_START: the first waiting sequence starts at its instant, or when the one before it has ended. -/
def execSideboardSequenceStart (s : State) : Out :=
  match s.board.seqRun, s.board.seqWait with
  | none, (at_, q) :: t =>
    let start := max at_ s.board.seqFree
    if start ≤ s.gridQ then .next (s.upBoard fun b => { b with seqRun := some (q, start, 0), seqWait := t }) else .next s
  | _, _ => .next s

/-- The channel of entry `k` of a sequence. -/
def sideEntry (b : Blocks) (q k : Nat) : Nat := b.rd O.SideboardSequence q (F.SideboardSequence_Entry0 + k)

/-- The result and the limits of a conversion of channel `c`, sampled at `stamp` (R420, R422). -/
def sideResult (c code stamp : Nat) (s : State) : State :=
  let r := fun f => s.rd O.SideboardChannel c f
  if r F.SideboardChannel_Enable = 0 then s
  else
    let gain := toSigned 32 (r F.SideboardChannel_Gain)
    let value := roundDiv (code * gain) 65536 + toSigned 28 (r F.SideboardChannel_Offset)
    let s1 := s.wr O.SideboardResult c F.SideboardResult_Code code
    let s2 := s1.wr O.SideboardResult c F.SideboardResult_Value (ofSigned 32 value)
    let s3 := s2.wr O.SideboardResult c F.SideboardResult_Stamp (stamp % 2 ^ 64)
    let low := decide (code < r F.SideboardChannel_LowLimit)
    let high := decide (r F.SideboardChannel_HighLimit < code)
    let was := s.board.outside.testBit c
    let mask := if was then s.board.outside - 2 ^ c else s.board.outside
    let s4 := s3.upBoard fun b => { b with outside := mask + bit (low || high) * 2 ^ c }
    if was then s4
    else if low then setDetail O.SideboardLimitDetail 0 c (src 0 9) s4
    else if high then setDetail O.SideboardLimitDetail 0 (16 + c) (src 0 9) s4
    else s4

/-- SIDEBOARD_CONVERSION: entry k of the running sequence is sampled at T + 200 ns + k × 1 µs; after the last one the
sequence has completed. -/
def execSideboardConversion (code : BitVec 12) (s : State) : Out :=
  match s.board.seqRun with
  | none => .next s
  | some (q, start, k) =>
    let stamp := start + 800 + k * 4000
    if s.gridQ < stamp then .next s
    else
      let s1 := sideResult (sideEntry s.toBlocks q k) code.toNat stamp s
      let n := s.rd O.SideboardSequence q F.SideboardSequence_CountMinusOne + 1
      if k + 1 < n then .next (s1.upBoard fun b => { b with seqRun := some (q, start, k + 1) })
      else
        let s2 := s1.add64 O.SideboardCounters q F.SideboardCounters_Runs 1
        .next (raise (src 0 (12 + q)) (s2.upBoard fun b => { b with seqRun := none, seqFree := start + n * 4000 }))

/-! ### Fans and pins (R423, R424) -/

/-- FAN_TACH_WINDOW: a fan's speed over the last second, and its fault. Fans without a tachometer show none. A speed that
the Rpm field cannot hold reads a free value (log 62). -/
def execFanTachWindow (fan : Fin 8) (edges : BitVec 32) (s : State) : Out :=
  let n := fan.val
  let r := fun f => s.rd O.FanConfig n f
  if 16 ≤ r F.FanConfig_TachPin then .next s
  else
    let rpm := edges.toNat * 60 / (r F.FanConfig_PulsesPerRevMinusOne + 1)
    let (k, s) := if rpm < 2 ^ 19 then (0, s) else s.fresh
    let shown := if rpm < 2 ^ 19 then rpm else (Config.undefinedBits k).toNat % 2 ^ 19
    let s1 := s.wr O.FanStatus n F.FanStatus_Rpm shown
    let slow := decide (rpm < r F.FanConfig_MinRpm)
    let low := if slow then Tbl.get 0 s.board.fanLow n + 1 else 0
    let good := if slow then 0 else Tbl.get 0 s.board.fanGood n + 1
    let s2 := s1.upBoard fun b =>
      { b with fanLow := Tbl.put 0 n (min low 3) b.fanLow, fanGood := Tbl.put 0 n (min good 3) b.fanGood }
    let fault := s.rd O.FanStatus n F.FanStatus_Fault
    if fault = 0 ∧ 3 ≤ low then .next (raise (src 0 10) (s2.wr O.FanStatus n F.FanStatus_Fault 1))
    else if fault = 1 ∧ 3 ≤ good then .next (s2.wr O.FanStatus n F.FanStatus_Fault 0)
    else .next s2

/-- A FanConfig row was written: a fan with no tachometer has neither a speed nor a fault (R423). -/
def fanWritten (n : Nat) (s : State) : State :=
  if s.rd O.FanConfig n F.FanConfig_TachPin < 16 then s
  else
    let s1 := s.upBoard fun b => { b with fanLow := Tbl.put 0 n 0 b.fanLow, fanGood := Tbl.put 0 n 0 b.fanGood }
    (s1.wr O.FanStatus n F.FanStatus_Fault 0).wr O.FanStatus n F.FanStatus_Rpm 0

/-- The duty a PWM output runs at: full until FanConfig is restored and while a die is above 108 °C (R418, R423). -/
def fanDuty (b : Blocks) (n : Nat) : Nat :=
  if b.board.hot ≠ 0 ∨ b.boot.phase < 6 then 1024 else b.rd O.FanConfig n F.FanConfig_Duty

/-- GPIO_EDGE: a pin's level has changed, debounced (R424). A selected edge of an INPUT pin sets its detail bit. -/
def execGpioEdge (pin : Fin 16) (high : Bool) (s : State) : Out :=
  let p := pin.val
  let levels := s.sc O.GpioInput
  if levels.testBit p = high then .next s
  else
    let s1 := s.ws O.GpioInput (if high then levels + 2 ^ p else levels - 2 ^ p)
    let edge := s.rd O.GpioConfig p F.GpioConfig_Edge
    let wanted := if high then edge % 2 == 1 else edge / 2 == 1
    if s.rd O.GpioConfig p F.GpioConfig_Mode = 0 ∧ wanted then .next (setDetail O.GpioEdgeDetail 0 p (src 0 11) s1)
    else .next s1

/-- The level of a pin: what an OUTPUT or an EVENT pin drives, else what the board puts on it. An open-drain pin drives
low only. -/
def gpioLevel (b : Blocks) (p : Nat) : Bool :=
  let r := fun f => b.rd O.GpioConfig p f
  let outside := (b.sc O.GpioInput).testBit p
  let drives := fun v : Bool => if r F.GpioConfig_OpenDrain = 1 then v && outside else v
  match r F.GpioConfig_Mode with
  | 1 => drives ((b.sc O.GpioOutput).testBit p)
  | 2 => drives (pinActive b p != (r F.GpioConfig_Polarity == 1))
  | _ => outside

/-- GpioInput as read. -/
def gpioInput (b : Blocks) : Nat := (List.range 16).foldl (fun a p => a + bit (gpioLevel b p) * 2 ^ p) 0

/-! ### Crossings (R438) and Dovetail (R17 to R19) -/

/-- The running side of crossing `row` discards what is in flight, with `lost` count differences. -/
def crossingLoss (row lost : Nat) (s : State) : State :=
  let s1 := s.sat32 O.CrossingLoss row F.CrossingLoss_Discards 1
  raise (src 8 12) (s1.sat32 O.CrossingLoss row F.CrossingLoss_LostEvents lost)

/-- Discards what is in flight on a Dovetail link, in both directions (R18). -/
def dropLink (k : Nat) (s : State) : State :=
  let tm := if k = 0 then s.fe.toTm0 else s.fe.toTm1
  let fe := if k = 0 then s.fe.toFe0 else s.fe.toFe1
  let lost := tm.flatten ++ fe.map (·.pkt)
  let s1 := s.upFe fun f => if k = 0 then { f with toTm0 := [], toFe0 := [] } else { f with toTm1 := [], toFe1 := [] }
  let s2 := lost.foldl (fun a p => noteDiscard p a) s1
  s2.add64 O.DovetailLinkLoss 0 0 (tm.length + fe.length)

/-- DOVETAIL_LINK_LOSS: a link that is up loses training, and its crossing the count differences in flight (R438). -/
def execDovetailLinkLoss (cut : LinkCut) (s : State) : Out :=
  let up := s.sc O.DovetailLinkState
  let link := cut.link
  if !up.testBit link.val then .next s
  else
    let s1 := crossingLoss (148 + link.val) cut.lost.toNat (s.ws O.DovetailLinkState (up - 2 ^ link.val))
    .next (raise (src 0 0) (dropLink link.val s1))

/-- DOVETAIL_LINK_RETRAIN: an attempt to retrain a lost link is counted; a link that trains is up again, unless both were
lost: then nothing is forwarded until a module reset (R18, R19). -/
def execDovetailLinkRetrain (link : Fin 2) (trained : Bool) (s : State) : Out :=
  let up := s.sc O.DovetailLinkState
  if up.testBit link.val || decide (s.boot.phase < 3) then .next s
  else
    let s1 := s.sat32 O.DovetailRetrainCount 0 0 1
    if trained && up != 0 then .next (s1.ws O.DovetailLinkState (up + 2 ^ link.val)) else .next s1

end Sys2Proof.Machine
end

