-- ==== Sys2Proof/Machine/Firmware.lean ====
section
/-! DEFINITION. Firmware slots, loading, chain delivery, activation and the choice of the slot at boot (chapter 17; R123).
-/
namespace Sys2Proof.Machine

/-! ### Slots and images (R389 to R392) -/

/-- A slot's content, and its state code. -/
def Chest.slot (c : Chest) (i : Nat) : FwSlot := if i = 0 then c.slotA else c.slotB

def FwMeta.st (m : FwMeta) (i : Nat) : Nat := if i = 0 then m.stA else m.stB

def FwMeta.mark (m : FwMeta) (i : Nat) : Bool := if i = 0 then m.markA else m.markB

def FwMeta.setSt (m : FwMeta) (i v : Nat) : FwMeta := if i = 0 then { m with stA := v } else { m with stB := v }

def FwMeta.setMark (m : FwMeta) (i : Nat) (v : Bool) : FwMeta :=
  if i = 0 then { m with markA := v } else { m with markB := v }

/-- The inactive slot. -/
abbrev FwMeta.other (m : FwMeta) : Nat := 1 - m.active

/-- Changes a slot's content. -/
def State.setSlot (s : State) (i : Nat) (f : FwSlot → FwSlot) : State :=
  { s with chest := if i = 0 then { s.chest with slotA := f s.chest.slotA } else { s.chest with slotB := f s.chest.slotB } }

/-- Fields of an image header (Table 17-2). -/
abbrev hdrFlags (h : Bytes) : Nat := beAt h 6 2

abbrev hdrCertified (h : Bytes) : Bool := (hdrFlags h).testBit 15

abbrev hdrUnitBound (h : Bytes) : Bool := (hdrFlags h).testBit 14

abbrev hdrOwnerSigned (h : Bytes) : Bool := (hdrFlags h).testBit 13

abbrev hdrRollback (h : Bytes) : Nat := beAt h 24 4

abbrev hdrBodyLength (h : Bytes) : Nat := beAt h 28 4

abbrev hdrVersion (h : Bytes) : Nat := beAt h 32 4

abbrev hdrJournal (h : Bytes) : Nat := beAt h 36 2

/-- Reserved bits and bytes of a header are zero. -/
def hdrReservedOk (h : Bytes) : Bool :=
  hdrFlags h % 2 ^ 13 == 0 && beAt h 14 2 == 0 && beAt h 38 10 == 0 && beAt h 96 416 == 0 && beAt h 704 320 == 0

/-- The header names this hardware (checks 1 and 2). -/
def hdrForm (h : Bytes) : Nat :=
  if h.length ≠ 1024 ∨ beAt h 0 4 ≠ 0x5A465749 ∨ beAt h 4 2 ≠ 1 ∨ !hdrReservedOk h then 1
  else
    let rev := fun at_ want => byteAt h at_ != 0 && byteAt h at_ != want
    if beAt h 8 2 ≠ 0xCA12 ∨ beAt h 10 2 ≠ 0x0128 ∨ rev 12 (catalogDefault O.PartIdentity F.PartIdentity_FeRevision) ∨
        rev 13 (catalogDefault O.PartIdentity F.PartIdentity_TmRevision) then 2 else 0

/-- The vendor signature verifies (check 6). -/
def vendorOk (h : Bytes) : Bool := Config.ecdsaVerify Config.firmwareKey ((h.drop 512).take 96) (h.take 512)

/-- OwnerKey as Chest holds it. -/
def State.ownerKey (s : State) : Nat := s.homeRd O.OwnerKey 0 0

/-- Check 7. -/
def ownerOk (s : State) (h : Bytes) : Bool :=
  s.ownerKey == 0 ||
    (hdrOwnerSigned h && Config.ecdsaVerify (beBytes 97 s.ownerKey) ((h.drop 608).take 96) (h.take 512))

/-- Checks 1 to 7 on a header: the first that fails, or 0. -/
def headerCheck (s : State) (h : Bytes) : Nat :=
  if hdrForm h ≠ 0 then hdrForm h
  else if hdrUnitBound h ∧ beAt h 16 8 ≠ s.chest.serial then 3
  else if hdrBodyLength h = 0 ∨ 66845696 < hdrBodyLength h then 4
  else if hdrRollback h < s.chest.fwMeta.minRollback then 5
  else if !vendorOk h then 6
  else if !ownerOk s h then 7
  else 0

/-- Check 8. -/
def bodyOk (x : FwSlot) : Bool :=
  x.body.length == hdrBodyLength x.header && beAt x.header 48 48 == (Config.sha384 x.body).toNat

/-- FwSlotStatus row. -/
def slotStatus (s : State) (i : Nat) : Nat :=
  let h := (s.chest.slot i).header
  let m := s.chest.fwMeta
  m.st i * 2 ^ 61 + bit (hdrCertified h) * 2 ^ 60 + bit (hdrOwnerSigned h) * 2 ^ 59 + bit (m.mark i) * 2 ^ 58
    + hdrJournal h * 2 ^ 32 + hdrVersion h

/-- FwSlotHeader row. -/
def slotHeader (s : State) (i : Nat) : Nat :=
  let h := (s.chest.slot i).header
  beNat (h ++ List.replicate (1024 - h.length) 0)

/-! ### The standby pair (R123) -/

abbrev standbyReady (b : Blocks) : Bool := b.sc O.BureauStandbyReady == 1

/-- The standby pair is no longer synchronised: its loss is raised once (log 86). -/
def standbyLost (s : State) : State :=
  if standbyReady s.toBlocks then raise (src 0 2) (s.ws O.BureauStandbyReady 0) else s

/-- The BlockReset row of the standby pair (Table 19-5). -/
abbrev standbyRow (b : Blocks) : Nat := 145 - b.boot.pair

/-- The pair that failed is held in reset: it is the standby pair now (R123). -/
def holdFailed (s : State) : State :=
  let row := standbyRow s.toBlocks
  let s1 := s.upBoot fun b =>
    { b with failed := true, blocks := (b.blocks.filter fun e => e.1 != row) ++ [(row, s.time.ticks)] }
  s1.wr O.BlockResetActive row 0 1

/-- The hold of a failed pair ends (R123). -/
def freeFailed (s : State) : State :=
  if !s.boot.failed then s
  else
    let row := standbyRow s.toBlocks
    let s1 := s.upBoot fun b => { b with failed := false, blocks := b.blocks.filter fun e => e.1 != row }
    s1.wr O.BlockResetActive row 0 0

/-- STANDBY_PAIR_SYNCHRONISED: the standby pair has resynchronised, unless it prepares an image or is in a block reset. A
failed pair's hold in reset ends with it (R123). -/
def execStandbyPairSynchronised (s : State) : Out :=
  if !s.served || s.boot.phase == 9 || s.fw.act.isSome || (!s.boot.failed && s.inReset (standbyRow s.toBlocks)) then .next s
  else .next ((freeFailed s).ws O.BureauStandbyReady 1)

/-! ### Loading (R393 to R395) -/

/-- A life-cycle change is in progress. -/
abbrev lifeBusy (b : Blocks) : Bool := b.rd O.LifeCycleStatus 0 F.LifeCycleStatus_InProgress == 1

/-- A slot is in TRIAL. -/
abbrev inTrial (s : State) : Bool := s.chest.fwMeta.stA == 4 || s.chest.fwMeta.stB == 4

/-- A load cannot start (R393). -/
def loadBusy (s : State) : Bool := s.fw.load.isSome || inTrial s || s.fw.act.isSome || lifeBusy s.toBlocks

def setLoad (f v : Nat) (s : State) : State := s.wr O.FwLoadStatus 0 f v

/-- Image bytes accepted. -/
abbrev loadBytes (b : Blocks) : Nat := b.rd O.FwLoadStatus 0 F.FwLoadStatus_BytesReceived

def updLoad (f : FwLoad → FwLoad) (s : State) : State := s.upFw fun w => { w with load := w.load.map f }

/-- A load begins: the inactive slot is RECEIVING and its content is lost. -/
def loadStart (owner : Option SessId) (via : Option (Nat × Nat)) (chain : Bool) (tid entry map : Nat) (s : State) : State :=
  let i := s.chest.fwMeta.other
  let s1 := (s.setFwMeta fun m => (m.setSt i 1).setMark i false).setSlot i fun _ => ⟨[], []⟩
  let s2 := setLoad F.FwLoadStatus_State 1 (setLoad F.FwLoadStatus_ChainState (bit chain) s1)
  let s3 := setLoad F.FwLoadStatus_Reason 0 (setLoad F.FwLoadStatus_TransferId tid s2)
  (setLoad F.FwLoadStatus_BytesReceived 0 s3).upFw fun w =>
    { w with load := some { owner := owner, via := via, chain := chain, tid := tid, entry := entry, map := map, row := 0
                            len := none, last := s.time.ticks, code := none, hop := none, left := [], codes := []
                            back := false, sent := false } }

/-- The cards after `c` in the chain of an entry card, in their order (R397). -/
def chainAfter (map entry c : Nat) : List Nat :=
  let order := (List.range 15).map fun k => (entry + 1 + k) % 16
  let rest := if c = entry then order else (order.dropWhile fun x => x != c).drop 1
  rest.filter fun x => map.testBit x

/-- A load of a session begins; a chained one takes its TransferId from the counter of the metadata (R397, log 87). -/
def loadBegin (owner : Option SessId) (chain : Bool) (s : State) : State :=
  if chain then
    let tid := s.chest.fwMeta.transfer % 2 ^ 16
    let s1 := s.setFwMeta fun m => { m with transfer := (m.transfer + 1) % 2 ^ 16 }
    loadStart owner none true tid s.card s.activeSet s1
  else loadStart owner none false 0 s.card 0 s

/-- The codes a card sends in FW_RESULT: its own, those it recorded, those it received, NOT_REACHED for the others. -/
def resultCodes (b : Blocks) (l : FwLoad) : List Nat :=
  (List.range 16).map fun c =>
    if c = b.card then l.code.getD 255 else ((l.codes.find? fun e => e.1 == c).map (·.2)).getD 255

/-- The chain ends at this card once it has its own code and no successor's result is awaited: the card hands back
FW_RESULT in 16 consecutive header cells, or as the entry card writes FwChainResult (R399). -/
def chainSettle (s : State) : State :=
  match s.fw.load with
  | none => s
  | some l =>
    if !l.chain || l.code.isNone || (l.hop.isSome && !l.back) then s
    else
      let codes := resultCodes s.toBlocks l
      let s1 := (setLoad F.FwLoadStatus_ChainState 2 s).upFw fun w => { w with load := none }
      match l.via with
      | some (_, g) =>
        let msg := mgmtMessage 4 (beBytes 2 l.tid ++ codes.map (BitVec.ofNat 8))
        s1.updGroup g fun r => { r with mgmt := r.mgmt ++ List.replicate 16 msg }
      | none =>
        let s2 := (codes.zipIdx).foldl (fun a e => a.wr O.FwChainResult e.2 0 e.1) s1
        raiseIf (codes.any fun c => c != 0 && c != 255) (src 9 6) s2

/-- The chain turns to its next card (R398 step 1): cards that no transmit-active group reaches are SKIPPED. -/
def turnTo : List Nat → State → State
  | [], s => updLoad (fun l => { l with hop := none, left := [] }) s
  | c :: t, s =>
    match groupsTo s.toBlocks s.groupTx c with
    | [] => turnTo t (updLoad (fun l => { l with codes := l.codes ++ [(c, 254)] }) s)
    | g :: _ => updLoad (fun l =>
        { l with left := t, hop := some ⟨c, g, s.time.ticks, none, s.time.ticks, 0, s.time.ticks⟩ }) s

/-- The bytes of the image that this card holds. -/
def State.imageBytes (s : State) : Bytes :=
  let x := s.chest.slot s.chest.fwMeta.other
  x.header ++ x.body

/-- FW_DATA frames of the bytes `b` from `off` on, 120 bytes each. -/
def dataFrames (tid off : Nat) (b : Bytes) : List Bytes :=
  (List.range (ceilDiv b.length 120)).map fun k =>
    mgmtMessage 2 (beBytes 2 tid ++ beBytes 4 (off + k * 120) ++ (b.drop (k * 120)).take 120)

/-- FW_DATA leaves for the successor: everything this card holds, up to 65,536 bytes beyond the last acknowledged offset
(R398 step 3). -/
def pushData (s : State) : State :=
  match s.fw.load with
  | none => s
  | some l =>
    match l.hop with
    | none => s
    | some h =>
      match h.acked with
      | none => s
      | some a =>
        let upTo := min (a + 65536) (loadBytes s.toBlocks)
        if upTo ≤ h.sent then s
        else
          let data := (s.imageBytes.drop h.sent).take (upTo - h.sent)
          let s1 := s.updGroup (hopGroup s.toBlocks h) fun r => { r with mgmt := r.mgmt ++ dataFrames l.tid h.sent data }
          updLoad (fun l => { l with hop := some { h with sent := upTo } }) s1

/-- A load ends on this card with a code: a chained one waits for its chain. -/
def loadCode (code : Nat) (s : State) : State :=
  match s.fw.load with
  | none => s
  | some l =>
    if l.chain then chainSettle (updLoad (fun l => { l with code := some code }) s)
    else s.upFw fun w => { w with load := none }

/-- The image is refused: the slot is INVALID, the refusal is audited and raised (R392). Nothing further is sent on
(log 88). -/
def loadRefuse (client role op : Nat) (code : Nat) (s : State) : State :=
  let i := s.chest.fwMeta.other
  let s1 := s.setFwMeta fun m => m.setSt i 6
  let s2 := setLoad F.FwLoadStatus_State 4 (setLoad F.FwLoadStatus_Reason code s1)
  let s3 := raise (src 9 6) (auditEntry .firmware client role op 0 0 0 (code * 2 ^ 56) s2)
  loadCode code s3

/-- The load is ABORTED (R393): the slot is INVALID. -/
def loadAbort (s : State) : State :=
  match s.fw.load with
  | none => s
  | some l =>
    if l.code.isSome then s
    else
      let i := s.chest.fwMeta.other
      let s1 := s.setFwMeta fun m => m.setSt i 6
      loadCode 11 (setLoad F.FwLoadStatus_State 4 (setLoad F.FwLoadStatus_Reason 11 s1))

/-- The header of the load has arrived: checks 1 to 7, and when they pass the chain begins (R392, R397, R398). -/
def headerArrived (client role op : Nat) (s : State) : State :=
  let h := (s.chest.slot s.chest.fwMeta.other).header
  match headerCheck s h with
  | 0 =>
    let s1 := updLoad (fun l => { l with len := some (1024 + hdrBodyLength h) }) s
    match s1.fw.load with
    | none => s1
    | some l => if l.chain && !hdrUnitBound h then turnTo (chainAfter l.map l.entry s1.card) s1 else s1
  | code => loadRefuse client role op code s

/-- The last byte of the load has arrived: check 8 (R392, R394). -/
def bodyArrived (client role op : Nat) (s : State) : State :=
  let i := s.chest.fwMeta.other
  if bodyOk (s.chest.slot i) then
    let s1 := s.setFwMeta fun m => m.setSt i 2
    loadCode 0 (setLoad F.FwLoadStatus_State 3 (setLoad F.FwLoadStatus_Reason 0 s1))
  else loadRefuse client role op 8 s

/-- Bytes of the image arrive in order: they enter the slot, are checked and are handed on. -/
def loadData (client role op : Nat) (data : Bytes) (s : State) : State :=
  let i := s.chest.fwMeta.other
  let had := loadBytes s.toBlocks
  let s1 := s.setSlot i fun x =>
    let all := x.header ++ x.body ++ data
    ⟨all.take 1024, all.drop 1024⟩
  let s2 := setLoad F.FwLoadStatus_BytesReceived (had + data.length) s1
  let s3 := updLoad (fun l => { l with last := s.time.ticks }) s2
  let s4 := if had < 1024 ∧ 1024 ≤ had + data.length then headerArrived client role op s3 else s3
  let s5 := pushData s4
  match s5.fw.load with
  | none => s5
  | some l =>
    if l.code.isNone ∧ l.len = some (loadBytes s5.toBlocks) then bodyArrived client role op s5 else s5

/-- The bytes that FwChunk row `r` must carry once the length of the image is known. -/
def chunkSize (l : FwLoad) (r : Nat) : Option Nat := l.len.map fun n => min 8192 (n - r * 8192)

/-- The length that an FwChunk row must carry: 8,192 bytes, but the last row, which carries what remains (R394, R463). Row 0
brings the header that tells how long the image is. -/
def chunkLenOk (b : Blocks) (r : Nat) (data : Bytes) : Bool :=
  match b.fw.load.bind fun l => chunkSize l r with
  | some n => data.length == if n = 0 then 8192 else n
  | none => data.length == 8192 ||
      (r == 0 && decide (1024 ≤ data.length) && data.length == 1024 + hdrBodyLength (data.take 1024))

/-- The answer to a write of an FwChunk row (R394), the checks of the bytes it carries apart. -/
def chunkStatus (s : State) (id : SessId) (row : Nat) (data : Bytes) : Status :=
  match s.fw.load with
  | none => .range
  | some l =>
    if l.owner ≠ some id then .busy
    else if l.code.isSome ∨ row ≠ l.row ∨ 8160 ≤ row then .range
    else if (match chunkSize l row with
      | some n => decide (data.length ≠ n)
      | none => decide (8192 < data.length ∨ data.length < 1024)) then .range
    else .ok

/-- An FwChunk row that `chunkStatus` lets pass: the state after it, and its answer. -/
def chunkWritten (client role op : Nat) (data : Bytes) (s : State) : Status × State :=
  let s1 := loadData client role op data (updLoad (fun l => { l with row := l.row + 1 }) s)
  (if s1.rd O.FwLoadStatus 0 F.FwLoadStatus_State = 4 then .range else .ok, s1)

/-- FwStagedLoad: the image in the staging window is loaded at once (R395): its header first, then its body. -/
def stagedWritten (id : SessId) (client role : Nat) (length : Nat) (chain : Bool) (s : State) : State :=
  let image := memRead s.host.staging 0 length
  let s1 := loadBegin (some id) chain s
  let s2 := loadData client role 2 (image.take 1024) s1
  if s2.fw.load.isNone || length ≤ 1024 then
    (if length < 1024 ∧ s2.fw.load.isSome then loadRefuse client role 2 1 s2 else s2)
  else if s2.rd O.FwLoadStatus 0 F.FwLoadStatus_State = 4 then s2
  else
    let body := ((image.drop 1024).take (hdrBodyLength (s2.chest.slot s2.chest.fwMeta.other).header))
    let s3 := loadData client role 2 body s2
    match s3.fw.load with
    | some l => if l.code.isNone then loadRefuse client role 2 8 s3 else s3
    | none => s3

/-- In RECOVERY an accepted image becomes the only VALID slot and FwActiveSlot, and the module is reset with cause 5; a refused
one leaves the module as it is (R447). -/
def recoveryLoaded (s : State) : State :=
  let m := s.chest.fwMeta
  if m.st m.other = 2 then moduleReset 5 (s.setFwMeta fun m => { m with active := m.other }) else s

/-- FW_LOAD_TIMEOUT: no chunk has arrived for 60 s. -/
def execFwLoadTimeout (s : State) : Out :=
  match s.fw.load with
  | some l => if l.code.isNone ∧ l.last + 60 * ticksPerS ≤ s.time.ticks then .next (loadAbort s) else .next s
  | none => .next s

/-! ### The chain (R396 to R399) -/

/-- A firmware message is received: the group is aligned. -/
abbrev hears (b : Blocks) (g : Nat) : Bool := b.groupRuns g && (b.group g).align == 2

/-- Sends a management message on a group. -/
def sendMgmt (g : Nat) (m : Bytes) (s : State) : State := s.updGroup g fun r => { r with mgmt := r.mgmt ++ [m] }

/-- FW_BEGIN: this card starts a load of its own and acknowledges, or answers that it cannot; a repeat of the message is
acknowledged again (R398 step 2). -/
def execFwBegin (group : Fin 16) (transfer : BitVec 16) (entry : BitVec 8) (map : BitVec 16) (_length : BitVec 32) (s : State) :
    Out :=
  let g := group.val
  let tid := transfer.toNat
  if !hears s.toBlocks g then .next s
  else
    let peer := (s.peerOf g).getD s.card
    let same := s.fw.load.any fun l => l.tid == tid && l.via.any fun v => v.1 == peer
    if same then .next (sendMgmt g (ackMessage tid (loadBytes s.toBlocks) ((s.fw.load.bind (·.code)).getD 0)) s)
    else if loadBusy s || !s.served || s.boot.phase == 9 then .next (sendMgmt g (ackMessage tid 0 9) s)
    else .next (sendMgmt g (ackMessage tid 0 0)
      (loadStart none (some (peer, g)) true tid (entry.toNat % 16) map.toNat s))

/-- FW_DATA at the offset expected is written to the slot and checked; at any other offset it is discarded. What was
accepted, or why the image is refused, is acknowledged. -/
def execFwData (group : Fin 16) (transfer : BitVec 16) (offset : BitVec 32) (data : Bytes) (s : State) : Out :=
  let g := group.val
  let tid := transfer.toNat
  let mine := s.fw.load.any fun l => l.tid == tid && l.code.isNone &&
    l.via.any fun v => some v.1 == s.peerOf g
  if !hears s.toBlocks g || !mine || offset.toNat != loadBytes s.toBlocks || data.isEmpty || decide (120 < data.length) then
    .next s
  else
    let s1 := loadData 0xFFFF 0 0 data s
    let code := s1.rd O.FwLoadStatus 0 F.FwLoadStatus_Reason
    .next (sendMgmt g (ackMessage tid (loadBytes s1.toBlocks) code) s1)

/-- The code of the current hop is recorded, and the chain turns to its next card. -/
def hopFailed (code : Nat) (s : State) : State :=
  match s.fw.load with
  | none => s
  | some l =>
    match l.hop with
    | none => s
    | some h => chainSettle (turnTo l.left (updLoad (fun l => { l with codes := l.codes ++ [(h.card, code)] }) s))

/-- FW_ACK: the window moves, the hop is refused, or a refusal of a running hop is recorded (R398). -/
def execFwAck (group : Fin 16) (transfer : BitVec 16) (next : BitVec 32) (status : BitVec 8) (s : State) : Out :=
  match s.fw.load with
  | none => .next s
  | some l =>
    match l.hop with
    | none => .next s
    | some h =>
      if !hears s.toBlocks group.val || l.tid != transfer.toNat || s.peerOf group.val != some h.card then .next s
      else
        match h.acked with
        | none =>
          if status ≠ 0 then .next (hopFailed status.toNat s)
          else
            let h' := { h with acked := some next.toNat, moved := s.time.ticks, sent := next.toNat }
            .next (pushData (updLoad (fun l => { l with hop := some h' }) s))
        | some a =>
          if status ≠ 0 then
            let known := l.codes.any fun e => e.1 == h.card
            let s1 := s.updGroup (hopGroup s.toBlocks h) fun r => { r with mgmt := [] }
            let stop := { h with sent := 2 ^ 32 }
            let note := if known then l.codes else l.codes ++ [(h.card, status.toNat)]
            .next (updLoad (fun l => { l with hop := some stop, codes := note }) s1)
          else if next.toNat ≤ a then .next s
          else
            let h' := { h with acked := some next.toNat, moved := s.time.ticks }
            .next (pushData (updLoad (fun l => { l with hop := some h' }) s))

/-- FW_RESULT of the successor: its codes are merged with those this card recorded (R399). -/
def execFwResult (group : Fin 16) (transfer : BitVec 16) (codes : BitVec 128) (s : State) : Out :=
  match s.fw.load with
  | none => .next s
  | some l =>
    let from_ := l.hop.any fun h => s.peerOf group.val == some h.card
    if !hears s.toBlocks group.val || l.tid != transfer.toNat || !from_ || l.back then .next s
    else
      let got := ((List.range 16).map fun c => (c, bitsOf (127 - 8 * c) (120 - 8 * c) codes.toNat)).filter fun e =>
        e.2 != 255 && !(l.codes.any fun x => x.1 == e.1)
      .next (chainSettle (updLoad (fun l => { l with back := true, codes := l.codes ++ got }) s))

/-- FW_BEGIN_ACK_TIMEOUT: 1 ms without an answer to FW_BEGIN: TIMEOUT, and the next card (R398 step 1). -/
def execFwBeginAckTimeout (s : State) : Out :=
  match s.fw.load.bind (·.hop) with
  | some h =>
    if h.acked.isNone ∧ h.began + ticksPerMs ≤ s.time.ticks then .next (hopFailed 10 s) else .next s
  | none => .next s

/-- A hop that has been answered and has not acknowledged the whole image. -/
def hopOpen (l : FwLoad) (h : FwHop) : Bool :=
  match h.acked, l.len with
  | some a, some n => decide (a < n) && decide (h.sent < 2 ^ 32) && !l.back
  | _, _ => false

/-- FW_RESEND: the acknowledged offset has not advanced for 100 µs: FW_DATA is sent again from NextOffset. -/
def execFwResend (s : State) : Out :=
  match s.fw.load with
  | none => .next s
  | some l =>
    match l.hop with
    | none => .next s
    | some h =>
      if hopOpen l h ∧ max h.moved h.resent + 100 * ticksPerUs ≤ s.time.ticks then
        let s1 := s.updGroup (hopGroup s.toBlocks h) fun r => { r with mgmt := [] }
        let h' := { h with sent := h.acked.getD 0, resent := s.time.ticks }
        .next (pushData (updLoad (fun l => { l with hop := some h' }) s1))
      else .next s

/-- FW_HOP_TIMEOUT: the offset has not advanced for 100 ms: TIMEOUT for the card, and the chain ends here (R398 step 4). -/
def execFwHopTimeout (s : State) : Out :=
  match s.fw.load with
  | none => .next s
  | some l =>
    match l.hop with
    | none => .next s
    | some h =>
      if hopOpen l h ∧ h.moved + 100 * ticksPerMs ≤ s.time.ticks then
        let note := l.codes ++ [(h.card, 10)]
        .next (chainSettle (updLoad (fun l => { l with hop := none, left := [], codes := note }) s))
      else .next s

/-! ### Activation (R400 to R405) -/

def setAct (f v : Nat) (s : State) : State := s.wr O.FwActivationStatus 0 f v

/-- Grid time `ms` milliseconds from now, as a 0.25 ns count. -/
abbrev inMs (b : Blocks) (ms : Nat) : Nat := b.gridQ + ms * 4000000

/-- The answer to a write of FwActivate that names instant `q` (a 0.25 ns count; 0 for the first possible cycle; R400). -/
def activateStatus (s : State) (q : Nat) : Status :=
  let m := s.chest.fwMeta
  if m.st m.other ≠ 2 then .range
  else if hdrJournal (s.chest.slot m.other).header ≠ hdrJournal (s.chest.slot m.active).header then .range
  else if q ≠ 0 ∧ (q < inMs s.toBlocks (catalogDefault O.FwPrepareTime 0) ∨ inMs s.toBlocks 3600000 < q) then .range
  else if s.fw.load.isSome || s.fw.act.isSome || lifeBusy s.toBlocks || !standbyReady s.toBlocks then .busy
  else .ok

/-- An activation begins its preparation (R401). -/
def activateWritten (q : Nat) (s : State) : State :=
  let s1 := setAct F.FwActivationStatus_LastReason 0 (setAct F.FwActivationStatus_State 1 (standbyLost s))
  s1.upFw fun w => { w with act := some ⟨if q = 0 then none else some q, false⟩ }

/-- The activation ends before the swap: FAILED with its reason; the standby pair reboots on the running image. -/
def activateFail (reason : Nat) (s : State) : State :=
  (setAct F.FwActivationStatus_LastReason reason (setAct F.FwActivationStatus_State 6 s)).upFw fun w =>
    { w with act := none }

/-- The checks 2 to 6 and 8 that Coffer repeats in preparation. -/
def verifyAgain (s : State) (x : FwSlot) : Bool :=
  let c := headerCheck s x.header
  (c == 0 || c == 7) && bodyOk x

/-- FW_PREPARE_READY: the standby pair runs the new image and follows the journal (R401). Without an instant the swap is due
at the first Rack cycle start after now (R400). -/
def execFwPrepareReady (s : State) : Out :=
  match s.fw.act with
  | none => .next s
  | some a =>
    if a.ready || !verifyAgain s (s.chest.slot s.chest.fwMeta.other) then .next s
    else
      let at_ := some (a.at_.getD (s.gridQ + 1))
      .next ((setAct F.FwActivationStatus_State 2 s).upFw fun w => { w with act := some ⟨at_, true⟩ })

/-- The instant of the swap has come: the first Rack cycle start at or after t. -/
def swapDue (b : Blocks) (a : FwAct) : Bool :=
  match a.at_ with
  | none => false
  | some t => decide (ceilDiv t cycleQ * cycleQ ≤ b.gridQ)

/-- FW_SWAP: the pairs exchange roles and the new slot is in TRIAL, or the activation fails as PREPARE_LATE (R401, R402).
The slot left becomes VALID, since exactly one slot is ACTIVE or TRIAL (R390; log 89). -/
def execFwSwap (s : State) : Out :=
  match s.fw.act with
  | none => .next s
  | some a =>
    if !swapDue s.toBlocks a then .next s
    else if !a.ready then .next (activateFail 1 s)
    else
      let m := s.chest.fwMeta
      let s1 := s.setFwMeta fun m => { (m.setSt m.other 4).setSt m.active 2 with active := m.other }
      let s2 := setAct F.FwActivationStatus_SelfTestPassed 0 (setAct F.FwActivationStatus_State 3 s1)
      let s3 := setAct F.FwActivationStatus_SwapTime (time80OfQ (s.gridQ / cycleQ * cycleQ)) s2
      let s4 := auditEntry .firmware 0xFFFF 0 0 0 m.other 0 0 (raise (src 9 7) s3)
      let s5 := s4.upFw fun w => { w with act := none, trialSince := some s.time.ticks, trialCold := false }
      .next (s5.upBoot fun b => { b with pair := 1 - b.pair })

/-- SELF_TEST_PASSED: the running TRIAL image has completed its self-test. -/
def execSelfTestPassed (s : State) : Out :=
  if inTrial s then .next (setAct F.FwActivationStatus_SelfTestPassed 1 s) else .next s

/-- The answer to FwActivateCancel: after the swap, BUSY (R401). -/
def cancelStatus (s : State) : Status := if s.fw.act.isNone && inTrial s then .busy else .ok

/-- A cancelled activation; without one nothing happens (log 90). -/
def cancelWritten (s : State) : State := if s.fw.act.isSome then activateFail 2 s else s

/-- The answer to FwConfirm (R403). -/
def confirmStatus (s : State) : Status :=
  if !inTrial s then .range
  else if s.rd O.FwActivationStatus 0 F.FwActivationStatus_SelfTestPassed = 0 then .busy else .ok

/-- The TRIAL slot is confirmed, in one journalled write (R403). -/
def confirmWritten (s : State) : State :=
  let m := s.chest.fwMeta
  let least := max m.minRollback (hdrRollback (s.chest.slot m.active).header)
  let old := if m.st m.other = 2 ∧ hdrRollback (s.chest.slot m.other).header < least then 6 else m.st m.other
  let s1 := s.setFwMeta fun m => { (m.setSt m.active 3).setSt m.other old with minRollback := least }
  let s2 := standbyLost (setAct F.FwActivationStatus_State 4 s1)
  s2.upFw fun w => { w with trialSince := none, rollback := none }

/-- The roles swap back (R404): the old slot is ACTIVE, the TRIAL slot REJECTED. -/
def rollbackNow (reason : Nat) (s : State) : State :=
  let m := s.chest.fwMeta
  let s1 := s.setFwMeta fun m => { (m.setSt m.other 3).setSt m.active 5 with active := m.other }
  let s2 := setAct F.FwActivationStatus_LastReason reason (setAct F.FwActivationStatus_State 5 s1)
  let s3 := auditEntry .firmware 0xFFFF 0 0 0 m.active 0 0 (raise (src 9 8) s2)
  let s4 := (standbyLost s3).upFw fun w => { w with trialSince := none, rollback := none }
  s4.upBoot fun b => { b with pair := 1 - b.pair }

/-- A rollback is due: at the next Rack cycle start, or for an image booted in TRIAL by a module reset with cause 5
(R404, R405). -/
def rollbackAsked (reason : Nat) (s : State) : State :=
  if s.fw.trialCold then moduleReset 5 s else s.upFw fun w => { w with rollback := some reason, trialSince := none }

/-- FW_CONFIRM_TIMEOUT: FwConfirmTimeout has passed without a confirmation. -/
def execFwConfirmTimeout (s : State) : Out :=
  match s.fw.trialSince with
  | some t =>
    if inTrial s ∧ t + s.sc O.FwConfirmTimeout * ticksPerS ≤ s.time.ticks then .next (rollbackAsked 3 s) else .next s
  | none => .next s

/-- RACK_CYCLE_START: a pending rollback is made at it, and the cycle begins (R258, R404). -/
def execRackCycleStart (s : State) : Out :=
  let starts := s.mesh.lastCycle ≠ some (s.gridQ / cycleQ)
  match s.fw.rollback with
  | some r => .next (rackCycleStart (if starts then rollbackNow r s else s))
  | none => .next (rackCycleStart s)

/-- The answer to FwActivateAtReset (R405). -/
def atResetStatus (s : State) (v : Nat) : Status :=
  let m := s.chest.fwMeta
  if v = 0 then .ok else if v = 1 ∧ m.st m.other = 2 then .ok else .range

def atResetWritten (v : Nat) (s : State) : State := s.setFwMeta fun m => m.setMark m.other (v == 1)

/-- A waiting request that the handover journal does not hold is gone without a response: nothing of it applies, its
transaction is open again, and a retry of its RequestId is a new request (R123, R64). -/
def forgetRequest (s : State) (w : Wait) : State :=
  let s1 : State := { s with waits := s.waits.filter fun v => v.order != w.order }
  let back := fun t : Txn => if t.st = .waiting then { t with st := .open_, at_ := none } else t
  s1.updSess w.sess fun x =>
    { x with running := x.running.filter fun e => e.1 != w.rid, txn := if w.direct then x.txn else x.txn.map back }

/-- The requests among those that wait for their commit that the journal does not hold: which, the spec leaves open, a free
value. A BAR0 write is posted and has no response: the journal holds it (log 141). -/
def forgetUnheld (s : State) : State :=
  let (k, s1) := s.fresh
  (s1.waits.filter fun w => !Config.journalHolds k w.order && w.sess != .bar0).foldl forgetRequest s1

/-- LOCKSTEP_MISMATCH: the standby pair takes over, and the failed pair is held in reset; during a trial the takeover is the
rollback (R123, R404), but of an image booted in TRIAL, which the standby runs as well, the module reset of R405 (log 183).
A second fault while no standby is ready is outside what the spec describes, and changes nothing here (log 91). -/
def execLockstepMismatch (s : State) : Out :=
  if !standbyReady s.toBlocks then .next s
  else
    let s1 := forgetUnheld (raise (src 0 1) (s.sat32 O.BureauFailoverCount 0 0 1))
    if inTrial s ∧ s.fw.trialCold then .next (rollbackAsked 5 s1)
    else if inTrial s then .next (holdFailed (rollbackNow 5 s1))
    else .next (holdFailed ((standbyLost s1).upBoot fun b => { b with pair := 1 - b.pair }))

/-! ### The slot at boot (R406) -/

/-- ROM's checks of a candidate: hardware, vendor signature, body hash, RollbackCounter. -/
def bootable (s : State) (i : Nat) : Bool :=
  let x := s.chest.slot i
  hdrForm x.header == 0 && vendorOk x.header && bodyOk x && decide (s.chest.fwMeta.minRollback ≤ hdrRollback x.header)

/-- The candidate fails: INVALID, unmarked; the other slot is tried if it is VALID or ACTIVE, and its boot is a rollback. -/
def bootOther (i : Nat) (s : State) : Bool × State :=
  let m := s.chest.fwMeta
  if (m.st i = 2 ∨ m.st i = 3) ∧ bootable s i then
    (true, raise (src 9 8) (s.setFwMeta fun m => { m.setSt i 3 with active := i }))
  else (false, if m.st i = 2 ∨ m.st i = 3 then s.setFwMeta fun m => m.setSt i 6 else s)

/-- Boots candidate `i`, with `trial` as TRIAL. -/
def bootSlot (i : Nat) (trial : Bool) (s : State) : Bool × State :=
  if bootable s i then
    let st := if trial then 4 else 3
    let s1 := s.setFwMeta fun m =>
      let other := if m.st (1 - i) = 3 then 2 else m.st (1 - i)
      { ((m.setSt i st).setSt (1 - i) other).setMark i false with active := i }
    (true, s1.upFw fun w => { w with trialCold := trial })
  else bootOther (1 - i) (s.setFwMeta fun m => (m.setSt i 6).setMark i false)

/-- The choice of R406: whether a slot was found, and the state after it. A slot found RECEIVING is INVALID (R390). -/
def chooseSlot (s : State) : Bool × State :=
  let fix := fun (i : Nat) (s : State) => if s.chest.fwMeta.st i = 1 then s.setFwMeta fun m => m.setSt i 6 else s
  let s := fix 1 (fix 0 s)
  let m := s.chest.fwMeta
  if m.markA then bootSlot 0 true s
  else if m.markB then bootSlot 1 true s
  else if m.st m.active = 4 then bootOther (1 - m.active) (s.setFwMeta fun m => m.setSt m.active 5)
  else if m.st m.active = 0 then bootOther (1 - m.active) s
  else bootSlot m.active false s

end Sys2Proof.Machine
end

