-- ==== Sys2Proof/Machine/Security.lean ====
section
/-! DEFINITION. Session admission and closing, credentials and keys, the life cycle and its wipes (chapter 16; R39, R40,
R61, R78). -/
namespace Sys2Proof.Machine

/-! ### Closing sessions (R39) -/

/-- A session closes: a load it owns is aborted, and what it holds is released (R39, R393). -/
def closeSession (id : SessId) (s : State) : State :=
  let s1 := if s.fw.load.any fun l => l.owner == some id then loadAbort s else s
  removeSession id (releaseSession id s1)

/-- Closes every session that meets a condition. -/
def closeWhere (p : Sess → Bool) (s : State) : State :=
  (s.sessions.filter p).foldl (fun a x => closeSession x.id a) s

/-- SESSION_CLOSE: the peer closes a session. -/
def execSessionClose (sess : SessId) (s : State) : Out :=
  match s.sess? sess with
  | some _ => .next (closeSession sess s)
  | none => .next s

/-- ZOA_SESSION_IDLE_CLOSE: a ZOA session has carried no message for 600 s. -/
def execZoaSessionIdleClose (sess : SessId) (s : State) : Out :=
  match sess, s.sess? sess with
  | .zoa _, some x => if x.last + 600 * ticksPerS ≤ s.time.ticks then .next (closeSession sess s) else .next s
  | _, _ => .next s

/-! ### Opening sessions (R39, R61, R78, R80, R372, R373) -/

/-- A credential row in use. -/
abbrev credOf (b : Blocks) (row fld : Nat) : Nat := b.rd O.ZoaCredential row fld

/-- The valid CERT row that pins a key. -/
def certRow (b : Blocks) (hash : Nat) : Option Nat :=
  (List.range 64).find? fun r => credOf b r F.ZoaCredential_Valid == 1 && credOf b r F.ZoaCredential_Kind == 0 &&
    credOf b r F.ZoaCredential_SpkiHash == hash

/-- The valid PSK row that an identity names, when the client's key is the named tenant key and that key was installed in
the present life-cycle state. -/
def pskRow (b : Blocks) (row key : Nat) : Option Nat :=
  let slot := credOf b row F.ZoaCredential_TenantSlot
  let good := decide (row < 64) && credOf b row F.ZoaCredential_Valid == 1 && credOf b row F.ZoaCredential_Kind == 1 &&
    b.rd O.TenantKey slot F.TenantKey_Valid == 1 && b.rd O.TenantKey slot F.TenantKey_Key == key &&
    b.rd O.TenantKeyStatus slot F.TenantKeyStatus_InstallState == b.life
  if good then some row else none

/-- What a credential gives: a role with its row, or the reason of the refusal (R372). -/
def admitCred (b : Blocks) (c : Cred) : Except Nat (Nat × Option Nat) :=
  let row := fun (r : Option Nat) => match r with
    | some r => if b.life = 0 then .error 1 else .ok (credOf b r F.ZoaCredential_Role, some r)
    | none => .error 1
  match c with
  | .cert h => row (certRow b h.toNat)
  | .psk i k => row (pskRow b i.toNat k.toNat)
  | .vendor chains => if chains ∧ b.life = 3 ∧ b.sc O.VendorServiceAllow = 1 then .ok (5, none) else .error 3

/-- A session opens; sessions are numbered in the order they are assigned (R221). -/
def openSession (kind : SessKind) (role : Nat) (cred : Option Nat) (a : Arrival) (s : State) : State :=
  let n := s.nextSess
  { s with
    sessions := s.sessions ++ [{ newSess (.zoa n) kind role (0x4000 + n % 4096) s.time.ticks cred with net := some a }]
    nextSess := n + 1 }

/-- A refused handshake (R39, R372). -/
def refuseHandshake (reason : Nat) (h : Handshake) (s : State) : State :=
  raise (src 9 9) (auditEntry .sessionRefused 0xFFFF 0 0 0 0 reason h.peer.toNat s)

/-- DTLS_HANDSHAKE: a client authenticates, or begins a cleartext association. -/
def execDtlsHandshake (h : Handshake) (s : State) : Out :=
  if !zoaServed s.toBlocks h.arrival then .next s
  else
    let full := decide (32 ≤ s.zoaSessions.length)
    match h.cred with
    | none =>
      if !cleartextOk s.toBlocks h.arrival || full then .next s
      else .next (openSession .cleartext 1 none h.arrival s)
    | some c =>
      match admitCred s.toBlocks c with
      | .error r => .next (refuseHandshake r h s)
      | .ok (role, row) =>
        if full then .next (refuseHandshake 2 h s)
        else .next (openSession (if isInband h.arrival then .inband else .dtls) role row h.arrival s)

/-! ### Credentials and keys (R373, R381, R385) -/

/-- Sessions authenticated with a credential row. -/
def closeCred (row : Nat) (s : State) : State := closeWhere (fun x => x.cred == some row) s

/-- Sessions authenticated with a tenant key. -/
def closeTenant (slot : Nat) (s : State) : State :=
  closeWhere (fun x => x.cred.any fun r =>
    credOf s.toBlocks r F.ZoaCredential_Kind == 1 && credOf s.toBlocks r F.ZoaCredential_TenantSlot == slot) s

/-- What a written TenantKey row sets beside itself: its status, with the state it was installed in; a row that is not
valid holds no key (Table 16-11). -/
def tenantWritten (row : Nat) (s : State) : State :=
  let v := s.rd O.TenantKey row F.TenantKey_Valid
  let s1 := if v = 1 then s else s.wr O.TenantKey row F.TenantKey_Key 0
  let s2 := s1.wr O.TenantKeyStatus row F.TenantKeyStatus_Valid v
  s2.wr O.TenantKeyStatus row F.TenantKeyStatus_InstallState (if v = 1 then s.life else 0)

/-- The stored values that a security object sets beside its own, which its commit's journal record carries with it (R41). -/
def besideKeys (obj row : Nat) : List (Nat × Nat × Nat) :=
  if obj = O.TenantKey then
    [(O.TenantKey, row, F.TenantKey_Key), (O.TenantKeyStatus, row, F.TenantKeyStatus_Valid),
      (O.TenantKeyStatus, row, F.TenantKeyStatus_InstallState)]
  else if obj = O.OwnerKeyRotate then [(O.OwnerKey, 0, 0)]
  else []

/-- The values of `besideKeys` after a write of `v` (R381, Table 16-11). -/
def besideValues (obj row v : Nat) (s : State) : State :=
  if obj = O.TenantKey then tenantWritten row s
  else if obj = O.OwnerKeyRotate then s.ws O.OwnerKey (v / 2 ^ 768)
  else s

/-- The signature of an OwnerKeyRotate value verifies: by the present owner key, over UnitSerial and the new key (R381). -/
def rotateOk (s : State) (v : Nat) : Bool :=
  s.life == 3 && Config.ecdsaVerify (beBytes 97 s.ownerKey) (beBytes 96 (v % 2 ^ 768))
    (beBytes 8 s.chest.serial ++ beBytes 97 (v / 2 ^ 768))

/-- What a commit of a security object does beside its value, with its audit entry (R373, R381, R385). -/
def securityApplied (client role op obj row : Nat) (s : State) : State :=
  let entry := fun k s => auditEntry k client role op obj row 0 0 s
  if obj = O.ZoaCredential then closeCred row (entry .credential s)
  else if obj = O.TenantKey then closeTenant row (entry .key s)
  else if obj = O.OwnerKey ∨ obj = O.OwnerKeyRotate then entry .key s
  else if obj = O.HostRole ∨ obj = O.VendorServiceAllow then entry .credential s
  else s

/-! ### The life cycle (R375 to R380, R384) -/

def setLife (f v : Nat) (s : State) : State := s.wr O.LifeCycleStatus 0 f v

abbrev lifeField (b : Blocks) (f : Nat) : Nat := b.rd O.LifeCycleStatus 0 f

/-- ProvisioningToken is valid (R377). -/
def tokenOk (s : State) : Bool :=
  let t := beBytes 160 (s.sc O.ProvisioningToken)
  let hash := beAt t 12 48
  beAt t 0 4 == 0x5A50544B && beAt t 4 8 == s.chest.serial && beAt t 60 4 == 0 &&
    Config.ecdsaVerify Config.provisioningKey (t.drop 64) (t.take 64) &&
    (hash == 0 || (s.ownerKey != 0 && hash == (Config.sha384 (beBytes 97 s.ownerKey)).toNat))

/-- A valid CERT row with role SEC. -/
def hasSecCert (b : Blocks) : Bool :=
  (List.range 64).any fun r => credOf b r F.ZoaCredential_Valid == 1 && credOf b r F.ZoaCredential_Kind == 0 &&
    credOf b r F.ZoaCredential_Role == 4

/-- Table 16-3, but for the token. -/
def transition (s : State) (from_ to_ : Nat) : Bool :=
  match from_, to_ with
  | 0, 1 => hasSecCert s.toBlocks
  | 1, 2 => true
  | 2, 3 => true
  | 3, 2 => !s.chest.sample
  | _, t => t == 4 && from_ != 4

/-- The answer to a write of LifeCycleRequest (R376 to R378). -/
def lifeStatus (s : State) (to_ : Nat) : Status :=
  let cur := s.life
  if lifeBusy s.toBlocks || s.fw.act.isSome then .busy
  else if to_ = cur then .ok
  else if cur = 0 ∧ to_ = 1 then
    if 8 ≤ lifeField s.toBlocks F.LifeCycleStatus_TokenRefusals then .busy
    else if !tokenOk s then .range
    else if transition s 0 1 then .ok else .range
  else if transition s cur to_ then .ok
  else .range

/-- The state a request leads to: on an engineering sample MAINTENANCE in place of OPERATIONAL (R4, R376). -/
def entered (s : State) (to_ : Nat) : Nat := if to_ = 2 ∧ s.chest.sample ∧ s.life ≠ 2 then 3 else to_

/-- The LIFECYCLE entry of a request, and LifeCycleStatus. -/
def lifeEntry (client role to_ : Nat) (st : Status) (s : State) : State :=
  let cur := s.life
  let goes := if st = .ok then entered s to_ else cur
  let d := cur * 2 ^ 60 + to_ % 16 * 2 ^ 56 + st.code * 2 ^ 48 + goes * 2 ^ 44
  let s1 := auditEntry .lifecycle client role 2 O.LifeCycleRequest 0 0 d s
  let s2 := setLife F.LifeCycleStatus_LastStatus st.code (setLife F.LifeCycleStatus_LastTarget to_ s1)
  if st = .ok then setLife F.LifeCycleStatus_LastEntered goes s2 else s2

/-- A refused request: its entry, and a refused token's own (R377). -/
def lifeRefused (client role to_ : Nat) (st : Status) (s : State) : State :=
  let token := st == .range && s.life == 0 && to_ == 1 && !tokenOk s
  let s1 := if token then
      let n := lifeField s.toBlocks F.LifeCycleStatus_TokenRefusals
      auditEntry .tokenRefused client role 2 O.ProvisioningToken 0 0 (auditStatus .range)
        (setLife F.LifeCycleStatus_TokenRefusals (min 8 (n + 1)) s)
    else s
  lifeEntry client role to_ st s1

/-- Commits that wait for an instant are cancelled (R379). -/
def cancelTimed (s : State) : State :=
  let mine := s.sessions.filter fun x => x.txn.any fun t => t.at_.isSome && (t.st == .pending || t.st == .waiting)
  mine.foldl (fun a x => abortTxn x.id .ok a) { s with orphans := [] }

/-- Line ports and mesh groups go down for good (R379). -/
def haltTraffic (s : State) : State :=
  let s1 := s.upBoot fun b => { b with phase := if b.phase = 7 then 6 else b.phase }
  let s2 := (List.range 128).foldl (fun a p => if a.link p = 0 then a else setLink p 0 a) s1
  s2.upMesh fun m => { m with groups := [] }

/-- An accepted request (R378 steps 1 and 2): the intent is recorded, and InProgress reads 1. A request for the current
state has no effect. -/
def lifeAccepted (client role to_ : Nat) (s : State) : State :=
  let s1 := lifeEntry client role to_ .ok s
  if to_ = s.life then s1
  else
    let goes := entered s to_
    let s2 := s1.journal [] 64 { JRec.plain with intent := some s1.chest.intent }
    let s3 : State := { s2 with chest := { s2.chest with intent := some (s.life, goes) } }
    let s4 := (setLife F.LifeCycleStatus_InProgress 1 s3).upBoot fun b => { b with lifeAt := s.time.ticks }
    if goes = 4 then haltTraffic (cancelTimed s4) else s4

/-- A sample record of a sealed packet. -/
def sealedRecord (d : Bytes) : Bool := (byteAt d 1).testBit 7

/-- Records of sealed packets leave the sample buffer and the host slots not handed over (Table 16-6). -/
def wipeSealed (s : State) : State :=
  s.upTel fun t => { t with
    samples := t.samples.filter fun e => !sealedRecord e.2.2
    slots := (List.range 9).foldl
      (fun a r => Tbl.put [] r ((Tbl.get [] t.slots r).filter fun e => !sealedRecord e.2) a) t.slots }

/-- Tenant keys installed in the state being left are destroyed. -/
def wipeTenants (from_ : Nat) (s : State) : State :=
  (List.range 16).foldl (fun a r =>
    if a.rd O.TenantKeyStatus r F.TenantKeyStatus_Valid = 1 ∧ a.rd O.TenantKeyStatus r F.TenantKeyStatus_InstallState = from_ then
      let a1 := (a.wrHome O.TenantKey r F.TenantKey_Valid 0).wrHome O.TenantKey r F.TenantKey_Key 0
      (a1.wrHome O.TenantKeyStatus r F.TenantKeyStatus_Valid 0).wrHome O.TenantKeyStatus r F.TenantKeyStatus_InstallState 0
    else a) s

/-- Sessions at a change: DTLS sessions close, and cleartext ones where the new state serves none; of the others the
transactions and snapshots are aborted, timed commits apart (R379, R384). -/
def lifeSessions (to_ : Nat) (s : State) : State :=
  let gone := fun x : Sess => x.kind == .dtls || x.kind == .inband || (x.kind == .cleartext && (to_ == 2 || to_ == 4))
  let s1 := closeWhere gone s
  s1.sessions.foldl (fun a x =>
    let a1 := match x.txn with
      | some t => if t.st = .pending ∧ to_ ≠ 4 then a else abortTxn x.id .ok a
      | none => a
    endSnap x.id a1) s1

/-- Everything in Chest but the firmware slots and their metadata is wiped, and the dictionary's persistent values with it
(Table 16-6, R380). -/
def wipeChest (s : State) : State :=
  let kept := s.store.filter fun e => match objInfo? (e.1 / 2 ^ 40) with
    | some o => o.pers != 1
    | none => true
  let c : Chest := { s.chest with
    home := [], journal := [], audit := [], auditNext := 0, rootKeyGone := true, unitKey := false }
  let s1 : State := { s with store := kept, chest := c }
  (s1.wr O.WipeStatus 0 F.WipeStatus_ChestDone 1).wr O.WipeStatus 0 F.WipeStatus_DurationUs
    ((s.time.ticks - s.boot.lifeAt) / ticksPerUs % 2 ^ 32)

/-- What ends with MAINTENANCE (R40, R330, R386). -/
def leaveMaintenance (s : State) : State :=
  let s1 := closeWhere (fun x => x.kind == .dtls && x.role == 5) s
  let s2 := if s1.sc O.HostRole = 5 then s1.wrHome O.HostRole 0 0 2 else s1
  let s3 := s2.ws O.JtagDebugEnable 0
  serviceWritten 0 (s3.ws O.HbmServiceMode 0)

/-- Steps 3 and 4 of R378: the wipes of the state left, and the new state. The unit key pair is generated on the way to
PROVISIONED. -/
def lifeFinish (from_ to_ : Nat) (s : State) : State :=
  let s1 := wipeSealed (wipeTenants from_ (lifeSessions to_ s))
  let s2 := if from_ = 3 then leaveMaintenance s1 else s1
  let s3 := if to_ = 1 then
      let (k, s) := s2.fresh
      let s := s.wrHome O.UnitPublicKey 0 0 (Config.unitPublicKey k).toNat
      { s with chest := { s.chest with unitKey := true } }
    else s2
  let s4 := if to_ = 4 then wipeChest s3 else s3
  let s5 := (s4.ws O.LifeCycleState to_).journal [(O.LifeCycleState, 0, 0)] 64
    { JRec.plain with intent := some s4.chest.intent }
  let s6 : State := { s5 with chest := { s5.chest with intent := none } }
  raise (src 9 5) (setLife F.LifeCycleStatus_InProgress 0 s6)

/-- LIFECYCLE_CHANGE_COMPLETE: the wipes of an accepted change have ended. A Chest wipe that fails its verification leaves
the change unfinished (R383, log 92). -/
def execLifecycleChangeComplete (verified : Bool) (s : State) : Out :=
  match s.chest.intent with
  | none => .next s
  | some (f, t) =>
    if !lifeBusy s.toBlocks then .next s
    else if t = 4 ∧ !verified then .next (wipeFailed 4 s)
    else .next (lifeFinish f t s)

end Sys2Proof.Machine
end

