-- ==== Sys2Proof/Machine/Clocks.lean ====
section
/-! DEFINITION. Reference clocks and resets (chapter 19), the host link's resets (R335), and the phases of
bring-up but for the restore of the dictionary (chapter 20). -/
namespace Sys2Proof.Machine

/-! ### The host link (R335) -/

/-- Rings and channels stop, the host's sessions close, and Bus Master Enable is clear again (log 94). -/
def hostGone (s : State) : State :=
  let ids : List SessId := .bar0 :: [0, 1, 2, 3].map fun k : Fin 4 => SessId.mailbox k
  let s1 := ids.foldl (fun a i => closeSession i a) (hostReset s)
  s1.wr O.PcieLinkStatus 0 F.PcieLinkStatus_BusMasterEnable 0

/-- The link is down. -/
def linkGone (s : State) : State :=
  (hostGone s |>.wr O.PcieLinkStatus 0 F.PcieLinkStatus_Speed 0).wr O.PcieLinkStatus 0 F.PcieLinkStatus_Width 0

/-- PCIE_LINK_RESET: a Function Level Reset, a hot reset, or the link going down; `lost` are the count differences in
flight on the PCIe crossing. -/
def execPcieLinkReset (k : LinkReset) (lost : BitVec 16) (s : State) : Out :=
  let s1 := crossingLoss 147 lost.toNat s
  match k with
  | .functionLevel =>
    .next (raise (src 9 4) (hostGone (s1.add64 O.PcieErrorCounters 0 F.PcieErrorCounters_FunctionResets 1)))
  | .hot => .next (hostGone s1)
  | .down => .next (linkGone s1)

/-! ### Reference clocks (R428, Table 19-2) -/

/-- The ports of a half come to DOWN, or up again, with their reference. -/
def portHalf (h : Nat) (s : State) : State :=
  (List.range 64).foldl (fun a k => if a.link (64 * h + k) = 0 then a else restartPort (64 * h + k) a) s

/-- The groups of a half report LOL. -/
def groupHalf (h : Nat) (s : State) : State :=
  (List.range 8).foldl (fun a k =>
    let g := 8 * h + k
    if a.groupOn g then dropJoin g (raiseDefect g 2 a) else a) s

/-- Marks SERDES_REF `i` lost or present. -/
def setLost (i : Nat) (lost : Bool) (s : State) : State :=
  s.upBoot fun b => { b with lost := if lost then b.lost ||| 2 ^ i else b.lost &&& (15 - 2 ^ i) }

/-- REFERENCE_CLOCK_LOSS: a reference that was present is declared lost. -/
def execReferenceClockLoss (input : Fin 6) (s : State) : Out :=
  let i := input.val
  if !s.pins.refs.testBit i then .next s
  else
    let s1 : State := { s with pins := { s.pins with refs := s.pins.refs - 2 ^ i } }
    let s2 := s1.sat32 O.ClockLossCount i 0 1
    match i with
    | 0 => .next (moduleReset 4 s2)
    | 1 => .next (portHalf 0 (setLost 0 true s2))
    | 2 => .next (portHalf 1 (setLost 1 true s2))
    | 3 => .next (groupHalf 0 (setLost 2 true s2))
    | 4 => .next (groupHalf 1 (setLost 3 true s2))
    | _ => .next (linkGone s2)

/-- REFERENCE_CLOCK_RESTORE: a lost reference is within bounds again: the module leaves the reset that a lost SYS_REF holds
it in, or the ports come up again; groups recover by their alignment. -/
def execReferenceClockRestore (input : Fin 6) (s : State) : Out :=
  let i := input.val
  if s.pins.refs.testBit i then .next s
  else
    let s1 : State := { s with pins := { s.pins with refs := s.pins.refs + 2 ^ i } }
    match i with
    | 0 => .next (leaveReset s1)
    | 1 => .next (portHalf 0 (setLost 0 false s1))
    | 2 => .next (portHalf 1 (setLost 1 false s1))
    | 3 => .next (setLost 2 false s1)
    | 4 => .next (setLost 3 false s1)
    | _ => .next s1

/-- ClockStatus: the references present, and the PLLs, which are locked while SYS_REF is present (log 95). -/
def clockStatus (s : State) : Nat := s.pins.refs % 64 + (if s.pins.refs.testBit 0 then 0xFF00 else 0)

/-! ### Module resets (R410, R430) -/

/-- The rail order as the power-up showed it goes to the always-on domain (R410). -/
def noteOrder (r : Option (Fin 10)) (s : State) : State :=
  match r with
  | none => s
  | some r => if s.ao.seqViolation then s else { s with ao := { s.ao with seqViolation := true, seqRail := r.val } }

/-- Coffer copies the sequence record into PowerSequence. -/
def copyOrder (s : State) : State :=
  (s.wr O.PowerSequence 0 F.PowerSequence_Violation (bit s.ao.seqViolation)).wr O.PowerSequence 0 F.PowerSequence_FirstRail
    (if s.ao.seqViolation then s.ao.seqRail else 0)

/-- POWER_ON_RESET: POR_N falls and the module is reset, or it rises and the module leaves reset; a rise after a loss of
power is a power-up. -/
def execPowerOnReset (e : PorEdge) (s : State) : Out :=
  match e with
  | .fall => if s.pins.porLow then .next s else .next (moduleReset 1 { s with pins := { s.pins with porLow := true } })
  | .rise r =>
    let s1 : State := { s with pins := { s.pins with porLow := false, noPower := false } }
    .next (leaveReset (copyOrder (noteOrder r s1)))

/-- MODULE_RESET_PIN: MOD_RST_N has been low for `ns` nanoseconds; pulses shorter than 1 µs are ignored. -/
def execModuleResetPin (ns : Nat) (s : State) : Out := if ns < 1000 then .next s else .next (moduleReset 2 s)

/-! ### Block resets (R433) -/

/-- The answer to a write of BlockReset. -/
def blockResetStatus (b : Blocks) (row v : Nat) : Status :=
  if v ≠ 1 then .range
  else if row < 128 then (if b.portCfg row F.PortConfig_Enable = 1 then .ok else .range)
  else if row < 144 then .ok
  else if row < 146 then (if row - 144 = b.boot.pair then .busy else .ok)
  else if b.life = 3 ∧ b.sc O.HbmServiceMode = 1 then .ok
  else .busy

/-- Every transaction and snapshot is aborted, timed commits included. -/
def abortAll (s : State) : State :=
  s.sessions.foldl (fun a x => endSnap x.id (if x.txn.isSome then abortTxn x.id .busy a else a)) { s with orphans := [] }

/-- What the reset of a block does (Table 19-5). -/
def blockEffect (row : Nat) (s : State) : State :=
  if row < 128 then
    let n := (s.port row).rx.length
    let s1 := (s.add64 O.PortCounters row F.PortCounters_RxOverflow n).updPort row fun r => { r with rx := [] }
    restartPort row s1
  else if row < 144 then
    let g := row - 128
    dropJoin g ((toHunt g s).updGroup g fun r => { r with hdr := none })
  else if row < 146 then standbyLost s
  else
    let s1 := standbyLost (hostReset (abortAll s))
    trainBegin (s1.upShelf fun h => { h with owned := [] })

/-- A block enters reset; a block already in reset stays as it is. `lost` are the count differences in flight. -/
def blockReset (row lost : Nat) (s : State) : State :=
  if s.inReset row then s
  else
    let s1 := s.upBoot fun b => { b with blocks := b.blocks ++ [(row, s.time.ticks)] }
    blockEffect row (crossingLoss row lost (s1.wr O.BlockResetActive row 0 1))

/-- Block `r` has been in reset for 1 µs; a failed Bureau pair stays in reset until it is resynchronised (R123, R433). -/
def releaseDue (b : Blocks) (r : Nat) : Bool :=
  (b.boot.blocks.any fun e => e.1 == r && decide (e.2 + ticksPerUs ≤ b.time.ticks)) &&
    !(b.boot.failed && r == standbyRow b)

/-- BLOCK_RESET_RELEASE: 1 µs after its reset a block is released, and its crossings resynchronise. -/
def execBlockResetRelease (row : Fin 147) (s : State) : Out :=
  let r := row.val
  if releaseDue s.toBlocks r then
    let s1 := s.upBoot fun b => { b with blocks := b.blocks.filter fun e => e.1 != r }
    let s2 := s1.wr O.BlockResetActive r 0 0
    .next (if r < 128 then restartPort r s2 else s2)
  else .next s

/-! ### Bring-up (R440, R445, R446) -/

/-- SENSE_COMPLETE: the sense points have been in range for 2 ms. -/
def execSenseComplete (s : State) : Out :=
  if s.boot.phase = 0 ∧ !s.boot.held then .next (enterPhase 1 s) else .next s

/-- ROM_SLOT_CHOOSE: Bureau and Coffer SRAM are wiped, and ROM chooses a slot, or enters RECOVERY (R406, R447). -/
def execRomSlotChoose (wiped : Bool) (s : State) : Out :=
  if s.boot.phase ≠ 1 then .next s
  else if !wiped then .next (enterHold 2 (wipeFailed 1 s))
  else
    let (found, s1) := chooseSlot (s.wr O.WipeStatus 0 F.WipeStatus_BureauDone 1)
    if found then .next (enterPhase 2 s1)
    else .next ((enterPhase 9 s1).upBoot fun b => { b with hold := 4 })

/-- BOOT_COMPLETE: Bureau runs, the dies' SRAM is wiped, Dovetail is trained, and HBM training begins. -/
def execBootComplete (wiped : Bool) (s : State) : Out :=
  if s.boot.phase ≠ 2 then .next s
  else if !wiped then .next (enterHold 2 (wipeFailed 2 s))
  else
    let s1 := (s.wr O.WipeStatus 0 F.WipeStatus_SramDone 1).ws O.DovetailLinkState 3
    .next (trainBegin (enterPhase 3 s1))

/-- The blockers of R445: Start, Mesh, Decommissioned, Sample. -/
def blockStart (b : Blocks) : Bool := b.sc O.TrafficAutoEnable != 1 && !b.boot.started

def blockMesh (b : Blocks) : Bool :=
  b.mesh.mode != 0 && !((List.range 16).any fun c => c != b.card && b.activeSet.testBit c) &&
    decide (b.time.ticks < b.boot.readyAt + b.sc O.MeshJoinWait * ticksPerMs)

def blockSample (s : State) : Bool := s.chest.sample && s.life != 3

/-- TRAFFIC_ENABLE: in READY, with no blocker, every pipeline starts. -/
def execTrafficEnable (s : State) : Out :=
  if s.boot.phase ≠ 6 ∨ blockStart s.toBlocks ∨ blockMesh s.toBlocks ∨ s.retired ∨ blockSample s then .next s
  else
    .next ((enterPhase 7 s).wr O.BringUpStatus 0 F.BringUpStatus_TrafficMs (s.time.ticks / ticksPerMs % 2 ^ 32))

/-- The answer to a write of TrafficStart. -/
def trafficStartStatus (b : Blocks) (v : Nat) : Status := if v ≠ 1 then .range else if b.boot.phase < 6 then .busy else .ok

def trafficStarted (s : State) : State := s.upBoot fun b => { b with started := true }

/-- BringUpStatus (Table 20-3); the blockers are shown in READY. -/
def bringUpStatus (s : State) : Nat :=
  let ready := s.boot.phase == 6
  s.boot.phase * 2 ^ 60 + s.boot.hold * 2 ^ 56 + bit (ready && blockStart s.toBlocks) * 2 ^ 55
    + bit (ready && blockMesh s.toBlocks) * 2 ^ 54 + bit (ready && s.life == 4) * 2 ^ 53
    + bit (ready && blockSample s) * 2 ^ 52 + s.rd O.BringUpStatus 0 F.BringUpStatus_TrafficMs

/-- FAULT_N is asserted (R18, R383, R406, R418, R428, R446). -/
def faultN (s : State) : Bool :=
  s.boot.phase == 8 || s.boot.phase == 9 || (decide (3 ≤ s.boot.phase) && s.sc O.DovetailLinkState == 0) ||
    s.board.hot != 0 || s.rd O.WipeStatus 0 F.WipeStatus_Failed == 1 || !s.pins.refs.testBit 0

end Sys2Proof.Machine
end

