-- ==== Sys2Proof/Machine/Views.lean ====
section
/-! DEFINITION. What a read of an object gives. Most fields are stored; the objects below are computed from the machine at
the read: identity, the Directory, counters of what the blocks hold, tables that show stores, the LOGs, and the
per-session objects. Values are numbers in the order of the field map; a TIME80 object is its 0.25 ns count (R34). -/
namespace Sys2Proof.Machine

/-- What a read sees beside the live machine: a state whose blocks and Chest are those read (live, or a snapshot's), and
the values that the live machine keeps outside them. -/
structure Env where
  st : State
  txns : Nat
  snaps : Nat
  zoas : Nat
  status : Nat
  asked : Queries

/-- The live environment of a session. -/
def liveEnv (x : Sess) (s : State) : Env := ⟨s, s.txnsOpen, s.snapsOpen, s.zoaSessions.length, txnStatus x, x.asked⟩

/-- The environment of a snapshot (R57). -/
def snapEnv (n : Snap) (s : State) : Env :=
  ⟨{ s with toBlocks := n.blocks, chest := n.chest, pins := { s.pins with refs := n.refs } }, n.txns, n.snaps, n.zoas
    , n.status, n.asked⟩

/-! ### Identity and the Directory (R5, R6, R33) -/

/-- A Directory row (Table 2-2). -/
def directoryRow (n : Nat) : Nat :=
  match objInfo? n with
  | none => 0
  | some o =>
    let rights := fun (set top : Nat) => (List.range 5).foldl (fun a k => if set.testBit k then a + 2 ^ (top - k) else a) 0
    o.typ * 2 ^ 56 + o.pers * 2 ^ 54 + o.apply * 2 ^ 51 + rights o.rd 50 + rights o.wr 45 + o.width * 2 ^ 27 + o.rows

/-- PartIdentity (Table 0-3). -/
def partIdentity (c : Chest) : Nat := 0xCA12 * 2 ^ 48 + 0x0128 * 2 ^ 32 + 0x1111 * 2 ^ 16 + c.grade * 2 ^ 8 + bit c.sample

/-- EvaluatedConfig (Table 16-8). -/
def evaluatedConfig (s : State) : Nat :=
  let pskSec := (List.range 64).any fun r => credOf s.toBlocks r F.ZoaCredential_Valid == 1 &&
    credOf s.toBlocks r F.ZoaCredential_Kind == 1 && credOf s.toBlocks r F.ZoaCredential_Role == 4
  let role := s.sc O.HostRole
  let v := bit (!s.chest.sample) + bit (s.life == 2) * 2 + bit (hdrCertified (s.chest.slot s.chest.fwMeta.active).header) * 4
    + bit (s.sc O.OwnerKey != 0) * 8 + bit (s.sc O.InbandEnable == 0) * 16 + bit (s.sc O.VendorServiceAllow == 0) * 32
    + bit (role == 1 || role == 2) * 64 + bit (!pskSec) * 128
  v + bit (v == 255) * 2 ^ 31

/-! ### The egress buffer and the scheduler (R208, Table 10-8) -/

/-- A QueueDepth row (Table 9-4). -/
def queueDepth (b : Blocks) (q : Nat) : Nat :=
  let l := b.queue q
  bit (spilling l) * 2 ^ 63 + onChip l % 2 ^ 20 * 2 ^ 43 + totalBytes l % 2 ^ 43

/-- A node is eligible (R229): a queue below it is, through nodes that are themselves; a port also has to carry (R298). A
head past its late window does not count (R247). -/
def nodeEligible (b : Blocks) (level row : Nat) : Bool :=
  (List.range 160).any fun p => (backlogged b p).any fun c =>
    c.at level == row && (if level = 0 then headEligible b c else headPasses b c) &&
      (List.range 5).all fun l => decide (l < level) || selfEligible b l (c.at l)

/-- SchedNodeQuery of a session (Table 10-8). -/
def schedQuery (b : Blocks) (level row : Nat) : Nat :=
  let r := b.nodeRT (nodeKey level row)
  let el := nodeEligible b level row
  let ne := if b.node level row F.SchedQueue_CalendarMode = 1 then time80OfQ (r.ne * 256 / 65536) else 0
  let credit := fun c : Int => ofSigned 32 (c / (creditUnit : Int))
  level * 2 ^ 253 + row * 2 ^ 234 + bit el * 2 ^ 233 + bit (el && selfCommitted b level row) * 2 ^ 232
    + credit r.comm * 2 ^ 200 + credit r.peak * 2 ^ 168 + r.deficit % 2 ^ 32 * 2 ^ 136 + ne * 2 ^ 56

/-- A GateStatus row (Table 10-10); the entry in force and its states are those that grid time falls in, and every class is
open on a port without gating (R241, R245). -/
def gateStatusRow (b : Blocks) (p : Nat) : Nat :=
  let g := b.gate p
  let now := gateNow b p
  let oper := g.oper.getD ⟨0, 0, []⟩
  bit (b.runningList p).isSome * 2 ^ 255 + bit g.pend.isSome * 2 ^ 254 + bit g.late * 2 ^ 253
    + oper.entries.length * 2 ^ 242 + now.1 * 2 ^ 232 + now.2 * 2 ^ 224
    + oper.cycle * 2 ^ 192 + time80OfQ oper.base * 2 ^ 112 + time80OfQ g.change * 2 ^ 32

/-- A GateOperList row. -/
def gateOperRow (b : Blocks) (row : Nat) : Nat :=
  match (b.gate (row / 1024)).oper.bind fun l => l.entries[row % 1024]? with
  | some e => e.1 * 2 ^ 56 + e.2
  | none => 0

/-! ### The mesh (Tables 11-11 and 11-12) -/

/-- A MeshGroupStatus row. -/
def groupStatusRow (b : Blocks) (g : Nat) : Nat :=
  let r := b.group g
  let peer := fun f : PeerHdr → Nat => (r.hdr.map f).getD 0
  r.align * 2 ^ 62 + r.defect * 2 ^ 58 + bit (b.groupActive g) * 2 ^ 57 + bit (b.groupTx g) * 2 ^ 56
    + bit r.mismatch * 2 ^ 55 + popCount 12 r.lanes * 2 ^ 51 + peer (·.card) * 2 ^ 47 + peer (·.group) * 2 ^ 43
    + r.lanes % 4096 * 2 ^ 31 + min r.oneWay (2 ^ 31 - 1)

/-- MeshPageStatus. -/
def pageStatus (b : Blocks) : Nat :=
  let pendingSwap := b.mesh.swap.any fun w => !w.2
  b.mesh.active.id * 2 ^ 96 + b.mesh.standby.id * 2 ^ 64 + ((b.mesh.swap.map (·.1)).getD 0) * 2 ^ 32
    + b.mesh.lastResult * 2 ^ 30 + bit pendingSwap * 2 ^ 29

/-- A page's row. -/
def pageRow (p : Page) (row : Nat) : Nat := p.entry (row / 10240) (row / 128 % 80) (row % 128)

/-! ### LOGs (R37) -/

/-- The entry of a sequence number; entries not held read as zeros. -/
def logEntry (l : List (Nat × Nat)) (row : Nat) : Nat := ((l.find? fun e => e.1 % 2 ^ 32 == row).map (·.2)).getD 0

/-! ### The views -/

/-- A domain's counter as readers see it, in 0.25 ns: a value that a commit has set is read from the commit on (R42, R87). -/
def domainQ (d : DomRT) : Nat := d.setReq.getD d.time / unitsPerQuarter

/-- Objects that are computed whole: the value of row `row`. -/
def wholeView (e : Env) (obj row : Nat) : Option Nat :=
  let s := e.st
  let b := s.toBlocks
  if obj < 0x4000 then
    if obj = O.DictionaryVersion then some 0x10000
    else if obj = O.PartIdentity then some (partIdentity s.chest)
    else if obj = O.UnitSerial then some s.chest.serial
    else if obj = O.Directory then some (directoryRow row)
    else if obj = O.TxnStatus then some e.status
    else if obj = O.TxnsOpen then some e.txns
    else if obj = O.GenerationCurrent then some (b.gen.cur % 2 ^ 32)
    else if obj = O.GenerationOldestLive then some (b.oldestGen % 2 ^ 32)
    else if obj = O.GenerationsLive then some s.gensLive
    else if obj = O.GenerationAgeLimit then some (ageLimitUs b)
    else if obj = O.SnapshotsOpen then some e.snaps
    else if obj = O.ZoaSessionsOpen then some e.zoas
    else if obj = O.RepairQueueDepth then some b.repair.queue.length
    else if obj = O.ClockStatus then some (clockStatus s)
    else if obj = O.BringUpStatus then some (bringUpStatus s)
    else none
  else if obj < 0x18000 then
    if obj = O.GridTime then some b.gridQ
    else if obj = O.GridState then some b.time.st.code
    else if obj = O.GridError then some (durOfUnits b.time.err)
    else if obj = O.DomainATime then some (domainQ b.time.domA)
    else if obj = O.DomainBTime then some (domainQ b.time.domB)
    else if obj = O.TimeCaptureLog then some (logEntry b.time.capLog row)
    else if obj = O.ParseBankGeneration then some (b.gen.bankGen % 2 ^ 32)
    else if obj = O.RouteTable then some (routeTableRow b row)
    else if obj = O.RouteQuery then some (routeQueryValue b e.asked.route)
    else if obj = O.RouteSlotsUsed then some b.routeSlots
    else if obj = O.RouteLengthCount then
      some (if row < 32 then b.routeLenCount 0 (row + 1) else if row < 160 then b.routeLenCount 1 (row - 31) else 0)
    else if obj = O.ExactTable then some (exactTableRow b row)
    else if obj = O.ExactQuery then some (exactQueryValue b e.asked.exact)
    else if obj = O.ExactEntriesUsed then some b.exactUsed
    else if obj = O.ExactOverflowUsed then some b.overflowUsed
    else if obj = O.RangeRule then some (rangeRuleRow b row)
    else if obj = O.RangeSearch then some (curValue e.asked.range)
    else if obj = O.RangeSlotsUsed then some (rangeSlots b.range).length
    else if obj = O.RangeRowsLive then some (b.range.contents.filter fun c => c.dead.isNone && !c.written).length
    else none
  else if obj < 0x30000 then
    if obj = O.FreeCells then some b.freeCells
    else if obj = O.FreeDescriptors then some b.freeDescs
    else if obj = O.PortClassUsage then some (b.portClass (row / 8) (row % 8))
    else if obj = O.QueueDepth then some (queueDepth b row)
    else if obj = O.SpillPagesUsed then some b.usedPages.length
    else if obj = O.SpillQueues then some b.spillQueues
    else if obj = O.SchedNodeQuery then some (schedQuery b e.asked.sched.1 e.asked.sched.2)
    else if obj = O.GateOperList then some (gateOperRow b row)
    else if obj = O.GateStatus then some (gateStatusRow b row)
    else none
  else if obj < 0x44000 then
    if obj = O.MeshGroupStatus then some (groupStatusRow b row)
    else if obj = O.MeshActiveCards then some b.activeSet
    else if obj = O.MeshLinkMatrix then some (b.linkMap row)
    else if obj = O.MeshXoffMap then some b.xoffMap
    else if obj = O.MeshConnStandby then some (pageRow b.mesh.standby row)
    else if obj = O.MeshConnActive then some (pageRow b.mesh.active row)
    else if obj = O.MeshStandbyPageId then some b.mesh.standby.id
    else if obj = O.MeshPageStatus then some (pageStatus b)
    else if obj = O.HbmErrorLog then some (logEntry b.hbm.log row)
    else if obj = O.PcieIdentity then some (0x1F9C * 2 ^ 48 + 0x0128 * 2 ^ 32 + 0x028000 * 2 ^ 8 + 0x11)
    else if obj = O.RingStatus then
      let r := b.ring row
      some (r.st * 2 ^ 94 + r.prod * 2 ^ 32 + r.cons)
    else if O.TrolleyStatus0 ≤ obj ∧ obj < O.TrolleyStatus0 + 32 then
      let c := b.chan (obj - O.TrolleyStatus0)
      some (c.st * 2 ^ 61 + c.status * 2 ^ 48 + c.bytes % 2 ^ 40)
    else none
  else
    if obj = O.EvaluatedConfig then some (evaluatedConfig s)
    else if obj = O.AuditLog then some (logEntry s.chest.audit row)
    else if obj = O.FwSlotStatus then some (slotStatus s row)
    else if obj = O.FwSlotHeader then some (slotHeader s row)
    else if obj = O.FwActiveSlot then some s.chest.fwMeta.active
    else if obj = O.FwMinRollback then some s.chest.fwMeta.minRollback
    else if obj = O.PowerNvJournal then
      some (s.pendingBytes * 2 ^ 32 + min (s.chest.journal.filter JRec.waits).length 65535 * 2 ^ 16)
    else if obj = O.GpioInput then some (gpioInput b)
    else none

/-- Single fields that are computed within stored rows. -/
def fieldView (b : Blocks) (obj row fld : Nat) : Option Nat :=
  if obj = O.EventBanks ∧ fld = F.EventBanks_Pending then
    some (b.rd O.EventBanks row F.EventBanks_Flags &&& b.rd O.EventBanks row F.EventBanks_Enable)
  else if obj = O.ShelfPool ∧ fld = F.ShelfPool_Free then some (b.shelfFree row)
  else if obj = O.FanStatus ∧ fld = F.FanStatus_Forced then some (bit (b.board.hot != 0))
  else if obj = O.FanStatus ∧ fld = F.FanStatus_DutyApplied then some (fanDuty b row)
  else none

/-- Bits that a field has. -/
abbrev FieldInfo.width (f : FieldInfo) : Nat := f.hi - f.lo + 1

/-- A record packed from its fields (R37); reserved fields are zero, and a write-only field reads zero. -/
def packRow (fields : List FieldInfo) (get : Nat → Nat) : Nat :=
  (fields.zipIdx 1).foldl (fun a f =>
    match f.1.acc with
    | .r | .rw => a + get f.2 % 2 ^ f.1.width * 2 ^ f.1.lo
    | .w | .rsv => a) 0

/-- The value of a whole object or row. -/
def viewRow (e : Env) (o : ObjInfo) (row : Nat) : Nat :=
  match wholeView e o.num row with
  | some v => v
  | none =>
    if o.fields.isEmpty then e.st.rd o.num row 0
    else packRow o.fields fun k => (fieldView e.st.toBlocks o.num row k).getD (e.st.rd o.num row k)

/-- The value of field `fld` of a row, or of the whole of it for 0. -/
def fieldOf (o : ObjInfo) (fld v : Nat) : Nat :=
  if fld = 0 then v
  else match o.fields[fld - 1]? with
    | some f => bitsOf f.hi f.lo v
    | none => 0

end Sys2Proof.Machine
end

