-- ==== Sys2Proof/Machine/Check.lean ====
section
/-! DEFINITION. The checks of one access to the dictionary: the rights of the session's role (R38, R43, R447), row, field,
type, length and value in the order of R45 (R35 to R37, R462, R463), and the wire form of a value (R34). -/
namespace Sys2Proof.Machine

/-! ### Rights -/

/-- What ROM reads for mailbox slot 0 in RECOVERY (R447). -/
def recoveryReads : List Nat :=
  [O.PartIdentity, O.UnitSerial, O.LifeCycleState, O.ResetCause, O.FwSlotStatus, O.FwLoadStatus, O.BringUpStatus]

/-- The session may read the object. -/
def canRead (b : Blocks) (x : Sess) (o : ObjInfo) : Bool :=
  if b.boot.phase = 9 then decide (x.id = .mailbox 0) && recoveryReads.contains o.num
  else roleIn o.rd (roleOf b x)

/-- The session may write value `v` to the object; an OPR may not stop the privileged channels (R353). -/
def canWrite (b : Blocks) (x : Sess) (o : ObjInfo) (v : Nat) : Bool :=
  if b.boot.phase = 9 then decide (x.id = .mailbox 0) && o.num == O.FwStagedLoad
  else roleIn o.wr (roleOf b x) && !(o.num == O.TrolleyStop && roleOf b x == 2 && decide (v ≤ 3))

/-! ### Row, field, type and length (R32, R463) -/

/-- The row lies in the table, and the field in the record. -/
def inRange (o : ObjInfo) (row fld : Nat) : Bool :=
  (o.typ == 21 || (if o.typ = 20 then decide (row < o.rows) else row == 0)) && decide (fld ≤ o.fields.length)

/-- Bits of a field. -/
def fieldBits (o : ObjInfo) (fld : Nat) : Nat := ((o.fields[fld - 1]?).map FieldInfo.width).getD 0

/-- The type an item states. -/
def accType (o : ObjInfo) (fld : Nat) : Nat := if fld = 0 then o.rowTyp else 19

/-- The length an item states. -/
def accLen (o : ObjInfo) (fld : Nat) : Nat := if fld = 0 then o.width else ceilDiv (fieldBits o fld) 8

/-- Checks 1 and 2 of R45. -/
def checkForm (o : ObjInfo) (typ row fld len : Nat) : Status :=
  if !inRange o row fld then .range
  else if typ ≠ accType o fld ∨ len ≠ accLen o fld then .type
  else .ok

/-! ### Values -/

/-- A TIME80 object, held as its 0.25 ns count (R34). -/
def isTime (o : ObjInfo) (fld : Nat) : Bool := fld == 0 && o.rowTyp == 11

/-- The wire value of what is held. -/
def toWire (o : ObjInfo) (fld v : Nat) : Nat := if isTime o fld then time80OfQ v else v

/-- What a wire value is held as; none for a TIME80 of a second or more of nanoseconds (R35). -/
def fromWire (o : ObjInfo) (fld v : Nat) : Option Nat :=
  if isTime o fld then (if time80Ok v then some (qOfTime80 v) else none) else some v

/-- A value keeps the bound its table row states. -/
def bndOk : Bnd → Nat → Bool
  | .any, _ => true
  | .rng lo hi, v => decide (lo ≤ v) && decide (v ≤ hi)
  | .rngEn _ _, _ => true
  | .srng m w, v => decide ((toSigned w v).natAbs ≤ m)

/-- The fields that a write of field `fld` (0: all of them) carries: number, map row, value. -/
def carried (o : ObjInfo) (fld v : Nat) : List (Nat × FieldInfo × Nat) :=
  (o.fields.zipIdx 1).filterMap fun e =>
    if fld = 0 then some (e.2, e.1, bitsOf e.1.hi e.1.lo v)
    else if fld = e.2 then some (e.2, e.1, v)
    else none

/-- The fields that a write changes, with their values; 0 numbers a value without a field map. What the write carries for a
read-only field of the record changes nothing and refuses nothing (DESIGN CHOICE, log 174). -/
def parts (o : ObjInfo) (fld v : Nat) : List (Nat × Nat) :=
  if o.fields.isEmpty then [(0, v)]
  else (carried o fld v).filterMap fun e =>
    match e.2.1.acc with
    | .rw | .w => some (e.1, e.2.2)
    | .r | .rsv => none

/-- The record as it would stand after the write. -/
def merged (base : Nat → Nat) (ps : List (Nat × Nat)) (k : Nat) : Nat :=
  ((ps.find? fun e => e.1 == k).map (·.2)).getD (base k)

/-- The level of a scheduler node object. -/
abbrev levelOf (obj : Nat) : Nat := obj - O.SchedPort

abbrev isNodeObj (obj : Nat) : Bool := decide (O.SchedPort ≤ obj) && decide (obj ≤ O.SchedQueue)

/-- A destination port that an action set or a next hop may name: 0 to 127, or 130 (Tables 8-2 and 8-3). -/
abbrev destPortOk (p : Nat) : Bool := decide (p ≤ 127) || p == 130

/-- A node row counts packets (R232); not known by itself for a row that takes the mode of its port (`nodeCommitOk`). -/
def packetsMode (g : Nat → Nat) : Option Bool :=
  let m := g F.SchedQueue_LengthMode
  if m = 3 then none else some (m == 2)

/-- The checks of a row that span its fields or that a rule states of the row, over the row as it would stand. Numbers
below 8000h: identity, time. -/
def rowOkLow (obj : Nat) (g : Nat → Nat) : Bool :=
  if obj = O.TimeTrigger then triggerOk g
  else if obj = O.DomainAIncrement ∨ obj = O.DomainBIncrement then
    decide (((g 0 : Int) - nominalInc).natAbs * 1000 ≤ nominalInc)
  else true

/-- Parse graph, lookups and actions. -/
def rowOkFe (b : Blocks) (obj row : Nat) (g : Nat → Nat) : Bool :=
  if obj ≤ O.ParseGraphClear then parseRowOk obj g
  else if obj = O.LookupProfile then lookupProfileOk g
  else if obj = O.RouteUpdate then routeUpdateOk g
  else if obj = O.RouteQuery then prefixOk (g F.RouteUpdate_Prefix)
  else if obj = O.RouteDefault then routeResultOk (g F.RouteDefault_Kind * 2 ^ 30 + g F.RouteDefault_Index)
  else if obj = O.ExactKeyProfile then exactProfileOk g
  else if obj = O.ExactUpdate then exactUpdateOk b g
  else if obj = O.ExactQuery then
    g F.ExactUpdate_Width == b.rd O.ExactKeyProfile (g F.ExactUpdate_Profile) F.ExactKeyProfile_Width &&
      g F.ExactUpdate_Key % 2 ^ (384 - 8 * exactBytes (g F.ExactUpdate_Width)) == 0
  else if obj = O.RangeProfile then rangeProfileOk g
  else if obj = O.RangeUpdate then g F.RangeUpdate_OpState == 0 || rangeRecordOk g
  else if obj = O.RangeDirect then g F.RangeUpdate_OpState == 1 || rangeRecordOk g
  else if obj = O.Meter then meterRowOk g
  else if obj = O.MirrorSession then
    let n := g F.MirrorSession_TruncateLength
    n == 0 || (decide (64 ≤ n) && decide (n ≤ 9216))
  else if obj = O.ActionSet then
    destPortOk (g F.ActionSet_DestPort) &&
      (g F.ActionSet_PuntMode == 0 || !([0, 3, 10].contains (g F.ActionSet_PuntReason))) &&
      !(decide (13 ≤ g F.ActionSet_PuntReason) && decide (g F.ActionSet_PuntReason ≤ 31))
  else if obj = O.NextHop then destPortOk (g F.NextHop_DestPort)
  else if obj = O.EditList then row != 0 && (List.range 8).all fun k => editOpOk (g (k + 1))
  else true

/-- The traffic manager, the mesh, the ports. -/
def rowOkTm (b : Blocks) (obj : Nat) (g : Nat → Nat) : Bool :=
  if obj = O.BufferProfile then decide (g F.BufferProfile_SpillThreshold ≤ g F.BufferProfile_OnChipLimit)
  else if isNodeObj obj then nodeRowOk (levelOf obj) (packetsMode g) g
  else if obj = O.SchedNodeQuery then decide (g F.SchedNodeQuery_Index < levelRows (g F.SchedNodeQuery_Level))
  else if obj = O.GateConfig then time80Ok (g F.GateConfig_AdminBaseTime)
  else if obj = O.GateAdminList then
    let i := g F.GateAdminList_IntervalNs
    i == 0 || (decide (16 ≤ i) && decide (i ≤ 1000000000))
  else if obj = O.MeshGroupConfig then g F.MeshGroupConfig_PowerDown == 0 || g F.MeshGroupConfig_Enable == 0
  else if obj = O.MeshReseqTimeout then decide (b.sc O.MeshReseqTimeoutMin ≤ g 0)
  else if obj = O.PortConfig then
    g F.PortConfig_Enable == 0 || (decide (1 ≤ g F.PortConfig_Mode) && decide (g F.PortConfig_Mode ≤ 11))
  else if obj = O.PortFlowControl then flowRowOk g
  else true

/-- Memory, host, telemetry, security, board. -/
def rowOkHigh (obj row : Nat) (g : Nat → Nat) : Bool :=
  if obj = O.HbmPageHint then row != 7
  else if obj = O.PuntRing then
    let n := g F.PuntRing_TruncateBytes
    n == 0 || (decide (64 ≤ n) && decide (n ≤ 9216))
  else if obj = O.EventSource then g F.EventSource_Route != 3 || decide (g F.EventSource_Target ≤ 15)
  else if obj = O.CounterClear then decide (g F.CounterClear_First ≤ g F.CounterClear_Last)
  else if obj = O.TallboyDump then
    let p := g F.TallboyDump_PeriodUs
    let n := g F.TallboyDump_ListCount
    let subset := g F.TallboyDump_Kind == 1
    let off := g F.TallboyDump_Enable == 0
    time80Ok (g F.TallboyDump_StartTime) &&
      ((decide ((if subset then 100 else 20000) ≤ p) && decide (p ≤ 3600000000)) || (off && p == 0)) &&
      (!subset || (decide (1 ≤ n) && decide (n ≤ 65536)) || (off && n == 0))
  else if obj = O.SampleSession then
    decide (g F.SampleSession_AddrLow ≤ g F.SampleSession_AddrHigh) &&
      (g F.SampleSession_MasterKind != 1 || decide (g F.SampleSession_Master ≤ 129))
  else if obj = O.ProvisioningToken then g 0 / 2 ^ 768 % 2 ^ 32 == 0
  else if obj = O.ZoaCredential then
    decide (g F.ZoaCredential_Role < 5) && (g F.ZoaCredential_Valid == 0 || g F.ZoaCredential_Role != 0)
  else if obj = O.SideboardChannel then decide (g F.SideboardChannel_LowLimit ≤ g F.SideboardChannel_HighLimit)
  else true

/-- Every check of a row as it would stand. -/
def rowOk (b : Blocks) (obj row : Nat) (g : Nat → Nat) : Bool :=
  if obj < 0x8000 then rowOkLow obj g
  else if obj < 0x18000 then rowOkFe b obj row g
  else if obj < 0x3C000 then rowOkTm b obj g
  else rowOkHigh obj row g

/-- Bounds that the field's own default breaks: they hold while the first field of the record is 1, and otherwise for every
value but the default (log 9). -/
def enabledOk (o : ObjInfo) (m : Nat → Nat) : Bool :=
  (o.fields.zipIdx 1).all fun e =>
    match e.1.bnd with
    | .rngEn lo hi => (decide (lo ≤ m e.2) && decide (m e.2 ≤ hi)) || (m 1 != 1 && m e.2 == e.1.dflt)
    | _ => true

/-- A write of field `fld` leaves alone what the row's own check judges: the Vrf of a RouteQuery, whose prefix the session
may not have written yet. -/
abbrev rowUnjudged (obj fld : Nat) : Bool := obj == O.RouteQuery && fld == F.RouteUpdate_Vrf

/-- Check 3 of R45: the value `v` of field `fld`, over a row that `base` holds. -/
def valueOk (b : Blocks) (o : ObjInfo) (row fld v : Nat) (base : Nat → Nat) : Bool :=
  if o.fields.isEmpty then
    decide (v < 256 ^ o.width) && (o.rowTyp != 7 || decide (v ≤ 1)) && bndOk o.bnd v && rowOk b o.num row fun _ => v
  else
    let m := merged base (parts o fld v)
    let one := fun e : Nat × FieldInfo × Nat =>
      decide (e.2.2 < 2 ^ e.2.1.width) &&
        match e.2.1.acc with
        | .rsv => e.2.2 == 0
        | .r => true
        | .rw | .w => bndOk e.2.1.bnd e.2.2
    (carried o fld v).all one && decide (v < 256 ^ o.width) && enabledOk o m && (rowUnjudged o.num fld || rowOk b o.num row m)

/-! ### What the dictionary stores -/

/-- Objects that a write does not store: what they command is done, and what they read is computed or set with it. -/
def transient (o : ObjInfo) : Bool :=
  (o.rd == 0 && !([O.ProvisioningToken, O.TenantKey].contains o.num)) ||
    [O.DomainATime, O.DomainBTime, O.DomainAQualified, O.DomainBQualified, O.RouteUpdate, O.ExactUpdate, O.RangeUpdate,
      O.RouteQuery, O.ExactQuery, O.RangeSearch, O.SchedNodeQuery, O.MeshConnStandby, O.MeshStandbyPageId].contains o.num

/-- Objects whose set bits a write of 1 clears (R356, R360). -/
def clearsOnes (obj fld : Nat) : Bool :=
  (obj == O.EventBanks && fld == F.EventBanks_Flags) ||
    [O.PortEventDetail, O.GroupEventDetail, O.SideboardLimitDetail, O.GpioEdgeDetail].contains obj

/-- The present value of a field, for checks that combine a write with the rest of its row. -/
def Blocks.base (b : Blocks) (obj row fld : Nat) : Nat :=
  if obj = O.MeshConnStandby then
    match objInfo? obj with
    | some o => fieldOf o fld (pageRow b.mesh.standby row)
    | none => 0
  else b.rd obj row fld

/-- The present value of a field as a session's write is judged: of its own queries, what it has asked so far (R32, R158, R163,
Table 10-8). -/
def Sess.base (x : Sess) (b : Blocks) (obj row fld : Nat) : Nat :=
  let part := fun v => match objInfo? obj with
    | some o => fieldOf o fld v
    | none => 0
  if obj = O.RouteQuery then part x.routeQ
  else if obj = O.ExactQuery then part x.exactQ
  else if obj = O.SchedNodeQuery then part (x.schedQ.1 * 2 ^ 253 + x.schedQ.2 * 2 ^ 234)
  else b.base obj row fld

/-- An FE object that takes effect at a generation boundary (R106). -/
def isFe (o : ObjInfo) : Bool := decide (0x8000 ≤ o.num) && decide (o.num < 0x18000) && o.apply == 2

end Sys2Proof.Machine
end

