-- ==== Sys2Proof/Machine/Tallboy.lean ====
section
/-! DEFINITION. Tallboy's dumps and host rings (R361 to R365): schedules, latches, dumps written to the telemetry region and
copied to the host, the slots of sample records, and the clearing of counter pairs. -/
namespace Sys2Proof.Machine

abbrev dumpField (b : Blocks) (k f : Nat) : Nat := b.rd O.TallboyDump k f

/-- A schedule that is not in operation. -/
abbrev DumpRT.start : DumpRT := ⟨none, 0, false⟩

def State.updDump (s : State) (k : Nat) (f : DumpRT → DumpRT) : State :=
  s.upTel fun t => { t with scheds := Tbl.put DumpRT.start k (f (Tbl.get DumpRT.start t.scheds k)) t.scheds }

/-- A schedule's period and first instant, as 0.25 ns counts. -/
def dumpPeriod (b : Blocks) (k : Nat) : Nat := dumpField b k F.TallboyDump_PeriodUs * 4000

def dumpStart (b : Blocks) (k : Nat) : Nat := qOfTime80 (dumpField b k F.TallboyDump_StartTime)

/-- The first instant StartTime + k × PeriodUs at or after `q`. -/
def dumpInstant (b : Blocks) (k q : Nat) : Nat :=
  let st := dumpStart b k
  if q ≤ st then st else st + ceilDiv (q - st) (dumpPeriod b k) * dumpPeriod b k

/-- A TallboyDump row takes effect (R363): an enabled schedule starts at StartTime, or late at an instant at least 10 µs
ahead. -/
def dumpWritten (k : Nat) (s : State) : State :=
  let s1 := s.wr O.TallboyDump k F.TallboyDump_StartedLate 0
  if dumpField s1.toBlocks k F.TallboyDump_Enable = 0 then s1.updDump k fun _ => DumpRT.start
  else if s1.gridQ ≤ dumpStart s1.toBlocks k then s1.updDump k fun _ => ⟨some (dumpStart s1.toBlocks k), 0, false⟩
  else
    (s1.wr O.TallboyDump k F.TallboyDump_StartedLate 1).updDump k fun _ =>
      ⟨some (dumpInstant s1.toBlocks k (s1.gridQ + 40000)), 0, false⟩

/-- After a grid step a schedule continues at its first instant after the new grid time. -/
def dumpsAfterStep (s : State) : State :=
  (List.range 8).foldl (fun a k =>
    a.updDump k fun d => if d.next.isSome then { d with next := some (dumpInstant a.toBlocks k (a.gridQ + 1)) } else d) s

/-! ### Latches -/

/-- The value that an entry of a dump's list names has at most 8 bytes. -/
def dumpFits (o : ObjInfo) (fld : Nat) : Bool :=
  if fld = 0 then decide (o.width ≤ 8)
  else match o.fields[fld - 1]? with
    | some f => decide (f.hi < f.lo + 64)
    | none => true

/-- What a SUBSET entry dumps (R363, R364), as 16 bytes: a pair, or an object's value in the first 8. An object that does
not exist, or that the owner role may not read, dumps zeros. -/
def dumpEntry (role e : Nat) (s : State) : Nat :=
  if bitsOf 63 63 e = 0 then
    let p := bitsOf 20 0 e
    s.rd O.CounterPair p F.CounterPair_Packets * 2 ^ 64 + s.rd O.CounterPair p F.CounterPair_Bytes
  else
    let row := bitsOf 39 8 e
    let fld := bitsOf 7 0 e
    match objInfo? (bitsOf 59 40 e) with
    | none => 0
    | some o =>
      if roleIn o.rd role && inRange o row fld then
        let nobody := newSess .bar0 .bar0 role 0xFFFF 0 none
        let v := fieldOf o fld (viewRow (liveEnv nobody s) o row)
        if dumpFits o fld then v % 2 ^ 64 * 2 ^ 64 else (Config.dumpWide e v).toNat
      else 0

/-- The dump that schedule `k` makes at a latch. -/
def dumpJob (k : Nat) (s : State) : DumpJob :=
  let b := s.toBlocks
  let d := Tbl.get DumpRT.start b.tel.scheds k
  let kind := dumpField b k F.TallboyDump_Kind
  let listed := (List.range (dumpField b k F.TallboyDump_ListCount)).map fun i =>
    dumpEntry (dumpField b k F.TallboyDump_OwnerRole) (b.rd O.TallboyDumpList (dumpField b k F.TallboyDump_ListBase + i) 0) s
  { sched := k, seq := d.seq, gap := d.gap, kind := kind, host := dumpField b k F.TallboyDump_HostCopy == 1
    area := dumpArea b k, size := dumpSlot b k, slots := dumpField b k F.TallboyDump_Slots
    vals := if kind = 1 then listed else [] }

/-- The schedules due, all at the earliest instant that has come. -/
def dumpsDue (b : Blocks) : List Nat :=
  let at_ := fun k => (Tbl.get DumpRT.start b.tel.scheds k).next
  let due := (List.range 8).filter fun k => match at_ k with | some t => decide (t ≤ b.gridQ) | none => false
  match (due.filterMap at_).min? with
  | none => []
  | some t => due.filter fun k => at_ k == some t

/-- A schedule passes an instant, dumped or skipped. -/
def passInstant (skipped : Bool) (s : State) (k : Nat) : State :=
  let step := fun d : DumpRT =>
    { next := d.next.map fun t => t + dumpPeriod s.toBlocks k, seq := (d.seq + 1) % 2 ^ 32, gap := skipped }
  let s1 := s.updDump k step
  if skipped then raise (src 9 12) (s1.add64 O.TallboyDumpStatus k F.TallboyDumpStatus_Skipped 1) else s1

/-- DUMP_LATCH: an instant of one or more schedules has come; they share one latch context, or are skipped when both
still drain. -/
def execDumpLatch (s : State) : Out :=
  match dumpsDue s.toBlocks with
  | [] => .next s
  | ks =>
    if 2 ≤ s.tel.contexts.length then .next (ks.foldl (passInstant true) s)
    else
      let c : DumpCtx := { jobs := ks.map fun k => dumpJob k s, instant := s.gridQ, gridSt := s.time.st.code
                           gen := s.gen.cur % 2 ^ 32, shadow := s.store }
      .next ((ks.foldl (passInstant false) s).upTel fun t => { t with contexts := t.contexts ++ [c] })

/-! ### Completed dumps -/

/-- A dump's body (R364). -/
def dumpBody (c : DumpCtx) (j : DumpJob) : Bytes :=
  if j.kind = 1 then (j.vals.map fun v => beBytes 16 v).flatten
  else ((List.range 2097152).map fun i =>
    beBytes 8 (Tbl.get 0 c.shadow (skey O.CounterPair i F.CounterPair_Packets)) ++
      beBytes 8 (Tbl.get 0 c.shadow (skey O.CounterPair i F.CounterPair_Bytes))).flatten

/-- A dump's header (Table 15-6). -/
def dumpHeader (card : Nat) (c : DumpCtx) (j : DumpJob) (valid : Bool) (body : Bytes) : Bytes :=
  let top := 0x5A544442 * 2 ^ 480 + 1 * 2 ^ 472 + j.sched * 2 ^ 469 + j.kind * 2 ^ 468 + bit valid * 2 ^ 467
    + c.gridSt * 2 ^ 465 + bit j.gap * 2 ^ 464 + j.seq * 2 ^ 432
  beBytes 64 (top + c.instant % 2 ^ 64 * 2 ^ 368 + c.gen * 2 ^ 336 + body.length / 16 * 2 ^ 304 + crc32 body * 2 ^ 272
    + card * 2 ^ 268)

/-- Hands a filled slot of a telemetry host ring over (R365): the bytes, Producer and its write-back, the vector. -/
def slotToHost (r : Nat) (d : Bytes) (s : State) : State :=
  let f := fun fld => telRing s.toBlocks r fld
  let n := 2 ^ f F.TelemetryHostRing_SlotCountLog2
  let size := 2 ^ f F.TelemetryHostRing_SlotSizeLog2
  let p := s.rd O.TelemetryHostIndex r F.TelemetryHostIndex_Producer
  let s1 := hostWrite (f F.TelemetryHostRing_Base * 4096 + p % n * size) d s
  let next := (p + 1) % 2 ^ 32
  let s2 := s1.wr O.TelemetryHostIndex r F.TelemetryHostIndex_Producer next
  (hostWrite (f F.TelemetryHostRing_WriteBack * 8) (leBytes 4 next) s2).emit (.msix (f F.TelemetryHostRing_Vector))

/-- The host's copy of a dump, when ring row 0 is in use and the host can be written. -/
def copyDump (k : Nat) (d : Bytes) (s : State) : State :=
  if telRing s.toBlocks 0 F.TelemetryHostRing_Enable = 0 ∨ !s.busMaster then s
  else if telFull s.toBlocks 0 then raise (src 9 14) (s.add64 O.TallboyDumpStatus k F.TallboyDumpStatus_HostSkipped 1)
  else slotToHost 0 d s

/-- DUMP_COMPLETE: the oldest dump that drains is written to its slot, unless a frequency change holds the request (R324).
`r` is what the read that the write of a last unit of less than 32 bytes needs, or the copy to the host, showed: with an
uncorrectable word that part of a unit is not written, and the dump is marked invalid (R122, R318). -/
def execDumpComplete (r : HbmRead) (s : State) : Out :=
  if s.hbm.change.isSome then .next s else
  match s.tel.contexts with
  | [] => .next s
  | c :: rest =>
    match c.jobs with
    | [] => .next (s.upTel fun t => { t with contexts := rest })
    | j :: more =>
      let body := dumpBody c j
      let part := (64 + body.length) % 32
      let lost := hbmLost r && (part != 0 || j.host)
      let d := dumpHeader s.card c j (!lost) body ++ body
      let left := if more.isEmpty then rest else { c with jobs := more } :: rest
      let place := j.area + j.seq % j.slots * j.size
      let s0 := if part ≠ 0 ∨ j.host then hbmNote 5 (telemetryBase + place) r s else s
      let s1 := (if lost then hbmEvent s0 else s0).upTel fun t =>
        { t with contexts := left, region := memWrite t.region place (if lost then d.take (d.length - part) else d) }
      let s2 := s1.add64 O.TallboyDumpStatus j.sched F.TallboyDumpStatus_Dumps 1
      let s3 := raise (src 9 11) (s2.wr O.TallboyDumpStatus j.sched F.TallboyDumpStatus_LastSequence j.seq)
      .next (if j.host then copyDump j.sched d s3 else s3)

/-! ### Slots of sample records -/

/-- The slot that row `r` fills is handed over, unused space zero, and the next one takes what waits. -/
def handOver (r : Nat) (s : State) : State :=
  let slot := Tbl.get [] s.tel.slots r
  if slot.isEmpty ∨ telRing s.toBlocks r F.TelemetryHostRing_Enable = 0 ∨ !s.busMaster ∨ telFull s.toBlocks r then s
  else
    let d := (slot.map (·.2)).flatten
    let size := 2 ^ telRing s.toBlocks r F.TelemetryHostRing_SlotSizeLog2
    fillSlot r ((slotToHost r (d ++ List.replicate (size - d.length) 0) s).upTel fun t =>
      { t with slots := Tbl.put [] r [] t.slots })

/-- TELEMETRY_SLOT_HANDOVER: a slot of sample records is full. Row 0's slots are handed over as dumps complete. -/
def execTelemetrySlotHandover (row : Fin 9) (s : State) : Out :=
  if row.val = 0 ∨ (Tbl.get [] s.tel.slots row.val).length < slotRoom s.toBlocks row.val then .next s
  else .next (handOver row.val s)

/-- TELEMETRY_FLUSH: FlushUs have passed since a slot's first record. -/
def execTelemetryFlush (row : Fin 9) (s : State) : Out :=
  let us := telRing s.toBlocks row.val F.TelemetryHostRing_FlushUs
  match Tbl.get [] s.tel.slots row.val with
  | [] => .next s
  | e :: _ => if us ≠ 0 ∧ e.1 + us * ticksPerUs ≤ s.time.ticks then .next (handOver row.val s) else .next s

/-! ### Counter pairs -/

/-- CounterClear (R361): the pairs from `first` to `last` are zero. -/
def clearPairs (first last : Nat) (s : State) : State :=
  let inside := fun e : Nat × Nat => decide (skey O.CounterPair first 0 ≤ e.1) && decide (e.1 < skey O.CounterPair (last + 1) 0)
  { s with store := s.store.filter fun e => !inside e }

end Sys2Proof.Machine
end

