-- ==== Sys2Proof/Machine/Commit.lean ====
section
/-! DEFINITION. What a commit checks and what it does (R48 to R54, R465): the rows it writes, the units it conflicts on, the
commands' own refusals, the checks over a whole commit, placement, the values stored, and the effects of the objects
that command something. -/
namespace Sys2Proof.Machine

/-- Who commits: the session (none when it has closed), its client identity and role, the operation, and for BlockReset the
counts that the crossings lose with it (R434). -/
structure Actor where
  sess : Option SessId
  client : Nat
  role : Nat
  op : Nat
  lost : Nat

/-- A row that a commit writes: its changed fields with their last values. -/
structure WCell where
  obj : Nat
  row : Nat
  parts : List (Nat × Nat)
  deriving DecidableEq, Repr

/-- Adds a write to the rows of a commit. -/
def addWrite (w : SW) (l : List WCell) : List WCell :=
  match objInfo? w.obj with
  | none => l
  | some o =>
    let ps := parts o w.fld w.val
    let join := fun old : List (Nat × Nat) => ps ++ old.filter fun e => !(ps.any fun p => p.1 == e.1)
    if l.any fun c => c.obj == w.obj && c.row == w.row then
      updWhere l (fun c => c.obj == w.obj && c.row == w.row) fun c => { c with parts := join c.parts }
    else l ++ [⟨w.obj, w.row, ps⟩]

/-- The rows of a commit, in the order of their first write. -/
def cellsOf (ws : List SW) : List WCell := ws.foldl (fun l w => addWrite w l) []

/-- A field of a written row as it would stand. -/
def WCell.get (b : Blocks) (c : WCell) (k : Nat) : Nat := merged (b.base c.obj c.row) c.parts k

/-- The value of a row without a field map. -/
def WCell.val (c : WCell) : Nat := ((c.parts.find? fun e => e.1 == 0).map (·.2)).getD 0

/-- The written row as one number, over the fields that `base` holds. -/
def WCell.packedOver (base : Nat → Nat) (c : WCell) : Nat :=
  match objInfo? c.obj with
  | some o => if o.fields.isEmpty then c.val else packRow o.fields (merged base c.parts)
  | none => 0

/-- The written row as one number. -/
def WCell.packed (b : Blocks) (c : WCell) : Nat := c.packedOver (b.base c.obj c.row)

/-- Rows of one object, in ascending order. -/
def insertRow (c : WCell) : List WCell → List WCell
  | [] => [c]
  | d :: t => if c.row ≤ d.row then c :: d :: t else d :: insertRow c t

def rowsOf (cs : List WCell) (obj : Nat) : List WCell := (cs.filter fun c => c.obj == obj).foldl (fun l c => insertRow c l) []

/-- The commit writes object `obj`. -/
def writes (cs : List WCell) (obj : Nat) : Bool := cs.any fun c => c.obj == obj

/-- The dictionary over `base` as the commit would leave it. A graph that is cleared starts from its defaults (R135). -/
def overlayOn (base : Nat → Nat → Nat → Nat) (cs : List WCell) (obj row fld : Nat) : Nat :=
  let below := if writes cs O.ParseGraphClear ∧ O.ParseNode ≤ obj ∧ obj ≤ O.ParseStart then fieldDefault obj row fld
    else base obj row fld
  match cs.find? fun c => c.obj == obj && c.row == row with
  | some c => merged (fun _ => below) c.parts fld
  | none => below

/-- The dictionary as the commit would leave it. -/
abbrev overlay (b : Blocks) (cs : List WCell) (obj row fld : Nat) : Nat := overlayOn b.base cs obj row fld

/-- The rows of `obj` whose field `fld` may differ from its default after the commit. -/
def rowsSet (b : Blocks) (cs : List WCell) (obj fld : Nat) : List Nat :=
  let held := (b.store.filter fun e => e.1 / 2 ^ 40 == obj && e.1 % 256 == fld).map fun e => e.1 / 256 % 2 ^ 32
  (held ++ (cs.filter fun c => c.obj == obj).map (·.row)).dedup

/-! ### Units (R49, R157, R162, R180) -/

/-- The operations of the placement objects. -/
def WCell.routeOp (b : Blocks) (c : WCell) : RouteOp :=
  let g := c.get b
  let (fam, len, addr) := (prefixParts (g F.RouteUpdate_Prefix)).getD (0, 0, 0)
  ⟨c.row, g F.RouteUpdate_OpState, g F.RouteUpdate_Vrf, fam, len, addr, g F.RouteUpdate_Result⟩

def WCell.exactOp (b : Blocks) (c : WCell) : ExactOp :=
  let g := c.get b
  ⟨c.row, g F.ExactUpdate_OpState, g F.ExactUpdate_Profile, g F.ExactUpdate_Width, g F.ExactUpdate_Key,
    g F.ExactUpdate_Result, g F.ExactUpdate_Static == 1⟩

def WCell.rangeOp (b : Blocks) (c : WCell) : RangeOp :=
  let g := c.get b
  { row := c.row, op := g F.RangeUpdate_OpState, set := g F.RangeUpdate_Set, used := g F.RangeUpdate_RangeUsed
    prio := g F.RangeUpdate_Priority, result := g F.RangeUpdate_Result
    ranges := (List.range 8).map fun k => let v := g (F.RangeUpdate_Range0 + k); (v / 2 ^ 32, v % 2 ^ 32)
    tv := g F.RangeUpdate_TernaryValue, tm := g F.RangeUpdate_TernaryMask }

/-- Objects that are each session's own: no commit changes them for another (R158, R163, R177, Table 10-8). -/
abbrev ownObj (obj : Nat) : Bool :=
  [O.RouteQuery, O.ExactQuery, O.RangeSearch, O.RangeSearchNext, O.SchedNodeQuery].contains obj

/-- The units that a written row changes: the key of a route or exact row, the range row; none for a row with Op 0, which is
ignored (R155), and for a session's own queries. -/
def WCell.units (b : Blocks) (c : WCell) : List CUnit :=
  if ownObj c.obj then []
  else if c.obj = O.RouteUpdate then
    let o := c.routeOp b
    if o.op = 0 then [] else [routeUnit o.vrf o.fam o.len o.addr]
  else if c.obj = O.ExactUpdate then
    let o := c.exactOp b
    if o.op = 0 then [] else [exactUnit o.prof o.width o.key]
  else if c.obj = O.RangeUpdate ∨ c.obj = O.RangeDirect then
    if (c.rangeOp b).op = 0 then [] else [⟨O.RangeRule, c.row⟩]
  else [⟨c.obj, c.row⟩]

/-- The units of a commit. -/
def unitsOf (b : Blocks) (cs : List WCell) : List CUnit := (cs.map (WCell.units b)).flatten

/-- The units that a read row shows, with its value `v`: the key that a route or exact record names, whose changes are
those of its key, and the row itself (R49, R157, R162). -/
def readUnits (o : ObjInfo) (row v : Nat) : List CUnit :=
  let f := fun k => fieldOf o k v
  if o.num = O.RouteQuery ∨ o.num = O.RouteTable then
    match prefixParts (f F.RouteUpdate_Prefix) with
    | some (fam, len, addr) => [routeUnit (f F.RouteUpdate_Vrf) fam len addr]
    | none => []
  else if o.num = O.ExactQuery ∨ (o.num = O.ExactTable ∧ v ≠ 0) then
    [exactUnit (f F.ExactUpdate_Profile) (f F.ExactUpdate_Width) (f F.ExactUpdate_Key)]
  else if ownObj o.num then []
  else if o.num = O.RangeUpdate then [⟨O.RangeRule, row⟩]
  else [⟨o.num, row⟩]

/-- The number of the commit that last changed a unit; 0 for none. -/
def State.version (s : State) (u : CUnit) : Nat := ((s.changed.find? fun e => e.1 == u).map (·.2)).getD 0

/-- A transaction whose timed commit has been accepted. -/
abbrev Txn.accepted (t : Txn) : Bool := t.st == .pending || (t.st == .waiting && t.genKept)

/-- The units that accepted timed commits reserve, the asking session's own among them (R51). -/
def State.reserved (s : State) : List CUnit :=
  let all := (s.sessions.filterMap (·.txn) ++ s.orphans.map fun o => o.2.2).filter Txn.accepted
  (all.map fun t => unitsOf s.toBlocks (cellsOf t.staged)).flatten

/-! ### What a command object answers -/

/-- Objects that act only in a direct write: staged in a transaction they are answered with RANGE (R182, R378, R393 to R405;
log 101). -/
def directOnly (obj : Nat) : Bool :=
  [O.LifeCycleRequest, O.RangeDirect, O.FwLoadControl, O.FwChunk, O.FwStagedLoad, O.FwActivate, O.FwActivateCancel,
    O.FwActivateAtReset, O.FwConfirm, O.FwRollback].contains obj

/-- Objects that the servo writes (R104): BUSY while Bureau owns the servo. -/
def servoObj (obj : Nat) : Bool :=
  [O.DomainATime, O.DomainBTime, O.DomainAIncrement, O.DomainBIncrement, O.DomainAAdjust, O.DomainBAdjust,
    O.DomainAQualified, O.DomainBQualified].contains obj

/-- What needs no value to be refused: an owner that writes in place of the session. -/
def ownedStatus (b : Blocks) (obj : Nat) : Status :=
  if servoObj obj && b.sc O.ServoOwner == 0 then .busy
  else if (obj == O.MeshConnStandby || obj == O.MeshPageSwap) && b.sc O.MeshAutoPage == 1 then .busy
  else .ok

/-- The answer to a claim (1) or release (0) of an event bank (R359). -/
def claimStatus (b : Blocks) (a : Actor) (bank v : Nat) : Status :=
  let owner := b.rd O.EventBanks bank F.EventBanks_Owner
  if a.sess = some .bar0 then .range
  else if v = 1 ∧ owner ≠ 0xFFFF ∧ owner ≠ a.client then .busy
  else .ok

/-- The bytes of a firmware chunk: FwChunk's value is held as length × 2^65536 + bytes. -/
abbrev chunkBytes (v : Nat) : Bytes := beBytes (v / 2 ^ 65536) (v % 2 ^ 65536)

/-- The answers of the firmware objects (R393 to R405). -/
def fwStatus (s : State) (a : Actor) (c : WCell) : Status :=
  let v := c.val
  if c.obj = O.FwLoadControl then
    if v = 3 then
      match s.fw.load with
      | some l => if l.owner.isSome && l.owner == a.sess then .ok else .busy
      | none => .ok
    else if loadBusy s then .busy else .ok
  else if c.obj = O.FwChunk then
    match a.sess with
    | some id => chunkStatus s id c.row (chunkBytes v)
    | none => .busy
  else if c.obj = O.FwStagedLoad then
    if 66846720 < c.get s.toBlocks F.FwStagedLoad_Length then .range
    else if s.boot.phase = 9 ∧ c.get s.toBlocks F.FwStagedLoad_Chain = 1 then .range
    else if loadBusy s then .busy else .ok
  else if c.obj = O.FwActivate then activateStatus s v
  else if c.obj = O.FwActivateCancel then cancelStatus s
  else if c.obj = O.FwConfirm then confirmStatus s
  else if c.obj = O.FwRollback then (if inTrial s then .ok else .range)
  else if c.obj = O.FwActivateAtReset then atResetStatus s v
  else .ok

/-- Whether a written row is refused for what it commands. -/
def commandStatus (s : State) (a : Actor) (c : WCell) : Status :=
  let b := s.toBlocks
  let v := c.val
  let obj := c.obj
  if ownedStatus b obj ≠ .ok then ownedStatus b obj
  else if obj < 0x8000 then
    if obj = O.GridRelock then (if b.time.st = .free ∨ b.time.st = .acquire then .busy else .ok)
    else if obj = O.GridSet then (if b.time.st = .free then .ok else .busy)
    else if obj = O.HostRole then (if v = 5 ∧ b.life ≠ 3 then .range else .ok)
    else if obj = O.LifeCycleRequest then lifeStatus s v
    else if obj = O.BlockReset then blockResetStatus b c.row v
    else if obj = O.TrafficStart then trafficStartStatus b v
    else .ok
  else if obj < 0x3C000 then
    if obj = O.RangeDirect then rangeDirectStatus b (c.rangeOp b)
    else if obj = O.RangeSearchNext then
      match a.sess.bind s.sess? with
      | some x => (curNext b x.range).1
      | none => .range
    else .ok
  else
    if obj = O.HbmFreqRequest then (if freqBusy b v then .busy else .ok)
    else if obj = O.HbmServiceMode then (if serviceBusy b v then .busy else .ok)
    else if [O.HbmPatternGen, O.HbmDelay, O.HbmStrobe].contains obj then (if helperBusy b then .busy else .ok)
    else if O.TrolleyGo0 ≤ obj ∧ obj < O.TrolleyGo0 + 32 then (trolleyGo (obj - O.TrolleyGo0) v s).1
    else if obj = O.EventBankClaim then claimStatus b a c.row v
    else if obj = O.OwnerKey then (if s.ownerKey ≠ 0 then .range else .ok)
    else if obj = O.OwnerKeyRotate then (if rotateOk s v then .ok else .range)
    else fwStatus s a c

/-- What a refusal of a command leaves behind. -/
def commandRefused (a : Actor) (c : WCell) (st : Status) (s : State) : State :=
  let obj := c.obj
  if obj = O.HbmFreqRequest then freqResult (freqRefusal s.toBlocks) s
  else if obj = O.LifeCycleRequest then lifeRefused a.client a.role c.val st s
  else if obj = O.FwLoadControl then (if c.val < 3 then setLoad F.FwLoadStatus_Reason 9 s else s)
  else if obj = O.FwStagedLoad then (if st = .busy then setLoad F.FwLoadStatus_Reason 9 s else s)
  else if obj = O.OwnerKeyRotate then auditEntry .key a.client a.role a.op obj 0 0 (auditStatus .range) s
  else if obj = O.RangeSearchNext then
    match a.sess with
    | some id => s.updSess id fun x => { x with range := (curNext s.toBlocks x.range).2 }
    | none => s
  else s

/-! ### Checks over the whole commit -/

/-- What a check says of a commit: it may go on, or a status with the object and row that caused it, and what the refusal
leaves behind. -/
inductive Verdict where
  | go
  | refuse (st : Status) (obj row : Nat) (side : State → State)

/-- The first check that does not pass. -/
def Verdict.and (v w : Verdict) : Verdict := match v with | .go => w | r => r

/-- A refusal with a status when the condition fails. -/
abbrev need (ok : Bool) (st : Status) (obj row : Nat) : Verdict := if ok then .go else .refuse st obj row id

/-- The first row of a list that fails a check. -/
def needRows (l : List WCell) (ok : WCell → Bool) (st : Status) : Verdict :=
  match l.find? fun c => !ok c with
  | some c => .refuse st c.obj c.row id
  | none => .go

/-- The node a scheduler row names by its parents in the dictionary ends at the host port (R340). -/
def endsAtHost (r : Nat → Nat → Nat → Nat) (q : Nat) : Bool :=
  let l3 := r O.SchedQueue q F.SchedQueue_Parent
  let l2 := r O.SchedL3 l3 F.SchedQueue_Parent
  let l1 := r O.SchedL2 l2 F.SchedQueue_Parent
  r O.SchedL1 l1 F.SchedQueue_Parent == 128 && r O.SchedQueue q F.SchedQueue_Valid == 1 &&
    r O.SchedL3 l3 F.SchedQueue_Valid == 1 && r O.SchedL2 l2 F.SchedQueue_Valid == 1 &&
    r O.SchedL1 l1 F.SchedQueue_Valid == 1

/-- The enabled punt rings name different queues of the host port (R340). -/
def puntOk (b : Blocks) (cs : List WCell) (c : WCell) : Bool :=
  let r := overlay b cs
  let q := c.get b F.PuntRing_Queue
  c.get b F.PuntRing_Enable == 0 ||
    (endsAtHost r q && (rowsSet b cs O.PuntRing F.PuntRing_Enable).all fun k =>
      k == c.row || r O.PuntRing k F.PuntRing_Enable == 0 || r O.PuntRing k F.PuntRing_Queue != q)

/-- Bytes of a dump of schedule `k` over a reader (R364). -/
def dumpSize (r : Nat → Nat → Nat → Nat) (k : Nat) : Nat :=
  64 + if r O.TallboyDump k F.TallboyDump_Kind = 0 then 33554432 else 16 * r O.TallboyDump k F.TallboyDump_ListCount

/-- The commit-wide checks of dumps (R363): lists, areas and the rate of the enabled schedules. -/
def dumpsOk (r : Nat → Nat → Nat → Nat) : Bool :=
  let f := fun k fld => r O.TallboyDump k fld
  let on := (List.range 8).filter fun k => f k F.TallboyDump_Enable == 1
  let first := fun k => f k F.TallboyDump_AreaOffset * 65536
  let after := fun k => first k + f k F.TallboyDump_Slots * (ceilDiv (dumpSize r k) 65536 * 65536)
  let all := on.foldl (fun a k => a * f k F.TallboyDump_PeriodUs) 1
  on.all (fun k =>
    (f k F.TallboyDump_Kind == 0 || decide (f k F.TallboyDump_ListBase + f k F.TallboyDump_ListCount ≤ 524288)) &&
      decide (after k ≤ 1073741824) && on.all fun j => j == k || decide (after j ≤ first k) || decide (after k ≤ first j)) &&
    decide ((on.foldl (fun a k => a + dumpSize r k * 1000000 * (all / f k F.TallboyDump_PeriodUs)) 0) ≤ 12000000000 * all)

/-- A telemetry host ring row may be used (R365): its channel belongs to Tallboy, and a slot of row 0 holds the largest
dump that is copied. -/
def hostRingOk (r : Nat → Nat → Nat → Nat) (row : Nat) : Bool :=
  let f := fun fld => r O.TelemetryHostRing row fld
  let copied := (List.range 8).filter fun k =>
    r O.TallboyDump k F.TallboyDump_Enable == 1 && r O.TallboyDump k F.TallboyDump_HostCopy == 1
  f F.TelemetryHostRing_Enable == 0 ||
    (r O.TrolleyOwner (f F.TelemetryHostRing_Channel) 0 == 2 &&
      (row != 0 || copied.all fun k => decide (dumpSize r k ≤ 2 ^ f F.TelemetryHostRing_SlotSizeLog2)))

/-- The checks of the graph, the edit lists, the scheduler and the gates (R137, R192, R227, R242, R243). -/
def commitFe (b : Blocks) (cs : List WCell) : Verdict :=
  let r := overlay b cs
  let graph : Verdict := if cs.any fun c => isGraphObj c.obj then
      match graphFault r (List.range 256) (rowsSet b cs O.ParseTransition F.ParseTransition_Valid) with
      | some obj => .refuse .range obj 0 id
      | none => .go
    else .go
  let edits := needRows (rowsOf cs O.EditList)
    (fun c => editListOk (((List.range 8).map fun k => c.get b (k + 1)).filter fun o => opCode o != 0)) .range
  let nodes := cs.filter fun c => isNodeObj c.obj
  let moved := fun c : WCell =>
    c.get b F.SchedQueue_Parent != b.rd c.obj c.row F.SchedQueue_Parent ||
      (b.rd c.obj c.row F.SchedQueue_Valid == 1 && c.get b F.SchedQueue_Valid == 0)
  let gates := (rowsOf cs O.GateConfigChange).foldl (fun v c => v.and
    (match gateChangeFault r c.row with
     | some obj => .refuse .range obj c.row id
     | none => .go)) .go
  ((graph.and edits).and ((needRows nodes (fun c => nodeCommitOk r (levelOf c.obj) c.row) .range).and
    (needRows nodes (fun c => !(moved c && nodeBusy b (levelOf c.obj) c.row)) .busy))).and gates

/-- The checks of the mesh, the ports, the host, telemetry and the board (R270, R294, R340, R363, R365, R424). -/
def commitRest (b : Blocks) (cs : List WCell) : Verdict :=
  let r := overlay b cs
  let conn := needRows (rowsOf cs O.MeshConnStandby) (fun c =>
    connEntryOk b.mesh.mode b.card (r O.MeshGroupConfig (c.row / 10240) F.MeshGroupConfig_ExpectCard) (c.packed b)) .range
  let ports := need (!(writes cs O.PortConfig && portConfigFault (fun p f => r O.PortConfig p f) (List.range 128)))
    .range O.PortConfig 0
  let xoff := needRows (rowsOf cs O.PortConfig ++ rowsOf cs O.PortFlowControl) (fun c =>
    xoffFits (r O.PortConfig c.row F.PortConfig_Mode) (r O.PortFlowControl c.row F.PortFlowControl_XoffKiB)) .range
  let punts := needRows (rowsOf cs O.PuntRing) (puntOk b cs) .range
  let dumps := need (!(writes cs O.TallboyDump) || dumpsOk r) .range O.TallboyDump 0
  let hosts := (needRows (rowsOf cs O.TelemetryHostRing) (fun c => hostRingOk r c.row) .range).and
    (need (!(writes cs O.TallboyDump) || hostRingOk r 0) .range O.TallboyDump 0)
  let fanOk := (List.range 8).all fun n =>
    let p := r O.FanConfig n F.FanConfig_TachPin
    decide (16 ≤ p) || r O.GpioConfig p F.GpioConfig_Mode == 3
  let fans := (need (!(writes cs O.FanConfig) || fanOk) .range O.FanConfig 0).and
    (need (!(writes cs O.GpioConfig) || fanOk) .range O.GpioConfig 0)
  (conn.and (ports.and xoff)).and ((punts.and dumps).and (hosts.and fans))

/-- Commit checks of placement, for a commit that opens the next generation (R146, R156, R162, R180, R182). -/
def placement (b : Blocks) (cs : List WCell) : Verdict :=
  let g := b.gen.cur + 1
  let routes : Verdict := match routeApplyAll b g b.route.entries ((rowsOf cs O.RouteUpdate).map (WCell.routeOp b)) with
    | .ok _ => .go
    | .error (f, row) => .refuse .full O.RouteUpdate row (routeRefused f row)
  let exacts : Verdict := match exactApplyAll b g b.exact.entries ((rowsOf cs O.ExactUpdate).map (WCell.exactOp b)) with
    | .ok _ => .go
    | .error (f, row) => .refuse (if f = .full then .full else .range) O.ExactUpdate row (exactRefused f row)
  let ranges : Verdict := match rangeApplyAll g b.range ((rowsOf cs O.RangeUpdate).map (WCell.rangeOp b)) with
    | .ok _ => .go
    | .error row => .refuse .full O.RangeUpdate row (rangeRefused row)
  let direct : Verdict := match rangeDirectFull g b.range ((rowsOf cs O.RangeDirect).map (WCell.rangeOp b)) with
    | none => .go
    | some row => .refuse .full O.RangeDirect row id
  (routes.and exacts).and (ranges.and direct)

/-- Class P among the written rows. -/
def persistent (cs : List WCell) : List WCell := cs.filter fun c => match objInfo? c.obj with | some o => o.pers == 1 | none => false

/-- The commit writes FE objects, or the parse graph. -/
def writesFe (cs : List WCell) : Bool := cs.any fun c => match objInfo? c.obj with | some o => isFe o | none => false

def writesGraph (cs : List WCell) : Bool := cs.any fun c => isGraphObj c.obj

/-- The journal has room for a commit; a cleared graph is stored as well (R135, R416). -/
def journalCheck (cs : List WCell) (s : State) : Verdict :=
  match persistent cs ++ cs.filter fun c => c.obj == O.ParseGraphClear with
  | [] => .go
  | c :: _ => need (!s.journalFull) .busy c.obj c.row

/-- The window of a named instant (R50): 100 µs to 3,600 s after now. -/
def windowOk (b : Blocks) (at_ : Nat) : Bool :=
  decide (b.gridQ + 400000 ≤ at_) && decide (at_ ≤ b.gridQ + 3600 * quarterPerS)

/-- Every check of a commit but the waits, in their order. `touched` are the recorded units of its transaction, in the order
of their first access: of several that conflict the first of them is named (DEDUCED, log 112). -/
def commitCheck (a : Actor) (touched : List (CUnit × Nat)) (at_ : Option Nat) (cs : List WCell) (s : State) : Verdict :=
  let b := s.toBlocks
  let gridObj := cs.find? fun c => match objInfo? c.obj with | some o => o.apply == 3 | none => false
  let time : Verdict := match at_, gridObj with
    | none, some c => .refuse .range c.obj c.row id
    | some q, _ => need (windowOk b q) .range O.TxnCommit 0
    | none, none => .go
  let conflict : Verdict := match touched.find? fun u => decide (u.2 < s.version u.1) with
    | some u => .refuse .conflict u.1.obj u.1.row id
    | none => .go
  let taken := s.reserved
  let free := needRows cs (fun c => !(c.units b).any taken.contains) .busy
  let commands : Verdict := match cs.find? fun c => commandStatus s a c ≠ .ok with
    | some c =>
      let st := commandStatus s a c
      .refuse st c.obj c.row (commandRefused a c st)
    | none => .go
  ((time.and conflict).and (free.and commands)).and
    (((commitFe b cs).and (commitRest b cs)).and ((journalCheck cs s).and (placement b cs)))

/-! ### Applying -/

/-- A row that an unrepairable line took holds something again from this generation on, once the host has written it; the
generations before it keep finding nothing there (R119). -/
def rowWritten (obj row : Nat) (s : State) : State :=
  let again := fun e : LostRow =>
    if e.obj = obj ∧ e.row = row then
      if perGeneration obj then some { e with until_ := some (e.until_.getD s.gen.cur) } else none
    else some e
  s.upRepair fun r => { r with lostRows := r.lostRows.filterMap again }

/-- Stores a written row. Values that FE packets of older generations still see are kept (R106, R109). -/
def storeCell (s : State) (c : WCell) : State :=
  match objInfo? c.obj with
  | none => s
  | some o =>
    if transient o then s
    else
      let one := fun (a : State) (e : Nat × Nat) =>
        let old := a.rd c.obj c.row e.1
        let v := if clearsOnes c.obj e.1 then old ^^^ (old &&& e.2) else e.2
        let a1 := if isFe o && perGeneration o.num then a.keepOld a.gen.cur c.obj c.row e.1 else a
        a1.wr c.obj c.row e.1 v
      let s1 := c.parts.foldl one s
      if isFe o then rowWritten c.obj c.row s1 else s1

/-- A row as it takes effect: dump and sample rows keep the role of the session whose commit wrote them (R363, R367), and
outside MAINTENANCE a HostRole of VND, accepted there for an instant after it, leaves OPR (R40, log 175). -/
def owned (b : Blocks) (role : Nat) (c : WCell) : WCell :=
  if c.obj = O.TallboyDump then { c with parts := (F.TallboyDump_OwnerRole, role) :: c.parts }
  else if c.obj = O.SampleSession then { c with parts := (F.SampleSession_OwnerRole, role) :: c.parts }
  else if c.obj = O.HostRole ∧ c.val = 5 ∧ b.life ≠ 3 then { c with parts := [(0, 2)] }
  else c

/-- The fields of graph objects that a store lists, as (object, row, field). -/
def graphKeys (h : Tbl Nat) : List (Nat × Nat × Nat) :=
  let keys := (h.map (·.1)).filter fun k => decide (O.ParseNode ≤ k / 2 ^ 40) && decide (k / 2 ^ 40 ≤ O.ParseStart)
  keys.map fun k => (k / 2 ^ 40, k / 256 % 2 ^ 32, k % 256)

/-- The graph objects of the new bank start from their defaults (R135). -/
def clearGraph (s : State) : State :=
  (graphKeys s.store).foldl (fun a k =>
    (a.keepOld a.gen.cur k.1 k.2.1 k.2.2).wr k.1 k.2.1 k.2.2 (fieldDefault k.1 k.2.1 k.2.2)) s

/-- The bank that a graph commit wrote becomes active (R135). -/
def swapBank (cs : List WCell) (s : State) : State :=
  if !writesGraph cs then s
  else
    let s1 := if writes cs O.ParseGraphClear then clearGraph s else s
    (s1.ws O.ParseActiveBank (1 - s1.sc O.ParseActiveBank)).upGen fun g => { g with bankGen := g.cur }

/-- Snapshots keep copies of the units a commit writes, and end beyond 64 MiB (R57, R58). -/
def noteSnapshots (us : List CUnit) (s : State) : State :=
  let keep := fun n : Snap =>
    let l := n.copied ++ us.filter fun u => !n.copied.contains u
    let n' := { n with copied := l }
    if n'.fits s.toBlocks then some n' else none
  { s with sessions := s.sessions.map fun x => { x with snap := x.snap.bind keep } }

/-- The commit as one journal record (R41, R415): the values it writes, those that its security objects set with them, and
the graph that it clears. -/
def journalCommit (cs : List WCell) (s : State) : State :=
  let stored := (persistent cs).filter fun c => match objInfo? c.obj with | some o => !transient o | none => false
  let beside := (cs.map fun c => besideKeys c.obj c.row).flatten
  let cleared := if writes cs O.ParseGraphClear then graphKeys s.chest.home else []
  let keys := (stored.map fun c => c.parts.map fun e => (c.obj, c.row, e.1)).flatten ++ beside ++ cleared
  let bytes := stored.foldl (fun a c => a + 8 + ((objInfo? c.obj).map (·.width)).getD 0) (8 * (beside.length + cleared.length))
  if keys.isEmpty then s else s.journal keys bytes JRec.plain

/-- Units of 2^-42 ns of a signed DUR64. -/
abbrev durUnits (v : Nat) : Int := toSigned 64 v * 2 ^ 26

/-- The effects of time objects (chapter 3). -/
def timeEffect (c : WCell) (s : State) : State :=
  let v := c.val
  let obj := c.obj
  let dom : Dom := if obj < O.DomainBTime then .a else .b
  let served := fun f : DomRT → DomRT => s.updDom dom fun r => { f r with lastServo := s.time.ticks }
  if obj = O.GridSource then gridSourceWritten s
  else if obj = O.GridRelock then relockGrid s
  else if obj = O.GridSet then s.upTime fun t => { t with stepReq := some (.set (v * unitsPerQuarter)) }
  else if obj = O.DomainATime ∨ obj = O.DomainBTime then served fun r => { r with setReq := some (v * unitsPerQuarter) }
  else if obj = O.DomainAAdjust ∨ obj = O.DomainBAdjust then served fun r => { r with adjReq := r.adjReq + durUnits v }
  else if obj = O.DomainAIncrement ∨ obj = O.DomainBIncrement then served id
  else if obj = O.DomainAQualified ∨ obj = O.DomainBQualified then setQualified dom v s
  else if obj = O.TimeTrigger then triggerWritten c.row s
  else if obj = O.TcPort then tcPortWritten c.row s
  else s

/-- The effects of FE objects and queries (chapters 5 to 8). -/
def feEffect (a : Actor) (c : WCell) (s : State) : State :=
  let obj := c.obj
  let b := s.toBlocks
  let mine := fun f : Sess → Sess => match a.sess with | some id => s.updSess id f | none => s
  if obj = O.RouteQuery then mine fun x => { x with routeQ := c.packedOver (x.base b obj 0) }
  else if obj = O.ExactQuery then mine fun x => { x with exactQ := c.packedOver (x.base b obj 0) }
  else if obj = O.RangeSearch then
    mine fun x =>
      let part := fun k d => merged (fun _ => d) c.parts k
      let r := x.range
      { x with range := curStart b (part F.RangeSearch_Set r.set) (part F.RangeSearch_RangeKey r.rangeKey)
                          (part F.RangeSearch_TernaryKey r.ternKey) }
  else if obj = O.RangeSearchNext then mine fun x => { x with range := (curNext b x.range).2 }
  else if obj = O.RangeDirect then rangeDirect s.gen.cur (c.rangeOp b) s
  else if obj = O.StreamReplicate then s.wr obj c.row F.StreamReplicate_SeqNext 0
  else if obj = O.Meter then s.upFe fun f => { f with meters := Tbl.put MeterRT.full c.row MeterRT.full f.meters }
  else s

/-- The effects of the objects of the traffic manager, the mesh and the ports (chapters 9 to 12). -/
def tmEffect (old : Blocks) (c : WCell) (s : State) : State :=
  let obj := c.obj
  let v := c.val
  if obj = O.QueueFlush then flushQueue v s
  else if obj = O.BufferProfile ∨ obj = O.QueueBuffer then (s.tm.queues.map (·.1)).foldl (fun a q => askReturn q a) s
  else if isNodeObj obj then
    let k := nodeKey (levelOf obj) c.row
    s.upSched fun d => { d with waiting := if d.waiting.contains k then d.waiting else d.waiting ++ [k] }
  else if obj = O.GateConfigChange then gateChange c.row s
  else if obj = O.MeshConnStandby then s.upMesh fun m => { m with standby := m.standby.put c.row (c.packed s.toBlocks) }
  else if obj = O.MeshStandbyPageId then s.upMesh fun m => { m with standby := { m.standby with id := v } }
  else if obj = O.MeshGroupConfig then groupConfigWritten c.row s
  else if obj = O.MeshLeaveRequest then leaveWritten v s
  else if obj = O.PortConfig then
    portConfigApplied c.row ((c.parts.filter fun e => e.2 != old.rd obj c.row e.1).map (·.1)) s
  else if obj = O.PortRetrain then portRetrain c.row s
  else s

/-- A query of scheduler nodes is the session's (Table 10-8). -/
def nodeQueried (a : Actor) (c : WCell) (s : State) : State :=
  match a.sess with
  | some id => s.updSess id fun x =>
    { x with schedQ := (merged (fun _ => x.schedQ.1) c.parts F.SchedNodeQuery_Level,
        merged (fun _ => x.schedQ.2) c.parts F.SchedNodeQuery_Index) }
  | none => s

/-- Enables that make set flags pending act on their routes (R358). -/
def enableActs (old : Blocks) (bank : Nat) (s : State) : State :=
  let before := old.rd O.EventBanks bank F.EventBanks_Flags &&& old.rd O.EventBanks bank F.EventBanks_Enable
  let now := s.rd O.EventBanks bank F.EventBanks_Flags &&& s.rd O.EventBanks bank F.EventBanks_Enable
  (List.range 32).foldl (fun a k => if now.testBit k && !before.testBit k then routeAct (src bank k) a else a) s

/-- The effects of memory, host and telemetry objects (chapters 13 to 15). -/
def hostEffect (old : Blocks) (a : Actor) (c : WCell) (s : State) : State :=
  let obj := c.obj
  let v := c.val
  if obj = O.HbmFreqRequest then freqWritten v s
  else if obj = O.HbmServiceMode then serviceWritten v s
  else if obj = O.HbmPatternGen then (if s.rd obj 0 F.HbmPatternGen_Start = 1 then patternStart s else s)
  else if obj = O.HbmDelay then delayWritten false c.row s
  else if obj = O.HbmStrobe then delayWritten true c.row s
  else if obj = O.PuntRing then ringWritten c.row s
  else if obj = O.InjectRing then ringWritten (4096 + c.row) s
  else if O.TrolleyGo0 ≤ obj ∧ obj < O.TrolleyGo0 + 32 then (trolleyGo (obj - O.TrolleyGo0) v s).2
  else if obj = O.TrolleyStop then trolleyStop v s
  else if obj = O.EventBanks then enableActs old c.row s
  else if obj = O.EventSource then
    if s.rd obj c.row F.EventSource_ClearCount = 1 then
      (s.wr obj c.row F.EventSource_ClearCount 0).wr obj c.row F.EventSource_Count 0
    else s
  else if obj = O.EventBankClaim then
    let owner := s.rd O.EventBanks c.row F.EventBanks_Owner
    if v = 1 then s.wr O.EventBanks c.row F.EventBanks_Owner a.client
    else if owner = a.client then s.wr O.EventBanks c.row F.EventBanks_Owner 0xFFFF
    else s
  else if obj = O.CounterClear then clearPairs (c.get old F.CounterClear_First) (c.get old F.CounterClear_Last) s
  else if obj = O.TallboyDump then dumpWritten c.row s
  else if obj = O.TelemetryHostIndex then (if c.row = 0 then s else fillSlot c.row s)
  else s

/-- A load begins at a session's command. -/
def loadAsked (a : Actor) (chain : Bool) (s : State) : State :=
  match a.sess with
  | some id => loadBegin (some id) chain s
  | none => s

/-- The effects of the life cycle, firmware and board objects (chapters 16 to 20). -/
def controlEffect (a : Actor) (c : WCell) (s : State) : State :=
  let obj := c.obj
  let v := c.val
  if obj = O.LifeCycleRequest then lifeAccepted a.client a.role v s
  else if obj = O.BlockReset then blockReset c.row a.lost s
  else if obj = O.TrafficStart then trafficStarted s
  else if obj = O.FwLoadControl then (if v = 3 then (if s.fw.load.isSome then loadAbort s else s) else loadAsked a (v == 2) s)
  else if obj = O.FwChunk then (chunkWritten a.client a.role a.op (chunkBytes v) s).2
  else if obj = O.FwStagedLoad then
    match a.sess with
    | some id => stagedWritten id a.client a.role (c.get s.toBlocks F.FwStagedLoad_Length)
        (c.get s.toBlocks F.FwStagedLoad_Chain == 1) s
    | none => s
  else if obj = O.FwActivate then activateWritten v s
  else if obj = O.FwActivateCancel then cancelWritten s
  else if obj = O.FwConfirm then confirmWritten s
  else if obj = O.FwActivateAtReset then atResetWritten v s
  else if obj = O.SideboardStart then sideStart v s
  else if obj = O.FanConfig then fanWritten c.row s
  else s

/-- The effect of one written row, with the blocks as they stood before the commit. -/
def cellEffect (old : Blocks) (a : Actor) (s : State) (c : WCell) : State :=
  if c.obj < 0x4000 ∨ 0x44000 ≤ c.obj then controlEffect a c s
  else if c.obj < 0x8000 then timeEffect c s
  else if c.obj < 0x18000 then feEffect a c s
  else if c.obj = O.SchedNodeQuery then nodeQueried a c s
  else if c.obj < 0x3C000 then tmEffect old c s
  else hostEffect old a c s

/-- What a commit records of the units that it changes (R49, R57). -/
def State.booked (s : State) (us : List CUnit) : State :=
  noteSnapshots us { s with commitSeq := s.commitSeq + 1, changed := us.map (fun u => (u, s.commitSeq + 1)) ++ s.changed }

/-- A commit applies (R54): it is recorded, its generation opens, its values are stored, its entries placed, its record
journalled, and what it commands happens. -/
def applyCells (a : Actor) (cs : List WCell) (s : State) : State :=
  let old := s.toBlocks
  let cs := cs.map (owned old a.role)
  let s0 := s.booked (unitsOf old cs)
  let s1 := if writesFe cs then s0.openGen else s0
  let g := s1.gen.cur
  let s2 := cs.foldl storeCell (swapBank cs s1)
  let s3 := routeCommit g ((rowsOf cs O.RouteUpdate).map (WCell.routeOp old)) s2
  let s4 := exactCommit g ((rowsOf cs O.ExactUpdate).map (WCell.exactOp old)) s3
  let s5 := rangeCommit g ((rowsOf cs O.RangeUpdate).map (WCell.rangeOp old)) s4
  let s6 := cs.foldl (fun x c => besideValues c.obj c.row c.val x) s5
  cs.foldl (cellEffect old a) (journalCommit cs s6)

/-- What follows a commit once its response has gone: audits and closed sessions of security objects (R373, R385), in-band
sessions (R78), a rollback (R404), the reset into an image loaded in RECOVERY (R447). -/
def lateEffects (a : Actor) (cs : List WCell) (before : Blocks) (s : State) : State :=
  let s1 := cs.foldl (fun x c => securityApplied a.client a.role a.op c.obj c.row x) s
  let moved := before.sc O.InbandEnable ≠ s.sc O.InbandEnable ∨ before.sc O.InbandPort ≠ s.sc O.InbandPort
  let s2 := if moved then closeWhere (fun x => x.kind == .inband) s1 else s1
  if writes cs O.FwRollback then rollbackAsked 4 s2
  else if writes cs O.FwStagedLoad ∧ before.boot.phase = 9 then recoveryLoaded s2
  else s2

end Sys2Proof.Machine
end

