-- ==== Sys2Proof/Machine/Txn.lean ====
section
/-! DEFINITION. Transactions (R46 to R56, R465): staging, the attempt of a commit, its waits, timed commits at their instant,
aborts, and direct writes as commits of their own (R48). -/
namespace Sys2Proof.Machine

/-! ### A request item, checked -/

/-- What the checks of a write make of an item: an access without rights, a refusal, or a write. -/
inductive Checked where
  | silent
  | bad (st : Status)
  | good (w : SW)
  deriving DecidableEq, Repr

/-- TxnOpen, TxnCommit and TxnAbort drive the session's transaction and are never staged (R71). -/
def controls (obj : Nat) : Bool := [O.TxnOpen, O.TxnCommit, O.TxnAbort].contains obj

/-- The checks of one written item (R43, R45, R47, R48). `form` are its checks of row, type and length, `value` its value as
held (none: out of range), `base` the dictionary with the writes before it. -/
def checkWrite (s : State) (x : Sess) (staged : Bool) (base : Nat → Nat → Nat → Nat) (obj row fld : Nat)
    (form : ObjInfo → Status) (value : ObjInfo → Option Nat) : Checked :=
  match objInfo? obj with
  | none => .silent
  | some o =>
    let b := s.toBlocks
    if !canWrite b x o ((value o).getD 0) then .silent
    else if form o ≠ .ok then .bad (form o)
    else if staged && directOnly obj then .bad .range
    else match value o with
      | none => .bad .range
      | some v =>
        if obj ≠ O.FwChunk ∧ !valueOk b o row fld v (base obj row) then .bad .range
        else if o.apply = 3 ∧ !staged then .bad .range
        else if b.boot.phase = 8 ∧ obj ≠ O.LifeCycleRequest then .bad .busy
        else if staged ∧ ownedStatus b obj ≠ .ok then .bad (ownedStatus b obj)
        else .good ⟨obj, row, fld, v⟩

/-- Row, type and length of a ZOA item, which carries as many bytes as it states; the last chunk of firmware is as long as what
remains of the image (R394, R463, log 136). -/
def itemForm (b : Blocks) (i : Item) (o : ObjInfo) : Status :=
  let chunk := o.num == O.FwChunk && chunkLenOk b i.row.toNat i.val
  let len := if i.val.length ≠ i.len.toNat then 65536 else if chunk then o.width else i.len.toNat
  checkForm o i.typ.toNat i.row.toNat i.fld.toNat len

/-- The value of a ZOA item as held. -/
def itemValue (i : Item) (o : ObjInfo) : Option Nat :=
  if o.num = O.FwChunk then some (i.val.length * 2 ^ 65536 + beNat i.val)
  else fromWire o i.fld.toNat (beNat i.val)

/-- A response item that echoes a request item without a value. -/
def echoItem (i : Item) (st : Status) : RItem := ⟨i.obj.toNat, i.typ.toNat, i.row.toNat, i.fld.toNat, st.code, []⟩

/-! ### Staging (R46, R47) -/

/-- Bytes that staged writes take. -/
def stagedBytes (l : List SW) : Nat :=
  l.foldl (fun a w => a + ((objInfo? w.obj).map fun o => accLen o w.fld).getD 0) 0

/-- A unit the transaction sees for the first time is recorded with its version (R49). -/
def touchUnit (id : SessId) (u : CUnit) (s : State) : State :=
  let note := fun t : Txn =>
    if t.touched.any fun e => e.1 == u then t else { t with touched := t.touched ++ [(u, s.commitSeq)] }
  s.updSess id fun x => { x with txn := x.txn.map note }

/-- Stages a checked write: a later write of the same field replaces the earlier one; one that would pass 64 MiB or finds no
Shelf buffer is answered with FULL. -/
def stageWrite (id : SessId) (w : SW) (s : State) : Status × State :=
  match (s.sess? id).bind fun x => x.txn.map fun t => (x, t) with
  | none => (.range, s)
  | some (x, t) =>
    let same := fun v : SW => v.obj == w.obj && v.row == w.row && v.fld == w.fld
    let others := t.staged.filter fun v => !same v
    let l := others ++ [w]
    if 67108864 < stagedBytes l then (.full, s)
    else
      let (buf, s1) := if t.staged.any same then (some (0, 0), s) else shelfAlloc x.client (stagedBytes [w]) s
      match buf with
      | none => (.full, s1)
      | some _ =>
        let put := fun t : Txn => { t with staged := l, bytes := stagedBytes l, lastWrite := s1.time.ticks }
        let s2 := s1.updSess id fun y => { y with txn := y.txn.map put }
        let here := (cellsOf l).filter fun c => c.obj == w.obj && c.row == w.row
        (.ok, (unitsOf s2.toBlocks here).foldl (fun a u => touchUnit id u a) s2)

/-! ### The attempt of a commit -/

def actorOf (b : Blocks) (x : Sess) (op lost : Nat) : Actor := ⟨some x.id, x.client, roleOf b x, op, lost⟩

/-- Changes the session's transaction. -/
def updTxn (id : SessId) (f : Txn → Txn) (s : State) : State := s.updSess id fun x => { x with txn := x.txn.map f }

/-- A commit is refused (R48, R49, R50): its transaction stays open and TxnStatus names the object; the items of a direct
write that name the refused row, else its object, else all, carry the status. -/
def refuseCommit (w : Wait) (st : Status) (obj row : Nat) (s : State) : State :=
  if w.direct then
    let here := fun i : RItem => i.obj == obj && i.row == row
    let same := fun i : RItem => i.obj == obj
    let data := fun i : RItem => w.writes.any fun v => v.obj == i.obj && v.row == i.row
    let pick := if w.items.any here then here else if w.items.any same then same else data
    replyWait (w.mark pick st) st s
  else
    let s1 := updTxn w.sess (fun t => { t with st := .failed, lastStatus := st.code, failedObj := obj, at_ := none }) s
    replyWait (w.mark (fun i => i.obj == O.TxnCommit) st) st s1

/-- A generation is free for a commit: for one that has just come none may wait before it; one that waits, with its order
of acceptance, goes behind a step of the grid and behind those accepted before it (R91, R115). -/
def State.genFreeFor (s : State) (order : Option Nat) : Bool :=
  match order with
  | none => s.genFree
  | some k => decide (s.gensLive < 63) && s.time.stepReq.isNone && (s.exact.ageWait.all fun n => decide (k ≤ n)) &&
      s.waits.all fun w => w.waitFor != .gen || decide (k ≤ w.order)

/-- What a commit has to wait for (R53, R115, R136); `order` is that of a commit which waits already. -/
def waitNeeded (cs : List WCell) (at_ : Option Nat) (order : Option Nat) (s : State) : Option WaitFor :=
  if at_.isNone ∧ writesGraph cs ∧ !bankFree s.toBlocks then some .bank
  else if writesFe cs ∧ !s.genFreeFor order then some .gen
  else none

/-- Each wait is counted and raised (R53, R136). -/
def countWait (f : WaitFor) (s : State) : State :=
  match f with
  | .gen => raise (src 2 2) (s.sat32 O.GenerationWaitCount 0 0 1)
  | .bank => raise (src 2 3) (s.sat32 O.ParseBankWaitCount 0 0 1)

/-- A commit waits: `first` when its request has just come. -/
def waitCommit (first : Bool) (f : WaitFor) (w : Wait) (s : State) : State :=
  let s1 := if first ∨ f ≠ w.waitFor then countWait f s else s
  let w1 := if first then
      { w with waitFor := f, order := s.orderNext, due := s.time.ticks + s.sc O.TxnCommitTimeout * ticksPerMs }
    else { w with waitFor := f }
  let s2 : State := { s1 with waits := s1.waits ++ [w1], orderNext := s1.orderNext + bit first }
  let s3 := if w.direct then s2 else updTxn w.sess (fun t => { t with st := .waiting, at_ := w.at_ }) s2
  if first ∧ w.sess ≠ .bar0 ∧ w.op ≠ 0xFF then s3.updSess w.sess fun x => { x with running := (w.rid, 0) :: x.running }
  else s3

/-- A timed commit is accepted (R50, R51, R53): its units are reserved, and its generation when it writes FE objects; an
agreed page swap is announced for its cycle (R272). -/
def acceptTimed (w : Wait) (cs : List WCell) (q : Nat) (s : State) : State :=
  let accept := fun t : Txn =>
    { t with st := .pending, at_ := some q, order := s.orderNext, genKept := writesFe cs, lastStatus := 0 }
  let s1 := updTxn w.sess accept { s with orderNext := s.orderNext + 1 }
  replyWait w .ok (if writes cs O.MeshPageSwap then pageSwapWritten q s1 else s1)

/-- The answer of an applied commit: a firmware chunk may be refused by the checks its bytes complete (R394). -/
def appliedStatus (cs : List WCell) (s : State) : Status :=
  if writes cs O.FwChunk ∧ s.rd O.FwLoadStatus 0 F.FwLoadStatus_State = 4 then .range else .ok

/-- An immediate commit applies and is answered. -/
def finishCommit (w : Wait) (a : Actor) (cs : List WCell) (s : State) : State :=
  let s1 := applyCells a cs s
  let s2 := if w.direct then s1 else endTxn w.sess 4 .ok s1
  let st := appliedStatus cs s2
  let w1 := if st = .ok then w else w.mark (fun i => i.obj == O.FwChunk) st
  lateEffects a cs s.toBlocks (replyWait w1 st s2)

/-- An attempt of the commit that `w` asks for: refused, waiting, accepted for its instant, or applied. -/
def attempt (first : Bool) (lost : Nat) (w : Wait) (s : State) : State :=
  match s.sess? w.sess with
  | none => s
  | some x =>
    let t := if w.direct then none else x.txn
    let cs := cellsOf (if w.direct then w.writes else (t.map (·.staged)).getD [])
    let a := actorOf s.toBlocks x (if w.op = 0xFF then 0x02 else w.op) lost
    match commitCheck a ((t.map (·.touched)).getD []) w.at_ cs s with
    | .refuse st obj row side => refuseCommit w st obj row (side s)
    | .go =>
      match waitNeeded cs w.at_ (if first then none else some w.order) s with
      | some f => waitCommit first f w s
      | none =>
        match w.at_ with
        | some q => acceptTimed w cs q s
        | none => finishCommit w a cs s

/-- A waiting commit is tried again. -/
def retryWait (w : Wait) (s : State) : State :=
  attempt false 0 w { s with waits := s.waits.filter fun v => v.order != w.order }

/-! ### TXN_OPEN, TXN_COMMIT, TXN_ABORT (R46, R50 to R56) -/

/-- Opens the session's transaction: the status, and the handle. TxnStatus goes on showing the last commit or abort (Table 2-6). -/
def openTxn (id : SessId) (s : State) : Status × Nat × State :=
  match s.sess? id with
  | none => (.range, 0, s)
  | some x =>
    if x.txn.isSome ∨ 16 ≤ s.txnsOpen then (.full, 0, s)
    else
      let h := s.nextHandle
      let t : Txn := { handle := h, st := .open_, staged := [], touched := [], bytes := 0, lastWrite := s.time.ticks
                       at_ := none, order := 0, lastStatus := x.ended.status, failedObj := x.ended.failedObj
                       genKept := false }
      let s1 : State := { s with nextHandle := h % 0x7FFF + 1 }
      (.ok, h, s1.updSess id fun y => { y with txn := some t })

/-- Commits the session's transaction, for instant `q` (0: now); `w` carries the answer it owes. Without a transaction the
handle is out of bounds; while the commit waits or is accepted, BUSY. -/
def commitTxn (w : Wait) (q : Nat) (s : State) : State :=
  match (s.sess? w.sess).bind (·.txn) with
  | none => replyWait (w.mark (fun i => i.obj == O.TxnCommit) .range) .range s
  | some t =>
    if t.st = .pending ∨ t.st = .waiting then replyWait (w.mark (fun i => i.obj == O.TxnCommit) .busy) .busy s
    else attempt true 0 { w with at_ := if q = 0 then none else some q } s

/-- Aborts or cancels the session's transaction (R51, R53): BUSY from 100 µs before an accepted instant on. -/
def txnAbort (id : SessId) (s : State) : Status × State :=
  match (s.sess? id).bind (·.txn) with
  | none => (.range, s)
  | some t =>
    let bound := t.st == .pending && match t.at_ with | some q => decide (q ≤ s.gridQ + 400000) | none => false
    if bound then (.busy, updTxn id (fun t => { t with lastStatus := Status.busy.code }) s) else (.ok, abortTxn id .ok s)

/-! ### Writes (R46, R48, R71, R75) -/

/-- Who asks, and how the answer goes: operation, RequestId, Context and size of the response. -/
structure From where
  sess : SessId
  op : Nat
  rid : Nat
  ctx : Nat
  small : Bool
  lost : Nat

/-- The commit request of a write. -/
def From.wait (f : From) (direct : Bool) (ws : List SW) (items : List RItem) : Wait :=
  { sess := f.sess, direct := direct, writes := ws, items := items, op := f.op, rid := f.rid, ctx := f.ctx, small := f.small
    due := 0, waitFor := .gen, order := 0, at_ := none }

/-- Where a write goes: refused for its Context, into the session's transaction, or directly. -/
inductive Place where
  | refused (st : Status)
  | staged
  | direct
  deriving DecidableEq, Repr

/-- Context 0 is direct, but through BAR0 with a transaction open; the own handle stages, unless the commit is accepted or
waits; a snapshot handle and any other are out of range (R46, R59, R71, R75). -/
def placeOf (f : From) (x : Sess) : Place :=
  let inTxn := fun t : Txn => if t.st = .pending ∨ t.st = .waiting then .refused .busy else .staged
  match x.txn with
  | none => if f.ctx = 0 then .direct else .refused .range
  | some t =>
    if f.ctx = 0 then (if x.id = .bar0 then inTxn t else .direct)
    else if f.ctx = t.handle then inTxn t else .refused .range

/-- An access the role may not make is audited. -/
def auditSilent (f : From) (x : Sess) (i : RItem) (s : State) : State :=
  silentAccess x.client (roleOf s.toBlocks x) f.op i.obj i.row i.fld s

/-- The first status that is not OK. -/
def firstBad (l : List Status) : Status := (l.find? fun st => st ≠ .ok).getD .ok

/-- Answers a request that writes: its items with their statuses, and BAR0 with BarLastStatus. -/
def answerWrite (f : From) (items : List RItem) (sts : List Status) (s : State) : State :=
  let done := (items.zip sts).map fun e => { e.1 with status := e.2.code }
  if f.sess = .bar0 then barDone (firstBad sts) ((items.getLast?.map (·.obj)).getD 0) s
  else respond f.sess f.op f.rid f.ctx f.small (firstBad sts) done s

/-- The writes of TxnOpen and TxnAbort, and of TxnCommit where `owed` is false, in order: their statuses. -/
def runControl (f : From) : List (Nat × SW) → State → List (Nat × Status) × State
  | [], s => ([], s)
  | (i, w) :: t, s =>
    let (st, s1) :=
      if w.obj = O.TxnOpen then let (st, _, s1) := openTxn f.sess s; (st, s1)
      else if w.obj = O.TxnAbort then txnAbort f.sess s
      else
        let s1 := commitTxn { (f.wait false [] []) with op := 0xFF } w.val s
        let now := (s1.sess? f.sess).bind (·.txn)
        let was := (s.sess? f.sess).bind (·.txn)
        let code := fun n => ([Status.ok, .range, .type, .busy, .conflict, .full, .stale].getD n .ok)
        (match was, now with
         | none, _ => .range
         | some a, some b => if a.st = .pending ∨ a.st = .waiting then .busy
             else if b.st = .failed then code b.lastStatus else .ok
         | some _, none => .ok, s1)
    if st = .ok then
      let (l, s2) := runControl f t s1
      ((i, st) :: l, s2)
    else ([(i, st)], s1)

/-- The items of a write, each with what its checks made of it: staged, or applied together or not at all (R48). In a message
that mixes them, the control items run first, in order, and then the data items commit together (DEDUCED, log 114). -/
def finishWrite (f : From) (items : List RItem) (rs : List Checked) (s : State) : State :=
  let sts := rs.map fun r => match r with | .bad st => st | _ => .ok
  if firstBad sts ≠ .ok then answerWrite f items sts s
  else
    let good := rs.filterMap fun r => match r with | .good w => some w | _ => none
    let data := good.filter fun w => !controls w.obj
    let ctl := rs.zipIdx.filterMap fun r =>
      match r.1 with | .good w => if controls w.obj then some (r.2, w) else none | _ => none
    let commitLast := data.isEmpty && match ctl with | [(_, w)] => w.obj == O.TxnCommit | _ => false
    if commitLast then commitTxn (f.wait false [] items) ((good.getLast?.map (·.val)).getD 0) s
    else
      let (cst, s1) := runControl f ctl s
      let sts1 := sts.zipIdx.map fun e => ((cst.find? fun c => c.1 == e.2).map (·.2)).getD e.1
      if data.isEmpty ∨ firstBad sts1 ≠ .ok then answerWrite f items sts1 s1
      else attempt true f.lost (f.wait true data items) s1

/-- Checks the items of a direct write in order, each over the ones before it. -/
def checkDirect (s : State) (x : Sess) : List SW → List (List SW → Checked) → List Checked
  | _, [] => []
  | ws, c :: t =>
    let r := c ws
    r :: checkDirect s x (match r with | .good w => ws ++ [w] | _ => ws) t

/-- Checks and stages the items of a write with the transaction's handle, in order. -/
def stageAll (f : From) : List (RItem × (State → Sess → Checked)) → State → List Checked × State
  | [], s => ([], s)
  | (i, c) :: t, s =>
    match s.sess? f.sess with
    | none => ([], s)
    | some x =>
      let (r, s1) := match c s x with
        | .silent => (.silent, auditSilent f x i s)
        | .bad st => (.bad st, s)
        | .good w =>
          if controls w.obj then (.good w, s)
          else
            let (st, s2) := stageWrite f.sess w s
            (if st = .ok then .silent else .bad st, s2)
      let (rs, s3) := stageAll f t s1
      (r :: rs, s3)

/-- A WRITE or TABLE_WRITE, or one BAR0 write: `cs` are the items with their checks over the dictionary that the writes
before them give. -/
def writeItems (f : From) (cs : List (RItem × (State → Sess → Bool → List SW → Checked))) (s : State) : State :=
  match s.sess? f.sess with
  | none => s
  | some x =>
    let items := cs.map (·.1)
    match placeOf f x with
    | .refused st =>
      if cs.all (fun e => match e.2 s x false [] with | .good w => controls w.obj | _ => false) ∧ f.ctx = 0 then
        finishWrite f items (cs.map fun e => e.2 s x false []) s
      else
        let quiet := fun e : RItem × (State → Sess → Bool → List SW → Checked) =>
          st == .busy && e.2 s x false [] == .silent
        answerWrite f items (cs.map fun e => if quiet e then .ok else st)
          ((cs.filter quiet).foldl (fun a e => auditSilent f x e.1 a) s)
    | .staged =>
      let view := fun y : Sess => (y.txn.map (·.staged)).getD []
      let (rs, s1) := stageAll f (cs.map fun e => (e.1, fun a y => e.2 a y true (view y))) s
      finishWrite f items rs s1
    | .direct =>
      let rs := checkDirect s x [] (cs.map fun e => e.2 s x false)
      let s1 := (items.zip rs).foldl (fun a e => if e.2 = .silent then auditSilent f x e.1 a else a) s
      finishWrite f items rs s1

/-! ### BAR0 writes (R72 to R75) -/

/-- The object has a window form (Table 2-3). -/
def hasWindow (o : ObjInfo) : Bool := (decide (1 ≤ o.typ) && decide (o.typ ≤ 15)) || (o.typ == 19 && decide (o.width ≤ 8))

/-- BAR0's requests: one item, no response. -/
abbrev barFrom (op lost : Nat) : From := ⟨.bar0, op, 0, 0, false, lost⟩

/-- The check of a BAR0 write, over the writes before it. -/
def barCheck (obj : Nat) (value : ObjInfo → Option Nat) (s : State) (x : Sess) (staged : Bool) (ws : List SW) : Checked :=
  checkWrite s x staged (overlayOn (x.base s.toBlocks) (cellsOf ws)) obj 0 0 (fun _ => .ok) value

/-- A BAR0 write takes its turn; a slot without a window form ignores it, which BarLastStatus shows as OK (R72). -/
def barApply (obj : Nat) (value : ObjInfo → Option Nat) (lost : Nat) (s : State) : State :=
  if (objInfo? obj).any fun o => !hasWindow o then barDone .ok obj s
  else writeItems (barFrom 0x02 lost) [(⟨obj, 0, 0, 0, 0, []⟩, barCheck obj value)] s

/-- A direct write of BAR0 waits for its commit, and the BAR0 writes after it wait for their turn (R53, R74). -/
def State.barWaits (s : State) : Bool := s.waits.any fun w => w.sess == .bar0 && w.direct

/-- BAR0 writes in order, until one waits for its commit: the rest goes on waiting. -/
def drainList : List BarWrite → State → State
  | [], s => s
  | w :: t, s => if s.barWaits then { s with barq := w :: t } else drainList t (barApply w.obj (fun _ => w.val) w.lost s)

/-- The BAR0 writes whose turn has come, once the one before them waits no longer (R74). -/
def drainBar (s : State) : State := if s.barWaits then s else drainList s.barq { s with barq := [] }

/-- The BAR0 writes that have come and that no reader sees yet: the one that waits for its commit, and those behind it that
pass their checks (R74, log 117). -/
def postedWrites (x : Sess) (s : State) : List SW :=
  ((s.waits.filter fun w => w.sess == .bar0 && w.direct).map (·.writes)).flatten ++
    s.barq.filterMap fun q => match barCheck q.obj (fun _ => q.val) s x false [] with
      | .good w => if controls w.obj then none else some w
      | _ => none

/-! ### The events of transactions -/

/-- TXN_IDLE_TIMEOUT: an open transaction has seen no write for TxnIdleTimeout (R55). -/
def execTxnIdleTimeout (sess : SessId) (s : State) : Out :=
  match (s.sess? sess).bind (·.txn) with
  | none => .next s
  | some t =>
    if (t.st = .open_ ∨ t.st = .failed) ∧ t.lastWrite + s.sc O.TxnIdleTimeout * ticksPerS ≤ s.time.ticks then
      .next (abortTxn sess .ok s)
    else .next s

/-- The commit of a transaction that was refused at or after its instant (R465). -/
def failTimed (st : Status) (obj : Nat) (t : Txn) : Txn :=
  { t with st := .failed, lastStatus := st.code, failedObj := obj, at_ := none, genKept := false }

/-- An accepted timed commit with whose it is: a session's, or one whose session has closed (its place in `orphans`). -/
structure Timed where
  who : Actor
  orphan : Bool
  txn : Txn

/-- The accepted timed commits. -/
def State.timed (s : State) : List Timed :=
  (s.sessions.filterMap fun x => x.txn.bind fun t =>
    if t.accepted then some ⟨actorOf s.toBlocks x 0x11 0, false, t⟩ else none) ++
  s.orphans.map fun o => ⟨⟨none, o.1, o.2.1, 0x11, 0⟩, true, o.2.2⟩

/-- The one accepted first among some. -/
def firstTimed (l : List Timed) : Option Timed :=
  match (l.map fun t => t.txn.order).min? with
  | none => none
  | some k => l.find? fun t => t.txn.order == k

/-- A timed commit leaves the accepted ones: applied, or failed with its transaction open. -/
def settleTimed (t : Timed) (fail : Option (Status × Nat)) (s : State) : State :=
  match t.orphan, t.who.sess with
  | true, _ => { s with orphans := s.orphans.filter fun o => o.2.2.order != t.txn.order }
  | false, none => s
  | false, some id =>
    match fail with
    | none => endTxn id 4 .ok s
    | some (st, obj) => updTxn id (failTimed st obj) s

/-- A page swap announced for a commit that fails is withdrawn. -/
def withdrawSwap (cs : List WCell) (s : State) : State :=
  if writes cs O.MeshPageSwap then s.upMesh fun m => { m with swap := none } else s

/-- A timed commit is tried at its instant, or when the bank it waited for is free (R465). -/
def runTimed (t : Timed) (s : State) : State :=
  let cs := cellsOf t.txn.staged
  match (journalCheck cs s).and (placement s.toBlocks cs) with
  | .refuse st obj _ side => withdrawSwap cs (settleTimed t (some (st, obj)) (side s))
  | .go =>
    if writesGraph cs ∧ !bankFree s.toBlocks then
      if t.txn.st = .waiting then s
      else
        let hold := fun x : Txn => { x with st := .waiting, lastWrite := s.time.ticks }
        let s1 := countWait .bank s
        match t.who.sess with
        | some id => updTxn id hold s1
        | none => { s1 with orphans := s1.orphans.map fun o =>
            if o.2.2.order = t.txn.order then (o.1, o.2.1, hold o.2.2) else o }
    else lateEffects t.who cs s.toBlocks (settleTimed t none (applyCells t.who cs s))

/-- TIMED_COMMIT_APPLY: the instant of an accepted commit has come; of several, the one accepted first (R52, R54). -/
def execTimedCommitApply (s : State) : Out :=
  let due := s.timed.filter fun t => t.txn.st == .pending && match t.txn.at_ with | some q => decide (q ≤ s.gridQ) | none => false
  match firstTimed due with
  | none => .next s
  | some t => .next (runTimed t s)

/-- TXN_COMMIT_TIMEOUT: the commits that have waited for TxnCommitTimeout end with BUSY, their transactions open (R53, R136,
R465). -/
def execTxnCommitTimeout (s : State) : Out :=
  let over_ := s.waits.filter fun w => decide (w.due ≤ s.time.ticks)
  let s1 := over_.foldl (fun a w =>
    refuseCommit w .busy 0 0
      { a with waits := a.waits.filter fun v => v.order != w.order }) s
  let late := s1.timed.filter fun t =>
    t.txn.st == .waiting && decide (t.txn.lastWrite + s1.sc O.TxnCommitTimeout * ticksPerMs ≤ s1.time.ticks)
  .next (drainBar (late.foldl (fun a t => settleTimed t (some (.busy, 0)) a) s1))

/-- WAITING_COMMIT_APPLY: with fewer than 63 generations live, the commit that has waited longest for one is tried again;
an ageing commit waits among them, and a step of the grid goes before all (R53, R91, R165). -/
def execWaitingCommitApply (s : State) : Out :=
  let ws := s.waits.filter fun w => w.waitFor == .gen
  if 63 ≤ s.gensLive ∨ s.time.stepReq.isSome then .next s
  else
    match (ws.map (·.order)).min?, s.exact.ageWait with
    | none, none => .next s
    | none, some _ => .next (ageCommit s)
    | some k, age =>
      if age.any fun n => decide (n < k) then .next (ageCommit s)
      else match ws.find? fun w => w.order == k with
        | some w => .next (drainBar (retryWait w s))
        | none => .next s

/-- PARSE_BANK_FREE: the inactive bank may be overwritten; the graph commit that has waited longest is tried again (R136). -/
def execParseBankFree (s : State) : Out :=
  if !bankFree s.toBlocks then .next s
  else
    let ws := s.waits.filter fun w => w.waitFor == .bank
    match firstTimed (s.timed.filter fun t => t.txn.st == .waiting), (ws.map (·.order)).min? with
    | some t, none => .next (runTimed t s)
    | some t, some k =>
      if t.txn.order < k then .next (runTimed t s)
      else (match ws.find? fun w => w.order == k with
        | some w => .next (drainBar (retryWait w s))
        | none => .next s)
    | none, some k =>
      (match ws.find? fun w => w.order == k with
        | some w => .next (drainBar (retryWait w s))
        | none => .next s)
    | none, none => .next s

end Sys2Proof.Machine
end

