-- ==== Sys2Proof/Machine/Zoa.lean ====
section
/-! DEFINITION. The operations of ZOA (R61 to R71, R464), the BAR0 window (R72 to R75), the mailbox (R76, R77), snapshots (R57,
R58) and notifications (R69, R70). -/
namespace Sys2Proof.Machine

/-! ### Reading -/

/-- What a read sees under a Context: the environment, and the staged rows over it (R47, R57, R58, R71, R75). -/
def readCtx (x : Sess) (ctx : Nat) (s : State) : Except Status (Env × List WCell) :=
  let staged := (x.txn.map (·.staged)).getD []
  if ctx = 0 then .ok (liveEnv x s, if x.id = .bar0 then cellsOf (staged ++ postedWrites x s) else [])
  else if 0x8000 ≤ ctx then
    match x.liveSnap s.toBlocks with
    | some n => if n.handle = ctx then .ok (snapEnv n s, [])
                else .error (if x.hadSnaps.contains ctx then .stale else .range)
    | none => .error (if x.hadSnaps.contains ctx then .stale else .range)
  else if x.txn.any fun t => t.handle == ctx then .ok (liveEnv x s, cellsOf staged)
  else .error .range

/-- A value as read: the view, with staged fields over it. -/
def readValue (e : Env) (cs : List WCell) (o : ObjInfo) (row fld : Nat) : Nat :=
  let v := viewRow e o row
  match cs.find? fun c => c.obj == o.num && c.row == row with
  | none => fieldOf o fld v
  | some c =>
    if o.fields.isEmpty then c.val
    else fieldOf o fld (packRow o.fields (merged (fun k => fieldOf o k v) c.parts))

/-- A transaction's read records the units it reads (R49). -/
def noteRead (x : Sess) (ctx : Nat) (o : ObjInfo) (row v : Nat) (s : State) : State :=
  match x.txn with
  | some t =>
    if (ctx = t.handle ∨ x.id = .bar0) ∧ (t.st = .open_ ∨ t.st = .failed) then
      (readUnits o row v).foldl (fun a u => touchUnit x.id u a) s
    else s
  | none => s

/-- A live read of the capture log takes its entry as read (R101). -/
def noteCapture (ctx : Nat) (o : ObjInfo) (row : Nat) (s : State) : State :=
  if o.num = O.TimeCaptureLog ∧ ctx < 0x8000 ∧ row < s.time.capSeq then
    s.upTime fun t => { t with capRead := max t.capRead (row + 1) }
  else s

/-- One item of a READ (R43, R45): its response item, and what the read leaves behind. -/
def readItem (f : From) (x : Sess) (i : Item) (s : State) : RItem × State :=
  let row := i.row.toNat
  let fld := i.fld.toNat
  let zeros : RItem := { echoItem i .ok with val := List.replicate i.len.toNat 0 }
  match readCtx x f.ctx s with
  | .error st => (echoItem i st, s)
  | .ok (e, cs) =>
    match objInfo? i.obj.toNat with
    | none => (zeros, auditSilent f x zeros s)
    | some o =>
      if !canRead s.toBlocks x o then (zeros, auditSilent f x zeros s)
      else match checkForm o i.typ.toNat row fld i.len.toNat with
        | .ok =>
          let v := toWire o fld (readValue e cs o row fld)
          ({ echoItem i .ok with val := beBytes (accLen o fld) v },
            noteCapture f.ctx o row (noteRead x f.ctx o row (viewRow e o row) s))
        | st => (echoItem i st, s)

/-- The items of a READ in order. -/
def readItems (f : From) (x : Sess) : List Item → State → List RItem × State
  | [], s => ([], s)
  | i :: t, s =>
    let (r, s1) := readItem f x i s
    let (rs, s2) := readItems f x t s1
    (r :: rs, s2)

/-- The status that a list of response items gives the header (Table 2-8). -/
def itemsStatus (l : List RItem) : Status :=
  let code := (l.find? fun i => i.status != 0).map (·.status)
  match code with
  | none => .ok
  | some n => [Status.ok, .range, .type, .busy, .conflict, .full, .stale].getD n .ok

/-- Answers with items. -/
def answer (f : From) (ctx : Nat) (st : Status) (items : List RItem) (s : State) : State :=
  respond f.sess f.op f.rid ctx f.small st items s

/-- READ. -/
def opRead (f : From) (items : List Item) (x : Sess) (s : State) : State :=
  let (rs, s1) := readItems f x items s
  answer f f.ctx (itemsStatus rs) rs s1

/-! ### TABLE_READ (R464, R68) -/

/-- Rows of a TABLE_READ: as many of those in the table as one message can need. -/
def tableItems (o : ObjInfo) (i : Item) (count limit : Nat) : List Item :=
  let len := accLen o i.fld.toNat
  let most := (limit - 16) / (12 + ceilDiv len 4 * 4) + 1
  let rows := (List.range (min count most)).map fun k => i.row.toNat + k
  (rows.filter fun r => decide (r < 2 ^ 32) && inRange o r i.fld.toNat).map fun r =>
    { i with row := BitVec.ofNat 32 r, len := BitVec.ofNat 16 len, val := [] }

/-- TABLE_READ of one item: the right is judged first (R43), then row and field, then the type and the length of the count. An
object that is neither a TABLE nor a LOG is answered as a table of one row (DESIGN CHOICE, log 176). -/
def opTableRead (f : From) (items : List Item) (x : Sess) (s : State) : State :=
  match items with
  | [i] =>
    let limit := if f.small then 1400 else 9000
    let count := beNat i.val
    let fld := i.fld.toNat
    match readCtx x f.ctx s with
    | .error st => answer f f.ctx st [] s
    | .ok _ =>
      let o? := objInfo? i.obj.toNat
      match o?.bind fun o => if canRead s.toBlocks x o then some o else none with
      | none =>
        let len := (o?.map fun o => accLen o fld).getD 4
        let most := min count ((limit - 16) / (12 + ceilDiv len 4 * 4) + 1)
        let rows := (List.range most).map fun k =>
          { echoItem i .ok with row := (i.row.toNat + k) % 2 ^ 32, val := List.replicate len 0 }
        answer f f.ctx .ok rows (auditSilent f x (echoItem i .ok) s)
      | some o =>
        match checkForm o i.typ.toNat i.row.toNat fld (accLen o fld) with
        | .ok =>
          if i.len.toNat ≠ 4 ∨ i.val.length ≠ 4 then answer f f.ctx .type [] s
          else
            let (rs, s1) := readItems f x (tableItems o i count limit) s
            answer f f.ctx (itemsStatus rs) rs s1
        | st => answer f f.ctx st [] s
  | _ => answer f f.ctx .range [] s

/-! ### WRITE and TABLE_WRITE -/

/-- The check of a written ZOA item, over the writes before it. -/
def itemCheck (i : Item) (s : State) (x : Sess) (staged : Bool) (ws : List SW) : Checked :=
  checkWrite s x staged (overlayOn (x.base s.toBlocks) (cellsOf ws)) i.obj.toNat i.row.toNat i.fld.toNat
    (itemForm s.toBlocks i) (itemValue i)

def opWrite (f : From) (items : List Item) (_x : Sess) (s : State) : State :=
  writeItems f (items.map fun i => (echoItem i .ok, itemCheck i)) s

/-! ### TXN_OPEN, TXN_COMMIT, TXN_ABORT -/

/-- The session may write the object an operation stands for (R56); otherwise R43. -/
def mayControl (s : State) (x : Sess) (obj : Nat) : Bool :=
  match objInfo? obj with
  | some o => canWrite s.toBlocks x o 0
  | none => false

/-- The item under which an operation's silent access is audited. -/
abbrev ctlItem (obj typ : Nat) : RItem := ⟨obj, typ, 0, 0, 0, []⟩

/-- The Context of an operation on a transaction: 0 or the own handle (R71). -/
def ownCtx (f : From) (x : Sess) : Bool := f.ctx == 0 || x.txn.any fun t => t.handle == f.ctx

def opTxnOpen (f : From) (items : List Item) (x : Sess) (s : State) : State :=
  if !items.isEmpty then answer f f.ctx .range [] s
  else if !mayControl s x O.TxnOpen then answer f 0 .ok [] (auditSilent f x (ctlItem O.TxnOpen 1) s)
  else if !ownCtx f x then answer f f.ctx .range [] s
  else
    let (st, h, s1) := openTxn f.sess s
    answer f (if st = .ok then h else f.ctx) st [] s1

def opTxnCommit (f : From) (items : List Item) (x : Sess) (s : State) : State :=
  match items with
  | [i] =>
    if !mayControl s x O.TxnCommit then
      answer f f.ctx .ok (txnItems f.sess s) (auditSilent f x (ctlItem O.TxnCommit 11) s)
    else if i.obj.toNat ≠ O.TxnCommit ∨ i.typ ≠ 11 ∨ i.len ≠ 10 ∨ i.val.length ≠ 10 then
      answer f f.ctx .type (txnItems f.sess s) s
    else if !time80Ok (beNat i.val) ∨ !ownCtx f x then answer f f.ctx .range (txnItems f.sess s) s
    else commitTxn (f.wait false [] []) (qOfTime80 (beNat i.val)) s
  | _ => answer f f.ctx .range [] s

def opTxnAbort (f : From) (items : List Item) (x : Sess) (s : State) : State :=
  if !items.isEmpty then answer f f.ctx .range [] s
  else if !mayControl s x O.TxnAbort then
    answer f f.ctx .ok (txnItems f.sess s) (auditSilent f x (ctlItem O.TxnAbort 1) s)
  else if !ownCtx f x then answer f f.ctx .range (txnItems f.sess s) s
  else
    let (st, s1) := txnAbort f.sess s
    answer f f.ctx st (txnItems f.sess s1) s1

/-! ### Snapshots -/

/-- The items of an opened snapshot: GridTime and GenerationCurrent at its instant (Table 2-10). -/
def snapItems (s : State) : List RItem :=
  [⟨O.GridTime, 11, 0, 0, 0, beBytes 10 (time80OfQ s.gridQ)⟩, ⟨O.GenerationCurrent, 3, 0, 0, 0, beBytes 4 (s.gen.cur % 2 ^ 32)⟩]

/-- A Context that is neither 0 nor a handle of the session refuses the operation (R71); the handle of a snapshot that has
ended is STALE_SNAPSHOT, as for a read (R58). -/
def ctxStatus (f : From) (x : Sess) (s : State) : Status :=
  match readCtx x f.ctx s with
  | .ok _ => .ok
  | .error st => st

def opSnapshotOpen (f : From) (items : List Item) (x : Sess) (s : State) : State :=
  if !items.isEmpty then answer f f.ctx .range [] s
  else if roleOf s.toBlocks x = 0 then answer f f.ctx .ok [] (auditSilent f x (ctlItem O.SnapshotsOpen 1) s)
  else if ctxStatus f x s ≠ .ok then answer f f.ctx (ctxStatus f x s) [] s
  else if (x.liveSnap s.toBlocks).isSome ∨ 4 ≤ s.snapsOpen then answer f f.ctx .full [] s
  else
    let h := 0x8000 + s.nextSnap % 0x8000
    let n : Snap := { handle := h, openedAt := s.time.ticks, blocks := s.toBlocks, chest := s.chest, txns := s.txnsOpen
                      snaps := s.snapsOpen, zoas := s.zoaSessions.length, status := txnStatus x, refs := s.pins.refs
                      asked := x.asked, copied := [] }
    let s1 : State := { s with nextSnap := s.nextSnap + 1 }
    answer f h .ok (snapItems s) (s1.updSess f.sess fun y => { y with snap := some n, hadSnaps := h :: y.hadSnaps })

def opSnapshotClose (f : From) (items : List Item) (x : Sess) (s : State) : State :=
  if !items.isEmpty then answer f f.ctx .range [] s
  else if (x.liveSnap s.toBlocks).any fun n => n.handle == f.ctx then answer f f.ctx .ok [] (endSnap f.sess s)
  else answer f f.ctx (if x.hadSnaps.contains f.ctx then .stale else .range) [] s

/-- SNAPSHOT_EXPIRE: a snapshot has lived for SnapshotLifetime (R58). -/
def execSnapshotExpire (sess : SessId) (s : State) : Out :=
  match (s.sess? sess).bind (·.snap) with
  | none => .next s
  | some n =>
    if n.openedAt + s.sc O.SnapshotLifetime * ticksPerMs ≤ s.time.ticks then .next (endSnap sess s) else .next s

/-! ### Subscriptions (R69, R70) -/

/-- The present value of an object, for its subscribers. -/
def subValue (o : ObjInfo) (x : Sess) (s : State) : Nat := readValue (liveEnv x s) [] o 0 0

/-- One item of a SUBSCRIBE. An item that names a field of a RECORD subscribes the whole object, whose NOTIFY carries Field 0
(DESIGN CHOICE, log 177). -/
def subscribeItem (f : From) (x : Sess) (a : List RItem × State) (i : Item) : List RItem × State :=
  let s := a.2
  let obj := i.obj.toNat
  let say := fun (st : Status) (s : State) => (a.1 ++ [echoItem i st], s)
  match objInfo? obj with
  | none => say .ok (auditSilent f x (echoItem i .ok) s)
  | some o =>
    if !canRead s.toBlocks x o then say .ok (auditSilent f x (echoItem i .ok) s)
    else if o.typ = 20 ∨ o.typ = 21 then say .type s
    else match checkForm o i.typ.toNat i.row.toNat i.fld.toNat i.len.toNat with
      | .ok =>
        let subs := ((s.sess? f.sess).map (·.subs)).getD []
        if subs.any fun u => u.obj == obj then say .ok s
        else if 256 ≤ subs.length then say .full s
        else say .ok (s.updSess f.sess fun y => { y with subs := y.subs ++ [⟨obj, subValue o x s, none⟩] })
      | st => say st s

def opSubscribe (f : From) (items : List Item) (x : Sess) (s : State) : State :=
  if ctxStatus f x s ≠ .ok then answer f f.ctx (ctxStatus f x s) [] s
  else
    let (rs, s1) := items.foldl (subscribeItem f x) ([], s)
    answer f f.ctx (itemsStatus rs) rs s1

/-- One item of a SUBSCRIBE with Remove: the subscription ends; an item that names an object which the role may not read, or
none, is audited (R43, R44, R69). -/
def unsubscribeItem (f : From) (x : Sess) (s : State) (i : Item) : State :=
  let seen := (objInfo? i.obj.toNat).any fun o => canRead s.toBlocks x o
  if seen then s.updSess f.sess fun y => { y with subs := y.subs.filter fun u => u.obj != i.obj.toNat }
  else auditSilent f x (echoItem i .ok) s

def opUnsubscribe (f : From) (items : List Item) (x : Sess) (s : State) : State :=
  if ctxStatus f x s ≠ .ok then answer f f.ctx (ctxStatus f x s) [] s
  else answer f f.ctx .ok (items.map fun i => echoItem i .ok) (items.foldl (unsubscribeItem f x) s)

/-- A subscription due: its object has another value than was last sent, and a millisecond has passed since then. -/
def subDue (x : Sess) (s : State) (u : Sub) : Bool :=
  (match u.sentAt with | some t => decide (t + ticksPerMs ≤ s.time.ticks) | none => true) &&
    match objInfo? u.obj with
    | some o => canRead s.toBlocks x o && subValue o x s != u.last
    | none => false

/-- The NOTIFY of event bank `k` may be made: a millisecond has passed since its last (R69, R358). -/
def bankDue (x : Sess) (s : State) (k : Nat) : Bool :=
  x.bankSent.all fun e => e.1 != k || decide (e.2 + ticksPerMs ≤ s.time.ticks)

/-- The NOTIFY that is due, put into the send queue: the row of an event bank whose route fired, else the value of a
subscribed object that changed. -/
def makeNote (x : Sess) (s : State) : State :=
  match x.eventDue.find? (bankDue x s) with
  | some b =>
    let v := match objInfo? O.EventBanks with | some o => viewRow (liveEnv x s) o b | none => 0
    let sent := fun y : Sess =>
      { y with eventDue := y.eventDue.filter fun k => k != b
               bankSent := (b, s.time.ticks) :: y.bankSent.filter fun e => e.1 != b }
    notify x.id [⟨O.EventBanks, 19, b, 0, 0, beBytes 16 v⟩] (s.updSess x.id sent)
  | none =>
    match x.subs.find? (subDue x s) with
    | none => s
    | some u =>
      match objInfo? u.obj with
      | none => s
      | some o =>
        let v := subValue o x s
        let sent := fun w : Sub => if w.obj = u.obj then { w with last := v, sentAt := some s.time.ticks } else w
        let item : RItem := ⟨o.num, o.typ, 0, 0, 0, beBytes o.width (toWire o 0 v)⟩
        notify x.id [item] (s.updSess x.id fun y => { y with subs := y.subs.map sent })

/-- NOTIFY: the message that is due is made. The send queue leaves, before and after it, unless the way to the client is
busy (R70). -/
def execNotify (turn : NotifyTurn) (s : State) : Out :=
  let sess := turn.sess
  let busy := turn.busy
  let send := fun a : State => if busy then a else sendNotes sess a
  let s1 := send s
  match s1.sess? sess with
  | none => .next s1
  | some x => .next (send (makeNote x s1))

/-! ### Requests -/

/-- A request as its meaning needs it. -/
def fromReq (q : Req) (op : Nat) : From :=
  { sess := q.sess, op := op, rid := q.rid.toNat, ctx := q.ctx.toNat, small := q.small, lost := 0 }

/-- Runs an operation for a request (R64). -/
def runOp (op : Nat) (act : From → List Item → Sess → State → State) (q : Req) (items : List Item) (s : State) : State :=
  request q (act (fromReq q op) items) s

def execWrite (q : Req) (items : List Item) (s : State) : Out := .next (runOp 0x02 opWrite q items s)

def execTableRead (q : Req) (items : List Item) (s : State) : Out := .next (runOp 0x03 opTableRead q items s)

def execTableWrite (q : Req) (items : List Item) (s : State) : Out := .next (runOp 0x04 opWrite q items s)

def execTxnOpen (q : Req) (items : List Item) (s : State) : Out := .next (runOp 0x10 opTxnOpen q items s)

def execTxnCommit (q : Req) (items : List Item) (s : State) : Out := .next (runOp 0x11 opTxnCommit q items s)

def execTxnAbort (q : Req) (items : List Item) (s : State) : Out := .next (runOp 0x12 opTxnAbort q items s)

def execSnapshotOpen (q : Req) (items : List Item) (s : State) : Out := .next (runOp 0x20 opSnapshotOpen q items s)

def execSnapshotClose (q : Req) (items : List Item) (s : State) : Out := .next (runOp 0x20 opSnapshotClose q items s)

def execSubscribe (q : Req) (items : List Item) (s : State) : Out := .next (runOp 0x30 opSubscribe q items s)

def execUnsubscribe (q : Req) (items : List Item) (s : State) : Out := .next (runOp 0x30 opUnsubscribe q items s)

/-! ### Messages (R63, R65, R66) -/

/-- The items of a body; `valued` says that the operation's items carry values. None when an item overruns the body or bytes
are left over. -/
def parseItems (valued : Bool) : Nat → Bytes → Option (List Item)
  | 0, b => if b.isEmpty then some [] else none
  | n + 1, b =>
    if b.length < 12 then none
    else
      let h := beAt b 0 12
      let len := bitsOf 15 0 h
      let rest := b.drop 12
      let padded := if valued then ceilDiv len 4 * 4 else 0
      if rest.length < padded then none
      else
        let i : Item := { obj := BitVec.ofNat 20 (bitsOf 95 76 h), typ := BitVec.ofNat 8 (bitsOf 71 64 h)
                          row := BitVec.ofNat 32 (bitsOf 63 32 h), fld := BitVec.ofNat 8 (bitsOf 31 24 h)
                          len := BitVec.ofNat 16 len, val := if valued then rest.take len else [] }
        (parseItems valued n (rest.drop padded)).map fun l => i :: l

/-- A request message: operation, flags, RequestId, Context, items. -/
structure Message where
  op : Nat
  flags : Nat
  rid : Nat
  ctx : Nat
  items : List Item
  deriving DecidableEq, Repr

/-- Reads a request; none where R63 discards it. A message without room for a header, and one with the code of NOTIFY, which
only the module sends, are discarded too (DEDUCED, log 178). -/
def readMessage (b : Bytes) : Option Message :=
  if b.length < 16 ∨ 9000 < b.length then none
  else
    let h := beAt b 0 16
    let op := bitsOf 119 112 h
    if bitsOf 127 120 h ≠ 1 ∨ bitsOf 31 16 h ≠ b.length - 16 ∨
        !([0x01, 0x02, 0x03, 0x04, 0x10, 0x11, 0x12, 0x20, 0x30].contains op) then none
    else (parseItems (op != 0x01 && op != 0x30) (bitsOf 47 32 h) (b.drop 16)).map fun l =>
      ⟨op, bitsOf 103 96 h, bitsOf 95 64 h, bitsOf 63 48 h, l⟩

/-- Runs a request message of a session. -/
def runMessage (sess : SessId) (m : Message) (s : State) : State :=
  let q : Req := ⟨sess, BitVec.ofNat 32 m.rid, BitVec.ofNat 16 m.ctx, m.flags.testBit 6⟩
  let act := match m.op with
    | 0x01 => opRead
    | 0x03 => opTableRead
    | 0x10 => opTxnOpen
    | 0x11 => opTxnCommit
    | 0x12 => opTxnAbort
    | 0x20 => if m.flags.testBit 5 then opSnapshotClose else opSnapshotOpen
    | 0x30 => if m.flags.testBit 5 then opUnsubscribe else opSubscribe
    | _ => opWrite
  runOp m.op act q m.items s

/-- A message that breaks R63 is discarded and counted. -/
def discardMessage (s : State) : State := s.add64 O.ZoaMalformed 0 0 1

/-- ZOA_MESSAGE_DISCARD: a message on a session that R63 discards; one that breaks none of its rules is not discarded. -/
def execZoaMessageDiscard (sess : SessId) (msg : Bytes) (s : State) : Out :=
  if (s.sess? sess).any (·.reached s.toBlocks) ∧ (readMessage msg).isNone then .next (discardMessage s) else .next s

/-! ### The mailbox (R77) -/

/-- The bytes of a BAR4 write that fall into the `size` bytes at `base`, in a memory that holds them from address 0. -/
def windowWrite (base size offset : Nat) (data : Bytes) (m : List Host.Cell) : List Host.Cell :=
  let skip := base - offset
  memWrite m (offset + skip - base) ((data.drop skip).take (size - (offset + skip - base)))

/-- A host write of BAR4: it reaches the request buffers, the MSI-X table and the staging window (Table 2-12, R333). The control
words have operations of their own. -/
def bar4Write (offset : Nat) (data : Bytes) (s : State) : State :=
  let slots := s.mbox.zipIdx.map fun e =>
    { e.1 with reqBuf := windowWrite (e.2 * 0x10000 + 0x100) 9000 offset data e.1.reqBuf }
  ({ s with mbox := slots }).upHost fun h =>
    { h with staging := windowWrite 0x40000 (spaceBytes 0) offset data h.staging
             msixTable := windowWrite 0xC000 1024 offset data h.msixTable }

/-- BAR4 writes in the order they come. -/
def bar4Writes (l : List (Nat × Bytes)) (s : State) : State := l.foldl (fun a w => bar4Write w.1 w.2 a) s

/-- The request in a slot's buffer. -/
def slotRequest (s : State) (k n : Nat) : Option Message :=
  if 16 ≤ n ∧ n ≤ 9000 then readMessage (memRead (((s.mbox[k]?).map (·.reqBuf)).getD []) 0 n) else none

/-- MAILBOX_GO: the host has written BAR4 by `writes` and RequestLength, and then writes the Go word of a slot. -/
def execMailboxGo (slot : Fin 4) (go length : BitVec 32) (writes : List (Nat × Bytes)) (s : State) : Out :=
  let k := slot.val
  let seq := go.toNat % 65536
  if !s.served then .next s
  else
    let s1 := bar4Writes writes s
    if go.toNat < 2 ^ 31 then .next s1
    else if seq = 0 ∨ ((s1.mbox[k]?).bind (·.busy)).isSome then .next (discardMessage s1)
    else
      let n := length.toNat
      let s2 := s1.updMbox k fun m =>
        { m with lastSeq := seq, busy := some seq, done := false, reqLen := n, hostOwns := false }
      match slotRequest s2 k n with
      | none => .next (placeInSlot k seq [] (discardMessage s2))
      | some m => .next (runMessage (.mailbox slot) m s2)

/-- MAILBOX_ACK: the host gives the response buffer back. -/
def execMailboxAck (slot : Fin 4) (s : State) : Out := .next (s.updMbox slot.val fun m => { m with hostOwns := false })

/-- MAILBOX_NOTIFY_PLACE: the oldest waiting NOTIFY of a slot goes into its response buffer, while that is the module's and no
request of the slot executes. -/
def execMailboxNotifyPlace (slot : Fin 4) (s : State) : Out :=
  let id : SessId := .mailbox slot
  match s.mbox[slot.val]?, (s.sess? id).map (·.sendq) with
  | some m, some (n :: t) =>
    if m.hostOwns ∨ m.busy.isSome then .next s
    else
      let s1 := ((s.heard id).updSess id fun x => { x with sendq := t }).emit (.note id n)
      .next (placeInSlot slot.val 0 (noteBytes n) s1)
  | _, _ => .next s

/-! ### The BAR0 window (R72 to R75) -/

/-- The window form of a value. -/
def toWindow (o : ObjInfo) (v : Nat) : Nat := if o.typ = 5 then ofSigned 64 (toSigned 32 v) else v % 2 ^ 64

/-- The value a window form names; none when it does not fit the object (log 110). -/
def fromWindow (o : ObjInfo) (w : Nat) : Option Nat :=
  if o.typ = 5 then (if ofSigned 64 (toSigned 32 w) = w then some (w % 2 ^ 32) else none)
  else if w < 256 ^ o.width then some w else none

/-- Every BAR0 write is counted. -/
def countBarWrite (s : State) : State :=
  s.wr O.BarLastStatus 0 F.BarLastStatus_WriteCount ((s.rd O.BarLastStatus 0 F.BarLastStatus_WriteCount + 1) % 2 ^ 32)

/-- An aligned 8-byte write of an object, with its value as held: it takes its turn at once, or after the BAR0 write that waits
for its commit (R74). -/
def barWrite (obj : Nat) (value : ObjInfo → Option Nat) (lost : Nat) (s : State) : State :=
  let s1 := countBarWrite s
  if s1.barWaits then { s1 with barq := s1.barq ++ [⟨obj, (objInfo? obj).bind value, lost⟩] } else barApply obj value lost s1

/-- BAR0_WRITE: an aligned 8-byte write; a narrower one is ignored and counted, and so is an unaligned one. No PCI Express
write of the window is longer than 8 bytes: a longer operand does nothing (DEDUCED, log 179). -/
def execBar0Write (offset : Nat) (data : Bytes) (s : State) : Out :=
  if !s.served ∨ 0x800000 ≤ offset ∨ data.isEmpty ∨ 8 < data.length then .next s
  else if data.length ≠ 8 ∨ offset % 8 ≠ 0 then .next ((countBarWrite s).sat32 O.BarPartialWrite 0 0 1)
  else .next (barWrite (offset / 8) (fun o => fromWindow o (leNat data)) 0 s)

/-- A read of `size` bytes at `offset`: its bytes leave as a response of the BAR0 session. -/
def barRead (offset size : Nat) (s : State) : State :=
  match s.sess? .bar0 with
  | none => s
  | some x =>
    let obj := offset / 8
    let f := barFrom 0x01 0
    let item : RItem := ⟨obj, 0, 0, 0, 0, []⟩
    let (v, s1) := match objInfo? obj with
      | none => (0, auditSilent f x item s)
      | some o =>
        if !hasWindow o then (0, s)
        else if !canRead s.toBlocks x o then (0, auditSilent f x item s)
        else match readCtx x 0 s with
          | .error _ => (0, s)
          | .ok (e, cs) => (toWindow o (readValue e cs o 0 0), noteRead x 0 o 0 (viewRow e o 0) s)
    let bytes := ((leBytes 8 v).drop (offset % 8)).take size
    s1.emit (.resp .bar0 { op := 1, status := 0, more := false, small := false, rid := 0, ctx := 0
                           items := [{ item with val := bytes }] })

/-- READ: a ZOA request, or an aligned 8-byte or 4-byte read of the window. -/
def execRead (r : ReadReq) (s : State) : Out :=
  match r with
  | .zoa q items => .next (runOp 0x01 opRead q items s)
  | .bar0 offset size =>
    if s.served ∧ offset < 0x800000 ∧ ((size = 8 ∧ offset % 8 = 0) ∨ (size = 4 ∧ offset % 4 = 0)) then
      .next (barRead offset size s)
    else .next s

/-! ### The write of one object as a command -/

/-- Row, type and length of the direct write of one object: only a firmware chunk can have the wrong length (R463). -/
def writeForm (b : Blocks) (obj row fld : Nat) (val : Option Nat) (o : ObjInfo) : Status :=
  if !inRange o row fld then .range
  else if obj == O.FwChunk && val.any fun v => !chunkLenOk b row (chunkBytes v) then .type
  else .ok

/-- A session writes one object: by a ZOA WRITE of one item with the RequestId and Context of `v`, or through BAR0, whose slots
hold only objects with a window form (R72). `val` is the value as held. -/
def viaWrite (v : Via) (obj row fld lost : Nat) (val : Option Nat) (s : State) : State :=
  if v.sess = .bar0 then
    if !s.served then s
    else if row = 0 ∧ fld = 0 then barWrite obj (fun _ => val) lost s
    else barDone .ok obj (countBarWrite s)
  else
    let q : Req := ⟨v.sess, v.rid, v.ctx, false⟩
    let typ := ((objInfo? obj).map fun o => accType o fld).getD 0
    let item : RItem := ⟨obj, typ, row, fld, 0, []⟩
    request q (fun _ s1 => writeItems { fromReq q 0x02 with lost := lost } [(item, fun a x staged ws =>
      checkWrite a x staged (overlayOn (x.base a.toBlocks) (cellsOf ws)) obj row fld
        (writeForm a.toBlocks obj row fld val) fun _ => val)] s1) s

/-- A TIME80 operand as held: its wire form, and through BAR0 (`bar`) the count of its window form (R34). -/
def timeVal (bar : Bool) (t : Nat) : Option Nat :=
  if bar then some (t % 2 ^ 64) else if time80Ok t then some (qOfTime80 t) else none

end Sys2Proof.Machine
end

