-- ==== Sys2Proof/Machine/Restore.lean ====
section
/-! DEFINITION. The restore of the dictionary at boot (R417, R442, R443). -/
namespace Sys2Proof.Machine

/-- The scan of the journal counts the records that were complete and those that were not, and leaves none (R417). -/
def scanJournal (s : State) : State :=
  let found := s.chest.journal.filter (·.found)
  let whole := (found.filter (·.marked)).length
  let s1 := s.wr O.PowerJournalBoot 0 F.PowerJournalBoot_Replayed whole
  let s2 := s1.wr O.PowerJournalBoot 0 F.PowerJournalBoot_Discarded (found.length - whole)
  { s2 with chest := { s2.chest with journal := s2.chest.journal.filter fun r => !r.found } }

/-- An object that a commit restores: of class P, written by sessions, and held in the dictionary. -/
def restored (obj : Nat) : Bool :=
  match objInfo? obj with
  | some o => o.pers == 1 && o.wr != 0 && !transient o
  | none => false

/-- Adds a value of Chest to the rows to restore. -/
def addHome (l : List WCell) (e : Nat × Nat) : List WCell :=
  let (obj, row, fld) := (e.1 / 2 ^ 40, e.1 / 256 % 2 ^ 32, e.1 % 256)
  if l.any fun c => c.obj == obj && c.row == row then
    updWhere l (fun c => c.obj == obj && c.row == row) fun c => { c with parts := (fld, e.2) :: c.parts }
  else l ++ [⟨obj, row, [(fld, e.2)]⟩]

/-- The rows that Chest holds. -/
def homeCells (c : Chest) : List WCell := (c.home.filter fun e => restored (e.1 / 2 ^ 40)).foldl addHome []

/-- The values of rows in the dictionary. -/
def putCells (cs : List WCell) (s : State) : State :=
  cs.foldl (fun a c => c.parts.foldl (fun a e => a.wr c.obj c.row e.1 e.2) a) s

/-- An object whose rows, as they would all stand, fail a check. -/
def restoreFault (cs : List WCell) (s : State) : Option Nat :=
  let b := (putCells cs s).toBlocks
  let bad := fun c : WCell => match objInfo? c.obj with
    | some o => !valueOk b o c.row 0 (c.packed b) (b.base c.obj c.row)
    | none => true
  match cs.find? bad with
  | some c => some c.obj
  | none =>
    match (commitFe b cs).and (commitRest b cs) with
    | .go => none
    | .refuse _ obj _ _ => some obj

/-- An object is restored at its default: counted and named. -/
def defaulted (obj : Nat) (s : State) : State := (s.sat32 O.RestoreDefaulted 0 0 1).ws O.RestoreLastObject obj

/-- Drops objects until the rest passes every check; a failing object of which nothing is restored stands for the whole
parse graph. -/
def settleRestore : Nat → List WCell → State → List WCell × State
  | 0, _, s => ([], s)
  | n + 1, cs, s =>
    match restoreFault cs s with
    | none => (cs, s)
    | some obj =>
      let gone := fun c : WCell => if cs.any fun d => d.obj == obj then c.obj == obj else isGraphObj c.obj
      settleRestore n (cs.filter fun c => !gone c) (defaulted obj s)

/-- The page that Rack starts with: every slot IDLE, as MeshConnActive's default is 0 (Table 11-9). -/
abbrev startPage : Page := ⟨0, 0, []⟩

/-- The values of class P are applied as one commit, which opens generation 1. -/
def restoreValues (bad : List Nat) (s : State) : State :=
  let lost := bad.filter restored
  let s1 := lost.foldl (fun a obj => defaulted obj a) s
  let (cs, s2) := settleRestore 455 ((homeCells s.chest).filter fun c => !lost.contains c.obj) s1
  let old := s2.toBlocks
  let s3 := putCells cs s2.openGen
  let s4 := if writesGraph cs then (s3.ws O.ParseActiveBank 1).upGen fun g => { g with bankGen := g.cur } else s3
  let us := unitsOf old cs
  let s5 : State := { s4 with commitSeq := s4.commitSeq + 1, changed := us.map fun u => (u, s4.commitSeq + 1) }
  let s6 := s5.upMesh fun m =>
    { m with slot := s5.sc O.MeshCardSlot, mode := s5.sc O.MeshMode, active := startPage, standby := startPage }
  cs.foldl (cellEffect old ⟨none, 0xFFFF, 0, 0, 0⟩) s6

/-- READY is entered: ports begin to come up, and an image booted in TRIAL starts its confirmation time (R442). -/
def enterReady (s : State) : State :=
  let s1 := (enterPhase 6 s).upBoot fun b => { b with readyAt := s.time.ticks }
  let on := (List.range 128).filter fun p => s1.portCfg p F.PortConfig_Enable == 1
  let s2 := on.foldl (fun a p => restartPort p a) s1
  if inTrial s2 ∧ s2.fw.trialCold then s2.upFw fun w => { w with trialSince := some s.time.ticks } else s2

/-- What the restored values settle: outside MAINTENANCE no host session is VND, so that a HostRole of VND which a change
completed at this boot had still to set back leaves OPR (R40); ZOA is served at the restored ZoaUdpPort until the next
module reset (R61). -/
def bootDone (s : State) : State :=
  let s1 := if s.life ≠ 3 ∧ s.sc O.HostRole = 5 then s.wrHome O.HostRole 0 0 2 else s
  s1.upBoot fun b => { b with zoaPort := s1.sc O.ZoaUdpPort }

/-- RESTORE: the journal is scanned, a life-cycle change whose intent is recorded is completed, and the dictionary is
restored; `bad` are the objects whose stored copy fails its Chest check. -/
def execRestore (bad : List (BitVec 20)) (s : State) : Out :=
  if s.boot.phase ≠ 5 then .next s
  else
    let s1 := scanJournal s
    let s2 := match s1.chest.intent with
      | some (f, t) => lifeFinish f t s1
      | none => s1
    let s3 := if s2.life = 4 then s2.openGen else restoreValues (bad.map (·.toNat)) s2
    .next (enterReady (bootDone s3))

end Sys2Proof.Machine
end

