-- ==== Sys2Proof/Machine/TimeCmds.lean ====
section
/-! DEFINITION. Time events that touch other blocks: grid steps (R90, R91), the loss of a domain's source (R85), and the pulses
of trigger rows (R99, R100). -/
namespace Sys2Proof.Machine

/-- The grid steps by `size` units at a generation boundary (R91): schedules, triggers and frames follow. GridStepCount stays at
2^32 − 1 once it is there (log 152). -/
def stepGrid (size : Int) (s : State) : State :=
  let s1 := s.openGen
  let s2 := s1.upTime fun t =>
    { t with grid := (((t.grid : Int) + size) % counterMod).toNat, steps := t.steps ++ [(s1.gen.cur, size)], stepReq := none }
  let s3 := (s2.sat32 O.GridStepCount 0 0 1).ws O.GridLastStep (durOfUnits size)
  dumpsAfterStep (triggersAfterStep (meshStepped ((s3.gridQ : Int) - s.gridQ) s3))

/-- GRID_STEP: a requested step is made once a generation is free; a GridSet step only while the grid is still in FREE. -/
def execGridStep (s : State) : Out :=
  match s.time.stepReq with
  | none => .next s
  | some r =>
    if 63 ≤ s.gensLive then .next s
    else match r with
      | .set t =>
        if s.time.st = .free then .next (stepGrid ((t : Int) - s.time.grid) s)
        else .next (s.upTime fun x => { x with stepReq := none })
      | .err =>
        if s.time.st = .acquire then .next (stepGrid s.gridErr s)
        else .next (s.upTime fun x => { x with stepReq := none })

/-- A group from the source card of a domain is in SYNC, and the state it relays is LOCKED or HOLDOVER. -/
def meshSource (b : Blocks) (d : Dom) : Bool :=
  (List.range 16).any fun g =>
    (b.group g).align == 2 && b.peerOf g == some (b.sc (domObj d O.DomainAPort)) &&
      ((b.group g).hdr.any fun h => decide (2 ≤ h.grid))

/-- DOMAIN_SOURCE_LOSS: what R85 names has occurred to a qualified domain. -/
def execDomainSourceLoss (d : Dom) (s : State) : Out :=
  if s.qualified d && lossHolds s.toBlocks d (meshSource s.toBlocks d) then .next (loseDomain d s) else .next s

/-- TRIGGER_PULSE: the next instant of a running row has come; both edges of its pulse stand on 0.25 ns. With RequireLock it emits nothing in FREE and ACQUIRE. Rows 8
to 11 start Sideboard sequences 0 to 3. -/
def execTriggerPulse (row : Fin 12) (s : State) : Out :=
  match s.time.trig.find? fun t => t.row == row.val with
  | none => .next s
  | some t =>
    if s.gridQ < edgeAt t.next then .next s
    else
      let f := fun fld => s.rd O.TimeTrigger row.val fld
      let lit := s.gridRuns || f F.TimeTrigger_RequireLock == 0
      let s1 := triggerAdvance t lit s
      if !lit then .next s1
      else if 8 ≤ row.val then .next (sideTrigger (row.val - 8) (edgeAt t.next) s1)
      else
        let up := edgeAt t.next
        .next (s1.emit (.pulse row.val up (edgeAt (t.next + f F.TimeTrigger_Width) - up) (f F.TimeTrigger_Polarity == 0)))

end Sys2Proof.Machine
end

