-- ==== Sys2Proof/Machine/Objects.lean ====
section
/-! DEFINITION. The commands that are the write of one object (R30, R45): each has its own definition, and the object's own effect
stands in Commit.lean with the object. -/
namespace Sys2Proof.Machine

/-- A write of an object of the servo: by a session, or by Bureau's own servo while ServoOwner is FIRMWARE, with a value in the
object's bounds (R86). `val` is the value as held; its argument says that the operand has a window form. -/
def servoWrite (w : Servo) (obj : Nat) (val : Bool → Option Nat) (s : State) : State :=
  match w with
  | .session v => viaWrite v obj 0 0 0 (val (v.sess == .bar0)) s
  | .firmware =>
    match val false, objInfo? obj with
    | some x, some o =>
      let runs := decide (3 ≤ s.boot.phase) && s.boot.phase != 9 && s.sc O.ServoOwner == 0
      if runs && valueOk s.toBlocks o 0 0 x (fun _ => 0) then
        let c : WCell := ⟨obj, 0, [(0, x)]⟩
        timeEffect c (storeCell s c)
      else s
    | _, _ => s

/-- The RangeDirect record of an operation (Table 7-2): the operand with OpState set. -/
def rangeDirectRecord (op : Nat) (x : BitVec 960) : Nat := x.toNat % 2 ^ 958 + op * 2 ^ 958

/-- The HbmPatternGen record that starts operation `op` (Table 13-10). -/
def patternRecord (op : Nat) (p : Pattern) : Nat :=
  2 ^ 127 + p.pc.toNat * 2 ^ 123 + op * 2 ^ 121 + p.pattern.toNat * 2 ^ 118 + p.bursts.toNat * 2 ^ 100 + p.user.toNat

/-- QUEUE_FLUSH: a write of QueueFlush (R218). -/
def execQueueFlush (v : Via) (queue : BitVec 32) (s : State) : Out :=
  .next (viaWrite v O.QueueFlush 0 0 0 (some queue.toNat) s)

/-- GRID_SET: a write of GridSet (R90). -/
def execGridSet (v : Via) (t : BitVec 80) (s : State) : Out :=
  .next (viaWrite v O.GridSet 0 0 0 (timeVal (v.sess == .bar0) t.toNat) s)

/-- GRID_RELOCK: a write of GridRelock (R89). -/
def execGridRelock (v : Via) (x : BitVec 8) (s : State) : Out :=
  .next (viaWrite v O.GridRelock 0 0 0 (some x.toNat) s)

/-- GRID_SOURCE_WRITE: a write of GridSource (R92). -/
def execGridSourceWrite (v : Via) (x : BitVec 8) (s : State) : Out :=
  .next (viaWrite v O.GridSource 0 0 0 (some x.toNat) s)

/-- DOMAIN_QUALIFY: a write of DomainXQualified (R85). -/
def execDomainQualify (w : Servo) (d : Dom) (x : BitVec 8) (s : State) : Out :=
  .next (servoWrite w (domObj d O.DomainAQualified) (fun _ => some x.toNat) s)

/-- DOMAIN_TIME_SET: a write of DomainXTime (R87). -/
def execDomainTimeSet (w : Servo) (d : Dom) (t : BitVec 80) (s : State) : Out :=
  .next (servoWrite w (domObj d O.DomainATime) (fun bar => timeVal bar t.toNat) s)

/-- DOMAIN_ADJUST: a write of DomainXAdjust (R87). -/
def execDomainAdjust (w : Servo) (d : Dom) (x : BitVec 64) (s : State) : Out :=
  .next (servoWrite w (domObj d O.DomainAAdjust) (fun _ => some x.toNat) s)

/-- DOMAIN_INCREMENT_WRITE: a write of DomainXIncrement (R81). -/
def execDomainIncrementWrite (w : Servo) (d : Dom) (x : BitVec 64) (s : State) : Out :=
  .next (servoWrite w (domObj d O.DomainAIncrement) (fun _ => some x.toNat) s)

/-- TIME_TRIGGER_ENABLE: a write of a TimeTrigger row (R99, R100). -/
def execTimeTriggerEnable (v : Via) (row : BitVec 32) (x : BitVec 256) (s : State) : Out :=
  .next (viaWrite v O.TimeTrigger row.toNat 0 0 (some x.toNat) s)

/-- ROUTE_QUERY: a write of RouteQuery (R158). -/
def execRouteQuery (v : Via) (x : BitVec 288) (s : State) : Out :=
  .next (viaWrite v O.RouteQuery 0 0 0 (some x.toNat) s)

/-- EXACT_QUERY: a write of ExactQuery (R163). -/
def execExactQuery (v : Via) (x : BitVec 544) (s : State) : Out :=
  .next (viaWrite v O.ExactQuery 0 0 0 (some x.toNat) s)

/-- RANGE_SEARCH: a write of RangeSearch (R177). -/
def execRangeSearch (v : Via) (x : BitVec 512) (s : State) : Out :=
  .next (viaWrite v O.RangeSearch 0 0 0 (some x.toNat) s)

/-- RANGE_SEARCH_NEXT: a write of RangeSearchNext (R177). -/
def execRangeSearchNext (v : Via) (x : BitVec 8) (s : State) : Out :=
  .next (viaWrite v O.RangeSearchNext 0 0 0 (some x.toNat) s)

/-- RANGE_DIRECT_INVALIDATE: a write of a RangeDirect row with Op 1 (R182). -/
def execRangeDirectInvalidate (v : Via) (row : BitVec 32) (x : BitVec 960) (s : State) : Out :=
  .next (viaWrite v O.RangeDirect row.toNat 0 0 (some (rangeDirectRecord 1 x)) s)

/-- RANGE_DIRECT_WRITE: a write of a RangeDirect row with Op 2 (R182). -/
def execRangeDirectWrite (v : Via) (row : BitVec 32) (x : BitVec 960) (s : State) : Out :=
  .next (viaWrite v O.RangeDirect row.toNat 0 0 (some (rangeDirectRecord 2 x)) s)

/-- RANGE_DIRECT_VALIDATE: a write of a RangeDirect row with Op 3 (R182). -/
def execRangeDirectValidate (v : Via) (row : BitVec 32) (x : BitVec 960) (s : State) : Out :=
  .next (viaWrite v O.RangeDirect row.toNat 0 0 (some (rangeDirectRecord 3 x)) s)

/-- MESH_LEAVE_REQUEST: a write of MeshLeaveRequest (R292). -/
def execMeshLeaveRequest (v : Via) (x : BitVec 8) (s : State) : Out :=
  .next (viaWrite v O.MeshLeaveRequest 0 0 0 (some x.toNat) s)

/-- PORT_RETRAIN: a write of a PortRetrain row (R296). -/
def execPortRetrain (v : Via) (row : BitVec 32) (x : BitVec 8) (s : State) : Out :=
  .next (viaWrite v O.PortRetrain row.toNat 0 0 (some x.toNat) s)

/-- HBM_FREQ_REQUEST: a write of HbmFreqRequest (R323). -/
def execHbmFreqRequest (v : Via) (x : BitVec 8) (s : State) : Out :=
  .next (viaWrite v O.HbmFreqRequest 0 0 0 (some x.toNat) s)

/-- HBM_SERVICE_MODE: a write of HbmServiceMode (R330). -/
def execHbmServiceMode (v : Via) (x : BitVec 8) (s : State) : Out :=
  .next (viaWrite v O.HbmServiceMode 0 0 0 (some x.toNat) s)

/-- HBM_PATTERN_WRITE: a write of HbmPatternGen that starts Op 0 (R330). -/
def execHbmPatternWrite (v : Via) (p : Pattern) (s : State) : Out :=
  .next (viaWrite v O.HbmPatternGen 0 0 0 (some (patternRecord 0 p)) s)

/-- HBM_PATTERN_READ_COMPARE: a write of HbmPatternGen that starts Op 1 (R330). -/
def execHbmPatternReadCompare (v : Via) (p : Pattern) (s : State) : Out :=
  .next (viaWrite v O.HbmPatternGen 0 0 0 (some (patternRecord 1 p)) s)

/-- HBM_PATTERN_WRITE_READ_COMPARE: a write of HbmPatternGen that starts Op 2 (R330). -/
def execHbmPatternWriteReadCompare (v : Via) (p : Pattern) (s : State) : Out :=
  .next (viaWrite v O.HbmPatternGen 0 0 0 (some (patternRecord 2 p)) s)

/-- HBM_PATTERN_LOOPBACK: a write of HbmPatternGen that starts Op 3 (R330). -/
def execHbmPatternLoopback (v : Via) (p : Pattern) (s : State) : Out :=
  .next (viaWrite v O.HbmPatternGen 0 0 0 (some (patternRecord 3 p)) s)

/-- TROLLEY_GO: a write of TrolleyGo of a channel (R348). -/
def execTrolleyGo (v : Via) (channel : Fin 32) (x : BitVec 64) (s : State) : Out :=
  .next (viaWrite v (O.TrolleyGo0 + channel.val) 0 0 0 (some x.toNat) s)

/-- TROLLEY_STOP: a write of TrolleyStop (R353). -/
def execTrolleyStop (v : Via) (x : BitVec 8) (s : State) : Out :=
  .next (viaWrite v O.TrolleyStop 0 0 0 (some x.toNat) s)

/-- EVENT_FLAG_CLEAR: a write of Flags of an EventBanks row (R357). -/
def execEventFlagClear (v : Via) (bank flags : BitVec 32) (s : State) : Out :=
  .next (viaWrite v O.EventBanks bank.toNat F.EventBanks_Flags 0 (some flags.toNat) s)

/-- EVENT_COUNT_CLEAR: a write of 1 to ClearCount of an EventSource row (R356). -/
def execEventCountClear (v : Via) (source : BitVec 32) (s : State) : Out :=
  .next (viaWrite v O.EventSource source.toNat F.EventSource_ClearCount 0 (some 1) s)

/-- EVENT_BANK_CLAIM: a write of 1 to an EventBankClaim row (R359). -/
def execEventBankClaim (v : Via) (bank : BitVec 32) (s : State) : Out :=
  .next (viaWrite v O.EventBankClaim bank.toNat 0 0 (some 1) s)

/-- EVENT_BANK_RELEASE: a write of 0 to an EventBankClaim row (R359). -/
def execEventBankRelease (v : Via) (bank : BitVec 32) (s : State) : Out :=
  .next (viaWrite v O.EventBankClaim bank.toNat 0 0 (some 0) s)

/-- COUNTER_CLEAR: a write of CounterClear (R361). -/
def execCounterClear (v : Via) (first last : BitVec 21) (s : State) : Out :=
  .next (viaWrite v O.CounterClear 0 0 0 (some (first.toNat * 2 ^ 43 + last.toNat * 2 ^ 22)) s)

/-- LIFECYCLE_REQUEST: a write of LifeCycleRequest (R376). -/
def execLifecycleRequest (v : Via) (x : BitVec 8) (s : State) : Out :=
  .next (viaWrite v O.LifeCycleRequest 0 0 0 (some x.toNat) s)

/-- JTAG_DEBUG_ENABLE: a write of JtagDebugEnable (R386). -/
def execJtagDebugEnable (v : Via) (x : BitVec 8) (s : State) : Out :=
  .next (viaWrite v O.JtagDebugEnable 0 0 0 (some x.toNat) s)

/-- FW_LOAD_BEGIN: a write of BEGIN to FwLoadControl (R393). -/
def execFwLoadBegin (v : Via) (s : State) : Out :=
  .next (viaWrite v O.FwLoadControl 0 0 0 (some 1) s)

/-- FW_LOAD_BEGIN_CHAIN: a write of BEGIN_CHAIN to FwLoadControl (R393). -/
def execFwLoadBeginChain (v : Via) (s : State) : Out :=
  .next (viaWrite v O.FwLoadControl 0 0 0 (some 2) s)

/-- FW_LOAD_ABORT: a write of ABORT to FwLoadControl (R393). -/
def execFwLoadAbort (v : Via) (s : State) : Out :=
  .next (viaWrite v O.FwLoadControl 0 0 0 (some 3) s)

/-- FW_CHUNK: a write of an FwChunk row (R394). -/
def execFwChunk (v : Via) (row : BitVec 32) (data : Bytes) (s : State) : Out :=
  .next (viaWrite v O.FwChunk row.toNat 0 0 (some (data.length * 2 ^ 65536 + beNat data)) s)

/-- FW_STAGED_LOAD: a write of FwStagedLoad (R395). -/
def execFwStagedLoad (v : Via) (length : BitVec 32) (chain : Bool) (s : State) : Out :=
  .next (viaWrite v O.FwStagedLoad 0 0 0 (some (length.toNat * 2 ^ 32 + chain.toNat * 2 ^ 31)) s)

/-- FW_ACTIVATE: a write of FwActivate (R400). -/
def execFwActivate (v : Via) (t : BitVec 80) (s : State) : Out :=
  .next (viaWrite v O.FwActivate 0 0 0 (timeVal (v.sess == .bar0) t.toNat) s)

/-- FW_ACTIVATE_CANCEL: a write of 1 to FwActivateCancel (R401). -/
def execFwActivateCancel (v : Via) (s : State) : Out :=
  .next (viaWrite v O.FwActivateCancel 0 0 0 (some 1) s)

/-- FW_CONFIRM: a write of 1 to FwConfirm (R403). -/
def execFwConfirm (v : Via) (s : State) : Out :=
  .next (viaWrite v O.FwConfirm 0 0 0 (some 1) s)

/-- FW_ROLLBACK: a write of 1 to FwRollback (R404). -/
def execFwRollback (v : Via) (s : State) : Out :=
  .next (viaWrite v O.FwRollback 0 0 0 (some 1) s)

/-- FW_ACTIVATE_AT_RESET_MARK: a write of 1 to FwActivateAtReset (R405). -/
def execFwActivateAtResetMark (v : Via) (s : State) : Out :=
  .next (viaWrite v O.FwActivateAtReset 0 0 0 (some 1) s)

/-- FW_ACTIVATE_AT_RESET_UNMARK: a write of 0 to FwActivateAtReset (R405). -/
def execFwActivateAtResetUnmark (v : Via) (s : State) : Out :=
  .next (viaWrite v O.FwActivateAtReset 0 0 0 (some 0) s)

/-- SIDEBOARD_START: a write of SideboardStart (R419). -/
def execSideboardStart (v : Via) (x : BitVec 8) (s : State) : Out :=
  .next (viaWrite v O.SideboardStart 0 0 0 (some x.toNat) s)

/-- BLOCK_RESET: a write of a BlockReset row; `lost` counts what its crossings held (R432, R433). -/
def execBlockReset (v : Via) (row : BitVec 32) (x : BitVec 8) (lost : BitVec 16) (s : State) : Out :=
  .next (viaWrite v O.BlockReset row.toNat 0 lost.toNat (some x.toNat) s)

/-- TRAFFIC_START: a write of TrafficStart (R445). -/
def execTrafficStart (v : Via) (x : BitVec 8) (s : State) : Out :=
  .next (viaWrite v O.TrafficStart 0 0 0 (some x.toNat) s)

end Sys2Proof.Machine
end

