-- ==== Sys2Proof/Machine/Dispatch.lean ====
section
/-! DEFINITION. Which meaning each command has: one arm per row of spec/opcode_table.json. -/
namespace Sys2Proof.Machine

/-- The effect of a command on everything but the queue. -/
def exec (i : Instr) (s : State) : Host.Outcome State Fault Refusal :=
  match i with
  | .read r => Sys2Proof.Machine.execRead r s
  | .write q items => Sys2Proof.Machine.execWrite q items s
  | .tableRead q items => Sys2Proof.Machine.execTableRead q items s
  | .tableWrite q items => Sys2Proof.Machine.execTableWrite q items s
  | .txnOpen q items => Sys2Proof.Machine.execTxnOpen q items s
  | .txnCommit q items => Sys2Proof.Machine.execTxnCommit q items s
  | .txnAbort q items => Sys2Proof.Machine.execTxnAbort q items s
  | .snapshotOpen q items => Sys2Proof.Machine.execSnapshotOpen q items s
  | .snapshotClose q items => Sys2Proof.Machine.execSnapshotClose q items s
  | .subscribe q items => Sys2Proof.Machine.execSubscribe q items s
  | .unsubscribe q items => Sys2Proof.Machine.execUnsubscribe q items s
  | .notify turn => Sys2Proof.Machine.execNotify turn s
  | .zoaMessageDiscard sess msg => Sys2Proof.Machine.execZoaMessageDiscard sess msg s
  | .dtlsHandshake h => Sys2Proof.Machine.execDtlsHandshake h s
  | .sessionClose sess => Sys2Proof.Machine.execSessionClose sess s
  | .zoaSessionIdleClose sess => Sys2Proof.Machine.execZoaSessionIdleClose sess s
  | .txnIdleTimeout sess => Sys2Proof.Machine.execTxnIdleTimeout sess s
  | .txnCommitTimeout => Sys2Proof.Machine.execTxnCommitTimeout s
  | .snapshotExpire sess => Sys2Proof.Machine.execSnapshotExpire sess s
  | .timedCommitApply => Sys2Proof.Machine.execTimedCommitApply s
  | .waitingCommitApply => Sys2Proof.Machine.execWaitingCommitApply s
  | .parseBankFree => Sys2Proof.Machine.execParseBankFree s
  | .bar0Write offset data => Sys2Proof.Machine.execBar0Write offset data s
  | .mailboxGo slot go length writes => Sys2Proof.Machine.execMailboxGo slot go length writes s
  | .mailboxAck slot => Sys2Proof.Machine.execMailboxAck slot s
  | .mailboxNotifyPlace slot => Sys2Proof.Machine.execMailboxNotifyPlace slot s
  | .dovetailLinkLoss cut => Sys2Proof.Machine.execDovetailLinkLoss cut s
  | .frameReceive port rx phase => Sys2Proof.Machine.execFrameReceive port rx phase s
  | .pfcRepeat port cls => Sys2Proof.Machine.execPfcRepeat port cls s
  | .pauseExpire port cls => Sys2Proof.Machine.execPauseExpire port cls s
  | .packetAdmit a held errs => Sys2Proof.Machine.execPacketAdmit a held errs s
  | .lineRepairComplete l done => Sys2Proof.Machine.execLineRepairComplete l done s
  | .exactLearnInsert => Sys2Proof.Machine.execExactLearnInsert s
  | .tmEnqueue a turn => Sys2Proof.Machine.execTmEnqueue a turn s
  | .spillReturn read => Sys2Proof.Machine.execSpillReturn read s
  | .queueFlush v queue => Sys2Proof.Machine.execQueueFlush v queue s
  | .tmIntegrityError cells descs => Sys2Proof.Machine.execTmIntegrityError cells descs s
  | .shaperRefill level => Sys2Proof.Machine.execShaperRefill level s
  | .calendarSlotRelease => Sys2Proof.Machine.execCalendarSlotRelease s
  | .schedulerSelect port => Sys2Proof.Machine.execSchedulerSelect port s
  | .egressProcess link phase => Sys2Proof.Machine.execEgressProcess link phase s
  | .streamRecoveryReset stream => Sys2Proof.Machine.execStreamRecoveryReset stream s
  | .puntRingWrite row bufs => Sys2Proof.Machine.execPuntRingWrite row bufs s
  | .gateEntryChange port => Sys2Proof.Machine.execGateEntryChange port s
  | .gateListStart port => Sys2Proof.Machine.execGateListStart port s
  | .generationRetire => Sys2Proof.Machine.execGenerationRetire s
  | .generationAgeLimit => Sys2Proof.Machine.execGenerationAgeLimit s
  | .lockstepMismatch => Sys2Proof.Machine.execLockstepMismatch s
  | .longcaseTick => Sys2Proof.Machine.execLongcaseTick s
  | .gridSteerUpdate => Sys2Proof.Machine.execGridSteerUpdate s
  | .gridStep => Sys2Proof.Machine.execGridStep s
  | .gridLock => Sys2Proof.Machine.execGridLock s
  | .gridSet v t => Sys2Proof.Machine.execGridSet v t s
  | .gridRelock v x => Sys2Proof.Machine.execGridRelock v x s
  | .gridSourceWrite v x => Sys2Proof.Machine.execGridSourceWrite v x s
  | .domainQualify w d x => Sys2Proof.Machine.execDomainQualify w d x s
  | .domainSourceLoss d => Sys2Proof.Machine.execDomainSourceLoss d s
  | .domainTimeSet w d t => Sys2Proof.Machine.execDomainTimeSet w d t s
  | .domainAdjust w d x => Sys2Proof.Machine.execDomainAdjust w d x s
  | .domainIncrementWrite w d x => Sys2Proof.Machine.execDomainIncrementWrite w d x s
  | .domainOffsetUpdate d => Sys2Proof.Machine.execDomainOffsetUpdate d s
  | .domainDisagreementUpdate => Sys2Proof.Machine.execDomainDisagreementUpdate s
  | .ppsInEdge rising edge => Sys2Proof.Machine.execPpsInEdge rising edge s
  | .timeCaptureEdge input rising edge => Sys2Proof.Machine.execTimeCaptureEdge input rising edge s
  | .timeTriggerEnable v row x => Sys2Proof.Machine.execTimeTriggerEnable v row x s
  | .triggerPulse row => Sys2Proof.Machine.execTriggerPulse row s
  | .ppsOutPulse => Sys2Proof.Machine.execPpsOutPulse s
  | .routeQuery v x => Sys2Proof.Machine.execRouteQuery v x s
  | .exactQuery v x => Sys2Proof.Machine.execExactQuery v x s
  | .exactAgerScan => Sys2Proof.Machine.execExactAgerScan s
  | .exactAgeTick => Sys2Proof.Machine.execExactAgeTick s
  | .rangeSearch v x => Sys2Proof.Machine.execRangeSearch v x s
  | .rangeSearchNext v x => Sys2Proof.Machine.execRangeSearchNext v x s
  | .rangeDirectInvalidate v row x => Sys2Proof.Machine.execRangeDirectInvalidate v row x s
  | .rangeDirectWrite v row x => Sys2Proof.Machine.execRangeDirectWrite v row x s
  | .rangeDirectValidate v row x => Sys2Proof.Machine.execRangeDirectValidate v row x s
  | .shelfAllocate client size => Sys2Proof.Machine.execShelfAllocate client size s
  | .shelfRelease client pool buffer => Sys2Proof.Machine.execShelfRelease client pool buffer s
  | .rackCycleStart => Sys2Proof.Machine.execRackCycleStart s
  | .rackFrameStart => Sys2Proof.Machine.execRackFrameStart s
  | .headerCellReceive g rx lanes phase => Sys2Proof.Machine.execHeaderCellReceive g rx lanes phase s
  | .meshStepSearchTimeout g => Sys2Proof.Machine.execMeshStepSearchTimeout g s
  | .dataCellReceive g slot bytes => Sys2Proof.Machine.execDataCellReceive g slot bytes s
  | .reseqTimeout source cls => Sys2Proof.Machine.execReseqTimeout source cls s
  | .heldSequenceSkip source cls => Sys2Proof.Machine.execHeldSequenceSkip source cls s
  | .meshPackTimeout d c => Sys2Proof.Machine.execMeshPackTimeout d c s
  | .groupDispatch => Sys2Proof.Machine.execGroupDispatch s
  | .meshGroupDefectRaise g d => Sys2Proof.Machine.execMeshGroupDefectRaise g d s
  | .meshGroupDefectClear g d => Sys2Proof.Machine.execMeshGroupDefectClear g d s
  | .pageSwapDecide => Sys2Proof.Machine.execPageSwapDecide s
  | .pageSwap => Sys2Proof.Machine.execPageSwap s
  | .autoPagePlan => Sys2Proof.Machine.execAutoPagePlan s
  | .meshJoin g => Sys2Proof.Machine.execMeshJoin g s
  | .meshLeaveRequest v x => Sys2Proof.Machine.execMeshLeaveRequest v x s
  | .meshLeaveReady => Sys2Proof.Machine.execMeshLeaveReady s
  | .portRetrain v row x => Sys2Proof.Machine.execPortRetrain v row x s
  | .autonegComplete port ability fec => Sys2Proof.Machine.execAutonegComplete port ability fec s
  | .autonegTimeout port ability fec => Sys2Proof.Machine.execAutonegTimeout port ability fec s
  | .linkTrainingComplete port losses => Sys2Proof.Machine.execLinkTrainingComplete port losses s
  | .trainingTimeout port => Sys2Proof.Machine.execTrainingTimeout port s
  | .portLinkUp port => Sys2Proof.Machine.execPortLinkUp port s
  | .laneLockLoss port lanes cut => Sys2Proof.Machine.execLaneLockLoss port lanes cut s
  | .portDegradeComplete port stopped => Sys2Proof.Machine.execPortDegradeComplete port stopped s
  | .hbmTemperatureSample celsius => Sys2Proof.Machine.execHbmTemperatureSample celsius s
  | .hbmRefresh pc => Sys2Proof.Machine.execHbmRefresh pc s
  | .hbmScrubStep turn => Sys2Proof.Machine.execHbmScrubStep turn s
  | .hbmFreqRequest v x => Sys2Proof.Machine.execHbmFreqRequest v x s
  | .hbmFreqChange => Sys2Proof.Machine.execHbmFreqChange s
  | .hbmRetrain pc forced moves => Sys2Proof.Machine.execHbmRetrain pc forced moves s
  | .hbmServiceMode v x => Sys2Proof.Machine.execHbmServiceMode v x s
  | .hbmPatternWrite v p => Sys2Proof.Machine.execHbmPatternWrite v p s
  | .hbmPatternReadCompare v p => Sys2Proof.Machine.execHbmPatternReadCompare v p s
  | .hbmPatternWriteReadCompare v p => Sys2Proof.Machine.execHbmPatternWriteReadCompare v p s
  | .hbmPatternLoopback v p => Sys2Proof.Machine.execHbmPatternLoopback v p s
  | .hbmPatternDone mask count => Sys2Proof.Machine.execHbmPatternDone mask count s
  | .hbmTrain r => Sys2Proof.Machine.execHbmTrain r s
  | .hbmWipe verified => Sys2Proof.Machine.execHbmWipe verified s
  | .pcieLinkReset k lost => Sys2Proof.Machine.execPcieLinkReset k lost s
  | .pcieCompletionTimeout who => Sys2Proof.Machine.execPcieCompletionTimeout who s
  | .ringDoorbell r value => Sys2Proof.Machine.execRingDoorbell r value s
  | .injectPacket offers => Sys2Proof.Machine.execInjectPacket offers s
  | .injectTimestampComplete => Sys2Proof.Machine.execInjectTimestampComplete s
  | .injectStampTimeout row => Sys2Proof.Machine.execInjectStampTimeout row s
  | .ringInterruptHoldoff r => Sys2Proof.Machine.execRingInterruptHoldoff r s
  | .trolleyGo v channel x => Sys2Proof.Machine.execTrolleyGo v channel x s
  | .trolleyRunStart => Sys2Proof.Machine.execTrolleyRunStart s
  | .trolleyDescriptorDone desc pairs data => Sys2Proof.Machine.execTrolleyDescriptorDone desc pairs data s
  | .trolleyStop v x => Sys2Proof.Machine.execTrolleyStop v x s
  | .eventFlagClear v bank flags => Sys2Proof.Machine.execEventFlagClear v bank flags s
  | .eventCountClear v source => Sys2Proof.Machine.execEventCountClear v source s
  | .eventBankClaim v bank => Sys2Proof.Machine.execEventBankClaim v bank s
  | .eventBankRelease v bank => Sys2Proof.Machine.execEventBankRelease v bank s
  | .counterClear v first last => Sys2Proof.Machine.execCounterClear v first last s
  | .dumpLatch => Sys2Proof.Machine.execDumpLatch s
  | .dumpComplete read => Sys2Proof.Machine.execDumpComplete read s
  | .telemetrySlotHandover row => Sys2Proof.Machine.execTelemetrySlotHandover row s
  | .telemetryFlush row => Sys2Proof.Machine.execTelemetryFlush row s
  | .lifecycleRequest v x => Sys2Proof.Machine.execLifecycleRequest v x s
  | .lifecycleChangeComplete verified => Sys2Proof.Machine.execLifecycleChangeComplete verified s
  | .jtagDebugEnable v x => Sys2Proof.Machine.execJtagDebugEnable v x s
  | .fwLoadBegin v => Sys2Proof.Machine.execFwLoadBegin v s
  | .fwLoadBeginChain v => Sys2Proof.Machine.execFwLoadBeginChain v s
  | .fwLoadAbort v => Sys2Proof.Machine.execFwLoadAbort v s
  | .fwLoadTimeout => Sys2Proof.Machine.execFwLoadTimeout s
  | .fwChunk v row data => Sys2Proof.Machine.execFwChunk v row data s
  | .fwStagedLoad v length chain => Sys2Proof.Machine.execFwStagedLoad v length chain s
  | .fwBegin group transfer entry map length => Sys2Proof.Machine.execFwBegin group transfer entry map length s
  | .fwData group transfer offset data => Sys2Proof.Machine.execFwData group transfer offset data s
  | .fwAck group transfer next status => Sys2Proof.Machine.execFwAck group transfer next status s
  | .fwResult group transfer codes => Sys2Proof.Machine.execFwResult group transfer codes s
  | .fwBeginAckTimeout => Sys2Proof.Machine.execFwBeginAckTimeout s
  | .fwResend => Sys2Proof.Machine.execFwResend s
  | .fwHopTimeout => Sys2Proof.Machine.execFwHopTimeout s
  | .fwActivate v t => Sys2Proof.Machine.execFwActivate v t s
  | .fwPrepareReady => Sys2Proof.Machine.execFwPrepareReady s
  | .fwSwap => Sys2Proof.Machine.execFwSwap s
  | .fwActivateCancel v => Sys2Proof.Machine.execFwActivateCancel v s
  | .fwConfirm v => Sys2Proof.Machine.execFwConfirm v s
  | .fwRollback v => Sys2Proof.Machine.execFwRollback v s
  | .fwConfirmTimeout => Sys2Proof.Machine.execFwConfirmTimeout s
  | .fwActivateAtResetMark v => Sys2Proof.Machine.execFwActivateAtResetMark v s
  | .fwActivateAtResetUnmark v => Sys2Proof.Machine.execFwActivateAtResetUnmark v s
  | .nvGuardAssert c => Sys2Proof.Machine.execNvGuardAssert c s
  | .nvGuardRelease => Sys2Proof.Machine.execNvGuardRelease s
  | .overVoltage rail => Sys2Proof.Machine.execOverVoltage rail s
  | .brownOut rail => Sys2Proof.Machine.execBrownOut rail s
  | .journalRecordWrite inFlight copied => Sys2Proof.Machine.execJournalRecordWrite inFlight copied s
  | .dieTemperatureSample fe tm sense => Sys2Proof.Machine.execDieTemperatureSample fe tm sense s
  | .sideboardStart v x => Sys2Proof.Machine.execSideboardStart v x s
  | .sideboardSequenceStart => Sys2Proof.Machine.execSideboardSequenceStart s
  | .sideboardConversion code => Sys2Proof.Machine.execSideboardConversion code s
  | .fanTachWindow fan edges => Sys2Proof.Machine.execFanTachWindow fan edges s
  | .gpioEdge pin high => Sys2Proof.Machine.execGpioEdge pin high s
  | .referenceClockLoss input => Sys2Proof.Machine.execReferenceClockLoss input s
  | .referenceClockRestore input => Sys2Proof.Machine.execReferenceClockRestore input s
  | .powerOnReset e => Sys2Proof.Machine.execPowerOnReset e s
  | .moduleResetPin ns => Sys2Proof.Machine.execModuleResetPin ns s
  | .blockReset v row x lost => Sys2Proof.Machine.execBlockReset v row x lost s
  | .blockResetRelease row => Sys2Proof.Machine.execBlockResetRelease row s
  | .senseComplete => Sys2Proof.Machine.execSenseComplete s
  | .romSlotChoose wiped => Sys2Proof.Machine.execRomSlotChoose wiped s
  | .bootComplete wiped => Sys2Proof.Machine.execBootComplete wiped s
  | .restore bad => Sys2Proof.Machine.execRestore bad s
  | .trafficStart v x => Sys2Proof.Machine.execTrafficStart v x s
  | .trafficEnable => Sys2Proof.Machine.execTrafficEnable s
  | .standbyPairSynchronised => Sys2Proof.Machine.execStandbyPairSynchronised s
  | .selfTestPassed => Sys2Proof.Machine.execSelfTestPassed s
  | .pcieLinkUp speed width => Sys2Proof.Machine.execPcieLinkUp speed width s
  | .busMasterEnable on_ => Sys2Proof.Machine.execBusMasterEnable on_ s
  | .pcieHostError who => Sys2Proof.Machine.execPcieHostError who s
  | .lossOfPower => Sys2Proof.Machine.execLossOfPower s
  | .dovetailLinkRetrain link trained => Sys2Proof.Machine.execDovetailLinkRetrain link trained s
  | .routeFilterRecompute block => Sys2Proof.Machine.execRouteFilterRecompute block s

end Sys2Proof.Machine
end

