-- ==== Sys2Proof/Safety.lean ====
section
/-! DEFINITION. What the statements about runs are made of: the canonical form of everything the machine keeps as a sparse
table of fields or bytes, the host's sessions and slots, and the frames of the statements. -/
namespace Sys2Proof.Machine

/-- A store of the dictionary's fields in canonical form: keys strictly rising, none at what an unlisted key reads as. -/
abbrev storeWf (h : Tbl Nat) : Prop := Tbl.wf keyDefault h = true

/-- The sessions that always exist (R39): BAR0 and the four mailbox slots. -/
def hostIds : List SessId := [.bar0, .mailbox 0, .mailbox 1, .mailbox 2, .mailbox 3]

/-- What every step keeps: the dictionary, Chest, the staging window, the MSI-X table, the telemetry region and the request
buffers are in canonical form, there are four mailbox slots, and the host's five sessions exist. -/
structure State.Sound (s : State) : Prop where
  store : storeWf s.store
  home : storeWf s.chest.home
  staging : Memory.wf s.host.staging = true
  msix : Memory.wf s.host.msixTable = true
  region : Memory.wf s.tel.region = true
  buffers : ∀ m ∈ s.mbox, Memory.wf m.reqBuf = true
  slots : s.mbox.length = 4
  host : ∀ i ∈ hostIds, i ∈ s.sessions.map (·.id)

/-! ### Requests and writes, for the statements -/

/-- Session `x`, not BAR0, sends a request that reaches the module (R80) and whose RequestId repeats none (R64). -/
structure Asks (sess : SessId) (rid : Nat) (s : State) (x : Sess) : Prop where
  here : s.sess? sess = some x
  host : sess ≠ .bar0
  path : x.reached s.toBlocks = true
  kept : ∀ e ∈ x.kept, e.1 ≠ rid
  running : ∀ e ∈ x.running, e.1 ≠ rid

/-- The session as its request finds it: idle since now. -/
abbrev Sess.met (x : Sess) (s : State) : Sess := { x with last := s.time.ticks }

/-- The response to a request of operation `op`: its header status and items. -/
def State.reply (s : State) (q : Req) (op ctx : Nat) (st : Status) (items : List RItem) : State :=
  respond q.sess op q.rid.toNat ctx q.small st items s

/-- The commit request of the direct write of one object, by a ZOA message or through BAR0. -/
abbrev oneWait (v : Via) (w : SW) : Wait :=
  { sess := v.sess, direct := true, writes := [w]
    items := [if v.sess = .bar0 then ⟨w.obj, 0, 0, 0, 0, []⟩
      else ⟨w.obj, ((objInfo? w.obj).map fun o => accType o w.fld).getD 0, w.row, w.fld, 0, []⟩]
    op := 0x02, rid := if v.sess = .bar0 then 0 else v.rid.toNat, ctx := 0, small := false, due := 0, waitFor := .gen
    order := 0, at_ := none }

/-- The state once a write of the session has come. -/
def State.came (s : State) (sess : SessId) : State := if sess = .bar0 then countBarWrite s else s.heard sess

/-- Session `x` may make the direct write `w` now. By ZOA or a mailbox its request is new and carries Context 0; through BAR0 the
object has a window form, no transaction is open and no BAR0 write waits (R72 to R75). Neither the checks of R45, nor those of a commit (R48 to R52),
nor a wait (R53, R136) stand against it. -/
structure Granted (v : Via) (w : SW) (lost : Nat) (s : State) (x : Sess) : Prop where
  here : s.sess? v.sess = some x
  zoa : v.sess ≠ .bar0 → Asks v.sess v.rid.toNat s x ∧ v.ctx = 0
  bar : v.sess = .bar0 → s.served = true ∧ w.row = 0 ∧ w.fld = 0 ∧ (objInfo? w.obj).any hasWindow = true ∧ x.txn = none ∧
    s.barWaits = false
  data : controls w.obj = false
  item : checkWrite (s.came v.sess) x false (x.base (s.came v.sess).toBlocks) w.obj w.row w.fld
    (writeForm (s.came v.sess).toBlocks w.obj w.row w.fld (some w.val)) (fun _ => some w.val) = .good w
  commit : commitCheck (actorOf (s.came v.sess).toBlocks x 0x02 lost) [] none (cellsOf [w]) (s.came v.sess) = .go
  wait : waitNeeded (cellsOf [w]) none none (s.came v.sess) = none

/-- The answer OK to the direct write of one object: its response, or BarLastStatus. -/
def State.answered (s : State) (v : Via) (w : SW) : State := replyWait (oneWait v w) .ok s

/-- The state after a granted direct write `w` whose effect is `effect`: the commit is recorded, has its effect and is answered;
then what must follow the answer of a security object or a firmware one (R78, R373, R385, R404, R447). -/
def wrote (v : Via) (w : SW) (lost : Nat) (x : Sess) (effect : State → State) (s : State) : State :=
  let s1 := s.came v.sess
  let us := unitsOf s1.toBlocks (cellsOf [w])
  lateEffects (actorOf s1.toBlocks x 0x02 lost) (cellsOf [w]) s1.toBlocks ((effect (s1.booked us)).answered v w)

/-- The row of a direct write, as its commit writes it. -/
def SW.cell (w : SW) : WCell := (cellsOf [w]).headD ⟨w.obj, w.row, []⟩

/-- The row stored, and of class P journalled (R41). -/
def State.stored (s : State) (w : SW) : State := journalCommit [w.cell] (storeCell s w.cell)

/-- The write of one object that a command is, as `Via`, write and crossing counts; none
where the operand is no value of the object, and for every other command. -/
def oneWrite : Instr → Option (Via × SW × Nat)
  | .queueFlush v q => some (v, ⟨O.QueueFlush, 0, 0, q.toNat⟩, 0)
  | .gridSet v t => (timeVal (v.sess == .bar0) t.toNat).map fun n => (v, ⟨O.GridSet, 0, 0, n⟩, 0)
  | .gridRelock v y => some (v, ⟨O.GridRelock, 0, 0, y.toNat⟩, 0)
  | .gridSourceWrite v y => some (v, ⟨O.GridSource, 0, 0, y.toNat⟩, 0)
  | .domainQualify (.session v) d y => some (v, ⟨domObj d O.DomainAQualified, 0, 0, y.toNat⟩, 0)
  | .domainTimeSet (.session v) d t =>
    (timeVal (v.sess == .bar0) t.toNat).map fun n => (v, ⟨domObj d O.DomainATime, 0, 0, n⟩, 0)
  | .domainAdjust (.session v) d y => some (v, ⟨domObj d O.DomainAAdjust, 0, 0, y.toNat⟩, 0)
  | .domainIncrementWrite (.session v) d y => some (v, ⟨domObj d O.DomainAIncrement, 0, 0, y.toNat⟩, 0)
  | .timeTriggerEnable v row y => some (v, ⟨O.TimeTrigger, row.toNat, 0, y.toNat⟩, 0)
  | .routeQuery v y => some (v, ⟨O.RouteQuery, 0, 0, y.toNat⟩, 0)
  | .exactQuery v y => some (v, ⟨O.ExactQuery, 0, 0, y.toNat⟩, 0)
  | .rangeSearch v y => some (v, ⟨O.RangeSearch, 0, 0, y.toNat⟩, 0)
  | .rangeSearchNext v y => some (v, ⟨O.RangeSearchNext, 0, 0, y.toNat⟩, 0)
  | .rangeDirectInvalidate v row y => some (v, ⟨O.RangeDirect, row.toNat, 0, rangeDirectRecord 1 y⟩, 0)
  | .rangeDirectWrite v row y => some (v, ⟨O.RangeDirect, row.toNat, 0, rangeDirectRecord 2 y⟩, 0)
  | .rangeDirectValidate v row y => some (v, ⟨O.RangeDirect, row.toNat, 0, rangeDirectRecord 3 y⟩, 0)
  | .meshLeaveRequest v y => some (v, ⟨O.MeshLeaveRequest, 0, 0, y.toNat⟩, 0)
  | .portRetrain v row y => some (v, ⟨O.PortRetrain, row.toNat, 0, y.toNat⟩, 0)
  | .hbmFreqRequest v y => some (v, ⟨O.HbmFreqRequest, 0, 0, y.toNat⟩, 0)
  | .hbmServiceMode v y => some (v, ⟨O.HbmServiceMode, 0, 0, y.toNat⟩, 0)
  | .hbmPatternWrite v p => some (v, ⟨O.HbmPatternGen, 0, 0, patternRecord 0 p⟩, 0)
  | .hbmPatternReadCompare v p => some (v, ⟨O.HbmPatternGen, 0, 0, patternRecord 1 p⟩, 0)
  | .hbmPatternWriteReadCompare v p => some (v, ⟨O.HbmPatternGen, 0, 0, patternRecord 2 p⟩, 0)
  | .hbmPatternLoopback v p => some (v, ⟨O.HbmPatternGen, 0, 0, patternRecord 3 p⟩, 0)
  | .trolleyGo v ch y => some (v, ⟨O.TrolleyGo0 + ch.val, 0, 0, y.toNat⟩, 0)
  | .trolleyStop v y => some (v, ⟨O.TrolleyStop, 0, 0, y.toNat⟩, 0)
  | .eventFlagClear v bank f => some (v, ⟨O.EventBanks, bank.toNat, F.EventBanks_Flags, f.toNat⟩, 0)
  | .eventCountClear v n => some (v, ⟨O.EventSource, n.toNat, F.EventSource_ClearCount, 1⟩, 0)
  | .eventBankClaim v bank => some (v, ⟨O.EventBankClaim, bank.toNat, 0, 1⟩, 0)
  | .eventBankRelease v bank => some (v, ⟨O.EventBankClaim, bank.toNat, 0, 0⟩, 0)
  | .counterClear v first last => some (v, ⟨O.CounterClear, 0, 0, first.toNat * 2 ^ 43 + last.toNat * 2 ^ 22⟩, 0)
  | .lifecycleRequest v y => some (v, ⟨O.LifeCycleRequest, 0, 0, y.toNat⟩, 0)
  | .jtagDebugEnable v y => some (v, ⟨O.JtagDebugEnable, 0, 0, y.toNat⟩, 0)
  | .fwLoadBegin v => some (v, ⟨O.FwLoadControl, 0, 0, 1⟩, 0)
  | .fwLoadBeginChain v => some (v, ⟨O.FwLoadControl, 0, 0, 2⟩, 0)
  | .fwLoadAbort v => some (v, ⟨O.FwLoadControl, 0, 0, 3⟩, 0)
  | .fwChunk v row data => some (v, ⟨O.FwChunk, row.toNat, 0, data.length * 2 ^ 65536 + beNat data⟩, 0)
  | .fwStagedLoad v length chain => some (v, ⟨O.FwStagedLoad, 0, 0, length.toNat * 2 ^ 32 + chain.toNat * 2 ^ 31⟩, 0)
  | .fwActivate v t => (timeVal (v.sess == .bar0) t.toNat).map fun n => (v, ⟨O.FwActivate, 0, 0, n⟩, 0)
  | .fwActivateCancel v => some (v, ⟨O.FwActivateCancel, 0, 0, 1⟩, 0)
  | .fwConfirm v => some (v, ⟨O.FwConfirm, 0, 0, 1⟩, 0)
  | .fwRollback v => some (v, ⟨O.FwRollback, 0, 0, 1⟩, 0)
  | .fwActivateAtResetMark v => some (v, ⟨O.FwActivateAtReset, 0, 0, 1⟩, 0)
  | .fwActivateAtResetUnmark v => some (v, ⟨O.FwActivateAtReset, 0, 0, 0⟩, 0)
  | .sideboardStart v y => some (v, ⟨O.SideboardStart, 0, 0, y.toNat⟩, 0)
  | .blockReset v row y lost => some (v, ⟨O.BlockReset, row.toNat, 0, y.toNat⟩, lost.toNat)
  | .trafficStart v y => some (v, ⟨O.TrafficStart, 0, 0, y.toNat⟩, 0)
  | _ => none

/-- Session `x`, with the open transaction `t`, may stage the write `w` now (R46, R47, R75): its request carries the handle,
or comes through BAR0, and the checks of R45 pass over what the transaction has staged. -/
structure Stageable (v : Via) (w : SW) (s : State) (x : Sess) (t : Txn) : Prop where
  here : s.sess? v.sess = some x
  mine : x.txn = some t
  open_ : t.st = .open_ ∨ t.st = .failed
  zoa : v.sess ≠ .bar0 → Asks v.sess v.rid.toNat s x ∧ v.ctx.toNat = t.handle ∧ t.handle ≠ 0
  bar : v.sess = .bar0 → s.served = true ∧ w.row = 0 ∧ w.fld = 0 ∧ (objInfo? w.obj).any hasWindow = true ∧
    s.barWaits = false
  data : controls w.obj = false
  item : checkWrite (s.came v.sess) x true (overlayOn (x.base (s.came v.sess).toBlocks) (cellsOf t.staged)) w.obj w.row
    w.fld (writeForm (s.came v.sess).toBlocks w.obj w.row w.fld (some w.val)) (fun _ => some w.val) = .good w

end Sys2Proof.Machine
end

