-- ==== Sys2Proof/Certificates/Slice0/Obligations.lean ====
section
/-! DEFINITION. The statements for the provers, from the rules of the spec. Where a statement rests on a choice of the model,
its docstring names the log entry. -/

open Sys2Proof Sys2Proof.Machine

/-! ### The block -/

/-- A step takes the command at the front of the queue and answers what exec answers with the queue's rest; on an empty
queue the block idles (the model's choice, log 1). -/
def Obligations.StepTakesTheFrontCommand : Prop :=
  (∀ c s rest, s.pending = c :: rest → step s = exec c { s with pending := rest }) ∧ (∀ s, s.pending = [] → step s = .next s)

/-- R81, R430, R442: after a reset the grid and both domains read 0, the grid is FREE, no domain is qualified, the
generation is 0, every field of the dictionary reads its default, and the block is in SENSE with no command waiting.
The contents of Chest and the levels of the pins are the model's (logs 82 and 25); the form that every step keeps
holds. -/
def Obligations.ResetLeavesDefaults : Prop :=
  State.reset.Sound ∧ State.reset.pending = [] ∧ State.reset.boot.phase = 0 ∧ State.reset.gen.cur = 0 ∧
    State.reset.time.grid = 0 ∧ State.reset.time.domA.time = 0 ∧ State.reset.time.domB.time = 0 ∧
    State.reset.time.st = .free ∧ State.reset.qualified .a = false ∧ State.reset.qualified .b = false ∧
    ∀ obj row fld, row < 2 ^ 32 → fld < 256 → State.reset.rd obj row fld = fieldDefault obj row fld

/-- R41, R430, R432, R442: a module reset leaves every field of an object that Chest does not hold at its default, but for
the records of the reset, of the rails' order and of the NV guard, and the grid FREE at 0 with generation 0. The
always-on domain and the pins stay. The cause is recorded, the lowest one of resets that coincide. -/
def Obligations.ModuleResetRestoresDefaults : Prop :=
  ∀ s cause, (moduleReset cause s).time.st = .free ∧ (moduleReset cause s).time.grid = 0 ∧ (moduleReset cause s).gen.cur = 0 ∧
    (moduleReset cause s).boot.phase = 0 ∧ (moduleReset cause s).ao = s.ao ∧ (moduleReset cause s).pins = s.pins ∧
    (s.Sound → storeWf (moduleReset cause s).store ∧
      (moduleReset cause s).rd O.ResetCause 0 F.ResetCause_Cause =
        (if s.boot.held then min (s.rd O.ResetCause 0 F.ResetCause_Cause) cause else cause) ∧
      ∀ obj row fld, row < 2 ^ 32 → fld < 256 → moduleKept obj = false →
        obj ∉ [O.ResetCause, O.ModuleResetCount, O.PowerSequence, O.PowerNvGuard] →
        (moduleReset cause s).rd obj row fld = fieldDefault obj row fld)

/-- In a state of sound form every command answers a next state of sound form and leaves the queue as it found it: no
command faults, and none is refused (R64 answers every request; a command whose condition does not hold changes
nothing, log 5). -/
def Obligations.EveryCommandAnswers : Prop :=
  ∀ c s, s.Sound → ∃ t, exec c s = .next t ∧ t.Sound ∧ t.pending = s.pending

/-- Every step keeps the sound form: the dictionary, Chest, the staging window, the MSI-X table, the telemetry region and
the request buffers stay canonical, and the five host sessions of R39 and the four mailbox slots of R77 stay. -/
def Obligations.StepKeepsSound : Prop := ∀ s t, s.Sound → step s = .next t → t.Sound

/-- A field, a byte of Chest's data or of a window reads what was last written there, and every other reads as before;
both keep the canonical form. -/
def Obligations.StoresReadWhatWasWritten : Prop :=
  (∀ (s : State) obj row fld v, storeWf s.store → storeWf (s.wr obj row fld v).store ∧ (s.wr obj row fld v).rd obj row fld = v ∧
    ∀ obj' row' fld', row < 2 ^ 32 → row' < 2 ^ 32 → fld < 256 → fld' < 256 → (obj', row', fld') ≠ (obj, row, fld) →
      (s.wr obj row fld v).rd obj' row' fld' = s.rd obj' row' fld') ∧
  (∀ m a d x, Memory.wf m = true → Memory.wf (memWrite m a d) = true ∧ memRead (memWrite m a d) a d.length = d ∧
    (x < a ∨ a + d.length ≤ x → memByte (memWrite m a d) x = memByte m x))

/-- R259 to R262, Tables 1-4, 11-3, 11-4: a cell, a header cell and a carriage header, every field within its width, read
back from their bytes as they were, and descrambling takes back what scrambling did. -/
def Obligations.MeshBytesReadBack : Prop :=
  (∀ c : Cell, c.kind < 16 → c.src < 16 → c.dst < 16 → c.via < 16 → c.cls < 8 → c.seq < 2 ^ 24 → c.index < 16 → c.size < 16 →
    c.first < 512 → c.valid < 512 → c.mcId < 65536 → c.stamp < 2 ^ 32 → c.payload.length = 256 → c.starts = 0 →
    readCell (cellBytes c) = some c) ∧
  (∀ h : PeerHdr, h.frame < 128 → h.cycle < 2 ^ 32 → h.card < 16 → h.group < 16 → h.width < 16 → h.mode < 16 → h.fill < 256 →
    h.grid < 4 → h.align < 4 → h.version < 256 → h.txMap < 65536 → h.active < 65536 → h.xoff < 65536 → h.page < 2 ^ 32 →
    h.standby < 2 ^ 32 → h.swapCycle < 2 ^ 32 → h.agree < 65536 → h.relay < 2 ^ 64 → h.echoFrame < 128 → h.echoStamp < 2 ^ 32 →
    h.request < 65536 → h.grant < 8192 → h.accept < 8192 → h.lanes < 4096 → h.mgmt.length = 128 →
    readHeader (headerBytes h) = some h) ∧
  (∀ b, headerOnWire (headerOnWire b) = b) ∧ (∀ k b, slotOnWire k (slotOnWire k b) = b) ∧
  (∀ h : Hdr, h.genTag < 64 → h.flowHash < 65536 → h.destCard < 16 → h.destPort < 256 → h.destQueue < 2 ^ 19 → h.cls < 8 →
    h.colour < 4 → h.punt < 64 → h.srcPort < 256 → h.length < 2 ^ 14 → h.editPtr < 2 ^ 24 → h.stamp < 2 ^ 64 → h.launch < 2 ^ 64 →
    readHdr (hdrBytes h) = h)

/-! ### The commands that are the write of one object -/

/-- R89, R90, R92, R99: a granted write of an object of the grid. GridSet asks for a step to the value (wire form, or a
0.25 ns count through BAR0, R34); GridRelock enters ACQUIRE, and goes on to FREE where the selected domain is not
qualified (the model's choice, log 150); GridSource is kept in Chest and moves the grid as Table 3-1 says; a
TimeTrigger row is kept in Chest and starts or stops its pulses. -/
def Obligations.GridWritesTakeEffect : Prop :=
  (∀ v t q s x, timeVal (v.sess == .bar0) t.toNat = some q → Granted v ⟨O.GridSet, 0, 0, q⟩ 0 s x →
    exec (.gridSet v t) s = .next (wrote v ⟨O.GridSet, 0, 0, q⟩ 0 x
      (fun r => r.upTime fun m => { m with stepReq := some (.set (q * unitsPerQuarter)) }) s)) ∧
  (∀ v (y : BitVec 8) s x, Granted v ⟨O.GridRelock, 0, 0, y.toNat⟩ 0 s x →
    exec (.gridRelock v y) s = .next (wrote v ⟨O.GridRelock, 0, 0, y.toNat⟩ 0 x (fun r =>
      if r.qualified r.selected then enterGrid .acquire r else enterGrid .free (enterGrid .acquire r)) s)) ∧
  (∀ v (y : BitVec 8) s x, Granted v ⟨O.GridSource, 0, 0, y.toNat⟩ 0 s x →
    exec (.gridSourceWrite v y) s = .next (wrote v ⟨O.GridSource, 0, 0, y.toNat⟩ 0 x
      (fun r => gridSourceWritten ((r.ws O.GridSource y.toNat).journal [(O.GridSource, 0, 0)] 9 JRec.plain)) s)) ∧
  (∀ v (row : BitVec 32) (y : BitVec 256) s x, Granted v ⟨O.TimeTrigger, row.toNat, 0, y.toNat⟩ 0 s x →
    exec (.timeTriggerEnable v row y) s = .next (wrote v ⟨O.TimeTrigger, row.toNat, 0, y.toNat⟩ 0 x
      (fun r => triggerWritten row.toNat (r.stored ⟨O.TimeTrigger, row.toNat, 0, y.toNat⟩)) s))

/-- R81, R85, R87: a granted write of a domain by a session. Qualification follows the value; the time is set, or the
signed adjustment added, at the next tick; the increment applies from then on. Each is a servo write for
ServoWatchdog. -/
def Obligations.DomainWritesTakeEffect : Prop :=
  (∀ v d (y : BitVec 8) s x, Granted v ⟨domObj d O.DomainAQualified, 0, 0, y.toNat⟩ 0 s x →
    exec (.domainQualify (.session v) d y) s = .next (wrote v ⟨domObj d O.DomainAQualified, 0, 0, y.toNat⟩ 0 x
      (setQualified d y.toNat) s)) ∧
  (∀ v d (t : BitVec 80) q s x, timeVal (v.sess == .bar0) t.toNat = some q →
    Granted v ⟨domObj d O.DomainATime, 0, 0, q⟩ 0 s x →
    exec (.domainTimeSet (.session v) d t) s = .next (wrote v ⟨domObj d O.DomainATime, 0, 0, q⟩ 0 x (fun r =>
      r.updDom d fun m => { m with setReq := some (q * unitsPerQuarter), lastServo := r.time.ticks }) s)) ∧
  (∀ v d (y : BitVec 64) s x, Granted v ⟨domObj d O.DomainAAdjust, 0, 0, y.toNat⟩ 0 s x →
    exec (.domainAdjust (.session v) d y) s = .next (wrote v ⟨domObj d O.DomainAAdjust, 0, 0, y.toNat⟩ 0 x (fun r =>
      r.updDom d fun m => { m with adjReq := m.adjReq + y.toInt * 2 ^ 26, lastServo := r.time.ticks }) s)) ∧
  (∀ v d (y : BitVec 64) s x, Granted v ⟨domObj d O.DomainAIncrement, 0, 0, y.toNat⟩ 0 s x →
    exec (.domainIncrementWrite (.session v) d y) s = .next (wrote v ⟨domObj d O.DomainAIncrement, 0, 0, y.toNat⟩ 0 x
      (fun r => (r.ws (domObj d O.DomainAIncrement) y.toNat).updDom d fun m => { m with lastServo := r.time.ticks }) s))

/-- R86: while ServoOwner is FIRMWARE and Bureau runs (phases 3 to 8), its servo writes a domain, within the bounds of the
objects (Table 3-3), with the effects of a session's write and nothing else. -/
def Obligations.ServoWritesTakeEffect : Prop :=
  ∀ (s : State) (d : Dom), 3 ≤ s.boot.phase → s.boot.phase ≠ 9 → s.sc O.ServoOwner = 0 →
    (∀ y : BitVec 8, y.toNat ≤ 1 → exec (.domainQualify .firmware d y) s = .next (setQualified d y.toNat s)) ∧
    (∀ t : BitVec 80, time80Ok t.toNat → exec (.domainTimeSet .firmware d t) s = .next (s.updDom d fun m =>
      { m with setReq := some (qOfTime80 t.toNat * unitsPerQuarter), lastServo := s.time.ticks })) ∧
    (∀ y : BitVec 64, y.toInt.natAbs ≤ 1000000000 * 65536 → exec (.domainAdjust .firmware d y) s = .next (s.updDom d fun m =>
      { m with adjReq := m.adjReq + y.toInt * 2 ^ 26, lastServo := s.time.ticks })) ∧
    (∀ y : BitVec 64, ((y.toNat : Int) - nominalInc).natAbs * 1000 ≤ nominalInc →
      exec (.domainIncrementWrite .firmware d y) s = .next ((s.ws (domObj d O.DomainAIncrement) y.toNat).updDom d fun m =>
        { m with lastServo := s.time.ticks }))

/-- R158, R163, R177, R182: a granted write of a query sets the session's own query; RangeSearch starts its cursor and
RangeSearchNext moves it; a RangeDirect row opens a generation and does its step on the row. -/
def Obligations.QueryWritesTakeEffect : Prop :=
  (∀ v (y : BitVec 288) s x w, w = (⟨O.RouteQuery, 0, 0, y.toNat⟩ : SW) → Granted v w 0 s x →
    exec (.routeQuery v y) s = .next (wrote v w 0 x (fun r =>
      r.updSess v.sess fun m => { m with routeQ := w.cell.packedOver (m.base r.toBlocks O.RouteQuery 0) }) s)) ∧
  (∀ v (y : BitVec 544) s x w, w = (⟨O.ExactQuery, 0, 0, y.toNat⟩ : SW) → Granted v w 0 s x →
    exec (.exactQuery v y) s = .next (wrote v w 0 x (fun r =>
      r.updSess v.sess fun m => { m with exactQ := w.cell.packedOver (m.base r.toBlocks O.ExactQuery 0) }) s)) ∧
  (∀ v (y : BitVec 512) s x w g, w = (⟨O.RangeSearch, 0, 0, y.toNat⟩ : SW) → g = merged (fun _ => 0) w.cell.parts →
    Granted v w 0 s x →
    exec (.rangeSearch v y) s = .next (wrote v w 0 x (fun r => r.updSess v.sess fun m =>
      { m with range := curStart r.toBlocks (g F.RangeSearch_Set) (g F.RangeSearch_RangeKey) (g F.RangeSearch_TernaryKey) }) s)) ∧
  (∀ v (y : BitVec 8) s x, Granted v ⟨O.RangeSearchNext, 0, 0, y.toNat⟩ 0 s x →
    exec (.rangeSearchNext v y) s = .next (wrote v ⟨O.RangeSearchNext, 0, 0, y.toNat⟩ 0 x (fun r =>
      r.updSess v.sess fun m => { m with range := (curNext r.toBlocks m.range).2 }) s)) ∧
  (∀ v (row : BitVec 32) (y : BitVec 960) s x op c w, (op, c) ∈
      [(1, Instr.rangeDirectInvalidate v row y), (2, .rangeDirectWrite v row y), (3, .rangeDirectValidate v row y)] →
    w = (⟨O.RangeDirect, row.toNat, 0, rangeDirectRecord op y⟩ : SW) → Granted v w 0 s x →
    exec c s = .next (wrote v w 0 x (fun r => rangeDirect (r.gen.cur + 1) (w.cell.rangeOp r.toBlocks) r.openGen) s))

/-- R218, R292, R296: a granted write of QueueFlush empties the queue; MeshLeaveRequest starts or ends the card's leaving;
PortRetrain brings an enabled port up anew. -/
def Obligations.FabricWritesTakeEffect : Prop :=
  (∀ v (q : BitVec 32) s x, Granted v ⟨O.QueueFlush, 0, 0, q.toNat⟩ 0 s x →
    exec (.queueFlush v q) s = .next (wrote v ⟨O.QueueFlush, 0, 0, q.toNat⟩ 0 x (flushQueue q.toNat) s)) ∧
  (∀ v (y : BitVec 8) s x, Granted v ⟨O.MeshLeaveRequest, 0, 0, y.toNat⟩ 0 s x →
    exec (.meshLeaveRequest v y) s = .next (wrote v ⟨O.MeshLeaveRequest, 0, 0, y.toNat⟩ 0 x (fun r =>
      noteRelays ((r.upMesh fun m => { m with leaving := y.toNat == 1 }).ws O.MeshLeaveReady 0)) s)) ∧
  (∀ v (row : BitVec 32) (y : BitVec 8) s x, Granted v ⟨O.PortRetrain, row.toNat, 0, y.toNat⟩ 0 s x →
    exec (.portRetrain v row y) s = .next (wrote v ⟨O.PortRetrain, row.toNat, 0, y.toNat⟩ 0 x (fun r =>
      if r.portCfg row.toNat F.PortConfig_Enable = 1 then restartPort row.toNat r else r) s))

/-- R323, R330: a granted write of HbmFreqRequest is held and accepted, or waits for the running change; HbmServiceMode
opens or ends service with SpillPause; HbmPatternGen is stored and its operation started, the record read back with
Start 0. -/
def Obligations.HbmWritesTakeEffect : Prop :=
  (∀ v (y : BitVec 8) s x, Granted v ⟨O.HbmFreqRequest, 0, 0, y.toNat⟩ 0 s x →
    exec (.hbmFreqRequest v y) s = .next (wrote v ⟨O.HbmFreqRequest, 0, 0, y.toNat⟩ 0 x
      (fun r => freqWritten y.toNat (r.ws O.HbmFreqRequest y.toNat)) s)) ∧
  (∀ v (y : BitVec 8) s x, Granted v ⟨O.HbmServiceMode, 0, 0, y.toNat⟩ 0 s x →
    exec (.hbmServiceMode v y) s = .next (wrote v ⟨O.HbmServiceMode, 0, 0, y.toNat⟩ 0 x
      (fun r => serviceWritten y.toNat (r.ws O.HbmServiceMode y.toNat)) s)) ∧
  (∀ v (p : Pattern) s x op c w, (op, c) ∈ [(0, Instr.hbmPatternWrite v p), (1, .hbmPatternReadCompare v p),
      (2, .hbmPatternWriteReadCompare v p), (3, .hbmPatternLoopback v p)] →
    w = (⟨O.HbmPatternGen, 0, 0, patternRecord op p⟩ : SW) → Granted v w 0 s x → s.Sound →
    exec c s = .next (wrote v w 0 x (fun r =>
      (((r.stored w).wr O.HbmPatternGen 0 F.HbmPatternGen_Start 0).wr O.HbmCompare 0 F.HbmCompare_Done 0).upHbm fun h =>
        { h with op := some (op, p.pc.toNat) }) s))

/-- R348, R353: a granted write of TrolleyGo makes the idle channel ready at its place in the order; TrolleyStop takes a
ready channel back and ends a running one with ABORTED, which its next descriptor in host memory shows while bus
mastering is enabled (the descriptor written is the model's choice, log 181). -/
def Obligations.TrolleyWritesTakeEffect : Prop :=
  (∀ v (ch : Fin 32) (y : BitVec 64) s x, Granted v ⟨O.TrolleyGo0 + ch.val, 0, 0, y.toNat⟩ 0 s x →
    exec (.trolleyGo v ch y) s = .next (wrote v ⟨O.TrolleyGo0 + ch.val, 0, 0, y.toNat⟩ 0 x (fun r =>
      (r.updChan ch.val fun _ => { ChanRT.start with st := 1, addr := y.toNat, order := r.host.chanNext }).upHost fun h =>
        { h with chanNext := h.chanNext + 1 }) s)) ∧
  (∀ v (y : BitVec 8) s x, Granted v ⟨O.TrolleyStop, 0, 0, y.toNat⟩ 0 s x →
    exec (.trolleyStop v y) s = .next (wrote v ⟨O.TrolleyStop, 0, 0, y.toNat⟩ 0 x (fun r =>
      if (r.chan y.toNat).st = 1 then r.updChan y.toNat fun m => { m with st := 0 }
      else if (r.chan y.toNat).st = 2 then
        trolleyEnd y.toNat 5 (if r.busMaster then trolleyWriteBack (r.chan y.toNat).addr 0 5 r else r)
      else r) s))

/-- R356, R359, R361: a granted write of 1 bits to Flags clears those flags; ClearCount 1 zeroes the source's count; a
claim takes a bank for the session's client, a release by its owner frees it; CounterClear zeroes the pairs of its
range. -/
def Obligations.EventWritesTakeEffect : Prop :=
  (∀ v (bank f : BitVec 32) s x, Granted v ⟨O.EventBanks, bank.toNat, F.EventBanks_Flags, f.toNat⟩ 0 s x → s.Sound →
    exec (.eventFlagClear v bank f) s = .next (wrote v ⟨O.EventBanks, bank.toNat, F.EventBanks_Flags, f.toNat⟩ 0 x (fun r =>
      r.wr O.EventBanks bank.toNat F.EventBanks_Flags (let old := r.rd O.EventBanks bank.toNat F.EventBanks_Flags
        old ^^^ (old &&& f.toNat))) s)) ∧
  (∀ v (n : BitVec 32) s x, Granted v ⟨O.EventSource, n.toNat, F.EventSource_ClearCount, 1⟩ 0 s x → s.Sound →
    exec (.eventCountClear v n) s = .next (wrote v ⟨O.EventSource, n.toNat, F.EventSource_ClearCount, 1⟩ 0 x (fun r =>
      (((r.wr O.EventSource n.toNat F.EventSource_ClearCount 1).journal
        [(O.EventSource, n.toNat, F.EventSource_ClearCount)] 12 JRec.plain).wr O.EventSource n.toNat F.EventSource_ClearCount 0).wr
        O.EventSource n.toNat F.EventSource_Count 0) s)) ∧
  (∀ v (bank : BitVec 32) s x, Granted v ⟨O.EventBankClaim, bank.toNat, 0, 1⟩ 0 s x →
    exec (.eventBankClaim v bank) s = .next (wrote v ⟨O.EventBankClaim, bank.toNat, 0, 1⟩ 0 x (fun r =>
      r.wr O.EventBanks bank.toNat F.EventBanks_Owner x.client) s)) ∧
  (∀ v (bank : BitVec 32) s x, Granted v ⟨O.EventBankClaim, bank.toNat, 0, 0⟩ 0 s x →
    exec (.eventBankRelease v bank) s = .next (wrote v ⟨O.EventBankClaim, bank.toNat, 0, 0⟩ 0 x (fun r =>
      if r.rd O.EventBanks bank.toNat F.EventBanks_Owner = x.client then
        r.wr O.EventBanks bank.toNat F.EventBanks_Owner 0xFFFF else r) s)) ∧
  (∀ v (first last : BitVec 21) s x w, w = (⟨O.CounterClear, 0, 0, first.toNat * 2 ^ 43 + last.toNat * 2 ^ 22⟩ : SW) →
    Granted v w 0 s x →
    exec (.counterClear v first last) s = .next (wrote v w 0 x (clearPairs first.toNat last.toNat) s))

/-- R376, R386, R419, R432, R445: a granted write of LifeCycleRequest is recorded and starts its change; JtagDebugEnable
is held; SideboardStart starts its sequence; a BlockReset row resets its block; TrafficStart is noted for the entry of
TRAFFIC. -/
def Obligations.ControlWritesTakeEffect : Prop :=
  (∀ v (y : BitVec 8) s x, Granted v ⟨O.LifeCycleRequest, 0, 0, y.toNat⟩ 0 s x →
    exec (.lifecycleRequest v y) s = .next (wrote v ⟨O.LifeCycleRequest, 0, 0, y.toNat⟩ 0 x
      (lifeAccepted x.client (roleOf (s.came v.sess).toBlocks x) y.toNat) s)) ∧
  (∀ v (y : BitVec 8) s x, Granted v ⟨O.JtagDebugEnable, 0, 0, y.toNat⟩ 0 s x →
    exec (.jtagDebugEnable v y) s = .next (wrote v ⟨O.JtagDebugEnable, 0, 0, y.toNat⟩ 0 x
      (fun r => r.ws O.JtagDebugEnable y.toNat) s)) ∧
  (∀ v (y : BitVec 8) s x, Granted v ⟨O.SideboardStart, 0, 0, y.toNat⟩ 0 s x →
    exec (.sideboardStart v y) s = .next (wrote v ⟨O.SideboardStart, 0, 0, y.toNat⟩ 0 x (sideStart y.toNat) s)) ∧
  (∀ v (row : BitVec 32) (y : BitVec 8) (lost : BitVec 16) s x,
    Granted v ⟨O.BlockReset, row.toNat, 0, y.toNat⟩ lost.toNat s x →
    exec (.blockReset v row y lost) s = .next (wrote v ⟨O.BlockReset, row.toNat, 0, y.toNat⟩ lost.toNat x
      (blockReset row.toNat lost.toNat) s)) ∧
  (∀ v (y : BitVec 8) s x, Granted v ⟨O.TrafficStart, 0, 0, y.toNat⟩ 0 s x →
    exec (.trafficStart v y) s = .next (wrote v ⟨O.TrafficStart, 0, 0, y.toNat⟩ 0 x
      (fun r => r.upBoot fun b => { b with started := true }) s))

/-- R393 to R395: a granted BEGIN or BEGIN_CHAIN starts the session's load, ABORT ends the running one, a chunk that
completes no failing check is taken with the answer OK, and a staged load takes its image from the staging window.
R400, R401, R403 to R405: a granted FwActivate starts the preparation for its instant (0: the next Rack cycle after
it), FwActivateCancel ends a waiting activation, FwConfirm confirms the trial image, FwRollback asks for the rollback
once it is answered, and FwActivateAtReset marks or unmarks the other slot. -/
def Obligations.FirmwareWritesTakeEffect : Prop :=
  ((∀ v s x, Granted v ⟨O.FwLoadControl, 0, 0, 1⟩ 0 s x →
    exec (.fwLoadBegin v) s = .next (wrote v ⟨O.FwLoadControl, 0, 0, 1⟩ 0 x (loadBegin (some v.sess) false) s)) ∧
  (∀ v s x, Granted v ⟨O.FwLoadControl, 0, 0, 2⟩ 0 s x →
    exec (.fwLoadBeginChain v) s = .next (wrote v ⟨O.FwLoadControl, 0, 0, 2⟩ 0 x (loadBegin (some v.sess) true) s)) ∧
  (∀ v s x, Granted v ⟨O.FwLoadControl, 0, 0, 3⟩ 0 s x →
    exec (.fwLoadAbort v) s = .next (wrote v ⟨O.FwLoadControl, 0, 0, 3⟩ 0 x loadAbort s)) ∧
  (∀ v (row : BitVec 32) (data : Bytes) s x w f, w = (⟨O.FwChunk, row.toNat, 0, data.length * 2 ^ 65536 + beNat data⟩ : SW) →
    data.length ≤ 8192 → Granted v w 0 s x →
    f = (fun r => (chunkWritten x.client (roleOf (s.came v.sess).toBlocks x) 0x02 data r).2) →
    (f ((s.came v.sess).booked [⟨O.FwChunk, row.toNat⟩])).rd O.FwLoadStatus 0 F.FwLoadStatus_State ≠ 4 →
    exec (.fwChunk v row data) s = .next (wrote v w 0 x f s)) ∧
  (∀ v (length : BitVec 32) (chain : Bool) s x w, w = (⟨O.FwStagedLoad, 0, 0, length.toNat * 2 ^ 32 + chain.toNat * 2 ^ 31⟩ : SW) →
    Granted v w 0 s x →
    exec (.fwStagedLoad v length chain) s = .next (wrote v w 0 x
      (stagedWritten v.sess x.client (roleOf (s.came v.sess).toBlocks x) length.toNat chain) s))) ∧
  ((∀ v (t : BitVec 80) q s x, timeVal (v.sess == .bar0) t.toNat = some q → Granted v ⟨O.FwActivate, 0, 0, q⟩ 0 s x →
    exec (.fwActivate v t) s = .next (wrote v ⟨O.FwActivate, 0, 0, q⟩ 0 x (activateWritten q) s)) ∧
  (∀ v s x, Granted v ⟨O.FwActivateCancel, 0, 0, 1⟩ 0 s x →
    exec (.fwActivateCancel v) s = .next (wrote v ⟨O.FwActivateCancel, 0, 0, 1⟩ 0 x cancelWritten s)) ∧
  (∀ v s x, Granted v ⟨O.FwConfirm, 0, 0, 1⟩ 0 s x →
    exec (.fwConfirm v) s = .next (wrote v ⟨O.FwConfirm, 0, 0, 1⟩ 0 x confirmWritten s)) ∧
  (∀ v s x, Granted v ⟨O.FwRollback, 0, 0, 1⟩ 0 s x →
    exec (.fwRollback v) s = .next (rollbackAsked 4
      (((s.came v.sess).booked [⟨O.FwRollback, 0⟩]).answered v ⟨O.FwRollback, 0, 0, 1⟩))) ∧
  (∀ v s x, Granted v ⟨O.FwActivateAtReset, 0, 0, 1⟩ 0 s x →
    exec (.fwActivateAtResetMark v) s = .next (wrote v ⟨O.FwActivateAtReset, 0, 0, 1⟩ 0 x
      (fun r => r.setFwMeta fun m => m.setMark m.other true) s)) ∧
  (∀ v s x, Granted v ⟨O.FwActivateAtReset, 0, 0, 0⟩ 0 s x →
    exec (.fwActivateAtResetUnmark v) s = .next (wrote v ⟨O.FwActivateAtReset, 0, 0, 0⟩ 0 x
      (fun r => r.setFwMeta fun m => m.setMark m.other false) s)))

/-- R46, R47, R71, R75: every command that is the write of one object can be staged: with the handle of the session's open
transaction, or through BAR0 while that session has one, the write is only staged (`stageWrite`: OK, or FULL at 64 MiB
or without a Shelf buffer) and answered. R72: through BAR0 no row or field of a table can be written: the command is
counted in BarLastStatus, with status OK, and has no other effect. -/
def Obligations.WriteCommandsAreStaged : Prop :=
  (∀ c v w lost s x t st s1, oneWrite c = some (v, w, lost) → Stageable v w s x t →
    stageWrite v.sess w (s.came v.sess) = (st, s1) →
    exec c s = .next (if v.sess = .bar0 then barDone st w.obj s1
      else respond v.sess 0x02 v.rid.toNat t.handle false st
        [⟨w.obj, ((objInfo? w.obj).map fun o => accType o w.fld).getD 0, w.row, w.fld, st.code, []⟩] s1)) ∧
  (∀ c v w lost s, oneWrite c = some (v, w, lost) → v.sess = .bar0 → s.served = true → w.row ≠ 0 ∨ w.fld ≠ 0 →
    exec c s = .next (barDone .ok w.obj (countBarWrite s)))

/-- R356, R358: an occurrence of a source sets its flag in its bank and adds one to its count, which stays at 65,535,
enabled or not. When its pending rises, its route acts: NONE does nothing, MSIX sends one message on vector Target, or
holds it while Bus Master Enable is 0 (the model's choice, log 180); while pending stays, nothing more is sent. -/
def Obligations.EventsAreRaised : Prop :=
  ∀ s n flags en t, n < 320 → flags = s.rd O.EventBanks (n / 32) F.EventBanks_Flags →
    en = s.rd O.EventBanks (n / 32) F.EventBanks_Enable →
    t = (s.wr O.EventBanks (n / 32) F.EventBanks_Flags (flags ||| 2 ^ (n % 32))).wr O.EventSource n F.EventSource_Count
      (min (s.rd O.EventSource n F.EventSource_Count + 1) 65535) →
    (flags.testBit (n % 32) = true ∨ en.testBit (n % 32) = false → raise n s = t) ∧
    (flags.testBit (n % 32) = false → en.testBit (n % 32) = true →
      (s.rd O.EventSource n F.EventSource_Route = 0 → raise n s = t) ∧
      (s.rd O.EventSource n F.EventSource_Route = 1 → s.busMaster = true →
        raise n s = t.emit (.msix (s.rd O.EventSource n F.EventSource_Target))) ∧
      (s.rd O.EventSource n F.EventSource_Route = 1 → s.busMaster = false → raise n s = t.upHost fun h =>
        { h with msixHeld := h.msixHeld.filter (· != s.rd O.EventSource n F.EventSource_Target) ++
            [s.rd O.EventSource n F.EventSource_Target] }))

/-! ### Sessions, reads, writes and transactions -/

/-- R43, R45, R57, R73: a READ of one item answers its value as the session sees it, in the type's wire form; without the
right, or of no object, zeros of the stated length, silently counted and audited; a BAR0 read hands out the window
form. -/
def Obligations.ReadsAnswer : Prop :=
  (∀ q (i : Item) s x o, Asks q.sess q.rid.toNat s x → q.ctx = 0 → x.txn = none → objInfo? i.obj.toNat = some o →
    canRead s.toBlocks x o = true → o.num ≠ O.TimeCaptureLog →
    checkForm o i.typ.toNat i.row.toNat i.fld.toNat i.len.toNat = .ok →
    exec (.read (.zoa q [i])) s = .next ((s.heard q.sess).reply q 0x01 0 .ok [{ echoItem i .ok with
      val := beBytes (accLen o i.fld.toNat) (toWire o i.fld.toNat (fieldOf o i.fld.toNat
        (viewRow (liveEnv (x.met s) (s.heard q.sess)) o i.row.toNat))) }])) ∧
  (∀ q (i : Item) s x, Asks q.sess q.rid.toNat s x → q.ctx = 0 →
    (∀ o, objInfo? i.obj.toNat = some o → canRead s.toBlocks x o = false) →
    exec (.read (.zoa q [i])) s = .next ((silentAccess x.client (roleOf s.toBlocks x) 0x01 i.obj.toNat i.row.toNat i.fld.toNat
      (s.heard q.sess)).reply q 0x01 0 .ok [{ echoItem i .ok with val := List.replicate i.len.toNat 0 }])) ∧
  (∀ offset size s x o, s.served = true → offset < 0x800000 → (size = 8 ∧ offset % 8 = 0) ∨ (size = 4 ∧ offset % 4 = 0) →
    s.sess? .bar0 = some x → x.txn = none → s.barWaits = false → s.barq = [] → objInfo? (offset / 8) = some o → hasWindow o = true → canRead s.toBlocks x o = true →
    exec (.read (.bar0 offset size)) s = .next (s.emit (.resp .bar0 ⟨1, 0, false, false, 0, 0, [⟨offset / 8, 0, 0, 0, 0,
      ((leBytes 8 (toWindow o (fieldOf o 0 (viewRow (liveEnv x s) o 0)))).drop (offset % 8)).take size⟩]⟩)))

/-- R68, R464: a TABLE_READ of `n` rows of a readable table answers those of them that the table has, as items of their
own in row order, and the response keeps as many whole items as its message holds. -/
def Obligations.TableReadsAnswer : Prop :=
  ∀ q (i : Item) s x o, Asks q.sess q.rid.toNat s x → q.ctx = 0 → x.txn = none → i.len = 4 → i.val.length = 4 →
    objInfo? i.obj.toNat = some o → canRead s.toBlocks x o = true → o.num ≠ O.TimeCaptureLog →
    checkForm o i.typ.toNat i.row.toNat i.fld.toNat (accLen o i.fld.toNat) = .ok →
    exec (.tableRead q [i]) s = .next ((s.heard q.sess).reply q 0x03 0 .ok
      ((tableItems o i (beNat i.val) (if q.small then 1400 else 9000)).map fun k => { echoItem k .ok with
        val := beBytes (accLen o i.fld.toNat) (toWire o i.fld.toNat (fieldOf o i.fld.toNat
          (viewRow (liveEnv (x.met s) (s.heard q.sess)) o k.row.toNat))) }))

/-- R48, R54: a WRITE or TABLE_WRITE with Context 0 whose items pass their checks, none of them TxnOpen, TxnCommit or
TxnAbort, applies as one commit when nothing stands against that commit and it need not wait, and is answered. -/
def Obligations.WritesApplyTogether : Prop :=
  ∀ q (items : List Item) s x ws w op c, Asks q.sess q.rid.toNat s x → q.ctx = 0 → ws ≠ [] →
    checkDirect (s.heard q.sess) (x.met s) [] (items.map fun i => itemCheck i (s.heard q.sess) (x.met s) false) =
      ws.map Checked.good →
    (∀ e ∈ ws, controls e.obj = false) →
    (op, c) ∈ [(0x02, Instr.write q items), (0x04, .tableWrite q items)] →
    w = ({ sess := q.sess, direct := true, writes := ws, items := items.map fun i => echoItem i .ok, op := op
           rid := q.rid.toNat, ctx := 0, small := q.small, due := 0, waitFor := .gen, order := 0, at_ := none } : Wait) →
    commitCheck (actorOf s.toBlocks x op 0) [] none (cellsOf ws) (s.heard q.sess) = .go →
    waitNeeded (cellsOf ws) none none (s.heard q.sess) = none →
    exec c s = .next (finishCommit w (actorOf s.toBlocks x op 0) (cellsOf ws) (s.heard q.sess))

/-- R59. A write that carries a snapshot handle is answered with RANGE: every item and the header carry the status, and
nothing is written. (Snapshot handles are 8000h and above, those of transactions below: `TransactionsAreDriven`,
`SnapshotsAreServed`.) -/
def Obligations.SnapshotHandleRefusesWrites : Prop :=
  ∀ q (items : List Item) s x op c, Asks q.sess q.rid.toNat s x → 0x8000 ≤ q.ctx.toNat →
    (∀ t, x.txn = some t → t.handle < 0x8000) → items ≠ [] →
    (op, c) ∈ [(0x02, Instr.write q items), (0x04, .tableWrite q items)] →
    exec c s = .next ((s.heard q.sess).reply q op q.ctx.toNat .range (items.map fun i => echoItem i .range))

/-- R46, R50, R53, R54, R56, R71: TXN_OPEN gives the session an empty transaction under the next handle (1 to 7FFFh in
turn); TXN_COMMIT without an instant applies what is staged and ends the transaction, with an instant in its window is
accepted for it; TXN_ABORT ends a transaction whose commit is not bound. -/
def Obligations.TransactionsAreDriven : Prop :=
  (∀ q s x, Asks q.sess q.rid.toNat s x → q.ctx = 0 → x.txn = none → s.txnsOpen < 16 → mayControl s x O.TxnOpen = true →
    exec (.txnOpen q []) s = .next (({ s.heard q.sess with nextHandle := s.nextHandle % 0x7FFF + 1 }.updSess q.sess fun y =>
      { y with txn := some { handle := s.nextHandle, st := .open_, staged := [], touched := [], bytes := 0, lastWrite := s.time.ticks
                             at_ := none, order := 0, lastStatus := x.ended.status, failedObj := x.ended.failedObj
                             genKept := false } }).reply q 0x10
      s.nextHandle .ok [])) ∧
  (∀ q (i : Item) s x t cs w, Asks q.sess q.rid.toNat s x → x.txn = some t → q.ctx = 0 ∨ q.ctx.toNat = t.handle →
    t.st = .open_ ∨ t.st = .failed → mayControl s x O.TxnCommit = true → i.obj.toNat = O.TxnCommit → i.typ = 11 → i.len = 10 →
    i.val.length = 10 → time80Ok (beNat i.val) = true → cs = cellsOf t.staged →
    w = ({ sess := q.sess, direct := false, writes := [], items := [], op := 0x11, rid := q.rid.toNat, ctx := q.ctx.toNat
           small := q.small, due := 0, waitFor := .gen, order := 0
           at_ := if qOfTime80 (beNat i.val) = 0 then none else some (qOfTime80 (beNat i.val)) } : Wait) →
    commitCheck (actorOf s.toBlocks x 0x11 0) t.touched w.at_ cs (s.heard q.sess) = .go →
    waitNeeded cs w.at_ none (s.heard q.sess) = none →
    exec (.txnCommit q [i]) s = .next (match w.at_ with
      | none => finishCommit w (actorOf s.toBlocks x 0x11 0) cs (s.heard q.sess)
      | some n => acceptTimed w cs n (s.heard q.sess))) ∧
  (∀ q s x t, Asks q.sess q.rid.toNat s x → x.txn = some t → q.ctx = 0 ∨ q.ctx.toNat = t.handle →
    mayControl s x O.TxnAbort = true → (t.st = .pending → ∀ n, t.at_ = some n → s.gridQ + 400000 < n) →
    exec (.txnAbort q []) s = .next ((abortTxn q.sess .ok (s.heard q.sess)).reply q 0x12 q.ctx.toNat .ok
      (txnItems q.sess (abortTxn q.sess .ok (s.heard q.sess)))))

/-- R57, R58: SNAPSHOT_OPEN keeps the whole dictionary as it stands, under the next handle (8000h to FFFFh in turn), and
answers GridTime and GenerationCurrent; SNAPSHOT_CLOSE ends the session's snapshot, and so does its lifetime. -/
def Obligations.SnapshotsAreServed : Prop :=
  (∀ q s x k, Asks q.sess q.rid.toNat s x → q.ctx = 0 → roleOf s.toBlocks x ≠ 0 → x.snap = none → s.snapsOpen < 4 →
    k = 0x8000 + s.nextSnap % 0x8000 →
    exec (.snapshotOpen q []) s = .next (({ s.heard q.sess with nextSnap := s.nextSnap + 1 }.updSess q.sess fun y =>
      { y with hadSnaps := k :: y.hadSnaps
               snap := some { handle := k, openedAt := s.time.ticks, blocks := s.toBlocks, chest := s.chest, txns := s.txnsOpen
                              snaps := s.snapsOpen, zoas := s.zoaSessions.length, status := txnStatus (x.met s)
                              refs := s.pins.refs, asked := x.asked, copied := [] } }).reply q 0x20 k .ok
      [⟨O.GridTime, 11, 0, 0, 0, beBytes 10 (time80OfQ s.gridQ)⟩, ⟨O.GenerationCurrent, 3, 0, 0, 0, beBytes 4 (s.gen.cur % 2 ^ 32)⟩])) ∧
  (∀ q s x n, Asks q.sess q.rid.toNat s x → x.snap = some n → n.fits s.toBlocks = true → n.handle = q.ctx.toNat →
    exec (.snapshotClose q []) s = .next ((endSnap q.sess (s.heard q.sess)).reply q 0x20 q.ctx.toNat .ok [])) ∧
  (∀ sess s x n, s.sess? sess = some x → x.snap = some n →
    n.openedAt + s.sc O.SnapshotLifetime * ticksPerMs ≤ s.time.ticks →
    exec (.snapshotExpire sess) s = .next (s.updSess sess fun y => { y with snap := none }))

/-- R69, R70, R358: SUBSCRIBE of a readable object adds it with its present value, UNSUBSCRIBE removes what it names;
NOTIFY carries the row of an event bank whose route fired, first, else the value of a subscribed object that has
changed, each at most once a millisecond; a ZOA session's transport, unless it is busy, sends what its queue holds. -/
def Obligations.SubscriptionsNotify : Prop :=
  (∀ q (i : Item) s x o, Asks q.sess q.rid.toNat s x → q.ctx = 0 → objInfo? i.obj.toNat = some o →
    canRead s.toBlocks x o = true → o.typ ≠ 20 → o.typ ≠ 21 → checkForm o i.typ.toNat i.row.toNat i.fld.toNat i.len.toNat = .ok →
    (∀ u ∈ x.subs, u.obj ≠ i.obj.toNat) → x.subs.length < 256 →
    exec (.subscribe q [i]) s = .next (((s.heard q.sess).updSess q.sess fun y => { y with subs := y.subs ++
      [⟨i.obj.toNat, subValue o (x.met s) (s.heard q.sess), none⟩] }).reply q 0x30 0 .ok [echoItem i .ok])) ∧
  (∀ q (items : List Item) s x, Asks q.sess q.rid.toNat s x → q.ctx = 0 →
    (∀ i ∈ items, ∃ o, objInfo? i.obj.toNat = some o ∧ canRead s.toBlocks x o = true) →
    exec (.unsubscribe q items) s = .next (((s.heard q.sess).updSess q.sess fun y => { y with
      subs := y.subs.filter fun u => !(items.map fun i => i.obj.toNat).contains u.obj }).reply q 0x30 0 .ok
        (items.map fun i => echoItem i .ok))) ∧
  (∀ sess busy s t x b o v u, t = (if busy then s else sendNotes sess s) → t.sess? sess = some x →
    x.eventDue.find? (bankDue x t) = some b → objInfo? O.EventBanks = some o → v = viewRow (liveEnv x t) o b →
    u = notify sess [⟨O.EventBanks, 19, b, 0, 0, beBytes 16 v⟩] (t.updSess sess fun y =>
      { y with eventDue := y.eventDue.filter fun k => k != b
               bankSent := (b, t.time.ticks) :: y.bankSent.filter fun e => e.1 != b }) →
    exec (.notify ⟨sess, busy⟩) s = .next (if busy then u else sendNotes sess u)) ∧
  (∀ sess busy s t x w o u, t = (if busy then s else sendNotes sess s) → t.sess? sess = some x →
    x.eventDue.find? (bankDue x t) = none → x.subs.find? (subDue x t) = some w → objInfo? w.obj = some o →
    u = notify sess [⟨o.num, o.typ, 0, 0, 0, beBytes o.width (toWire o 0 (subValue o x t))⟩] (t.updSess sess fun y =>
      { y with subs := y.subs.map fun k =>
        if k.obj = w.obj then { k with last := subValue o x t, sentAt := some t.time.ticks } else k }) →
    exec (.notify ⟨sess, busy⟩) s = .next (if busy then u else sendNotes sess u))

/-- R39, R61, R63, R372: a handshake that R372 admits, and the first cleartext message where cleartext is allowed, open a
session while fewer than 32 exist; a close, and 600 s without a message, end the session; a message that R63 discards
adds one to ZoaMalformed and does nothing else. R72 to R77: an aligned 8-byte BAR0 write is counted and writes its
object, behind one that waits for its commit; a narrower one, and by the model's choice an unaligned one (log 179), is
counted in BarPartialWrite too. BAR4 writes land, and Go takes a request from a free slot's buffer and runs it; Ack
gives the response buffer back; a waiting NOTIFY is placed in a free one. -/
def Obligations.SessionsAndWindowsServe : Prop :=
  ((∀ s (a : Handshake) c role row kind, zoaServed s.toBlocks a.arrival = true → s.zoaSessions.length < 32 → a.cred = some c →
    admitCred s.toBlocks c = .ok (role, row) → kind = (if isInband a.arrival then SessKind.inband else .dtls) →
    exec (.dtlsHandshake a) s = .next { s with nextSess := s.nextSess + 1, sessions := s.sessions ++ [{ newSess
      (.zoa s.nextSess) kind role (0x4000 + s.nextSess % 4096) s.time.ticks row with net := some a.arrival }] }) ∧
  (∀ s (a : Handshake), zoaServed s.toBlocks a.arrival = true → s.zoaSessions.length < 32 → a.cred = none →
    isInband a.arrival = false → s.life ≠ 2 → s.sc O.ZoaCleartextEnable = 1 →
    exec (.dtlsHandshake a) s = .next { s with nextSess := s.nextSess + 1, sessions := s.sessions ++ [{ newSess
      (.zoa s.nextSess) .cleartext 1 (0x4000 + s.nextSess % 4096) s.time.ticks none with net := some a.arrival }] }) ∧
  (∀ s sess x, s.sess? sess = some x → exec (.sessionClose sess) s = .next (closeSession sess s)) ∧
  (∀ s n x, s.sess? (.zoa n) = some x → x.last + 600 * ticksPerS ≤ s.time.ticks →
    exec (.zoaSessionIdleClose (.zoa n)) s = .next (closeSession (.zoa n) s)) ∧
  (∀ s sess x msg, s.sess? sess = some x → x.reached s.toBlocks = true → readMessage msg = none →
    s.rd O.ZoaMalformed 0 0 < 2 ^ 64 - 1 →
    exec (.zoaMessageDiscard sess msg) s = .next (s.wr O.ZoaMalformed 0 0 (s.rd O.ZoaMalformed 0 0 + 1)))) ∧
  ((∀ s offset (data : Bytes), s.served = true → offset < 0x800000 → data.length = 8 → offset % 8 = 0 →
    exec (.bar0Write offset data) s = .next (barWrite (offset / 8) (fun o => fromWindow o (leNat data)) 0 s)) ∧
  (∀ s offset (data : Bytes), s.served = true → offset < 0x800000 → 0 < data.length → data.length < 8 ∨ data.length = 8 ∧ offset % 8 ≠ 0 →
    exec (.bar0Write offset data) s = .next ((countBarWrite s).sat32 O.BarPartialWrite 0 0 1)) ∧
  (∀ s slot (go length : BitVec 32) writes m r t, s.served = true → 2 ^ 31 ≤ go.toNat → go.toNat % 65536 ≠ 0 →
    t = bar4Writes writes s → t.mbox[slot.val]? = some m → m.busy = none → 16 ≤ length.toNat → length.toNat ≤ 9000 →
    readMessage (memRead m.reqBuf 0 length.toNat) = some r →
    exec (.mailboxGo slot go length writes) s = .next (runMessage (.mailbox slot) r (t.updMbox slot.val fun m =>
      { m with lastSeq := go.toNat % 65536, busy := some (go.toNat % 65536), done := false, reqLen := length.toNat
               hostOwns := false }))) ∧
  (∀ s slot, exec (.mailboxAck slot) s = .next (s.updMbox slot.val fun m => { m with hostOwns := false })) ∧
  (∀ s slot m x n rest, s.mbox[slot.val]? = some m → m.hostOwns = false → m.busy = none →
    s.sess? (.mailbox slot) = some x → x.sendq = n :: rest →
    exec (.mailboxNotifyPlace slot) s = .next (placeInSlot slot.val 0 (noteBytes n)
      (((s.heard (.mailbox slot)).updSess (.mailbox slot) fun y => { y with sendq := rest }).emit (.note (.mailbox slot) n)))))

/-- R51 to R55, R136, R465: an idle transaction is aborted; commits that have waited too long end with BUSY; an accepted
commit runs at its instant, the first accepted first; the longest-waiting commit is tried again when a generation, or
the parse bank, is free, and the BAR0 writes behind it then take their turn (R74). -/
def Obligations.CommitsRunWhenDue : Prop :=
  (∀ s sess x t, s.sess? sess = some x → x.txn = some t → t.st = .open_ ∨ t.st = .failed →
    t.lastWrite + s.sc O.TxnIdleTimeout * ticksPerS ≤ s.time.ticks →
    exec (.txnIdleTimeout sess) s = .next (abortTxn sess .ok s)) ∧
  (∀ s w, s.waits = [w] → w.due ≤ s.time.ticks → s.orphans = [] →
    (∀ y ∈ s.sessions, ∀ t, y.txn = some t → t.accepted = false) →
    exec .txnCommitTimeout s = .next (drainBar (refuseCommit w .busy 0 0 { s with waits := [] }))) ∧
  (∀ s t, firstTimed (s.timed.filter fun t => t.txn.st == .pending && match t.txn.at_ with
      | some q => decide (q ≤ s.gridQ) | none => false) = some t →
    exec .timedCommitApply s = .next (runTimed t s)) ∧
  (∀ s w, s.gensLive < 63 → s.time.stepReq = none → s.exact.ageWait = none → w ∈ s.waits → w.waitFor = .gen →
    (∀ u ∈ s.waits, u ≠ w → u.waitFor = .gen → w.order < u.order) →
    exec .waitingCommitApply s = .next (drainBar
      (attempt false 0 w { s with waits := s.waits.filter fun u => u.order != w.order }))) ∧
  (∀ s w, bankFree s.toBlocks = true → firstTimed (s.timed.filter fun t => t.txn.st == .waiting) = none → w ∈ s.waits →
    w.waitFor = .bank → (∀ u ∈ s.waits, u ≠ w → u.waitFor = .bank → w.order < u.order) →
    exec .parseBankFree s = .next (drainBar
      (attempt false 0 w { s with waits := s.waits.filter fun u => u.order != w.order })))

/-! ### The forwarding engine -/

/-- R18, R106, R116 to R118, R187, R344: with both Dovetail links up and traffic enabled, the packet at the door enters,
corrected SRAM errors being raised. With no line in error or under repair that it reads, and its flow not parked
before it, it passes on: a packet that the parser cannot read is punted (reason 3), a Pdelay message of the servo's
goes to its owner, a direct inject packet goes where its descriptor says, any other through the rule stage. Else it is
parked at its place, the lines newly in error being sent for, or, with the repair queue full, punted (reason 10) and
counted. -/
def Obligations.PacketsAreAdmitted : Prop :=
  ∀ a held errs fixed s e again s2 p s3 t l d f read new pending, popCount 2 (s.sc O.DovetailLinkState) = 2 → s.traffic = true →
    takeFrom a s = some (e, again, s2) → withStamps e.pkt s2 = (p, s3) → t = raiseN fixed (src 8 2) s3 →
    l = lookUp t.toBlocks { e with pkt := p } →
    f = (⟨{ p with hdr := { p.hdr with flowHash := l.hash } }, e.direct⟩ : Entering) →
    d = (if l.fail.isSome || e.direct then Disp.start else evaluate t.toBlocks p.gen p.hdr.pass l) →
    read = linesRead t.toBlocks f l d → new = (errs.dedup.filter fun x => read x && !t.repair.lines.contains x) →
    pending = (!new.isEmpty || t.repair.lines.any read) →
    (pending = false → flowParked t.toBlocks again l.hash = false →
      (∀ why, l.fail = some why → exec (.packetAdmit a held ⟨errs, fixed⟩) s = .next (crossToTm l.hash
        [f.pkt.punted (parseFailed l.walk why p.hdr.srcPort t).toBlocks 3] (parseFailed l.walk why p.hdr.srcPort t))) ∧
      (l.fail = none → pdelayHeard t.toBlocks f.pkt = true → exec (.packetAdmit a held ⟨errs, fixed⟩) s = .next
        (if t.sc O.ServoOwner = 0 then t else crossToTm l.hash [f.pkt.punted t.toBlocks 11] t)) ∧
      (l.fail = none → pdelayHeard t.toBlocks f.pkt = false → e.direct = true →
        exec (.packetAdmit a held ⟨errs, fixed⟩) s = .next (match
          forwardPacket ⟨p.hdr.destCard, p.hdr.destPort, p.hdr.destQueue, false⟩ p.hdr.editPtr l.walk.marks f.pkt t with
        | (x, u) => crossToTm l.hash [x] u)) ∧
      (l.fail = none → pdelayHeard t.toBlocks f.pkt = false → e.direct = false →
        exec (.packetAdmit a held ⟨errs, fixed⟩) s = .next (ruleStage d l.walk.marks f.pkt
          (learnFrom 1 l.b p.gen f.pkt (learnFrom 0 l.a p.gen f.pkt (touchHit l.b (touchHit l.a (countLookups l t)))))))) ∧
    (pending = true ∨ flowParked t.toBlocks again l.hash = true →
      (t.repair.queue.length < 8192 ∧ t.repair.lines.length + new.length ≤ 16 →
        exec (.packetAdmit a held ⟨errs, fixed⟩) s = .next (park f again new pending t)) ∧
      (8192 ≤ t.repair.queue.length ∨ 16 < t.repair.lines.length + new.length → ∀ u,
        u = (match l.fail with | some why => parseFailed l.walk why p.hdr.srcPort t | none => t) →
        exec (.packetAdmit a held ⟨errs, fixed⟩) s = .next (crossToTm l.hash [f.pkt.punted u.toBlocks 10]
          (u.add64 O.RepairOverflowDrops 0 0 1))))

/-- R117, R119, R120: the rewrite of a line under repair ends its repair, and the parked packets may re-enter in order; it
is counted, or, the master copy unreadable, the line matches nothing from then on and bank 8 is told. Words of the
master copy that were corrected on the way are raised. R165, R166: the learn queue's head becomes a live learned entry
at its first free place, at most at ExactLearnRate; the ager marks what has passed its profile's AgeLimit; the age
clock counts once an ExactAgeTick, and found entries die in a generation of their own, when one is free. R147: a
filter block with a counter at its limit is counted anew from the live and unreclaimed entries. -/
def Obligations.LookupsAreKept : Prop :=
  (∀ s l fixed t, l ∈ s.repair.lines → t = ((raiseN fixed (src 8 4) s).upRepair fun r =>
      { r with lines := r.lines.filter fun x => x != l, queue := r.queue.map fun x => { x with ready := true } }) →
    exec (.lineRepairComplete l ⟨true, fixed⟩) s = .next (t.add64 O.RepairCount 0 0 1) ∧
    exec (.lineRepairComplete l ⟨false, fixed⟩) s = .next (raise (src 8 1) (markLost l (t.sat32 O.RepairUnrepairable 0 0 1)))) ∧
  ((∀ s k rest loc t, s.exact.learnQ = k :: rest →
    (∀ n, s.exact.lastInsert = some n → ticksPerS ≤ (s.time.ticks - n) * s.sc O.ExactLearnRate) →
    (∀ e ∈ s.exact.entries, e.dead = none → e.keyIs k.prof k.width k.key = false) →
    exactPlace s.toBlocks s.exact.entries k.prof k.width k.key = some loc →
    t = (s.upExact fun x => { x with learnQ := rest, lastInsert := some s.time.ticks, entries := x.entries ++
      [{ prof := k.prof, width := k.width, key := k.key, result := k.result, learned := true, static_ := false
         age := s.sc O.ExactAgeClock, loc := loc, born := s.gen.cur, dead := none, found := false, lost := false }] }) →
    exec .exactLearnInsert s = .next (overflowEvent s.overflowUsed (t.add64 O.ExactLearned 0 0 1))) ∧
  (∀ s, s.flag O.ExactAgerEnable 0 0 = true → exec .exactAgerScan s = .next (s.upExact fun x =>
    { x with entries := x.entries.map fun e => if agedOut s.toBlocks e then { e with found := true } else e })) ∧
  (∀ s t, s.exact.agedAt + s.sc O.ExactAgeTick * ticksPerMs ≤ s.time.ticks →
    t = (s.upExact fun x => { x with agedAt := s.time.ticks }).ws O.ExactAgeClock ((s.sc O.ExactAgeClock + 1) % 65536) →
    ((∀ e ∈ s.exact.entries, e.found = true → e.dead ≠ none) → exec .exactAgeTick s = .next t) ∧
    (∀ e ∈ s.exact.entries, e.found = true → e.dead = none → s.genFree = true → exec .exactAgeTick s = .next (ageCommit t)))) ∧
  (∀ s (block : Fin 1048576) c all, c ∈ (List.range 16).map (block.val * 16 + ·) → Tbl.get 0 s.route.filter c = 15 →
    all = (s.route.entries.map fun e => filterKeys s.toBlocks (routeKey e.vrf e.fam e.len e.addr)).flatten →
    exec (.routeFilterRecompute block) s = .next (s.upRoute fun r =>
      { r with filter := ((List.range 16).map (block.val * 16 + ·)).foldl
                 (fun t c => Tbl.put 0 c (min 15 (all.count c)) t) r.filter }))

/-- R96, R194 to R199, R206: with traffic enabled, the packet that has crossed to the FE is taken off its link; unless it
is a Pdelay message kept for the servo's owner, its literal block or its edit list is run on its bytes without the
FCS, missing anchors are counted and raised, and it leaves at its port with its departure stamp, or is dropped for the
operation that stopped it. -/
def Obligations.EgressEditsAndSends : Prop :=
  ∀ s (link : Fin 2) (phase : Fin 5) c rest u, s.traffic = true →
    (if link.val = 0 then s.fe.toFe0 else s.fe.toFe1) = c :: rest →
    u = s.upFe (fun f => if link.val = 0 then { f with toFe0 := rest } else { f with toFe1 := rest }) →
    (pdelayKept u.toBlocks c.port c.pkt = true → exec (.egressProcess link phase) s =
      .next (if u.sc O.ServoOwner = 0 then u else stagePunt (c.pkt.punted u.toBlocks 11) u)) ∧
    (pdelayKept u.toBlocks c.port c.pkt = false → ∀ ops marks hits stamp e t,
      egressOps u.toBlocks c.pkt = (ops, marks, hits) → stamp = departureStamp u.toBlocks c.port phase.val →
      ops.foldl (editStep ⟨c.pkt.gen, marks, c.pkt.hdr.colour, c.pkt.hdr.srcPort, c.port,
          toSigned 64 ((stamp + 2 ^ 64 - c.pkt.hdr.stamp % 2 ^ 64) % 2 ^ 64) * 2 ^ 14⟩)
        (Editing.start (c.pkt.data.take (c.pkt.data.length - 4)), u) = (e, t) →
      exec (.egressProcess link phase) s = .next (let v := raiseN e.missing (src 3 1) (t.add64 O.EditAnchorMissing 0 0 e.missing)
        match e.stop with
        | some code => recordDrop code c.pkt v
        | none => leave c.port stamp (servoStamp u.toBlocks c.port phase.val
            (toSigned 16 (u.rd O.PortMeasure c.port F.PortMeasure_TxAdjust)) e.cur) e.cur hits c.pkt v))

/-- R112, R113, R115, R199: a stream whose recovery has accepted nothing for ResetMs starts anew; the oldest closed
generation retires once no packet of it is counted, or, drained or not, past its age limit, counted and raised. -/
def Obligations.StreamsAndGenerationsEnd : Prop :=
  (∀ s (k : Fin 16384) r, r = Tbl.get StreamRT.start s.fe.streams k.val → r.armed = false →
    s.rd O.StreamRecovery k.val F.StreamRecovery_Valid ≠ 0 →
    r.acceptedAt + s.rd O.StreamRecovery k.val F.StreamRecovery_ResetMs * ticksPerMs ≤ s.time.ticks →
    exec (.streamRecoveryReset k) s = .next (raise (src 3 6) ((s.upFe fun f =>
      { f with streams := Tbl.put StreamRT.start k.val StreamRT.start f.streams }).add64
        O.StreamRecoveryCount k.val F.StreamRecoveryCount_Resets 1))) ∧
  (∀ s g rest, s.gen.closed = g :: rest →
    (drained s.toBlocks g.num = true → exec .generationRetire s = .next (retireOldest s)) ∧
    (drained s.toBlocks g.num = false → g.closedAt + ageLimitUs s.toBlocks * ticksPerUs < s.time.ticks →
      exec .generationAgeLimit s = .next (raise (src 2 1) ((retireOldest s).sat32 O.GenerationForcedRetire 0 0 1))))

/-- R110. A tag identifies a generation as follows: the packet's generation is the live generation g with g modulo 64
equal to the tag, c − ((c − tag) modulo 64), where the live generations are a contiguous run of at most 63 numbers
that ends at c; no two of them share a tag. -/
def Obligations.TagsNameGenerations : Prop :=
  ∀ b : Blocks, (∀ tag, tag < 64 → tag ≤ b.gen.cur → (b.genOfTag tag : Int) = b.gen.cur - ((b.gen.cur : Int) - tag) % 64) ∧
    (∀ g, g ≤ b.gen.cur → b.gen.cur < g + 63 → b.genOfTag (g % 64) = g) ∧
    (∀ g h, g ≤ b.gen.cur → b.gen.cur < g + 63 → h ≤ b.gen.cur → b.gen.cur < h + 63 → g % 64 = h % 64 → g = h)

/-! ### The traffic manager and the scheduler -/

/-- R120, R207, R208, R287, R366: corrected SRAM errors are raised; the bundle first on a link is taken off it; a packet
that is no multicast copy gets its INGRESS record, and one of this card enters the FIFO of its lane, any other goes to
the mesh. A packet from the mesh enters its lane. A FIFO takes 4,096 packets, and the next is dropped as OVERRUN with
its event. A lane serves its oldest packet. -/
def Obligations.TmTakesAndLanesServe : Prop :=
  (∀ s (k : Fin 2) busy fixed l rest, (if k.val = 0 then s.fe.toTm0 else s.fe.toTm1) = l :: rest →
    exec (.tmEnqueue (.link k) ⟨busy, fixed⟩) s = .next (tmBundle busy l ((raiseN fixed (src 8 3) s).upFe fun f =>
      if k.val = 0 then { f with toTm0 := rest } else { f with toTm1 := rest }))) ∧
  (∀ busy p s t p', recordIngress p s = (p', t) → p.mcast = false →
    (p.hdr.destCard = t.card → tmBundle busy [p] s = toLane busy p' t) ∧
    (p.hdr.destCard ≠ t.card → tmBundle busy [p] s = meshSend p' t)) ∧
  (∀ s p rest busy fixed t l, s.tm.fromMesh = p :: rest →
    t = ((raiseN fixed (src 8 3) s).upTm fun m => { m with fromMesh := rest }) → l = Tbl.get [] s.tm.lanes (laneOf p) →
    (4096 ≤ l.length → exec (.tmEnqueue .mesh ⟨busy, fixed⟩) s = .next (raise (src 4 5) (tmDrop .overrun p t))) ∧
    (l.length < 4096 → exec (.tmEnqueue .mesh ⟨true, fixed⟩) s = .next (t.upTm fun m =>
      { m with lanes := Tbl.put [] (laneOf p) (l ++ [p]) m.lanes })) ∧
    (l = [] → exec (.tmEnqueue .mesh ⟨false, fixed⟩) s = .next (enqueueLocal p ((t.upTm fun m =>
      { m with lanes := Tbl.put [] (laneOf p) [p] m.lanes }).upTm fun m => { m with lanes := Tbl.put [] (laneOf p) [] m.lanes })))) ∧
  (∀ s (k : Fin 10) busy fixed p rest, Tbl.get [] s.tm.lanes k.val = p :: rest →
    exec (.tmEnqueue (.lane k) ⟨busy, fixed⟩) s =
      .next (enqueueLocal p ((raiseN fixed (src 8 3) s).upTm fun m => { m with lanes := Tbl.put [] k.val rest m.lanes })))

/-- R208, R209: the checks of a packet for this card, in their order: the queue is enabled and lies under the packet's
port; then MaxKiB, the on-chip limit of its profile, the limit of its port and class, the free cells beside
ReturnReserveCells, a descriptor. The first that fails drops it with its own reason; when none does and the profile
spills nothing, it is linked at the queue's tail with the lowest free cells and descriptor, and counted. -/
def Obligations.AdmissionFollowsR208 : Prop :=
  ∀ p s q l n d c1 c2 c3, q = p.hdr.destQueue → l = s.queue q → n = p.cellCount →
    s.rd O.QueueBuffer q F.QueueBuffer_Enable = 1 → s.path? q = some (c1, c2, c3, p.hdr.destPort) →
    (s.profile q F.BufferProfile_MaxKiB * 1024 < totalBytes l + p.hdr.length → intake p s = tmDrop .queueMax p s) ∧
    (totalBytes l + p.hdr.length ≤ s.profile q F.BufferProfile_MaxKiB * 1024 →
     s.profile q F.BufferProfile_SpillEnable = 0 →
      (s.profile q F.BufferProfile_OnChipLimit < onChip l + n → intake p s = tmDrop .onchipLimit p s) ∧
      (onChip l + n ≤ s.profile q F.BufferProfile_OnChipLimit →
        (s.rd O.PortClassLimit (p.hdr.destPort * 8 + p.hdr.cls) 0 < s.portClass p.hdr.destPort p.hdr.cls + n →
          intake p s = tmDrop .portClass p s) ∧
        (s.portClass p.hdr.destPort p.hdr.cls + n ≤ s.rd O.PortClassLimit (p.hdr.destPort * 8 + p.hdr.cls) 0 →
          (s.freeCells < n + s.sc O.ReturnReserveCells → intake p s = tmDrop .bufferFull p s) ∧
          (n + s.sc O.ReturnReserveCells ≤ s.freeCells →
            (s.freeDescs = 0 → intake p s = tmDrop .noDescriptor p s) ∧
            (s.freeDescs ≠ 0 → firstFree s.usedDescs 1 = [d] → intake p s = lowWater s.freeCells s.freeDescs
              (linkPacket p (fun p s => s.setQueue q (l ++ [.chip p d (firstFree s.usedCells n)])) s))))))

/-- R213 to R215, R218, R318: a SPILL_RETURN first frees the next page of the flush in progress, bank 4 being told at its
last one; then, unless SpillPause holds it, it serves the queue that asked first. That queue is served one page of
records, or loses those of a page with an uncorrectable word, and then asks again while it needs; one that got nothing
keeps its place, and one that needs nothing leaves. A record returns with the lowest free cells and descriptor, ahead
of the records behind it. R121, R213: a failed line of the egress buffer drops every packet with a cell or a
descriptor in it, queued or still crossing to the forwarding die, counted as a tail drop and in IntegrityTmDrops with
its event; the others stay in order, and a queue that now needs records back asks for them. R220, R222: a client is
given a free buffer of the smallest pool that holds the size, the pool's low water follows, and the event of the 64
kept buffers is raised when they are reached; an empty pool, or for a client that is no sequencer of the module one
with 64 free buffers or fewer, refuses and counts. A release by the owner frees the buffer; by another it is rejected,
counted, shown and raised. -/
def Obligations.BuffersServe : Prop :=
  ((∀ s read q rest, s.tm.flushing = [] → s.sc O.SpillPause ≠ 1 → s.tm.asks = q :: rest →
    exec (.spillReturn read) s = .next (serveReturn read q s)) ∧
  (∀ s read, s.tm.flushing = [] → s.sc O.SpillPause = 1 ∨ s.tm.asks = [] → exec (.spillReturn read) s = .next s) ∧
  (∀ s read q page pages rest t, s.tm.flushing = (q, page :: pages) :: rest → t = raiseIf pages.isEmpty (src 4 9) (s.upTm fun m =>
      { m with flushing := if pages.isEmpty then rest else (q, pages) :: rest }) →
    (s.sc O.SpillPause = 1 ∨ s.tm.asks = [] → exec (.spillReturn read) s = .next t) ∧
    (∀ c l, s.sc O.SpillPause ≠ 1 → s.tm.asks = c :: l → exec (.spillReturn read) s = .next (serveReturn read c t))) ∧
  (∀ read q s t, t = (if hbmLost read
      then loseReturn q (hbmNote 1 (((returnPageOf s.toBlocks q).getD 0) * 2048) read s)
      else returnPage q 64 0 (hbmNote 1 (((returnPageOf s.toBlocks q).getD 0) * 2048) read s)) →
    (needsReturn s.toBlocks q = false → serveReturn read q s = s.upTm fun m => { m with asks := m.asks.drop 1 }) ∧
    (needsReturn s.toBlocks q = true → t.queue q = s.queue q → serveReturn read q s = t) ∧
    (needsReturn s.toBlocks q = true → t.queue q ≠ s.queue q →
      serveReturn read q s = askReturn q (t.upTm fun m => { m with asks := m.asks.filter (· != q) }))) ∧
  (∀ q s l d pages wr a p recs rest, splitSeg (s.queue q) = (l, .seg d pages wr ((a, p) :: recs) :: rest) →
    s.tm.spillR.allows s.spillTick spillBurst s.time.ticks (p.recordBytes * meterScale) = true →
    p.cellCount ≤ s.freeCells → 1 ≤ s.freeDescs →
    ∃ t desc, returnOne q s = some t ∧ t.queue q = l ++ [.chip p desc (firstFree s.usedCells p.cellCount)] ++
      segTrim d pages wr recs ++ rest)) ∧
  (∀ s (cells : List (Fin 524288)) (descs : List (Fin 2097152)) cs ds bad lost t, cs = cells.map (·.val) → ds = descs.map (·.val) →
    bad = (fun c : Sel => ds.contains c.desc || c.cells.any fun x => cs.contains x) →
    lost = (s.tm.queues.map fun e => ((e.2.filter (·.hit cs ds)).map fun i => i.pkts.map fun p => (e.1, p)).flatten).flatten ++
      (s.crossing.filter bad).map (fun c => (c.queue, c.pkt)) →
    t = ((s.tm.queues.map (·.1)).foldl (fun (a : State) q => a.setQueue q ((a.queue q).filter fun i => !i.hit cs ds)) s).upFe
      (fun f => { f with toFe0 := f.toFe0.filter fun c => !bad c, toFe1 := f.toFe1.filter fun c => !bad c }) →
    exec (.tmIntegrityError cells descs) s = .next (raise (src 8 5) ((s.tm.queues.map (·.1)).foldl (fun a q => askReturn q a)
      (settleRounds (lost.foldl (fun a e =>
        raise (src 4 8) ((recordDrop 13 e.2 (countDropped e.1 e.2.hdr.length a)).add64 O.IntegrityTmDrops 0 0 1)) t))))) ∧
  ((∀ s (client : BitVec 16) size k n, 0 < size → size ≤ 65536 → k = poolFor size →
    n = (firstFree ((s.shelf.owned.filter fun o => o.1 == k).map (·.2.1)) 1).headD 0 →
    (s.shelfFree k = 0 ∨ (client.toNat / 4096 ≠ 0 ∧ s.shelfFree k ≤ 64) →
      exec (.shelfAllocate client size) s = .next (s.add64 O.ShelfAllocFail k 0 1)) ∧
    (s.shelfFree k ≠ 0 → client.toNat / 4096 = 0 ∨ 64 < s.shelfFree k →
      exec (.shelfAllocate client size) s = .next (raiseIf (decide (s.shelfFree k = 65)) (src 4 6) ((s.upShelf fun h =>
        { h with owned := h.owned ++ [(k, n, client.toNat)] }).wr O.ShelfPool k F.ShelfPool_LowWater
          (min (s.rd O.ShelfPool k F.ShelfPool_LowWater) (s.shelfFree k - 1)))))) ∧
  (∀ s (client : BitVec 16) (pool : Fin 4) n,
    ((pool.val, n, client.toNat) ∈ s.shelf.owned → exec (.shelfRelease client pool n) s = .next (s.upShelf fun h =>
      { h with owned := h.owned.filter fun o => o != (pool.val, n, client.toNat) })) ∧
    ((pool.val, n, client.toNat) ∉ s.shelf.owned → exec (.shelfRelease client pool n) s = .next (raise (src 4 7)
      ((((s.add64 O.ShelfRejectedRelease pool.val 0 1).wr O.ShelfLastReject 0 F.ShelfLastReject_Client client.toNat).wr
        O.ShelfLastReject 0 F.ShelfLastReject_Pool pool.val).wr O.ShelfLastReject 0 F.ShelfLastReject_Buffer n)))))

/-- R233, R234: at a level's refill tick the rows of the level that wait take effect, and then every enabled shaper of the
level has C := min(C + R × T, B). R236, R237: of the nodes whose NE lies in a slot that has started, the wheel
releases at most 64, the oldest slots first; each that must wait is counted in CalendarSlip and raised. R240 to R242:
at a boundary of its list the port's gates follow grid time; at its start time S the pending list becomes the
operational one, and bank 5 is told. -/
def Obligations.SchedulerTimersRun : Prop :=
  ((∀ s (level : Fin 5) t u, t = (s.sched.waiting.filter fun k => k / 2 ^ 20 == level.val).foldl
      (fun (a : State) k => installRow level.val (k % 2 ^ 20) a) s →
    u = (t.upSched fun c => { c with waiting := c.waiting.filter fun k => k / 2 ^ 20 != level.val }) →
    exec (.shaperRefill level) s =
      .next ((shapedRows u.toBlocks level.val).foldl (fun a row => refillNode level.val row a) u)) ∧
  (∀ level row s c rate burst, rate = s.node level row F.SchedQueue_CommittedRate →
    burst = s.node level row F.SchedQueue_CommittedBurst → s.node level row F.SchedQueue_CommittedEnable = 1 →
    s.node level row F.SchedQueue_PeakEnable = 0 →
    c = refillAmount (nodeMode s.toBlocks level row).1 rate (levelTick level) → refillNode level row s =
      s.updNode (nodeKey level row) fun n => { n with comm := min (n.comm + c) (burst * creditUnit : Nat) })) ∧
  (∀ s due t, due = ((s.sched.nodes.filter fun e => !e.2.released && decide (e.2.ne / 65536 ≤ s.slotTime / 65536)).insertionSort
      fun a b => a.2.ne / 65536 ≤ b.2.ne / 65536) →
    t = (due.take 64).foldl (fun (a : State) e => a.updNode e.1 fun n => { n with released := true }) s →
    (due.length ≤ 64 → exec .calendarSlotRelease s = .next t) ∧
    (∀ e, due.drop 64 = [e] → exec .calendarSlotRelease s = .next (raise (src 5 2) (t.add64 O.CalendarSlip 0 0 1)))) ∧
  ((∀ s (port : Fin 128) l i st d, s.gated port.val = true → s.runningList port.val = some l → l.now s.gridQ = (i, st, d) →
    exec (.gateEntryChange port) s = .next (s.updGate port.val fun g => { g with entry := i, states := st })) ∧
  (∀ s (port : Fin 128), s.gated port.val = true → s.runningList port.val = none → exec (.gateEntryChange port) s =
    .next (s.updGate port.val fun g => { g with entry := 0, states := s.notRunning port.val })) ∧
  (∀ s (port : Fin 128), s.gated port.val = false → exec (.gateEntryChange port) s =
    .next (s.updGate port.val fun g => { g with entry := 0, states := 255 })) ∧
  (∀ s (port : Fin 128) l start, (s.gate port.val).pend = some (l, start) → start ≤ s.gridQ →
    exec (.gateListStart port) s = .next (raise (src 5 6)
      (gateRefresh port.val (s.updGate port.val fun g => { g with oper := some l, pend := none })))))

/-- R17, R18, R229 to R231, R238, R298: with traffic enabled, the head that the port's hierarchy chooses among the queues
whose heads pass their tests leaves its queue for the Dovetail link of its flow hash, or for the one that is up; every
node of its path is charged and the rounds move on. Heads that age out or are too late go first. -/
def Obligations.SchedulerSendsTheChosenHead : Prop :=
  ∀ s (port : Fin 160) blocked s1 c link, s.traffic = true →
    (backlogged s.toBlocks port.val).foldl (fun (a : List Nat × State) (c : Cand) =>
      match headTests c a.2 with | (out, s') => (if out then c.q :: a.1 else a.1, s')) ([], s) = (blocked, s1) →
    pickPort (settleRounds s1).toBlocks port.val ((backlogged (settleRounds s1).toBlocks port.val).filter fun c =>
      !blocked.contains c.q && headEligible (settleRounds s1).toBlocks c) = some c →
    linkFor (settleRounds s1).toBlocks c.cand.head.hdr.flowHash = some link →
    exec (.schedulerSelect port) s = .next (sendHead c link (countLaunch c.cand (settleRounds s1)))

/-! ### The ports -/

/-- R297, R304 to R307, R310, R312: a frame that a port stopped carrying while it was being received is counted in
RxErrors; on a carrying port what its FEC corrected is counted, a frame with a bad FCS or a wrong length is counted as
such; a pause frame of the port's mode pauses and is counted, another MAC control frame is only counted; any other is
counted and kept for the FE with its arrival stamp and start class, or, with no room in the receive buffer, lost and
counted, the first one that comes above XoffKiB being raised. R310, R311: on a carrying port a pause is sent again
half its time after it was last sent while its buffer holds more than XonKiB; a pause received ends at its time. -/
def Obligations.FramesAndPausesAreReceived : Prop :=
  (∀ s (port : Fin 128) data (phase : Fin 5) fec p, p = port.val →
    (s.carrying p = false → wasReceiving data.length s.time.ticks (s.port p).left = true →
      exec (.frameReceive port ⟨data, fec⟩ phase) s = .next
        ((s.add64 O.PortCounters p F.PortCounters_RxErrors 1).updPort p fun r => { r with left := none })) ∧
    (s.carrying p = true → ∀ u,
      u = (if s.rd O.PortStatus p F.PortStatus_FecInUse ≤ 1 then s else countFec p fec s) →
      (∀ c, receiveFault u.toBlocks p data = some c →
        exec (.frameReceive port ⟨data, fec⟩ phase) s = .next (u.add64 O.PortCounters p c 1)) ∧
      (receiveFault u.toBlocks p data = none →
        (∀ mode en, mode = u.rd O.PortFlowControl p F.PortFlowControl_Mode →
          en = u.rd O.PortFlowControl p F.PortFlowControl_PfcEnable → beAt data 12 2 = 0x8808 →
          (∀ l, pausesOf mode en data = some l → exec (.frameReceive port ⟨data, fec⟩ phase) s =
            .next (pauseReceived p l (u.add64 O.PortCounters p F.PortCounters_RxPause 1))) ∧
          (pausesOf mode en data = none →
            exec (.frameReceive port ⟨data, fec⟩ phase) s = .next (u.add64 O.PortCounters p F.PortCounters_RxMacControl 1))) ∧
        (∀ t, beAt data 12 2 ≠ 0x8808 → t = ptpHeard p data ((u.add64 O.PortCounters p F.PortCounters_RxFrames 1).add64
            O.PortCounters p F.PortCounters_RxBytes data.length) →
          (t.rxSize p < (t.port p).level 8 + data.length →
            ((t.port p).overRaised = true ∨ (t.port p).level 8 ≤ t.rd O.PortFlowControl p F.PortFlowControl_XoffKiB * 1024 →
              exec (.frameReceive port ⟨data, fec⟩ phase) s = .next (t.add64 O.PortCounters p F.PortCounters_RxOverflow 1)) ∧
            ((t.port p).overRaised = false → t.rd O.PortFlowControl p F.PortFlowControl_XoffKiB * 1024 < (t.port p).level 8 →
              exec (.frameReceive port ⟨data, fec⟩ phase) s = .next ((setDetail O.PortEventDetail p 4 (src 7 11)
                (t.add64 O.PortCounters p F.PortCounters_RxOverflow 1)).updPort p fun r => { r with overRaised := true }))) ∧
          ((t.port p).level 8 + data.length ≤ t.rxSize p → ∀ cls colour ptp, startClass u.toBlocks p data = (cls, colour) →
            ptp = servoStamp u.toBlocks p phase.val (-(toSigned 16 (u.rd O.PortMeasure p F.PortMeasure_RxAdjust))) data →
            exec (.frameReceive port ⟨data, fec⟩ phase) s = .next (flowCheck p (t.updPort p fun r =>
              { r with rx := r.rx ++ [⟨data, arrivalStamp u.toBlocks p phase.val, ptp, cls, colour⟩] }))))))) ∧
  ((∀ s (port : Fin 128) (cls : Fin 9) quanta at_, quanta = s.rd O.PortFlowControl port.val F.PortFlowControl_PauseQuanta →
    (cls.val, at_) ∈ (s.port port.val).holding → at_ + quantaTicks quanta (s.portRate port.val) / 2 ≤ s.time.ticks →
    s.carrying port.val = true → cls.val ∈ s.watched port.val →
    s.rd O.PortFlowControl port.val F.PortFlowControl_XonKiB * 1024 < (s.port port.val).level cls.val →
    exec (.pfcRepeat port cls) s = .next ((sendPause port.val cls.val quanta s).updPort port.val fun r =>
      { r with holding := r.holding.map fun h => if h.1 = cls.val then (cls.val, s.time.ticks) else h })) ∧
  (∀ s (port : Fin 128) (cls : Fin 8) at_, (cls.val, at_) ∈ (s.port port.val).paused → at_ ≤ s.time.ticks →
    exec (.pauseExpire port cls) s = .next (showPaused port.val (s.updPort port.val fun r =>
      { r with paused := r.paused.filter fun e => e.1 != cls.val }))))

/-- R297, R299, R300, R303, R308: an enabled port in AN shows its partner's ability and FEC and, where they hold its own,
goes on to training or alignment; after 500 ms it has failed, stays and tells bank 7. Training ends with the insertion
losses measured, or fails at its limit and starts anew; alignment brings the port up with its mode, its FEC and its
lanes. R301 to R303: a carrying port that loses lanes of one half of its running mode, DegradeEnable 1 and a degraded
mode given, degrades; of any other, its link goes down. The degrade ends in the degraded mode on the lanes that
stayed. -/
def Obligations.PortsBringTheirLinksUp : Prop :=
  (∀ s (port : Fin 128) p, p = port.val → s.portUsable p = true →
    (∀ (ability : BitVec 16) (fec : BitVec 2) t, s.portCfg p F.PortConfig_AnEnable = 1 → s.link p = 1 ∨ s.link p = 2 →
      t = (s.wr O.PortStatus p F.PortStatus_PartnerAbility ability.toNat).wr O.PortStatus p F.PortStatus_PartnerFec fec.toNat →
      (abilityMatches s.toBlocks p ability fec = true →
        exec (.autonegComplete port ability fec) s = .next (setLink p (if s.portCfg p F.PortConfig_TrainEnable = 1 then 3 else 4)
          (t.wr O.PortStatus p F.PortStatus_AnFail 0))) ∧
      (abilityMatches s.toBlocks p ability fec = false → exec (.autonegComplete port ability fec) s = .next t) ∧
      (s.stateFor p 500 = true → exec (.autonegTimeout port ability fec) s = .next (setLink p 2
        (setDetail O.PortEventDetail p 2 (src 7 9) (t.wr O.PortStatus p F.PortStatus_AnFail 1))))) ∧
    (∀ losses l, s.portCfg p F.PortConfig_TrainEnable = 1 → s.link p = 3 ∨ (s.link p = 1 ∧ s.portCfg p F.PortConfig_AnEnable = 0) →
      l = (losses.map (·.toNat)).take (modeLanes (s.portCfg p F.PortConfig_Mode)) →
      exec (.linkTrainingComplete port losses) s = .next (setLink p 4 (((s.wr O.PortMeasure p F.PortMeasure_InsertionLossCdB
          ((l.zipIdx).foldl (fun a (v, i) => a + v * 2 ^ (112 - 16 * i)) 0)).wr O.PortMeasure p F.PortMeasure_EstimatedLengthCm
          (cableCm l (s.rd O.PortMeasure p F.PortMeasure_BoardLossCdB) (s.rd O.PortMeasure p F.PortMeasure_LossPerMetreCdB) %
            65536)).wr O.PortStatus p F.PortStatus_TrainFail 0)) ∧
      (s.stateFor p (trainingMs (s.portCfg p F.PortConfig_Mode)) = true →
        exec (.trainingTimeout port) s = .next (setLink p 1 (setDetail O.PortEventDetail p 3 (src 7 10)
          (s.wr O.PortStatus p F.PortStatus_TrainFail 1))))) ∧
    (∀ m, m = s.portCfg p F.PortConfig_Mode →
      s.link p = 4 ∨ (s.link p = 1 ∧ s.portCfg p F.PortConfig_AnEnable = 0 ∧ s.portCfg p F.PortConfig_TrainEnable = 0) →
      exec (.portLinkUp port) s = .next (flowCheck p (setLink p 5 (writeLead p m (clearCable p
        ((((s.wr O.PortStatus p F.PortStatus_RunningMode m).wr O.PortStatus p F.PortStatus_FecInUse
          (fecOf m (s.portCfg p F.PortConfig_FecRequest))).wr O.PortStatus p
          F.PortStatus_LaneLock (2 ^ modeLanes m - 1)).wr O.PortStatus p F.PortStatus_StoppedLaneLock 0))))))) ∧
  ((∀ s (port : Fin 128) (lanes : BitVec 8) p m lost t, p = port.val → m = s.portCfg p F.PortConfig_Mode →
    lost = lanes.toNat % 2 ^ modeLanes m → lost ≠ 0 → s.carrying p = true → s.link p = 5 → (s.port p).degrading = none →
    t = s.wr O.PortStatus p F.PortStatus_LaneLock (s.rd O.PortStatus p F.PortStatus_LaneLock &&& (255 - lost)) →
    (∀ h, halfOf (modeLanes m) lost = some h → s.portCfg p F.PortConfig_DegradeEnable = 1 → modeDegraded m ≠ 0 →
      exec (.laneLockLoss port lanes false) s =
        .next (setDetail O.PortEventDetail p 1 (src 7 8) (t.updPort p fun r => { r with degrading := some h }))) ∧
    (halfOf (modeLanes m) lost = none ∨ s.portCfg p F.PortConfig_DegradeEnable = 0 ∨ modeDegraded m = 0 →
      exec (.laneLockLoss port lanes false) s = .next ((setLink p 1 t).updPort p fun r => { r with degrading := none, left := none }))) ∧
  (∀ s (port : Fin 128) (stopped : BitVec 8) p m half lock h, p = port.val → m = s.portCfg p F.PortConfig_Mode →
    s.link p = 5 → (s.port p).degrading = some h → half = modeLanes m / 2 →
    lock = (if h = 0 then (2 ^ half - 1) * 2 ^ half else 2 ^ half - 1) →
    exec (.portDegradeComplete port stopped) s = .next (setLink p 6 (writeLead p (modeDegraded m)
      (((s.wr O.PortStatus p F.PortStatus_RunningMode (modeDegraded m)).wr O.PortStatus p F.PortStatus_LaneLock lock).wr
        O.PortStatus p F.PortStatus_StoppedLaneLock (stopped.toNat &&& (2 ^ modeLanes m - 1 - lock)))))))

/-! ### Longcase -/

/-- R81, R87, R88: at a tick each domain advances by its increment, or from the time a write has set, with the adjustment
written; the counters wrap. The grid advances by the selected domain's increment, steered, while that domain is
qualified; else, in HOLDOVER, by the holdover increment, else by GridFreeIncrement. -/
def Obligations.TicksAdvanceTheCounters : Prop :=
  ∀ s, s.boot.held = false → ∃ t, exec .longcaseTick s = .next t ∧ t.store = s.store ∧ t.pending = s.pending ∧
    t.time.ticks = s.time.ticks + 1 ∧
    (∀ d, (t.dom d).setReq = none ∧ (t.dom d).adjReq = 0 ∧ ((t.dom d).time : Int) =
      ((match (s.dom d).setReq with
        | some v => (v : Int)
        | none => ((s.dom d).time : Int) + 4 * (s.sc (domObj d O.DomainAIncrement) : Int)) + (s.dom d).adjReq) % counterMod) ∧
    (s.qualified s.selected = true → t.time.grid = (s.time.grid + (roundDiv (4 * (s.sc (domObj s.selected O.DomainAIncrement) : Int) *
      (s.time.steerDen + s.time.steerNum)) s.time.steerDen).toNat) % counterMod) ∧
    (s.qualified s.selected = false → t.time.grid = (s.time.grid +
      if s.time.st = .holdover then s.time.holdInc else 4 * s.sc O.GridFreeIncrement) % counterMod)

/-- R88 to R90: each microsecond e is measured, and the steering rate is e / τ, clamped to the slew limit with its sign.
In ACQUIRE an e beyond GridStepThreshold asks for a step, and an e within GridLockThreshold, of a qualified domain,
starts the lock hold. No other state asks for a step or holds. R89 to R92: a step asked for is made once a generation
is free: in ACQUIRE the grid moves by e and a new generation opens, in FREE it moves to the value GridSet gave; in
LOCKED and HOLDOVER the grid never steps. ACQUIRE becomes LOCKED once e has stayed below the threshold for
GridLockHold. -/
def Obligations.GridIsSteeredAndSteps : Prop :=
  (∀ s e den lim, e = s.gridErr → den = s.sc O.GridSteerTimeConstant * 10 ^ 6 * 2 ^ 42 → lim = s.sc O.GridSlewLimit →
    ∃ t, exec .gridSteerUpdate s = .next t ∧ t.time.err = e ∧ t.store = s.store ∧ t.time.grid = s.time.grid ∧
      (e.natAbs * 10 ^ 9 ≤ lim * den → t.time.steerNum = e ∧ t.time.steerDen = den) ∧
      (lim * den < e.natAbs * 10 ^ 9 → t.time.steerDen = 10 ^ 9 ∧ t.time.steerNum = if e < 0 then -(lim : Int) else lim) ∧
      (s.time.st = .acquire → nsUnits (s.sc O.GridStepThreshold) < e.natAbs → t.time.stepReq = some .err) ∧
      (s.time.st = .acquire → s.qualified s.selected = true → e.natAbs < nsUnits (s.sc O.GridLockThreshold) →
        s.time.below = none → t.time.below = some s.time.ticks) ∧
      (s.time.st = .acquire → s.qualified s.selected = false → t.time.below = none) ∧
      (s.time.st ≠ .acquire → t.time.below = none ∧ t.time.stepReq = s.time.stepReq)) ∧
  ((∀ s, s.time.stepReq = some .err → s.gensLive < 63 → s.time.st = .acquire →
    exec .gridStep s = .next (stepGrid s.gridErr s) ∧ (stepGrid s.gridErr s).gen.cur = s.gen.cur + 1 ∧
    ((stepGrid s.gridErr s).time.grid : Int) = (s.time.grid + s.gridErr) % counterMod) ∧
  (∀ s (n : Nat), s.time.stepReq = some (.set n) → s.gensLive < 63 → s.time.st = .free →
    exec .gridStep s = .next (stepGrid ((n : Int) - s.time.grid) s) ∧
    ((stepGrid ((n : Int) - s.time.grid) s).time.grid : Int) = (n : Int) % counterMod) ∧
  (∀ s r t, s.time.st = .locked ∨ s.time.st = .holdover → s.time.stepReq = some r → exec .gridStep s = .next t →
    t.time.grid = s.time.grid) ∧
  (∀ s t0, s.time.st = .acquire → s.time.below = some t0 → s.qualified s.selected = true → t0 + s.sc O.GridLockHold * ticksPerMs ≤ s.time.ticks →
    exec .gridLock s = .next (enterGrid .locked s)))

/-- R85, R92: a qualified domain whose source is lost is no longer qualified: counted, raised, and, if it is the selected
one, the other domain takes over or the grid falls back to FREE or HOLDOVER. R83, R84, R93: a domain on MESH takes the
mean of a millisecond's relay samples with its asymmetry as its offset; while both domains are qualified
DomainDisagreement is B minus A, and beyond its limit bank 1 is told. -/
def Obligations.DomainsAreWatched : Prop :=
  ((∀ s d, s.qualified d = true → lossHolds s.toBlocks d (meshSource s.toBlocks d) = true →
    exec (.domainSourceLoss d) s = .next (loseDomain d s)) ∧
  (∀ s d t, t = raise (match d with | .a => src 1 1 | .b => src 1 2)
      ((s.ws (domObj d O.DomainAQualified) 0).sat32 (domObj d O.DomainASourceLoss) 0 0 1) →
    (d ≠ t.selected → loseDomain d s = t) ∧
    (d = t.selected → t.qualified (otherDom d) = true → t.flag O.GridAutoSwitch 0 0 = true →
      loseDomain d s = raise (src 1 3) (t.ws O.GridSource (match otherDom d with | .a => 0 | .b => 1))) ∧
    (d = t.selected → t.qualified (otherDom d) = false ∨ t.flag O.GridAutoSwitch 0 0 = false →
      (t.time.st = .locked → loseDomain d s = enterGrid .holdover t) ∧
      (t.time.st = .acquire → loseDomain d s = enterGrid .free t)))) ∧
  ((∀ s d v, s.sc (domObj d O.DomainASource) = 2 → 0 < (s.dom d).meshCount →
    v = satDur64 (roundDiv (s.dom d).meshSum ((s.dom d).meshCount * 2 ^ 26) + toSigned 64 (s.sc (domObj d O.DomainAAsymmetry))) →
    exec (.domainOffsetUpdate d) s =
      .next ((s.ws (domObj d O.DomainAOffset) v).updDom d fun r => { r with meshSum := 0, meshCount := 0 })) ∧
  (∀ s n, s.qualified .a = true → s.qualified .b = true → n = (s.time.domB.time : Int) - s.time.domA.time →
    (n.natAbs ≤ nsUnits (s.sc O.DomainDisagreeLimit) →
      exec .domainDisagreementUpdate s = .next (s.ws O.DomainDisagreement (durOfUnits n))) ∧
    (nsUnits (s.sc O.DomainDisagreeLimit) < n.natAbs →
      exec .domainDisagreementUpdate s = .next (raise (src 1 4) (s.ws O.DomainDisagreement (durOfUnits n))))))

/-- R82, R83, R101: a pulse below 10 ns, or an edge that its row does not log, does nothing on TCAP0 to TCAP7. An edge
that its row logs is logged in the row's timescale and raised; within a microsecond of the last one of its input, or
with 4,096 entries unread, it is lost and counted. A rising edge on PPS_IN feeds the domains on PPS, logged or not,
unless it comes within a microsecond. R94, R99, R102: when a running row's instant, placed on 0.25 ns, has come, and
the grid runs or the row does not require it, rows 0 to 7 give their pulse and rows 8 to 11 start their sequence; else
the instant passes with no pulse. PPS_OUT rises at each whole second of its timescale, once, where Table 3-2 lets it. -/
def Obligations.EdgesAndPulses : Prop :=
  ((∀ s (input : Fin 8) rising (phase : Fin 5) width,
    (width < 10 ∨ edgeLogged s.toBlocks input.val rising = false →
      exec (.timeCaptureEdge input rising ⟨phase, width⟩) s = .next s) ∧
    (10 ≤ width → s.flag O.TimeCaptureConfig input.val F.TimeCaptureConfig_Enable = true →
      (if rising then s.rd O.TimeCaptureConfig input.val F.TimeCaptureConfig_Edge % 2 = 1
        else s.rd O.TimeCaptureConfig input.val F.TimeCaptureConfig_Edge / 2 = 1) →
      (edgeSoon s.time input.val = false → s.time.capSeq < s.time.capRead + 4096 →
        exec (.timeCaptureEdge input rising ⟨phase, width⟩) s = .next (raise (src 1 7) { s with time := { s.time with
          capLog := (s.time.capSeq, capEntry s.toBlocks input.val rising phase.val) :: s.time.capLog.take 4095
          capSeq := s.time.capSeq + 1
          capLast := (input.val, s.time.ticks) :: s.time.capLast.filter fun e => e.1 != input.val } })) ∧
      (edgeSoon s.time input.val = false → s.time.capRead + 4096 ≤ s.time.capSeq →
        exec (.timeCaptureEdge input rising ⟨phase, width⟩) s =
          .next (raise (src 1 6) ((noteEdge input.val s).sat32 O.TimeCaptureOverrun 0 0 1))) ∧
      (∀ e, (s.time.capLast.find? fun e => e.1 == input.val) = some e → s.time.ticks < e.2 + ticksPerUs →
        exec (.timeCaptureEdge input rising ⟨phase, width⟩) s = .next (raise (src 1 6) (s.sat32 O.TimeCaptureOverrun 0 0 1))))) ∧
  (∀ s rising (phase : Fin 5) width u, u = (if rising then ppsDomain .b phase.val (ppsDomain .a phase.val (noteEdge 8 s))
      else noteEdge 8 s) →
    (width < 10 ∨ (rising = false ∧ edgeLogged s.toBlocks 8 false = false) →
      exec (.ppsInEdge rising ⟨phase, width⟩) s = .next s) ∧
    (10 ≤ width → rising = true ∨ edgeLogged s.toBlocks 8 rising = true →
      (edgeSoon s.time 8 = true → exec (.ppsInEdge rising ⟨phase, width⟩) s =
        .next (raise (src 1 6) (s.sat32 O.TimeCaptureOverrun 0 0 1))) ∧
      (edgeSoon s.time 8 = false → edgeLogged s.toBlocks 8 rising = true →
        exec (.ppsInEdge rising ⟨phase, width⟩) s = .next (logEdge 8 rising phase.val u)) ∧
      (edgeSoon s.time 8 = false → edgeLogged s.toBlocks 8 rising = false →
        exec (.ppsInEdge rising ⟨phase, width⟩) s = .next u)))) ∧
  ((∀ s (row : Fin 12) t, (s.time.trig.find? fun t => t.row == row.val) = some t →
    (s.gridQ < edgeAt t.next → exec (.triggerPulse row) s = .next s) ∧
    (edgeAt t.next ≤ s.gridQ → (s.gridRuns = true ∨ s.rd O.TimeTrigger row.val F.TimeTrigger_RequireLock = 0) →
      (row.val < 8 → exec (.triggerPulse row) s = .next ((triggerAdvance t true s).emit (.pulse row.val (edgeAt t.next)
        (edgeAt (t.next + s.rd O.TimeTrigger row.val F.TimeTrigger_Width) - edgeAt t.next)
        (s.rd O.TimeTrigger row.val F.TimeTrigger_Polarity == 0)))) ∧
      (8 ≤ row.val → exec (.triggerPulse row) s =
        .next (sideTrigger (row.val - 8) (edgeAt t.next) (triggerAdvance t true s)))) ∧
    (edgeAt t.next ≤ s.gridQ → s.gridRuns = false → s.rd O.TimeTrigger row.val F.TimeTrigger_RequireLock ≠ 0 →
      exec (.triggerPulse row) s = .next (triggerAdvance t false s))) ∧
  (∀ s (row : Fin 12), (s.time.trig.find? fun t => t.row == row.val) = none → exec (.triggerPulse row) s = .next s) ∧
  (∀ s u adv sec?, scaleNow s.toBlocks (s.rd O.PpsOutConfig 0 F.PpsOutConfig_Timescale) = (u, adv) →
    sec? = wholeSecond u adv (toSigned 64 (s.sc O.PpsOutOffset)) →
    (∀ sec, sec? = some sec → s.flag O.PpsOutConfig 0 F.PpsOutConfig_Enable = true →
      s.gridRuns = true ∨ s.flag O.PpsOutConfig 0 F.PpsOutConfig_FreeRunEnable = true → 0 < s.time.ticks →
      s.time.ppsLast ≠ some s.time.ticks → exec .ppsOutPulse s = .next (({ s with time := { s.time with
        ppsLast := some s.time.ticks } }).emit (.pps sec (s.rd O.PpsOutConfig 0 F.PpsOutConfig_Width)))) ∧
    (sec? = none ∨ ppsLit s.toBlocks = false ∨ s.time.ppsLast = some s.time.ticks → exec .ppsOutPulse s = .next s)))

/-! ### Rack -/

/-- R258, R264: a frame begins once, on every group that runs, after the relays have lost what no group can carry; a
group's frame is its header cell and, transmit-active, a cell for each slot of its width. The frame that announces a
step keeps the timing before it, and the next begins no earlier than 125 ns after its end, on the new timing. A cycle
begins once; a pending rollback is made at it. -/
def Obligations.FramesAndCyclesBegin : Prop :=
  (∀ s q, s.mesh.steps = [] → q = s.framingQ [] →
    (s.mesh.lastFrame = some (q / frameQ) → exec .rackFrameStart s = .next s) ∧
    (s.mesh.lastFrame ≠ some (q / frameQ) → exec .rackFrameStart s = .next (rackFrame q s))) ∧
  (∀ s d l q, s.mesh.steps = d :: l → s.mesh.stepEnd = none → q = s.framingQ (d :: l) → s.mesh.lastFrame ≠ some (q / frameQ) →
    exec .rackFrameStart s = .next (rackFrame q (s.upMesh fun m => { m with stepEnd := some (s.quarters + frameQ - q % frameQ) }))) ∧
  (∀ s d l e q t, s.mesh.steps = d :: l → s.mesh.stepEnd = some e → q = s.framingQ l →
    t = (s.upMesh fun m => { m with steps := l, stepEnd := none }) →
    (s.quarters < e + frameQ + q % frameQ → exec .rackFrameStart s = .next s) ∧
    (e + frameQ + q % frameQ ≤ s.quarters →
      (l = [] → exec .rackFrameStart s = .next (rackFrame q t)) ∧
      (l ≠ [] → exec .rackFrameStart s = .next (stepFrame q (markStep t))))) ∧
  (∀ q s a left u, a = (List.range 16).foldl (fun (a : State) d => purgeRelay d a)
      (settleMoving (followSet (s.upMesh fun m => { m with lastFrame := some (q / frameQ) }))) →
    rgaFrame (q / frameQ % 80) a = (left, u) →
    rackFrame q s = noteRelays (((List.range 16).filter s.groupRuns).foldl (fun a g => sendFrame q g left a) u)) ∧
  (∀ q g left s h t, h = headerOf s.toBlocks g q (s.group g).step →
    t = (s.emit (.header g (headerOnWire (headerBytes h)))).updGroup g (fun r => { r with step := false, mgmt := r.mgmt.drop 1 }) →
    (t.groupTx g = false → sendFrame q g left s = t) ∧
    (t.groupTx g = true → sendFrame q g left s = (sendSlots (q / frameQ % 80) g
      (List.range (slotsOf (popCount 12 (s.group g).txLanes))) (Tbl.get 0 left g, t)).2)) ∧
  (∀ s, s.mesh.lastCycle ≠ some (s.gridQ / cycleQ) →
    (s.fw.rollback = none → exec .rackCycleStart s = .next (rackCycleStart s)) ∧
    (∀ r, s.fw.rollback = some r → exec .rackCycleStart s = .next (rackCycleStart (rollbackNow r s))))

/-- R263, R293, Table 11-5: what a header cell's codewords corrected is counted. A group in HUNT that finds a good header
cell goes to PRESYNC; there each cell that follows its last is one more until MeshSyncConfirm, which makes SYNC and
ends LOF, and any other cell goes back to HUNT. In SYNC a good cell is followed; MeshSyncLoss bad ones in a row lose
the group. In PRESYNC and SYNC a bad HeaderCrc is counted. R261, R263, R266: a data cell that a group in SYNC without
Mismatch receives is counted; one that fails its CRC is counted, raises CCE and is gone, any other is placed. Without
a header cell for 500 ns after the frame of the Step (125 ns) the group searches again (R264). -/
def Obligations.GroupsReceive : Prop :=
  (∀ s (g : Fin 16) bytes (lanes : BitVec 12) (phase : Fin 5) fec u r, s.groupRuns g.val = true →
    u = fecCounted g.val fec (s.updGroup g.val fun r => { r with lanes := lanes.toNat }) → r = u.group g.val →
    (∀ h stamp, readHeader (headerOnWire bytes) = some h → stamp = stampOf u.toBlocks 0 phase.val →
      (r.align = 0 → exec (.headerCellReceive g ⟨bytes, fec⟩ lanes phase) s = .next (u.updGroup g.val fun r =>
        { r with align := 1, good := 1, bad := 0, hdr := some h, rxStamp := stamp })) ∧
      (∀ l, r.align = 1 → r.hdr = some l →
        (followsHdr l h = false → exec (.headerCellReceive g ⟨bytes, fec⟩ lanes phase) s = .next (toHunt g.val u)) ∧
        (followsHdr l h = true → r.good + 1 < u.sc O.MeshSyncConfirm → exec (.headerCellReceive g ⟨bytes, fec⟩ lanes phase) s =
          .next (u.updGroup g.val fun r => { r with good := r.good + 1, hdr := some h, rxStamp := stamp })) ∧
        (followsHdr l h = true → u.sc O.MeshSyncConfirm ≤ r.good + 1 → exec (.headerCellReceive g ⟨bytes, fec⟩ lanes phase) s =
          .next (headerGood g.val phase.val h ((clearDefect g.val 3 u).updGroup g.val fun r =>
            { r with align := 2, stepAt := none })))) ∧
      (r.align = 2 → exec (.headerCellReceive g ⟨bytes, fec⟩ lanes phase) s = .next (headerGood g.val phase.val h u))) ∧
    (readHeader (headerOnWire bytes) = none →
      (r.align = 0 → exec (.headerCellReceive g ⟨bytes, fec⟩ lanes phase) s = .next u) ∧
      (r.align = 1 → r.stepAt = none → alignsAt bytes = true → exec (.headerCellReceive g ⟨bytes, fec⟩ lanes phase) s =
        .next (toHunt g.val (u.add64 O.MeshGroupCounters g.val F.MeshGroupCounters_HeaderCrcErrors 1))) ∧
      (r.align = 2 → r.stepAt = none → alignsAt bytes = true → ∀ t, t = (u.add64 O.MeshGroupCounters g.val
          F.MeshGroupCounters_HeaderCrcErrors 1).updGroup g.val (fun r => { r with bad := r.bad + 1, locGood := 0 }) →
        (r.bad + 1 < t.sc O.MeshSyncLoss → exec (.headerCellReceive g ⟨bytes, fec⟩ lanes phase) s = .next t) ∧
        (t.sc O.MeshSyncLoss ≤ r.bad + 1 → exec (.headerCellReceive g ⟨bytes, fec⟩ lanes phase) s = .next (toHunt g.val t))))) ∧
  ((∀ s (g : Fin 16) (k : Fin 128) bytes t, s.groupRuns g.val = true → (s.group g.val).align = 2 → (s.group g.val).mismatch = false →
    t = s.add64 O.MeshGroupCounters g.val F.MeshGroupCounters_CellsReceived 1 →
    (readCell (slotOnWire k.val bytes) = none → exec (.dataCellReceive g k bytes) s =
      .next (raiseDefect g.val 8 ((t.updGroup g.val fun r => { r with crcAt := some t.window }).add64 O.MeshGroupCounters g.val
        F.MeshGroupCounters_CellCrcErrors 1))) ∧
    (∀ c, readCell (slotOnWire k.val bytes) = some c → exec (.dataCellReceive g k bytes) s = .next (noteRelays (placeCell c t)))) ∧
  (∀ s (g : Fin 16) t0, (s.group g.val).stepAt = some t0 → t0 + nsTicks 625 ≤ s.time.ticks →
    exec (.meshStepSearchTimeout g) s = .next (toHunt g.val s)))

/-- R18, R275 to R278: a builder with records or cells that got none for MeshPackTimeout closes what it has as a short
group and releases it, unless it holds four closed groups against an XOFF; with a Dovetail link up the builders
release what they may, and of the spreading queues the highest class whose first group fits its dispatch queues sends
it there. With both links down nothing goes. R281, R283: the awaited group of a source and class that has not
completed within MeshReseqTimeout of its first cell, or of a later group's, is lost, counted and raised, and the next
group is awaited (stated for a group of which nothing has come). A held stream whose cell has waited 425 ns skips the
numbers missing before it, each counted and raised. -/
def Obligations.CellsAreSpreadAndGivenUp : Prop :=
  ((∀ s (d : Fin 16) (c : Fin 8) x held y, x = s.builder d.val c.val → held = s.holdsGroups d.val c.val →
    y = Builder.cut s.card d.val c.val (groupCells s.toBlocks d.val) true held x.fuel x →
    x.recs ≠ [] ∨ x.cells ≠ [] → held = false ∨ x.closed.length < 4 → x.lastAdd + nsTicks (s.sc O.MeshPackTimeout) ≤ s.time.ticks →
    exec (.meshPackTimeout d c) s =
      .next (release d.val c.val (s.setBuilder d.val c.val (if held = true ∧ 4 ≤ y.closed.length then y else y.close)))) ∧
  (∀ s, s.sc O.DovetailLinkState = 0 → exec .groupDispatch s = .next s) ∧
  (∀ s t, s.sc O.DovetailLinkState ≠ 0 →
    t = (s.mesh.builders.map (·.1)).foldl (fun (a : State) k => release (k / 8) (k % 8) a) s →
    ((∀ c < 8, dispatchHead c t = none) → exec .groupDispatch s = .next t) ∧
    (∀ c u, c < 8 → (∀ k, c < k → k < 8 → dispatchHead k t = none) → dispatchHead c t = some u →
      exec .groupDispatch s = .next u))) ∧
  ((∀ s (source : Fin 16) (cls : Fin 8) key q n since t, key = source.val * 8 + cls.val → q = s.reseqOf key → q.next = some n →
    (q.groups.map (·.since)).min? = some since →
    since + nsTicks (max (s.sc O.MeshReseqTimeout) (s.sc O.MeshReseqTimeoutMin)) ≤ s.time.ticks →
    t = raise (src 6 18) (s.add64 O.MeshReseqCounters source.val F.MeshReseqCounters_GroupsLost 1) →
    (∀ g, q.groups.find? (fun g => g.seq == n) = none → gapStream source.val none q.stream t = g →
      exec (.reseqTimeout source cls) s = .next (deliverReady key ((q.groups.filter fun y => y.seq != n).length + 1)
        (g.2.setReseq key { next := some ((n + 1) % 2 ^ 24), groups := q.groups.filter fun y => y.seq != n
                            lost := n :: q.lost.filter fun e => decide ((n + 2 ^ 24 - e) % 2 ^ 24 < 2 ^ 23)
                            owed := q.owed, stream := g.1 })))) ∧
  (∀ s (source : Fin 16) (cls : Fin 8) key q n k gone g, key = source.val * 8 + cls.val → q = s.heldRx key → q.next = some n →
    ((q.wait.filter fun e => decide (e.2 + nsTicks 425 ≤ s.time.ticks)).map fun e => (e.1.seq + 2 ^ 24 - n) % 2 ^ 24).min? =
      some k → gone = (seqSpan n ((n + k) % 2 ^ 24)).filter (fun e => !q.wait.any fun x => x.1.seq == e) →
    gapStream source.val (some (256 * gone.length)) q.stream s = g →
    exec (.heldSequenceSkip source cls) s = .next (deliverHeld key (q.wait.length + 1)
      ((raiseN gone.length (src 6 25) (g.2.add64 O.MeshHeldCounters source.val F.MeshHeldCounters_Skipped gone.length)).setHeldRx
        key { q with next := some ((n + k) % 2 ^ 24), skipped := gone ++ q.skipped, stream := g.1 }))))

/-- R266: the condition of a defect, once met on a group that runs, sets its flag and its event, unless a defect of higher
precedence hides it; its end clears it. A group that is no longer active has left its join. R272, R285, R291: at the
start of the cycle before the swap the card swaps only if its grid runs and every other card of ActiveCards announces
the same page and swap and agrees; else the swap is refused and bank 6 is told. At the swap cycle the pages exchange
roles, and the streams whose service moves are drained first; the first page of a set with other cards completes the
card's join. R274: with MeshAutoPage 1, LOCKED and ActiveCards unchanged for 5 ms, the default page of the set becomes
the standby page, named 0x80000000 plus the set, and its swap is announced. R291, R292: an active group whose peer has
announced what it should for MeshJoinHold has joined. A leaving card whose relay queues have been empty for 1 ms shows
MeshLeaveReady and tells bank 6. -/
def Obligations.MeshIsManaged : Prop :=
  ((∀ s (g : Fin 16) (d : Fin 8), s.groupOn g.val = true → defectSeen s.toBlocks g.val (d.val + 1) ≠ some false →
    exec (.meshGroupDefectRaise g d) s = .next (dropJoin g.val (raiseDefect g.val (d.val + 1) s))) ∧
  (∀ s (g : Fin 16) (d : Fin 8), s.groupOn g.val = true → (d = 1 → s.groupHeld g.val = false) →
    (d = 3 → 16 ≤ (s.group g.val).locGood) → (d = 4 → 16 ≤ (s.group g.val).pdiGood) →
    (d = 6 → 3 ≤ (s.degNow g.val).within) → (d = 7 → s.crcClean g.val = true) →
    (d ≠ 1 → d ≠ 3 → d ≠ 4 → d ≠ 6 → d ≠ 7 → defectSeen s.toBlocks g.val (d.val + 1) ≠ some true) →
    exec (.meshGroupDefectClear g d) s = .next (clearDefect g.val (d.val + 1) s)) ∧
  (∀ s g d, (s.group g).defects.testBit d = false → (s.group g).defect = 0 ∨ d < (s.group g).defect →
    raiseDefect g d s = setDetail O.GroupEventDetail g (d - 1) (src 6 g)
      (s.updGroup g fun r => { r with defects := r.defects ||| 2 ^ d }))) ∧
  ((∀ s c, s.mesh.swap = some (c, false) → (s.cycle + 1) % 2 ^ 32 = c →
    (s.gridRuns = true → swapAgreed s.toBlocks c = true →
      exec .pageSwapDecide s = .next (s.upMesh fun m => { m with swap := some (c, true) })) ∧
    (s.gridRuns = true → swapAgreed s.toBlocks c = false → exec .pageSwapDecide s =
      .next (raise (src 6 17) (s.upMesh fun m => { m with swap := none, lastResult := 2 }))) ∧
    (s.gridRuns = false → exec .pageSwapDecide s =
      .next (raise (src 6 17) (s.upMesh fun m => { m with swap := none, lastResult := 3 })))) ∧
  (∀ s c moved joins, s.mesh.swap = some (c, true) → s.cycle = c → moved = movedPairs s.card s.mesh.active s.mesh.standby →
    joins = (othersIn s.card s.activeSet && !s.mesh.joined) →
    exec .pageSwap s = .next (raiseIf joins (src 6 21) (s.upMesh fun m =>
      { m with active := m.standby, standby := m.active, swap := none, lastResult := 1, pageCards := s.activeSet
               joined := m.joined || joins
               heldTx := moved.foldl (fun t e => if e.2 then t else
                 Tbl.put HeldTx.start e.1 ((Tbl.get HeldTx.start t e.1).drain (e.1 / 8)) t) m.heldTx
               moving := (m.moving.filter fun e => !moved.any fun x => x.1 == e.1) ++ moved.map fun x => (x.1, x.2, none) })))) ∧
  (∀ s set, set = s.mesh.activeCards → s.flag O.MeshAutoPage 0 0 = true → s.mesh.mode ≠ 0 → s.time.st = .locked →
    s.mesh.planDue = true → s.activeSet = set → s.mesh.activeSince + 5 * ticksPerMs ≤ s.time.ticks →
    exec .autoPagePlan s = .next (s.upMesh fun m => { m with
      standby := ⟨2 ^ 31 + set, if m.mode = 2 then 1 else 2, []⟩, planned := set, planDue := false
      swap := some (autoSwapCycle s.cycle, false) })) ∧
  ((∀ s (g : Fin 16) t0, (s.group g.val).okSince = some t0 → s.groupActive g.val = true → (s.group g.val).joined = false →
    t0 + s.sc O.MeshJoinHold * ticksPerUs ≤ s.time.ticks →
    exec (.meshJoin g) s = .next (s.updGroup g.val fun r => { r with joined := true })) ∧
  (∀ s t0, s.mesh.relay = [] → s.mesh.heldRelay = [] → s.mesh.relayEmptySince = some t0 → s.mesh.leaving = true →
    s.sc O.MeshLeaveReady = 0 → t0 + ticksPerMs ≤ s.time.ticks →
    exec .meshLeaveReady s = .next (raise (src 6 26) (s.ws O.MeshLeaveReady 1))))

/-! ### The HBM controller -/

/-- R321, R322: the sampled temperature raises the refresh rate at once, lowers it one step only after 1 s at 2 °C below
the lower threshold, and above 105 °C raises the over-temperature source. An interval boundary applies rate and mode
and counts the refreshes. R315, R319, R320, R324, R325, R329, R330: of the waiting requests the scrubber, priority 6,
rises to 2 while it is behind its period, and is served before none of lower number; in its turn it handles each
erroneous word of its unit and goes on, and a whole pass is counted, the next beginning a period after it began. A
change of frequency ends in its new frequency and set with its count, its event and one refresh of every bank,
SpillPause clear at HIGH; a due pseudo-channel is retrained and counted; a pattern operation leaves its comparison and
is done. -/
def Obligations.HbmUpkeepRuns : Prop :=
  ((∀ s (celsius : BitVec 8), celsius.toNat ≤ 105 →
    (s.hbm.rateNext < refreshRate celsius.toNat → exec (.hbmTemperatureSample celsius) s =
      .next ((s.ws O.HbmTemperature celsius.toNat).upHbm fun h =>
        { h with rateNext := refreshRate celsius.toNat, coolSince := none })) ∧
    (refreshRate celsius.toNat ≤ s.hbm.rateNext → 1 < s.hbm.rateNext → celsius.toNat + 2 ≤ lowerThreshold s.hbm.rateNext →
      (∀ t0, s.hbm.coolSince = some t0 → t0 + ticksPerS ≤ s.time.ticks → exec (.hbmTemperatureSample celsius) s =
        .next ((s.ws O.HbmTemperature celsius.toNat).upHbm fun h => { h with rateNext := h.rateNext / 2, coolSince := none })) ∧
      (s.hbm.coolSince = none → exec (.hbmTemperatureSample celsius) s =
        .next ((s.ws O.HbmTemperature celsius.toNat).upHbm fun h => { h with coolSince := some s.time.ticks })))) ∧
  (∀ s (celsius : BitVec 8), 105 < celsius.toNat → s.hbm.rateNext = 4 → refreshRate celsius.toNat = 4 →
    exec (.hbmTemperatureSample celsius) s = .next (raise (src 8 8) ((s.ws O.HbmTemperature celsius.toNat).upHbm fun h =>
      { h with coolSince := none }))) ∧
  (∀ s (pc : Fin 16), exec (.hbmRefresh pc) s = .next ((s.ws O.HbmRefreshRate s.hbm.rateNext).upHbm fun h =>
    { h with
      modeNow := s.sc O.HbmRefreshMode
      refreshes := Tbl.put 0 pc.val (Tbl.get 0 h.refreshes pc.val + if s.sc O.HbmRefreshMode = 0 then 1 else 32) h.refreshes }))) ∧
  ((∀ (b : Blocks) (waiting : List (Fin 8)), hbmPriority b 6 = (if scrubBehind b then 2 else 6) ∧
    (hbmServes b 6 waiting = true ↔ ∀ w ∈ waiting, hbmPriority b 6 ≤ hbmPriority b w.val)) ∧
  (∀ s waiting words u, s.flag O.HbmScrubEnable 0 0 = true → s.hbmState = 3 ∨ s.hbmState = 5 → s.hbm.change = none →
    hbmServes s.toBlocks 6 waiting = true → s.hbm.scrubStart ≤ s.time.ticks →
    u = words.foldl (fun a w => hbmWord 6 s.hbm.scrubUnit w a) s →
    (s.hbm.scrubUnit + 1 < 2 ^ 29 → exec (.hbmScrubStep ⟨waiting, words⟩) s =
      .next (u.upHbm fun h => { h with scrubUnit := s.hbm.scrubUnit + 1 })) ∧
    (2 ^ 29 ≤ s.hbm.scrubUnit + 1 → exec (.hbmScrubStep ⟨waiting, words⟩) s = .next ((u.sat32 O.HbmScrubPass 0 0 1).upHbm fun h =>
      { h with scrubUnit := 0
               scrubStart := max (h.scrubStart + s.sc O.HbmScrubPeriod * ticksPerS) s.time.ticks }))) ∧
  (∀ s waiting words, hbmServes s.toBlocks 6 waiting = false → exec (.hbmScrubStep ⟨waiting, words⟩) s = .next s) ∧
  (∀ s t0 v t, s.hbm.change = some (t0, v) → t = raise (src 8 9) (((freqResult 1 (((s.wr O.HbmFreqStatus 0 F.HbmFreqStatus_Current
      v).wr O.HbmFreqStatus 0 F.HbmFreqStatus_ActiveSet (1 - s.rd O.HbmFreqStatus 0 F.HbmFreqStatus_ActiveSet)).wr O.HbmFreqStatus 0
      F.HbmFreqStatus_Changing 0)).wr O.HbmFreqStatus 0 F.HbmFreqStatus_LastDurationNs ((s.time.ticks - t0) * 5 / 4 %
      2 ^ 32)).sat32 O.HbmFreqChangeCount 0 0 1) →
    ∀ f, f = (fun h : HbmRT => (List.range 16).foldl (fun a pc =>
        { a with refreshes := Tbl.put 0 pc (Tbl.get 0 a.refreshes pc + 32) a.refreshes }) { h with change := none }) →
    (v = 0 → exec .hbmFreqChange s = .next (freqAgain ((t.ws O.SpillPause 0).upHbm f))) ∧
    (v ≠ 0 → exec .hbmFreqChange s = .next (freqAgain (t.upHbm f)))) ∧
  (∀ s (pc : Fin 16) moves u far, s.hbmState = 3 → s.hbm.change = none →
    Tbl.get 0 s.hbm.retrained pc.val + s.sc O.HbmRetrainPeriod * ticksPerMs ≤ s.time.ticks →
    (List.range 72).foldl (retrainBit pc.val moves) ((s.add64 O.HbmRetrainCount 0 0 1).upHbm fun h =>
      { h with retrained := Tbl.put 0 pc.val s.time.ticks h.retrained }, false) = (u, far) →
    exec (.hbmRetrain pc false moves) s = .next (raiseIf far (src 8 11) u)) ∧
  (∀ s op start (mask : BitVec 72) (count : BitVec 32), s.hbm.op = some (op, start) →
    exec (.hbmPatternDone mask count) s = .next ((((s.wr O.HbmCompare 0 F.HbmCompare_ErrorMask (if op = 0 then 0 else mask.toNat)).wr
      O.HbmCompare 0 F.HbmCompare_ErrorCount (if op = 0 then 0 else count.toNat)).wr O.HbmCompare 0 F.HbmCompare_Done 1).upHbm
        fun h => { h with op := none })))

/-- R326 to R328: a training step that passed leads to the next, and the last at HIGH to the first at LOW; training that
passes at both frequencies leaves the trained taps of both sets, and bring-up wipes. A step that fails is tried twice
more; then it leaves its step, pseudo-channel and bit and tells bank 8. A verified wipe makes the stack READY with
every byte zero, and bring-up goes on; one that fails holds it. -/
def Obligations.HbmIsTrainedAndWiped : Prop :=
  (∀ s k t, s.hbmState = 1 → k = s.rd O.HbmTrainStatus 0 F.HbmTrainStatus_Step → t = s.upHbm (fun h => { h with trainTries := 0 }) →
    (k < 8 → exec (.hbmTrain .stepped) s = .next (t.wr O.HbmTrainStatus 0 F.HbmTrainStatus_Step (k + 1))) ∧
    (8 ≤ k → s.hbm.trainLow = false → exec (.hbmTrain .stepped) s =
      .next ((t.upHbm fun h => { h with trainLow := true }).wr O.HbmTrainStatus 0 F.HbmTrainStatus_Step 1))) ∧
  (∀ s high low sHigh sLow taps, s.hbmState = 1 → s.boot.phase = 3 → s.hbm.trainLow = true →
    s.rd O.HbmTrainStatus 0 F.HbmTrainStatus_Step = 8 → trainFault high low sHigh sLow = none →
    taps = trainedTaps 1 low sLow (trainedTaps 0 high sHigh []) →
    exec (.hbmTrain (.passed high low sHigh sLow)) s = .next (enterPhase 4 ((loadSet 1 0 (loadSet 0 0 (setHbmState 2 (s.upHbm fun h =>
      { h with trained := taps, initial := taps, scrubStart := s.time.ticks })))).wr O.HbmTrainStatus 0
        F.HbmTrainStatus_Step 0))) ∧
  (∀ s high low sHigh sLow step j, s.hbmState = 1 → s.hbm.trainLow = true → s.rd O.HbmTrainStatus 0 F.HbmTrainStatus_Step = 8 →
    trainFault high low sHigh sLow = some (step, j) →
    exec (.hbmTrain (.passed high low sHigh sLow)) s = .next (trainFailed step (j / 72) (some (j % 72)) s)) ∧
  (∀ s (step : Fin 9) (pc : Fin 16) bit_ t, s.hbmState = 1 → s.rd O.HbmTrainStatus 0 F.HbmTrainStatus_Step = step.val →
    t = s.wr O.HbmTrainStatus 0 F.HbmTrainStatus_Step step.val →
    (s.hbm.trainTries < 2 → exec (.hbmTrain (.failed step pc bit_)) s =
      .next (t.upHbm fun h => { h with trainTries := h.trainTries + 1 })) ∧
    (2 ≤ s.hbm.trainTries → exec (.hbmTrain (.failed step pc bit_)) s = .next (enterHold 1 (raise (src 8 10)
      (setHbmState 4 ((t.wr O.HbmTrainStatus 0 F.HbmTrainStatus_PseudoChannel pc.val).wr O.HbmTrainStatus 0
        F.HbmTrainStatus_Bit ((bit_.map (·.val)).getD 127))))))) ∧
  (∀ s u, s.hbmState = 2 → u = s.wr O.WipeStatus 0 F.WipeStatus_DurationUs
      ((s.time.ticks - s.hbm.scrubStart) / ticksPerUs % 2 ^ 32) →
    exec (.hbmWipe false) s = .next (enterHold 3 (wipeFailed 3 u)) ∧
    (s.boot.phase = 4 → exec (.hbmWipe true) s = .next (enterPhase 5 (((((setHbmState 3 (u.wr O.HbmTrainStatus 0
        F.HbmTrainStatus_TrainMs ((s.time.ticks - s.hbm.trainStart) / ticksPerMs % 2 ^ 32))).wr O.WipeStatus 0
        F.WipeStatus_HbmDone 1).upTel fun t => { t with region := [] }).upHost fun h => { h with staging := [] }).upHbm fun h =>
          { h with scrubUnit := 0, scrubStart := s.time.ticks
                   retrained := (List.range 16).foldl (fun a k => Tbl.put 0 k s.time.ticks a) h.retrained }))))

/-! ### The host, telemetry and the life cycle -/

/-- R332, R335 to R337: the link shows the speed and width it trained at; Bus Master Enable reads as the host set it, and
where it is set what waited for it goes out (held messages by the model's choice, log 180); a reset of the link loses
what the host owns and counts the crossing, a link that goes down also the link; a read that fails is answered as its
reader's rule says. R338, R339, R347: a doorbell moves the Producer of a ring that is ready; one that moves it
backwards, or further ahead of Consumer than the ring is long, puts the ring in ERROR and is counted, as is one to a
disabled ring. With bus mastering a ring signals once HoldoffUs have passed since its oldest completion not yet
signalled. -/
def Obligations.PcieAndRingEvents : Prop :=
  ((∀ s (speed : Fin 5) (width : Fin 4), exec (.pcieLinkUp speed width) s = .next ((s.wr O.PcieLinkStatus 0 F.PcieLinkStatus_Speed
    (speed.val + 1)).wr O.PcieLinkStatus 0 F.PcieLinkStatus_Width (2 ^ width.val))) ∧
  (∀ s, exec (.busMasterEnable false) s = .next (s.wr O.PcieLinkStatus 0 F.PcieLinkStatus_BusMasterEnable 0)) ∧
  (∀ s t u, t = s.wr O.PcieLinkStatus 0 F.PcieLinkStatus_BusMasterEnable 1 →
    u = s.host.msixHeld.foldl (fun a v => sendMsix v a) (t.upHost fun h => { h with msixHeld := [] }) →
    exec (.busMasterEnable true) s =
      .next (u.host.rings.foldl (fun a e => flushComps e.1 ((a.ring e.1).comps.length) a) u)) ∧
  (∀ s (lost : BitVec 16) t, t = crossingLoss 147 lost.toNat s →
    exec (.pcieLinkReset .functionLevel lost) s = .next (raise (src 9 4) (hostGone (t.add64 O.PcieErrorCounters 0
      F.PcieErrorCounters_FunctionResets 1))) ∧
    exec (.pcieLinkReset .hot lost) s = .next (hostGone t) ∧ exec (.pcieLinkReset .down lost) s = .next (linkGone t)) ∧
  (∀ s who, exec (.pcieCompletionTimeout who) s = .next (readFailed who .noResponse s) ∧
    exec (.pcieHostError who) s = .next (readFailed who .hostError s))) ∧
  ((∀ s (r : Fin 8192) (value : BitVec 32) x, x = s.ring r.val →
    (x.st = 0 → exec (.ringDoorbell r value) s = .next (s.add64 O.DoorbellErrors 0 0 1)) ∧
    (x.st = 1 → (value.toNat + 2 ^ 32 - x.prod) % 2 ^ 32 < 2 ^ 31 → (value.toNat + 2 ^ 32 - x.cons) % 2 ^ 32 ≤
      ringSize s.toBlocks r.val → exec (.ringDoorbell r value) s = .next (s.updRing r.val fun x => { x with prod := value.toNat })) ∧
    (x.st = 1 → 2 ^ 31 ≤ (value.toNat + 2 ^ 32 - x.prod) % 2 ^ 32 ∨ ringSize s.toBlocks r.val <
      (value.toNat + 2 ^ 32 - x.cons) % 2 ^ 32 →
      exec (.ringDoorbell r value) s = .next (ringError r.val (s.add64 O.DoorbellErrors 0 0 1)))) ∧
  (∀ s (r : Fin 8192) t0, (s.ring r.val).oldest = some t0 → (s.ring r.val).st ≠ 0 →
    s.busMaster = true → t0 + ringField s.toBlocks r.val F.PuntRing_HoldoffUs F.InjectRing_HoldoffUs * ticksPerUs ≤ s.time.ticks →
    exec (.ringInterruptHoldoff r) s = .next (ringSignal r.val s)))

/-- R324, R341, R343 to R345: a punted packet gets a Shelf buffer, or, Shelf refusing, is lost and counted. With bus
mastering and traffic and no change of the HBM's frequency, the first packet for a punt ring is written into the
buffers its next posted descriptors name. Of the inject rings the one whose turn it is gives a packet: it enters as
the ring and its first descriptor say, and completes, at once or with its departure stamp; a defective list or no
Shelf buffer completes it so. -/
def Obligations.RingsMovePackets : Prop :=
  (∀ s (row : Fin 4096) bufs posted p rest, (s.ring row.val).st = 1 → s.busMaster = true → s.traffic = true →
    s.hbm.change = none → posted = (bufs.take (s.ring row.val).posted).map (fun e => (e.1.toNat, e.2.toNat)) → posted ≠ [] →
    takePunt row.val s.host.punts = some (p, rest) →
    exec (.puntRingWrite row bufs) s =
      .next (puntWritten row.val p.pkt posted p.buf (s.upHost fun h => { h with punts := rest }))) ∧
  (∀ p s row, s.puntRingOf p.hdr.destQueue = some row →
    (∀ u, shelfAlloc (0x1000 + row) (max 1 p.data.length) s = (none, u) →
      stagePunt p s = noteDiscard p (u.add64 O.RingCounters row F.RingCounters_NoShelf 1)) ∧
    (∀ buf u, shelfAlloc (0x1000 + row) (max 1 p.data.length) s = (some buf, u) →
      stagePunt p s = u.upHost fun h => { h with punts := h.punts ++ [⟨p, row, buf⟩] })) ∧
  (∀ s offers o d total t frame, s.busMaster = true → s.traffic = true → s.hbm.change = none → pickOffer s.toBlocks offers = some o →
    d = o.descs.map (·.toNat) → total = d.foldl (fun a x => a + injLen x) 0 →
    t = s.upHost (fun x => { x with served := Tbl.put 4095 (s.rd O.InjectRing o.row.val F.InjectRing_Priority) o.row.val x.served }) →
    frame = ((o.data ++ List.replicate (total - o.data.length) 0).take total) ++
      List.replicate (60 - ((o.data ++ List.replicate (total - o.data.length) 0).take total).length) 0 →
    (offerBad t.toBlocks o.row.val total d = true → exec (.injectPacket offers) s =
      .next (pushComp (4096 + o.row.val) d (some 2) false (t.add64 O.RingCounters (4096 + o.row.val) F.RingCounters_Errors 1))) ∧
    (∀ u, offerBad t.toBlocks o.row.val total d = false →
      shelfAlloc (ringClient (4096 + o.row.val)) (max 60 total + 4) t = (none, u) → exec (.injectPacket offers) s =
        .next (pushComp (4096 + o.row.val) d (some 5) false (u.add64 O.RingCounters (4096 + o.row.val) F.RingCounters_NoShelf 1))) ∧
    (∀ buf u wants, offerBad t.toBlocks o.row.val total d = false → wants = (d.headD 0).testBit 172 →
      shelfAlloc (ringClient (4096 + o.row.val)) (max 60 total + 4) t = (some buf, u) →
      exec (.injectPacket offers) s = .next (pushComp (4096 + o.row.val) d (if wants then none else some 0) wants
        (((u.upFe fun f => { f with inject := f.inject ++
          [{ data := frame ++ fcsBytes frame, client := ringClient (4096 + o.row.val)
             stampRing := if wants then some (4096 + o.row.val, (u.ring (4096 + o.row.val)).next) else none
             direct := (d.headD 0).testBit 173
             cls := if (d.headD 0).testBit 173 then bitsOf 170 168 (d.headD 0)
               else u.rd O.InjectRing o.row.val F.InjectRing_Class
             card := bitsOf 167 164 (d.headD 0)
             port := bitsOf 163 156 (d.headD 0), queue := bitsOf 155 137 (d.headD 0), edit := bitsOf 136 121 (d.headD 0)
             launchValid := (d.headD 0).testBit 171, launch := bitsOf 95 32 (d.headD 0), buf := buf }] }).add64
        O.RingCounters (4096 + o.row.val) F.RingCounters_Packets 1).add64 O.RingCounters (4096 + o.row.val)
          F.RingCounters_Bytes (frame.length + 4))))) ∧
  (∀ s r first stamp rest, s.host.departed = (r, first, stamp) :: rest → exec .injectTimestampComplete s =
    .next (match stamp with
      | some v => settleComp r first 0 v (s.upHost fun h => { h with departed := rest })
      | none => settleComp r first 1 0 (s.upHost fun h => { h with departed := rest }))) ∧
  (∀ s (row : Fin 4096) t, (∃ c ∈ (s.ring (4096 + row.val)).comps, c.wants = true ∧ c.status = none ∧
      c.since + 25 * ticksPerMs ≤ s.time.ticks) →
    t = s.updRing (4096 + row.val) (fun x => { x with
      comps := updWhere x.comps (fun c => c.wants && c.status.isNone && decide (c.since + 25 * ticksPerMs ≤ s.time.ticks))
                 fun c => { c with status := some 1, stamp := 0 } }) →
    exec (.injectStampTimeout row) s =
      .next (flushComps (4096 + row.val) ((t.ring (4096 + row.val)).comps.length + 1) t))

/-- R348 to R352: with bus mastering and no channel running, the READY channel that became ready first starts and is
counted. A good descriptor moves its bytes, is written back and leads to the next, or ends the run; a defective one
ends it with BAD_DESC. -/
def Obligations.TrolleyRunsChannels : Prop :=
  (∀ s c, s.runningChan = none → s.busMaster = true → c < 32 → (s.chan c).st = 1 →
    (∀ k < 32, (s.chan k).st = 1 → k ≠ c → (s.chan c).order < (s.chan k).order) →
    exec .trolleyRunStart s = .next ((s.updChan c fun x => { x with st := 2, status := 0, bytes := 0, hops := 0 }).add64
      O.TrolleyCounters c F.TrolleyCounters_Runs 1)) ∧
  (∀ s (desc : BitVec 512) pairs data c host mod_ t, s.runningChan = some c → s.busMaster = true →
    trolleySegs desc.toNat pairs = (host, mod_) → t = s.updChan c (fun x => { x with hops := x.hops + 1 }) →
    (trolleyBad c desc.toNat host mod_ = true → exec (.trolleyDescriptorDone desc pairs data) s =
      .next (raiseIf (desc.toNat.testBit 362) (src 9 2) (trolleyEnd c 4 (trolleyWriteBack (s.chan c).addr 0 4 t)))) ∧
    (∀ u, trolleyBad c desc.toNat host mod_ = false → u = (((trolleyMove desc.toNat host mod_ data t).add64 O.TrolleyCounters c
        F.TrolleyCounters_Bytes (segBytes host)).updChan c fun x =>
          { x with bytes := x.bytes + segBytes host, addr := bitsOf 511 448 desc.toNat }) →
      (bitsOf 511 448 desc.toNat = 0 → exec (.trolleyDescriptorDone desc pairs data) s = .next (trolleyEnd c 0
        (raiseIf (desc.toNat.testBit 362) (src 9 2) (trolleyWriteBack (s.chan c).addr (segBytes host) 0 u)))) ∧
      (bitsOf 511 448 desc.toNat ≠ 0 → (u.chan c).hops < u.sc O.TrolleyHopLimit →
        exec (.trolleyDescriptorDone desc pairs data) s = .next
          (raiseIf (desc.toNat.testBit 362) (src 9 2) (trolleyWriteBack (s.chan c).addr (segBytes host) 0 u))) ∧
      (bitsOf 511 448 desc.toNat ≠ 0 → u.sc O.TrolleyHopLimit ≤ (u.chan c).hops →
        exec (.trolleyDescriptorDone desc pairs data) s = .next (trolleyEnd c 1
          (raiseIf (desc.toNat.testBit 362) (src 9 2) (trolleyWriteBack (s.chan c).addr (segBytes host) 1 u))))))

/-- R318, R324, R363 to R365: the schedules whose instant has come share one of two latch contexts, or are skipped; the
oldest dump that drains is written to its slot with its header, counted and raised, and copied to the host where its
row asks; the word that it reads back for its end or for the copy may be in error. A full slot of sample records, or
one FlushUs old, is handed over. R378, R383, R384: an accepted change of the life cycle whose wipes have ended is
finished; decommissioning needs its Chest wipe verified. -/
def Obligations.TelemetryAndLifeCycle : Prop :=
  ((∀ s ks, dumpsDue s.toBlocks = ks → ks ≠ [] →
    (2 ≤ s.tel.contexts.length → exec .dumpLatch s = .next (ks.foldl (passInstant true) s)) ∧
    (s.tel.contexts.length < 2 → exec .dumpLatch s = .next ((ks.foldl (passInstant false) s).upTel fun t => { t with
      contexts := t.contexts ++ [{ jobs := ks.map fun k => dumpJob k s, instant := s.gridQ, gridSt := s.time.st.code
                                   gen := s.gen.cur % 2 ^ 32, shadow := s.store }] }))) ∧
  (∀ s r c rest j more body part lost d place t, s.hbm.change = none → s.tel.contexts = c :: rest → c.jobs = j :: more →
    body = dumpBody c j → part = (64 + body.length) % 32 → lost = (hbmLost r && (part != 0 || j.host)) →
    d = dumpHeader s.card c j (!lost) body ++ body → place = j.area + j.seq % j.slots * j.size →
    t = (if part ≠ 0 ∨ j.host then hbmNote 5 (telemetryBase + place) r s else s) →
    ∀ u, u = raise (src 9 11) (((((if lost then hbmEvent t else t).upTel fun t =>
      { t with contexts := if more.isEmpty then rest else { c with jobs := more } :: rest
               region := memWrite t.region place (if lost then d.take (d.length - part) else d) }).add64 O.TallboyDumpStatus j.sched
        F.TallboyDumpStatus_Dumps 1).wr O.TallboyDumpStatus j.sched F.TallboyDumpStatus_LastSequence j.seq)) →
    (j.host = false → exec (.dumpComplete r) s = .next u) ∧ (j.host = true → exec (.dumpComplete r) s = .next (copyDump j.sched d u))) ∧
  (∀ s (row : Fin 9), row.val ≠ 0 → slotRoom s.toBlocks row.val ≤ (Tbl.get [] s.tel.slots row.val).length →
    exec (.telemetrySlotHandover row) s = .next (handOver row.val s)) ∧
  (∀ s (row : Fin 9) e rest us, Tbl.get [] s.tel.slots row.val = e :: rest →
    us = telRing s.toBlocks row.val F.TelemetryHostRing_FlushUs → us ≠ 0 → e.1 + us * ticksPerUs ≤ s.time.ticks →
    exec (.telemetryFlush row) s = .next (handOver row.val s))) ∧
  (∀ s f t, s.chest.intent = some (f, t) → lifeBusy s.toBlocks = true →
    (t ≠ 4 → ∀ verified, exec (.lifecycleChangeComplete verified) s = .next (lifeFinish f t s)) ∧
    (t = 4 → exec (.lifecycleChangeComplete true) s = .next (lifeFinish f t s) ∧
      exec (.lifecycleChangeComplete false) s = .next (wipeFailed 4 s)))

/-! ### Firmware -/

/-- R393, R396 to R399: a load without a chunk for 60 s is aborted. FW_BEGIN from a peer begins a chain load and is
acknowledged, or is answered that this card is busy; FW_DATA at the offset awaited goes to the slot and is
acknowledged; FW_ACK moves the window of the hop, or refuses it; FW_RESULT of the successor is merged. R398: no answer
to FW_BEGIN in 1 ms skips the card as TIMEOUT; an offset that has not moved for 100 µs is sent again from the
acknowledged byte; one that has not moved for 100 ms ends the chain there. -/
def Obligations.FirmwareTravelsTheChain : Prop :=
  ((∀ s l, s.fw.load = some l → l.code = none → l.last + 60 * ticksPerS ≤ s.time.ticks →
    exec .fwLoadTimeout s = .next (loadAbort s)) ∧
  (∀ s (g : Fin 16) (transfer : BitVec 16) (entry : BitVec 8) (map : BitVec 16) length, hears s.toBlocks g.val = true →
    s.fw.load = none → s.served = true → s.boot.phase ≠ 9 →
    (loadBusy s = false → exec (.fwBegin g transfer entry map length) s = .next (sendMgmt g.val (ackMessage transfer.toNat 0 0)
      (loadStart none (some ((s.peerOf g.val).getD s.card, g.val)) true transfer.toNat (entry.toNat % 16) map.toNat s))) ∧
    (loadBusy s = true → exec (.fwBegin g transfer entry map length) s =
      .next (sendMgmt g.val (ackMessage transfer.toNat 0 9) s))) ∧
  (∀ s (g : Fin 16) (transfer : BitVec 16) (offset : BitVec 32) data l c via t, hears s.toBlocks g.val = true →
    s.fw.load = some l → l.tid = transfer.toNat → l.code = none → l.via = some (c, via) → s.peerOf g.val = some c →
    offset.toNat = loadBytes s.toBlocks → data ≠ [] → data.length ≤ 120 → t = loadData 0xFFFF 0 0 data s →
    exec (.fwData g transfer offset data) s = .next (sendMgmt g.val (ackMessage transfer.toNat (loadBytes t.toBlocks)
      (t.rd O.FwLoadStatus 0 F.FwLoadStatus_Reason)) t)) ∧
  (∀ s (g : Fin 16) (transfer : BitVec 16) (next : BitVec 32) (status : BitVec 8) l h, s.fw.load = some l → l.hop = some h →
    hears s.toBlocks g.val = true → l.tid = transfer.toNat → s.peerOf g.val = some h.card →
    (h.acked = none → status ≠ 0 → exec (.fwAck g transfer next status) s = .next (hopFailed status.toNat s)) ∧
    (h.acked = none → exec (.fwAck g transfer next 0) s = .next (pushData (updLoad (fun l => { l with
      hop := some { h with acked := some next.toNat, moved := s.time.ticks, sent := next.toNat } }) s))) ∧
    (∀ a, h.acked = some a → a < next.toNat → exec (.fwAck g transfer next 0) s = .next (pushData (updLoad (fun l => { l with
      hop := some { h with acked := some next.toNat, moved := s.time.ticks } }) s)))) ∧
  (∀ s (g : Fin 16) (transfer : BitVec 16) (codes : BitVec 128) l h got, s.fw.load = some l → l.hop = some h →
    hears s.toBlocks g.val = true → l.tid = transfer.toNat → s.peerOf g.val = some h.card → l.back = false →
    got = (((List.range 16).map fun c => (c, bitsOf (127 - 8 * c) (120 - 8 * c) codes.toNat)).filter fun e =>
      e.2 != 255 && !(l.codes.any fun x => x.1 == e.1)) →
    exec (.fwResult g transfer codes) s =
      .next (chainSettle (updLoad (fun l => { l with back := true, codes := l.codes ++ got }) s)))) ∧
  (∀ s l h, s.fw.load = some l → l.hop = some h →
    (h.acked = none → h.began + ticksPerMs ≤ s.time.ticks → exec .fwBeginAckTimeout s = .next (hopFailed 10 s)) ∧
    (hopOpen l h = true → max h.moved h.resent + 100 * ticksPerUs ≤ s.time.ticks → exec .fwResend s =
      .next (pushData (updLoad (fun l => { l with hop := some { h with sent := h.acked.getD 0, resent := s.time.ticks } })
        (s.updGroup (hopGroup s.toBlocks h) fun r => { r with mgmt := [] })))) ∧
    (hopOpen l h = true → h.moved + 100 * ticksPerMs ≤ s.time.ticks → exec .fwHopTimeout s =
      .next (chainSettle (updLoad (fun x => { x with hop := none, left := [], codes := l.codes ++ [(h.card, 10)] }) s))))

/-- R401 to R404: the preparation of an image that verifies again ends READY, for its instant, or for the next one where
none was given; at its instant a ready activation swaps the pairs, the new slot in TRIAL, an audit entry made and bank
9 told, and one that is not ready fails. In trial the self-test shows itself, and a trial that is not confirmed in
FwConfirmTimeout is rolled back. R123, R404: on a lockstep mismatch with a ready standby pair that pair takes over,
counted and raised, the failed pair is held in reset and the requests that the journal does not hold go without a
response (which those are is a free value, log 141); in a trial the takeover is the rollback, of an image started cold
by a module reset (log 183, the model's reading). A pair that has resynchronised is out of reset and ready. -/
def Obligations.ActivationsRun : Prop :=
  ((∀ s a, s.fw.act = some a → a.ready = false → exec .fwPrepareReady s = .next (
    if verifyAgain s (s.chest.slot s.chest.fwMeta.other) then
      (setAct F.FwActivationStatus_State 2 s).upFw fun w => { w with act := some ⟨some (a.at_.getD (s.gridQ + 1)), true⟩ }
    else s)) ∧
  (∀ s a, s.fw.act = some a → swapDue s.toBlocks a = true →
    (a.ready = false → exec .fwSwap s = .next (activateFail 1 s)) ∧
    (∀ t, a.ready = true → t = setAct F.FwActivationStatus_SwapTime (time80OfQ (s.gridQ / cycleQ * cycleQ))
        (setAct F.FwActivationStatus_SelfTestPassed 0 (setAct F.FwActivationStatus_State 3
          (s.setFwMeta fun m => { (m.setSt m.other 4).setSt m.active 2 with active := m.other }))) →
      exec .fwSwap s = .next (((auditEntry .firmware 0xFFFF 0 0 0 s.chest.fwMeta.other 0 0 (raise (src 9 7) t)).upFw fun w =>
        { w with act := none, trialSince := some s.time.ticks, trialCold := false }).upBoot fun b => { b with pair := 1 - b.pair }))) ∧
  (∀ s, inTrial s = true → exec .selfTestPassed s = .next (setAct F.FwActivationStatus_SelfTestPassed 1 s) ∧
    ∀ t0, s.fw.trialSince = some t0 → t0 + s.sc O.FwConfirmTimeout * ticksPerS ≤ s.time.ticks →
      exec .fwConfirmTimeout s = .next (rollbackAsked 3 s))) ∧
  ((∀ s t, standbyReady s.toBlocks = true →
    t = forgetUnheld (raise (src 0 1) (s.sat32 O.BureauFailoverCount 0 0 1)) →
    (inTrial s = true → s.fw.trialCold = false → exec .lockstepMismatch s = .next (holdFailed (rollbackNow 5 t))) ∧
    (inTrial s = true → s.fw.trialCold = true → exec .lockstepMismatch s = .next (rollbackAsked 5 t)) ∧
    (inTrial s = false → exec .lockstepMismatch s =
      .next (holdFailed ((standbyLost t).upBoot fun b => { b with pair := 1 - b.pair })))) ∧
  (∀ s, s.served = true → s.boot.phase ≠ 9 → s.fw.act = none → s.boot.failed = true ∨ s.inReset (standbyRow s.toBlocks) = false →
    exec .standbyPairSynchronised s = .next ((freeFailed s).ws O.BureauStandbyReady 1)))

/-! ### Dovetail, the supplies, the board and resets -/

/-- R18, R19, R438: a link that is up and loses training loses what crosses on it, counted in its row of CrossingLoss, and
bank 0 is told; every attempt to retrain a lost link is counted, and one that trains while the other link is up is up
again. R411 to R416: the NV guard is asserted for its cause, counted and raised, and released; an over-voltage shows
and is raised; the brown-out of a rail latches it, resets the module with cause 3 and is counted; VAUX's is a loss of
power. A journal line write completes unless the guard stops it from starting. -/
def Obligations.LinksAndSuppliesAreWatched : Prop :=
  (∀ s (link : Fin 2) (lost : BitVec 16),
    ((s.sc O.DovetailLinkState).testBit link.val = true → exec (.dovetailLinkLoss ⟨link, lost⟩) s =
      .next (raise (src 0 0) (dropLink link.val (crossingLoss (148 + link.val) lost.toNat
        (s.ws O.DovetailLinkState (s.sc O.DovetailLinkState - 2 ^ link.val)))))) ∧
    ((s.sc O.DovetailLinkState).testBit link.val = false → 3 ≤ s.boot.phase →
      exec (.dovetailLinkRetrain link false) s = .next (s.sat32 O.DovetailRetrainCount 0 0 1) ∧
      (s.sc O.DovetailLinkState ≠ 0 → exec (.dovetailLinkRetrain link true) s =
        .next ((s.sat32 O.DovetailRetrainCount 0 0 1).ws O.DovetailLinkState (s.sc O.DovetailLinkState + 2 ^ link.val))))) ∧
  ((∀ s c t, s.pins.guard = false → t = ({ s with pins := { s.pins with guard := true } } : State).wr O.PowerNvGuard 0
      F.PowerNvGuard_Asserted 1 →
    exec (.nvGuardAssert c) s = .next (guardCause c (raise (src 0 3) (t.sat32 O.PowerNvGuard 0 F.PowerNvGuard_AssertCount 1)))) ∧
  (∀ s, exec .nvGuardRelease s =
    .next (({ s with pins := { s.pins with guard := false } } : State).wr O.PowerNvGuard 0 F.PowerNvGuard_Asserted 0)) ∧
  (∀ s (rail : Fin 10), exec (.overVoltage rail) s =
    .next (raise (src 0 6) (s.wr O.PowerRailStatus rail.val F.PowerRailStatus_OverVoltage 1))) ∧
  (∀ s (rail : Fin 10) t, t = moduleReset 3 { s with ao := { s.ao with brownRail := some rail.val } } →
    (rail.val ≠ 8 → exec (.brownOut rail) s = .next ((t.wrHome O.PowerBrownout 0 F.PowerBrownout_Count
      (satInc 32 (t.homeRd O.PowerBrownout 0 F.PowerBrownout_Count))).wrHome O.PowerBrownout 0 F.PowerBrownout_LastRail rail.val)) ∧
    (rail.val = 8 → exec (.brownOut rail) s = exec .lossOfPower s)) ∧
  (∀ s, exec .lossOfPower s =
    .next (moduleReset 1 { s with ao := ⟨false, 15, none⟩, pins := { s.pins with noPower := true } })) ∧
  (∀ s inFlight copied, s.pins.guard = false ∨ inFlight = true → exec (.journalRecordWrite inFlight copied) s =
    .next { s with chest := { s.chest with journal := markFirst copied (s.chest.journal.filter fun r => r.waits || r.found) } }))

/-- R418 to R424: each die's temperature shows, and above its limits is raised; a waiting Sideboard sequence starts at its
instant, each entry is sampled in its turn, and the last one ends the sequence, counted and raised; a fan's speed
shows, and three slow windows are its fault; a pin's level shows, and a selected edge of an INPUT pin is raised. -/
def Obligations.BoardServicesRun : Prop :=
  (∀ s (fe tm : BitVec 16) t, t = (s.wr O.DieTemperature 0 0 fe.toNat).wr O.DieTemperature 1 0 tm.toNat →
    fe.toInt ≤ 10 * s.sc O.DieTempWarn → tm.toInt ≤ 10 * s.sc O.DieTempWarn → fe.toInt ≤ 1080 → tm.toInt ≤ 1080 →
    exec (.dieTemperatureSample fe tm []) s = .next (t.upBoard fun b => { b with hot := 0 })) ∧
  (∀ s (fe tm : BitVec 16) t, t = (s.wr O.DieTemperature 0 0 fe.toNat).wr O.DieTemperature 1 0 tm.toNat →
    10 * s.sc O.DieTempWarn < fe.toInt → tm.toInt ≤ 10 * s.sc O.DieTempWarn → 1080 < fe.toInt → tm.toInt ≤ 1080 →
    exec (.dieTemperatureSample fe tm []) s =
      .next ((raise (src 0 8) (raise (src 0 7) t)).upBoard fun b => { b with hot := 1 })) ∧
  (∀ s at_ q rest, s.board.seqRun = none → s.board.seqWait = (at_, q) :: rest → max at_ s.board.seqFree ≤ s.gridQ →
    exec .sideboardSequenceStart s = .next (s.upBoard fun b =>
      { b with seqRun := some (q, max at_ s.board.seqFree, 0), seqWait := rest })) ∧
  (∀ s (code : BitVec 12) q start k t, s.board.seqRun = some (q, start, k) → start + 800 + k * 4000 ≤ s.gridQ →
    t = sideResult (sideEntry s.toBlocks q k) code.toNat (start + 800 + k * 4000) s →
    (k < s.rd O.SideboardSequence q F.SideboardSequence_CountMinusOne →
      exec (.sideboardConversion code) s = .next (t.upBoard fun b => { b with seqRun := some (q, start, k + 1) })) ∧
    (k = s.rd O.SideboardSequence q F.SideboardSequence_CountMinusOne → exec (.sideboardConversion code) s =
      .next (raise (src 0 (12 + q)) ((t.add64 O.SideboardCounters q F.SideboardCounters_Runs 1).upBoard fun b =>
        { b with seqRun := none, seqFree := start + (k + 1) * 4000 })))) ∧
  (∀ s (fan : Fin 8) (edges : BitVec 32) rpm, s.rd O.FanConfig fan.val F.FanConfig_TachPin < 16 →
    rpm = edges.toNat * 60 / (s.rd O.FanConfig fan.val F.FanConfig_PulsesPerRevMinusOne + 1) → rpm < 2 ^ 19 →
    s.rd O.FanStatus fan.val F.FanStatus_Fault = 0 →
    (s.rd O.FanConfig fan.val F.FanConfig_MinRpm ≤ rpm →
      exec (.fanTachWindow fan edges) s = .next ((s.wr O.FanStatus fan.val F.FanStatus_Rpm rpm).upBoard fun b =>
        { b with fanLow := Tbl.put 0 fan.val 0 b.fanLow
                 fanGood := Tbl.put 0 fan.val (min (Tbl.get 0 s.board.fanGood fan.val + 1) 3) b.fanGood })) ∧
    (rpm < s.rd O.FanConfig fan.val F.FanConfig_MinRpm → 2 ≤ Tbl.get 0 s.board.fanLow fan.val →
      exec (.fanTachWindow fan edges) s = .next (raise (src 0 10) (((s.wr O.FanStatus fan.val F.FanStatus_Rpm rpm).upBoard fun b =>
        { b with fanLow := Tbl.put 0 fan.val 3 b.fanLow, fanGood := Tbl.put 0 fan.val 0 b.fanGood }).wr O.FanStatus fan.val
          F.FanStatus_Fault 1)))) ∧
  (∀ s (pin : Fin 16) t, (s.sc O.GpioInput).testBit pin.val = false →
    t = s.ws O.GpioInput (s.sc O.GpioInput + 2 ^ pin.val) →
    (s.rd O.GpioConfig pin.val F.GpioConfig_Mode = 0 → s.rd O.GpioConfig pin.val F.GpioConfig_Edge % 2 = 1 →
      exec (.gpioEdge pin true) s = .next (setDetail O.GpioEdgeDetail 0 pin.val (src 0 11) t)) ∧
    (s.rd O.GpioConfig pin.val F.GpioConfig_Edge % 2 = 0 → exec (.gpioEdge pin true) s = .next t))

/-- R428, R430: the loss of a reference that was present clears its bit and is counted: SYS_REF resets the module with
cause 4, a SerDes reference takes its half of the ports or groups down, PCIE_REF the link. Its return undoes what the
loss holds. R409, R410, R430, R433: POR_N low resets the module with cause 1 and its rise lets it go with the order of
the rails noted; MOD_RST_N low for 1 µs resets it with cause 2, and a shorter pulse does nothing; a block is released
1 µs after its reset, but for a failed Bureau pair, which stays in reset (R123). -/
def Obligations.ResetsAndReferences : Prop :=
  ((∀ s (input : Fin 6) t, s.pins.refs.testBit input.val = true →
    t = ({ s with pins := { s.pins with refs := s.pins.refs - 2 ^ input.val } } : State).sat32 O.ClockLossCount input.val 0 1 →
    exec (.referenceClockLoss input) s = .next (match input.val with
      | 0 => moduleReset 4 t
      | 1 => portHalf 0 (setLost 0 true t)
      | 2 => portHalf 1 (setLost 1 true t)
      | 3 => groupHalf 0 (setLost 2 true t)
      | 4 => groupHalf 1 (setLost 3 true t)
      | _ => linkGone t)) ∧
  (∀ s (input : Fin 6) t, s.pins.refs.testBit input.val = false →
    t = ({ s with pins := { s.pins with refs := s.pins.refs + 2 ^ input.val } } : State) →
    exec (.referenceClockRestore input) s = .next (match input.val with
      | 0 => leaveReset t
      | 1 => portHalf 0 (setLost 0 false t)
      | 2 => portHalf 1 (setLost 1 false t)
      | 3 => setLost 2 false t
      | 4 => setLost 3 false t
      | _ => t))) ∧
  ((∀ s, s.pins.porLow = false →
    exec (.powerOnReset .fall) s = .next (moduleReset 1 { s with pins := { s.pins with porLow := true } })) ∧
  (∀ s r, exec (.powerOnReset (.rise r)) s =
    .next (leaveReset (copyOrder (noteOrder r { s with pins := { s.pins with porLow := false, noPower := false } })))) ∧
  (∀ s ns, (1000 ≤ ns → exec (.moduleResetPin ns) s = .next (moduleReset 2 s)) ∧
    (ns < 1000 → exec (.moduleResetPin ns) s = .next s)) ∧
  (∀ s (row : Fin 147) t at_, (row.val, at_) ∈ s.boot.blocks → at_ + ticksPerUs ≤ s.time.ticks →
    s.boot.failed = false ∨ row.val ≠ standbyRow s.toBlocks →
    t = (s.upBoot fun b => { b with blocks := b.blocks.filter fun e => e.1 != row.val }).wr O.BlockResetActive row.val 0 0 →
    (128 ≤ row.val → exec (.blockResetRelease row) s = .next t) ∧
    (row.val < 128 → exec (.blockResetRelease row) s = .next (restartPort row.val t))))

/-- R406, R440, R443, R445 to R447: bring-up goes on phase by phase: the rails in range; the wiped SRAM and the slot ROM
chose, or RECOVERY; Bureau and the dies' SRAM, the links trained and the HBM to be; the restored dictionary, after the
journal and a change of life cycle on record; and TRAFFIC once nothing blocks it. A wipe that fails holds it. -/
def Obligations.BringUpGoesByPhases : Prop :=
  (∀ s, s.boot.phase = 0 → s.boot.held = false → exec .senseComplete s = .next (enterPhase 1 s)) ∧
  (∀ s, s.boot.phase = 1 → exec (.romSlotChoose false) s = .next (enterHold 2 (wipeFailed 1 s)) ∧
    (∀ found t, chooseSlot (s.wr O.WipeStatus 0 F.WipeStatus_BureauDone 1) = (found, t) → exec (.romSlotChoose true) s =
      .next (if found then enterPhase 2 t else (enterPhase 9 t).upBoot fun b => { b with hold := 4 }))) ∧
  (∀ s, s.boot.phase = 2 → exec (.bootComplete false) s = .next (enterHold 2 (wipeFailed 2 s)) ∧
    exec (.bootComplete true) s =
      .next (trainBegin (enterPhase 3 ((s.wr O.WipeStatus 0 F.WipeStatus_SramDone 1).ws O.DovetailLinkState 3)))) ∧
  (∀ s (bad : List (BitVec 20)) t, s.boot.phase = 5 → t = scanJournal s → t.chest.intent = none → t.life ≠ 4 →
    exec (.restore bad) s = .next (enterReady (bootDone (restoreValues (bad.map (·.toNat)) t)))) ∧
  (∀ s, s.boot.phase = 6 → blockStart s.toBlocks = false → blockMesh s.toBlocks = false → s.retired = false →
    blockSample s = false → exec .trafficEnable s = .next ((enterPhase 7 s).wr O.BringUpStatus 0 F.BringUpStatus_TrafficMs
      (s.time.ticks / ticksPerMs % 2 ^ 32)))
end

