-- ==== Sys2Proof/Laws/Store.lean ====
section
/-! SUPPORT. The sparse tables: what a write leaves to read, and that it keeps the canonical form; the same of memory. -/
namespace Sys2Proof

theorem Tbl.get_put_of_ne {β : Type} [DecidableEq β] (d e : β) {i j : Nat} (v : β) (h : j ≠ i) :
    ∀ t : Tbl β, Tbl.get d (Tbl.put e i v t) j = Tbl.get d t j
  | [] => by
    unfold Tbl.put
    split
    · rfl
    · simp [Tbl.get, Ne.symm h]
  | (k, w) :: t => by
    have ih := Tbl.get_put_of_ne d e v h t
    unfold Tbl.put
    split
    · split
      · rfl
      · simp [Tbl.get, Ne.symm h]
    · split
      · subst_vars
        split <;> simp [Tbl.get, Ne.symm h]
      · simp [Tbl.get, ih]

/-- The table's keys, all of them above `b`, strictly rise. -/
def Tbl.above {β : Type} (b : Nat) : Tbl β → Prop
  | [] => True
  | (k, _) :: t => b < k ∧ Tbl.above k t

theorem Tbl.above_mono {β : Type} {a b : Nat} (h : a ≤ b) : ∀ {t : Tbl β}, Tbl.above b t → Tbl.above a t
  | [], _ => trivial
  | _ :: _, hb => ⟨lt_of_le_of_lt h hb.1, hb.2⟩

theorem Tbl.rising_cons {β : Type} (k : Nat) (w : β) (t : Tbl β) : Tbl.rising ((k, w) :: t) = true ↔ Tbl.above k t := by
  induction t generalizing k w with
  | nil => simp [Tbl.rising, Tbl.above]
  | cons e t ih =>
    obtain ⟨a, x⟩ := e
    simp [Tbl.rising, Tbl.above, ih]

theorem Tbl.get_of_above {β : Type} (d : β) {i : Nat} : ∀ {t : Tbl β}, Tbl.above i t → Tbl.get d t i = d
  | [], _ => rfl
  | (k, _) :: t, h => by
    have hk : k ≠ i := Nat.ne_of_gt h.1
    simp [Tbl.get, hk, Tbl.get_of_above d (Tbl.above_mono (Nat.le_of_lt h.1) h.2)]

theorem Tbl.get_put_self_above {β : Type} [DecidableEq β] (d : β) (i : Nat) (v : β) :
    ∀ (b : Nat) (t : Tbl β), Tbl.above b t → Tbl.get d (Tbl.put d i v t) i = v
  | _, [], _ => by
    unfold Tbl.put
    split
    · simp_all [Tbl.get]
    · simp [Tbl.get]
  | _, (k, w) :: t, h => by
    have ih := Tbl.get_put_self_above d i v k t h.2
    unfold Tbl.put
    split
    · rename_i hik
      split
      · have hk : k ≠ i := Nat.ne_of_gt hik
        simp_all [Tbl.get, Tbl.get_of_above d (Tbl.above_mono (Nat.le_of_lt hik) h.2)]
      · simp [Tbl.get]
    · split
      · subst_vars
        split
        · rename_i hv
          rw [hv, Tbl.get_of_above d h.2]
        · simp [Tbl.get]
      · rename_i hik
        simp [Tbl.get, Ne.symm hik, ih]

theorem Tbl.get_put_self {β : Type} [DecidableEq β] (d : β) (i : Nat) (v : β) (t : Tbl β) (h : Tbl.rising t = true) :
    Tbl.get d (Tbl.put d i v t) i = v := by
  cases t with
  | nil => exact Tbl.get_put_self_above d i v 0 [] trivial
  | cons e t =>
    obtain ⟨k, w⟩ := e
    rw [Tbl.rising_cons] at h
    cases k with
    | succ k => exact Tbl.get_put_self_above d i v k ((k + 1, w) :: t) ⟨Nat.lt_succ_self k, h⟩
    | zero =>
      have ih := Tbl.get_put_self_above d i v 0 t h
      unfold Tbl.put
      by_cases hi : i = 0
      · subst hi
        simp only [Nat.lt_irrefl, if_false, if_true]
        split
        · rename_i hv
          rw [hv, Tbl.get_of_above d h]
        · simp [Tbl.get]
      · simp [hi, Tbl.get, Ne.symm hi, ih]

/-- A canonical table whose keys lie above a bound. -/
def Tbl.Good {β : Type} (d : Nat → β) (b : Nat) : Tbl β → Prop
  | [] => True
  | (k, w) :: t => b < k ∧ w ≠ d k ∧ Tbl.Good d k t

theorem Tbl.Good.mono {β : Type} {d : Nat → β} {a b : Nat} (h : a ≤ b) : ∀ {t : Tbl β}, Tbl.Good d b t → Tbl.Good d a t
  | [], _ => trivial
  | _ :: _, hb => ⟨lt_of_le_of_lt h hb.1, hb.2⟩

theorem Tbl.Good.put {β : Type} [DecidableEq β] {d : Nat → β} {b i : Nat} (v : β) (hb : b < i) :
    ∀ {t : Tbl β}, Tbl.Good d b t → Tbl.Good d b (Tbl.put (d i) i v t)
  | [], _ => by
    unfold Tbl.put
    split <;> simp_all [Tbl.Good]
  | (k, w) :: t, h => by
    obtain ⟨h1, h2, h3⟩ := h
    unfold Tbl.put
    split
    · split <;> simp_all [Tbl.Good]
    · split
      · subst_vars
        split
        · exact h3.mono (Nat.le_of_lt h1)
        · exact ⟨h1, ‹_›, h3⟩
      · exact ⟨h1, h2, Tbl.Good.put v (by omega) h3⟩

theorem Tbl.wf_cons {β : Type} [DecidableEq β] (d : Nat → β) (k : Nat) (w : β) (t : Tbl β) :
    Tbl.wf d ((k, w) :: t) = true ↔ w ≠ d k ∧ Tbl.Good d k t := by
  induction t generalizing k w with
  | nil => simp [Tbl.wf, Tbl.rising, Tbl.noDefault, Tbl.Good]
  | cons e t ih =>
    obtain ⟨a, x⟩ := e
    have := ih a x
    simp only [Tbl.wf, Tbl.rising, Tbl.noDefault, Tbl.Good, List.all_cons, Bool.and_eq_true, decide_eq_true_eq] at this ⊢
    tauto

/-- A write keeps the canonical form. -/
theorem Tbl.wf_put {β : Type} [DecidableEq β] (d : Nat → β) (i : Nat) (v : β) (t : Tbl β) (h : Tbl.wf d t = true) :
    Tbl.wf d (Tbl.put (d i) i v t) = true := by
  cases t with
  | nil =>
    unfold Tbl.put
    split <;> simp_all [Tbl.wf, Tbl.rising, Tbl.noDefault]
  | cons e t =>
    obtain ⟨k, w⟩ := e
    rw [Tbl.wf_cons] at h
    unfold Tbl.put
    split
    · split
      · exact (Tbl.wf_cons d k w t).2 h
      · exact (Tbl.wf_cons d i v _).2 ⟨‹_›, ‹i < k›, h.1, h.2⟩
    · split
      · subst_vars
        split
        · cases t with
          | nil => rfl
          | cons f t => exact (Tbl.wf_cons d f.1 f.2 t).2 ⟨h.2.2.1, h.2.2.2⟩
        · exact (Tbl.wf_cons d _ v t).2 ⟨‹_›, h.2⟩
      · exact (Tbl.wf_cons d k w _).2 ⟨h.1, h.2.put v (by omega)⟩

theorem Tbl.Good.filter {β : Type} {d : Nat → β} (p : Nat × β → Bool) :
    ∀ {b : Nat} {t : Tbl β}, Tbl.Good d b t → Tbl.Good d b (t.filter p)
  | _, [], _ => trivial
  | b, (k, w) :: t, h => by
    have ih := Tbl.Good.filter p h.2.2
    rw [List.filter_cons]
    split
    · exact ⟨h.1, h.2.1, ih⟩
    · exact ih.mono (Nat.le_of_lt h.1)

/-- Taking entries away keeps the canonical form. -/
theorem Tbl.wf_filter {β : Type} [DecidableEq β] (d : Nat → β) (p : Nat × β → Bool) (t : Tbl β) (h : Tbl.wf d t = true) :
    Tbl.wf d (t.filter p) = true := by
  induction t with
  | nil => rfl
  | cons e t ih =>
    obtain ⟨k, w⟩ := e
    rw [Tbl.wf_cons] at h
    have ht : Tbl.wf d t = true := by
      cases t with
      | nil => rfl
      | cons f t => exact (Tbl.wf_cons d f.1 f.2 t).2 ⟨h.2.2.1, h.2.2.2⟩
    rw [List.filter_cons]
    split
    · exact (Tbl.wf_cons d k w _).2 ⟨h.1, h.2.filter p⟩
    · exact ih ht

theorem Tbl.rising_of_wf {β : Type} [DecidableEq β] {d : Nat → β} {t : Tbl β} (h : Tbl.wf d t = true) :
    Tbl.rising t = true := by
  simp only [Tbl.wf, Bool.and_eq_true] at h
  exact h.1

namespace Machine

/-! ### The dictionary's fields -/

theorem storeWf_nil : storeWf [] := rfl

theorem storeWf_put {h : Tbl Nat} (hw : storeWf h) (key v : Nat) : storeWf (putKey h key v) :=
  Tbl.wf_put keyDefault key v h hw

theorem storeWf_filter {h : Tbl Nat} (hw : storeWf h) (p : Nat × Nat → Bool) : storeWf (h.filter p) :=
  Tbl.wf_filter keyDefault p h hw

theorem storeWf_foldl_put {α : Type} (k v : α → Nat) (l : List α) {h : Tbl Nat} (hw : storeWf h) :
    storeWf (l.foldl (fun a e => putKey a (k e) (v e)) h) := by
  induction l generalizing h with
  | nil => exact hw
  | cons e l ih => exact ih (storeWf_put hw _ _)

theorem getKey_putKey_self {h : Tbl Nat} (hw : storeWf h) (key v : Nat) : getKey (putKey h key v) key = v :=
  Tbl.get_put_self _ _ _ _ (Tbl.rising_of_wf hw)

theorem getKey_putKey_of_ne (h : Tbl Nat) {key key' : Nat} (v : Nat) (hk : key' ≠ key) :
    getKey (putKey h key v) key' = getKey h key' :=
  Tbl.get_put_of_ne _ _ v hk h

/-- Two fields have one key only when they are the same: rows below 2^32, field numbers below 256. -/
theorem skey_inj {o r f o' r' f' : Nat} (hr : r < 2 ^ 32) (hr' : r' < 2 ^ 32) (hf : f < 256) (hf' : f' < 256)
    (h : skey o r f = skey o' r' f') : o = o' ∧ r = r' ∧ f = f' := by
  unfold skey at h
  omega

/-- A field that was written reads as written. -/
theorem rd_wr_self {s : State} (hw : storeWf s.store) (o r f v : Nat) : (s.wr o r f v).rd o r f = v :=
  getKey_putKey_self hw _ _

/-- A write changes no other field. -/
theorem rd_wr_of_ne (s : State) {o r f o' r' f' : Nat} (v : Nat) (h : skey o' r' f' ≠ skey o r f) :
    (s.wr o r f v).rd o' r' f' = s.rd o' r' f' :=
  getKey_putKey_of_ne _ _ h

/-! ### Memory -/

theorem Memory.wf_nil : Memory.wf [] = true := rfl

theorem Memory.wf_memWrite (m : List Host.Cell) (a : Nat) (l : Bytes) (h : Memory.wf m = true) :
    Memory.wf (memWrite m a l) = true := by
  induction l generalizing m a with
  | nil => exact h
  | cons b t ih => exact ih _ _ (Tbl.wf_put (fun _ => (0 : Byte)) a b m h)

theorem memByte_put_self (m : List Host.Cell) (a : Nat) (b : Byte) (h : Memory.wf m = true) :
    memByte (Tbl.put 0 a b m) a = b :=
  Tbl.get_put_self _ _ _ _ (Tbl.rising_of_wf h)

theorem memByte_memWrite_of_lt (m : List Host.Cell) {a x : Nat} (l : Bytes) (h : x < a) :
    memByte (memWrite m a l) x = memByte m x := by
  induction l generalizing m a with
  | nil => rfl
  | cons b t ih =>
    have hx : x ≠ a := Nat.ne_of_lt h
    rw [memWrite, ih _ (Nat.lt_succ_of_lt h)]
    exact Tbl.get_put_of_ne _ _ _ hx m

/-- Every byte outside the written ones reads as before. -/
theorem memByte_memWrite_of_ge (m : List Host.Cell) {a x : Nat} (l : Bytes) (h : a + l.length ≤ x) :
    memByte (memWrite m a l) x = memByte m x := by
  induction l generalizing m a with
  | nil => rfl
  | cons b t ih =>
    simp only [List.length_cons] at h
    have hx : x ≠ a := by omega
    rw [memWrite, ih _ (by omega)]
    exact Tbl.get_put_of_ne _ _ _ hx m

/-- The written bytes read as written. -/
theorem memByte_memWrite_of_mem (m : List Host.Cell) (hw : Memory.wf m = true) (a : Nat) (l : Bytes) {k : Nat}
    (h : k < l.length) : memByte (memWrite m a l) (a + k) = l[k] := by
  induction l generalizing m a k with
  | nil => simp at h
  | cons b t ih =>
    have hw' := Tbl.wf_put (fun _ => (0 : Byte)) a b m hw
    cases k with
    | zero =>
      exact (memByte_memWrite_of_lt _ t (Nat.lt_add_one a)).trans (memByte_put_self m a b hw)
    | succ k =>
      have := ih (Tbl.put 0 a b m) hw' (a + 1) (k := k) (by simpa using h)
      rw [memWrite, show a + (k + 1) = a + 1 + k by omega, this]
      rfl

end Machine
end Sys2Proof
end

