-- ==== Sys2Proof/Laws/State.lean ====
section
/-! SUPPORT. What each update of the state leaves as it was: one lemma for each field and update. -/
namespace Sys2Proof.Machine

@[simp] theorem State.sat32_time (s : State) (obj : ℕ) (row : ℕ) (fld : ℕ) (n : ℕ) :
    (s.sat32 obj row fld n).time = s.time := rfl

@[simp] theorem State.sat32_gen (s : State) (obj : ℕ) (row : ℕ) (fld : ℕ) (n : ℕ) :
    (s.sat32 obj row fld n).gen = s.gen := rfl

@[simp] theorem State.sat32_route (s : State) (obj : ℕ) (row : ℕ) (fld : ℕ) (n : ℕ) :
    (s.sat32 obj row fld n).route = s.route := rfl

@[simp] theorem State.sat32_exact (s : State) (obj : ℕ) (row : ℕ) (fld : ℕ) (n : ℕ) :
    (s.sat32 obj row fld n).exact = s.exact := rfl

@[simp] theorem State.sat32_range (s : State) (obj : ℕ) (row : ℕ) (fld : ℕ) (n : ℕ) :
    (s.sat32 obj row fld n).range = s.range := rfl

@[simp] theorem State.sat32_repair (s : State) (obj : ℕ) (row : ℕ) (fld : ℕ) (n : ℕ) :
    (s.sat32 obj row fld n).repair = s.repair := rfl

@[simp] theorem State.sat32_ports (s : State) (obj : ℕ) (row : ℕ) (fld : ℕ) (n : ℕ) :
    (s.sat32 obj row fld n).ports = s.ports := rfl

@[simp] theorem State.sat32_fe (s : State) (obj : ℕ) (row : ℕ) (fld : ℕ) (n : ℕ) :
    (s.sat32 obj row fld n).fe = s.fe := rfl

@[simp] theorem State.sat32_tm (s : State) (obj : ℕ) (row : ℕ) (fld : ℕ) (n : ℕ) :
    (s.sat32 obj row fld n).tm = s.tm := rfl

@[simp] theorem State.sat32_sched (s : State) (obj : ℕ) (row : ℕ) (fld : ℕ) (n : ℕ) :
    (s.sat32 obj row fld n).sched = s.sched := rfl

@[simp] theorem State.sat32_gates (s : State) (obj : ℕ) (row : ℕ) (fld : ℕ) (n : ℕ) :
    (s.sat32 obj row fld n).gates = s.gates := rfl

@[simp] theorem State.sat32_shelf (s : State) (obj : ℕ) (row : ℕ) (fld : ℕ) (n : ℕ) :
    (s.sat32 obj row fld n).shelf = s.shelf := rfl

@[simp] theorem State.sat32_mesh (s : State) (obj : ℕ) (row : ℕ) (fld : ℕ) (n : ℕ) :
    (s.sat32 obj row fld n).mesh = s.mesh := rfl

@[simp] theorem State.sat32_tel (s : State) (obj : ℕ) (row : ℕ) (fld : ℕ) (n : ℕ) :
    (s.sat32 obj row fld n).tel = s.tel := rfl

@[simp] theorem State.sat32_host (s : State) (obj : ℕ) (row : ℕ) (fld : ℕ) (n : ℕ) :
    (s.sat32 obj row fld n).host = s.host := rfl

@[simp] theorem State.sat32_hbm (s : State) (obj : ℕ) (row : ℕ) (fld : ℕ) (n : ℕ) :
    (s.sat32 obj row fld n).hbm = s.hbm := rfl

@[simp] theorem State.sat32_board (s : State) (obj : ℕ) (row : ℕ) (fld : ℕ) (n : ℕ) :
    (s.sat32 obj row fld n).board = s.board := rfl

@[simp] theorem State.sat32_fw (s : State) (obj : ℕ) (row : ℕ) (fld : ℕ) (n : ℕ) :
    (s.sat32 obj row fld n).fw = s.fw := rfl

@[simp] theorem State.sat32_boot (s : State) (obj : ℕ) (row : ℕ) (fld : ℕ) (n : ℕ) :
    (s.sat32 obj row fld n).boot = s.boot := rfl

@[simp] theorem State.sat32_sessions (s : State) (obj : ℕ) (row : ℕ) (fld : ℕ) (n : ℕ) :
    (s.sat32 obj row fld n).sessions = s.sessions := rfl

@[simp] theorem State.sat32_mbox (s : State) (obj : ℕ) (row : ℕ) (fld : ℕ) (n : ℕ) :
    (s.sat32 obj row fld n).mbox = s.mbox := rfl

@[simp] theorem State.sat32_nextSess (s : State) (obj : ℕ) (row : ℕ) (fld : ℕ) (n : ℕ) :
    (s.sat32 obj row fld n).nextSess = s.nextSess := rfl

@[simp] theorem State.sat32_nextHandle (s : State) (obj : ℕ) (row : ℕ) (fld : ℕ) (n : ℕ) :
    (s.sat32 obj row fld n).nextHandle = s.nextHandle := rfl

@[simp] theorem State.sat32_nextSnap (s : State) (obj : ℕ) (row : ℕ) (fld : ℕ) (n : ℕ) :
    (s.sat32 obj row fld n).nextSnap = s.nextSnap := rfl

@[simp] theorem State.sat32_commitSeq (s : State) (obj : ℕ) (row : ℕ) (fld : ℕ) (n : ℕ) :
    (s.sat32 obj row fld n).commitSeq = s.commitSeq := rfl

@[simp] theorem State.sat32_changed (s : State) (obj : ℕ) (row : ℕ) (fld : ℕ) (n : ℕ) :
    (s.sat32 obj row fld n).changed = s.changed := rfl

@[simp] theorem State.sat32_orderNext (s : State) (obj : ℕ) (row : ℕ) (fld : ℕ) (n : ℕ) :
    (s.sat32 obj row fld n).orderNext = s.orderNext := rfl

@[simp] theorem State.sat32_waits (s : State) (obj : ℕ) (row : ℕ) (fld : ℕ) (n : ℕ) :
    (s.sat32 obj row fld n).waits = s.waits := rfl

@[simp] theorem State.sat32_barq (s : State) (obj : ℕ) (row : ℕ) (fld : ℕ) (n : ℕ) :
    (s.sat32 obj row fld n).barq = s.barq := rfl

@[simp] theorem State.sat32_orphans (s : State) (obj : ℕ) (row : ℕ) (fld : ℕ) (n : ℕ) :
    (s.sat32 obj row fld n).orphans = s.orphans := rfl

@[simp] theorem State.sat32_chest (s : State) (obj : ℕ) (row : ℕ) (fld : ℕ) (n : ℕ) :
    (s.sat32 obj row fld n).chest = s.chest := rfl

@[simp] theorem State.sat32_ao (s : State) (obj : ℕ) (row : ℕ) (fld : ℕ) (n : ℕ) :
    (s.sat32 obj row fld n).ao = s.ao := rfl

@[simp] theorem State.sat32_pins (s : State) (obj : ℕ) (row : ℕ) (fld : ℕ) (n : ℕ) :
    (s.sat32 obj row fld n).pins = s.pins := rfl

@[simp] theorem State.sat32_free (s : State) (obj : ℕ) (row : ℕ) (fld : ℕ) (n : ℕ) :
    (s.sat32 obj row fld n).free = s.free := rfl

@[simp] theorem State.sat32_out (s : State) (obj : ℕ) (row : ℕ) (fld : ℕ) (n : ℕ) :
    (s.sat32 obj row fld n).out = s.out := rfl

@[simp] theorem State.sat32_pending (s : State) (obj : ℕ) (row : ℕ) (fld : ℕ) (n : ℕ) :
    (s.sat32 obj row fld n).pending = s.pending := rfl

@[simp] theorem State.upMesh_store (s : State) (f : MeshRT → MeshRT) :
    (s.upMesh f).store = s.store := rfl

@[simp] theorem State.upMesh_time (s : State) (f : MeshRT → MeshRT) :
    (s.upMesh f).time = s.time := rfl

@[simp] theorem State.upMesh_gen (s : State) (f : MeshRT → MeshRT) :
    (s.upMesh f).gen = s.gen := rfl

@[simp] theorem State.upMesh_route (s : State) (f : MeshRT → MeshRT) :
    (s.upMesh f).route = s.route := rfl

@[simp] theorem State.upMesh_exact (s : State) (f : MeshRT → MeshRT) :
    (s.upMesh f).exact = s.exact := rfl

@[simp] theorem State.upMesh_range (s : State) (f : MeshRT → MeshRT) :
    (s.upMesh f).range = s.range := rfl

@[simp] theorem State.upMesh_repair (s : State) (f : MeshRT → MeshRT) :
    (s.upMesh f).repair = s.repair := rfl

@[simp] theorem State.upMesh_ports (s : State) (f : MeshRT → MeshRT) :
    (s.upMesh f).ports = s.ports := rfl

@[simp] theorem State.upMesh_fe (s : State) (f : MeshRT → MeshRT) :
    (s.upMesh f).fe = s.fe := rfl

@[simp] theorem State.upMesh_tm (s : State) (f : MeshRT → MeshRT) :
    (s.upMesh f).tm = s.tm := rfl

@[simp] theorem State.upMesh_sched (s : State) (f : MeshRT → MeshRT) :
    (s.upMesh f).sched = s.sched := rfl

@[simp] theorem State.upMesh_gates (s : State) (f : MeshRT → MeshRT) :
    (s.upMesh f).gates = s.gates := rfl

@[simp] theorem State.upMesh_shelf (s : State) (f : MeshRT → MeshRT) :
    (s.upMesh f).shelf = s.shelf := rfl

@[simp] theorem State.upMesh_tel (s : State) (f : MeshRT → MeshRT) :
    (s.upMesh f).tel = s.tel := rfl

@[simp] theorem State.upMesh_host (s : State) (f : MeshRT → MeshRT) :
    (s.upMesh f).host = s.host := rfl

@[simp] theorem State.upMesh_hbm (s : State) (f : MeshRT → MeshRT) :
    (s.upMesh f).hbm = s.hbm := rfl

@[simp] theorem State.upMesh_board (s : State) (f : MeshRT → MeshRT) :
    (s.upMesh f).board = s.board := rfl

@[simp] theorem State.upMesh_fw (s : State) (f : MeshRT → MeshRT) :
    (s.upMesh f).fw = s.fw := rfl

@[simp] theorem State.upMesh_boot (s : State) (f : MeshRT → MeshRT) :
    (s.upMesh f).boot = s.boot := rfl

@[simp] theorem State.upMesh_sessions (s : State) (f : MeshRT → MeshRT) :
    (s.upMesh f).sessions = s.sessions := rfl

@[simp] theorem State.upMesh_mbox (s : State) (f : MeshRT → MeshRT) :
    (s.upMesh f).mbox = s.mbox := rfl

@[simp] theorem State.upMesh_nextSess (s : State) (f : MeshRT → MeshRT) :
    (s.upMesh f).nextSess = s.nextSess := rfl

@[simp] theorem State.upMesh_nextHandle (s : State) (f : MeshRT → MeshRT) :
    (s.upMesh f).nextHandle = s.nextHandle := rfl

@[simp] theorem State.upMesh_nextSnap (s : State) (f : MeshRT → MeshRT) :
    (s.upMesh f).nextSnap = s.nextSnap := rfl

@[simp] theorem State.upMesh_commitSeq (s : State) (f : MeshRT → MeshRT) :
    (s.upMesh f).commitSeq = s.commitSeq := rfl

@[simp] theorem State.upMesh_changed (s : State) (f : MeshRT → MeshRT) :
    (s.upMesh f).changed = s.changed := rfl

@[simp] theorem State.upMesh_orderNext (s : State) (f : MeshRT → MeshRT) :
    (s.upMesh f).orderNext = s.orderNext := rfl

@[simp] theorem State.upMesh_waits (s : State) (f : MeshRT → MeshRT) :
    (s.upMesh f).waits = s.waits := rfl

@[simp] theorem State.upMesh_barq (s : State) (f : MeshRT → MeshRT) :
    (s.upMesh f).barq = s.barq := rfl

@[simp] theorem State.upMesh_orphans (s : State) (f : MeshRT → MeshRT) :
    (s.upMesh f).orphans = s.orphans := rfl

@[simp] theorem State.upMesh_chest (s : State) (f : MeshRT → MeshRT) :
    (s.upMesh f).chest = s.chest := rfl

@[simp] theorem State.upMesh_ao (s : State) (f : MeshRT → MeshRT) :
    (s.upMesh f).ao = s.ao := rfl

@[simp] theorem State.upMesh_pins (s : State) (f : MeshRT → MeshRT) :
    (s.upMesh f).pins = s.pins := rfl

@[simp] theorem State.upMesh_free (s : State) (f : MeshRT → MeshRT) :
    (s.upMesh f).free = s.free := rfl

@[simp] theorem State.upMesh_out (s : State) (f : MeshRT → MeshRT) :
    (s.upMesh f).out = s.out := rfl

@[simp] theorem State.upMesh_pending (s : State) (f : MeshRT → MeshRT) :
    (s.upMesh f).pending = s.pending := rfl

@[simp] theorem State.upTel_store (s : State) (f : TelRT → TelRT) :
    (s.upTel f).store = s.store := rfl

@[simp] theorem State.upTel_time (s : State) (f : TelRT → TelRT) :
    (s.upTel f).time = s.time := rfl

@[simp] theorem State.upTel_gen (s : State) (f : TelRT → TelRT) :
    (s.upTel f).gen = s.gen := rfl

@[simp] theorem State.upTel_route (s : State) (f : TelRT → TelRT) :
    (s.upTel f).route = s.route := rfl

@[simp] theorem State.upTel_exact (s : State) (f : TelRT → TelRT) :
    (s.upTel f).exact = s.exact := rfl

@[simp] theorem State.upTel_range (s : State) (f : TelRT → TelRT) :
    (s.upTel f).range = s.range := rfl

@[simp] theorem State.upTel_repair (s : State) (f : TelRT → TelRT) :
    (s.upTel f).repair = s.repair := rfl

@[simp] theorem State.upTel_ports (s : State) (f : TelRT → TelRT) :
    (s.upTel f).ports = s.ports := rfl

@[simp] theorem State.upTel_fe (s : State) (f : TelRT → TelRT) :
    (s.upTel f).fe = s.fe := rfl

@[simp] theorem State.upTel_tm (s : State) (f : TelRT → TelRT) :
    (s.upTel f).tm = s.tm := rfl

@[simp] theorem State.upTel_sched (s : State) (f : TelRT → TelRT) :
    (s.upTel f).sched = s.sched := rfl

@[simp] theorem State.upTel_gates (s : State) (f : TelRT → TelRT) :
    (s.upTel f).gates = s.gates := rfl

@[simp] theorem State.upTel_shelf (s : State) (f : TelRT → TelRT) :
    (s.upTel f).shelf = s.shelf := rfl

@[simp] theorem State.upTel_mesh (s : State) (f : TelRT → TelRT) :
    (s.upTel f).mesh = s.mesh := rfl

@[simp] theorem State.upTel_host (s : State) (f : TelRT → TelRT) :
    (s.upTel f).host = s.host := rfl

@[simp] theorem State.upTel_hbm (s : State) (f : TelRT → TelRT) :
    (s.upTel f).hbm = s.hbm := rfl

@[simp] theorem State.upTel_board (s : State) (f : TelRT → TelRT) :
    (s.upTel f).board = s.board := rfl

@[simp] theorem State.upTel_fw (s : State) (f : TelRT → TelRT) :
    (s.upTel f).fw = s.fw := rfl

@[simp] theorem State.upTel_boot (s : State) (f : TelRT → TelRT) :
    (s.upTel f).boot = s.boot := rfl

@[simp] theorem State.upTel_sessions (s : State) (f : TelRT → TelRT) :
    (s.upTel f).sessions = s.sessions := rfl

@[simp] theorem State.upTel_mbox (s : State) (f : TelRT → TelRT) :
    (s.upTel f).mbox = s.mbox := rfl

@[simp] theorem State.upTel_nextSess (s : State) (f : TelRT → TelRT) :
    (s.upTel f).nextSess = s.nextSess := rfl

@[simp] theorem State.upTel_nextHandle (s : State) (f : TelRT → TelRT) :
    (s.upTel f).nextHandle = s.nextHandle := rfl

@[simp] theorem State.upTel_nextSnap (s : State) (f : TelRT → TelRT) :
    (s.upTel f).nextSnap = s.nextSnap := rfl

@[simp] theorem State.upTel_commitSeq (s : State) (f : TelRT → TelRT) :
    (s.upTel f).commitSeq = s.commitSeq := rfl

@[simp] theorem State.upTel_changed (s : State) (f : TelRT → TelRT) :
    (s.upTel f).changed = s.changed := rfl

@[simp] theorem State.upTel_orderNext (s : State) (f : TelRT → TelRT) :
    (s.upTel f).orderNext = s.orderNext := rfl

@[simp] theorem State.upTel_waits (s : State) (f : TelRT → TelRT) :
    (s.upTel f).waits = s.waits := rfl

@[simp] theorem State.upTel_barq (s : State) (f : TelRT → TelRT) :
    (s.upTel f).barq = s.barq := rfl

@[simp] theorem State.upTel_orphans (s : State) (f : TelRT → TelRT) :
    (s.upTel f).orphans = s.orphans := rfl

@[simp] theorem State.upTel_chest (s : State) (f : TelRT → TelRT) :
    (s.upTel f).chest = s.chest := rfl

@[simp] theorem State.upTel_ao (s : State) (f : TelRT → TelRT) :
    (s.upTel f).ao = s.ao := rfl

@[simp] theorem State.upTel_pins (s : State) (f : TelRT → TelRT) :
    (s.upTel f).pins = s.pins := rfl

@[simp] theorem State.upTel_free (s : State) (f : TelRT → TelRT) :
    (s.upTel f).free = s.free := rfl

@[simp] theorem State.upTel_out (s : State) (f : TelRT → TelRT) :
    (s.upTel f).out = s.out := rfl

@[simp] theorem State.upTel_pending (s : State) (f : TelRT → TelRT) :
    (s.upTel f).pending = s.pending := rfl

@[simp] theorem State.upHost_store (s : State) (f : HostRT → HostRT) :
    (s.upHost f).store = s.store := rfl

@[simp] theorem State.upHost_time (s : State) (f : HostRT → HostRT) :
    (s.upHost f).time = s.time := rfl

@[simp] theorem State.upHost_gen (s : State) (f : HostRT → HostRT) :
    (s.upHost f).gen = s.gen := rfl

@[simp] theorem State.upHost_route (s : State) (f : HostRT → HostRT) :
    (s.upHost f).route = s.route := rfl

@[simp] theorem State.upHost_exact (s : State) (f : HostRT → HostRT) :
    (s.upHost f).exact = s.exact := rfl

@[simp] theorem State.upHost_range (s : State) (f : HostRT → HostRT) :
    (s.upHost f).range = s.range := rfl

@[simp] theorem State.upHost_repair (s : State) (f : HostRT → HostRT) :
    (s.upHost f).repair = s.repair := rfl

@[simp] theorem State.upHost_ports (s : State) (f : HostRT → HostRT) :
    (s.upHost f).ports = s.ports := rfl

@[simp] theorem State.upHost_fe (s : State) (f : HostRT → HostRT) :
    (s.upHost f).fe = s.fe := rfl

@[simp] theorem State.upHost_tm (s : State) (f : HostRT → HostRT) :
    (s.upHost f).tm = s.tm := rfl

@[simp] theorem State.upHost_sched (s : State) (f : HostRT → HostRT) :
    (s.upHost f).sched = s.sched := rfl

@[simp] theorem State.upHost_gates (s : State) (f : HostRT → HostRT) :
    (s.upHost f).gates = s.gates := rfl

@[simp] theorem State.upHost_shelf (s : State) (f : HostRT → HostRT) :
    (s.upHost f).shelf = s.shelf := rfl

@[simp] theorem State.upHost_mesh (s : State) (f : HostRT → HostRT) :
    (s.upHost f).mesh = s.mesh := rfl

@[simp] theorem State.upHost_tel (s : State) (f : HostRT → HostRT) :
    (s.upHost f).tel = s.tel := rfl

@[simp] theorem State.upHost_hbm (s : State) (f : HostRT → HostRT) :
    (s.upHost f).hbm = s.hbm := rfl

@[simp] theorem State.upHost_board (s : State) (f : HostRT → HostRT) :
    (s.upHost f).board = s.board := rfl

@[simp] theorem State.upHost_fw (s : State) (f : HostRT → HostRT) :
    (s.upHost f).fw = s.fw := rfl

@[simp] theorem State.upHost_boot (s : State) (f : HostRT → HostRT) :
    (s.upHost f).boot = s.boot := rfl

@[simp] theorem State.upHost_sessions (s : State) (f : HostRT → HostRT) :
    (s.upHost f).sessions = s.sessions := rfl

@[simp] theorem State.upHost_mbox (s : State) (f : HostRT → HostRT) :
    (s.upHost f).mbox = s.mbox := rfl

@[simp] theorem State.upHost_nextSess (s : State) (f : HostRT → HostRT) :
    (s.upHost f).nextSess = s.nextSess := rfl

@[simp] theorem State.upHost_nextHandle (s : State) (f : HostRT → HostRT) :
    (s.upHost f).nextHandle = s.nextHandle := rfl

@[simp] theorem State.upHost_nextSnap (s : State) (f : HostRT → HostRT) :
    (s.upHost f).nextSnap = s.nextSnap := rfl

@[simp] theorem State.upHost_commitSeq (s : State) (f : HostRT → HostRT) :
    (s.upHost f).commitSeq = s.commitSeq := rfl

@[simp] theorem State.upHost_changed (s : State) (f : HostRT → HostRT) :
    (s.upHost f).changed = s.changed := rfl

@[simp] theorem State.upHost_orderNext (s : State) (f : HostRT → HostRT) :
    (s.upHost f).orderNext = s.orderNext := rfl

@[simp] theorem State.upHost_waits (s : State) (f : HostRT → HostRT) :
    (s.upHost f).waits = s.waits := rfl

@[simp] theorem State.upHost_barq (s : State) (f : HostRT → HostRT) :
    (s.upHost f).barq = s.barq := rfl

@[simp] theorem State.upHost_orphans (s : State) (f : HostRT → HostRT) :
    (s.upHost f).orphans = s.orphans := rfl

@[simp] theorem State.upHost_chest (s : State) (f : HostRT → HostRT) :
    (s.upHost f).chest = s.chest := rfl

@[simp] theorem State.upHost_ao (s : State) (f : HostRT → HostRT) :
    (s.upHost f).ao = s.ao := rfl

@[simp] theorem State.upHost_pins (s : State) (f : HostRT → HostRT) :
    (s.upHost f).pins = s.pins := rfl

@[simp] theorem State.upHost_free (s : State) (f : HostRT → HostRT) :
    (s.upHost f).free = s.free := rfl

@[simp] theorem State.upHost_out (s : State) (f : HostRT → HostRT) :
    (s.upHost f).out = s.out := rfl

@[simp] theorem State.upHost_pending (s : State) (f : HostRT → HostRT) :
    (s.upHost f).pending = s.pending := rfl

@[simp] theorem State.upBoot_store (s : State) (f : BootRT → BootRT) :
    (s.upBoot f).store = s.store := rfl

@[simp] theorem State.upBoot_time (s : State) (f : BootRT → BootRT) :
    (s.upBoot f).time = s.time := rfl

@[simp] theorem State.upBoot_gen (s : State) (f : BootRT → BootRT) :
    (s.upBoot f).gen = s.gen := rfl

@[simp] theorem State.upBoot_route (s : State) (f : BootRT → BootRT) :
    (s.upBoot f).route = s.route := rfl

@[simp] theorem State.upBoot_exact (s : State) (f : BootRT → BootRT) :
    (s.upBoot f).exact = s.exact := rfl

@[simp] theorem State.upBoot_range (s : State) (f : BootRT → BootRT) :
    (s.upBoot f).range = s.range := rfl

@[simp] theorem State.upBoot_repair (s : State) (f : BootRT → BootRT) :
    (s.upBoot f).repair = s.repair := rfl

@[simp] theorem State.upBoot_ports (s : State) (f : BootRT → BootRT) :
    (s.upBoot f).ports = s.ports := rfl

@[simp] theorem State.upBoot_fe (s : State) (f : BootRT → BootRT) :
    (s.upBoot f).fe = s.fe := rfl

@[simp] theorem State.upBoot_tm (s : State) (f : BootRT → BootRT) :
    (s.upBoot f).tm = s.tm := rfl

@[simp] theorem State.upBoot_sched (s : State) (f : BootRT → BootRT) :
    (s.upBoot f).sched = s.sched := rfl

@[simp] theorem State.upBoot_gates (s : State) (f : BootRT → BootRT) :
    (s.upBoot f).gates = s.gates := rfl

@[simp] theorem State.upBoot_shelf (s : State) (f : BootRT → BootRT) :
    (s.upBoot f).shelf = s.shelf := rfl

@[simp] theorem State.upBoot_mesh (s : State) (f : BootRT → BootRT) :
    (s.upBoot f).mesh = s.mesh := rfl

@[simp] theorem State.upBoot_tel (s : State) (f : BootRT → BootRT) :
    (s.upBoot f).tel = s.tel := rfl

@[simp] theorem State.upBoot_host (s : State) (f : BootRT → BootRT) :
    (s.upBoot f).host = s.host := rfl

@[simp] theorem State.upBoot_hbm (s : State) (f : BootRT → BootRT) :
    (s.upBoot f).hbm = s.hbm := rfl

@[simp] theorem State.upBoot_board (s : State) (f : BootRT → BootRT) :
    (s.upBoot f).board = s.board := rfl

@[simp] theorem State.upBoot_fw (s : State) (f : BootRT → BootRT) :
    (s.upBoot f).fw = s.fw := rfl

@[simp] theorem State.upBoot_sessions (s : State) (f : BootRT → BootRT) :
    (s.upBoot f).sessions = s.sessions := rfl

@[simp] theorem State.upBoot_mbox (s : State) (f : BootRT → BootRT) :
    (s.upBoot f).mbox = s.mbox := rfl

@[simp] theorem State.upBoot_nextSess (s : State) (f : BootRT → BootRT) :
    (s.upBoot f).nextSess = s.nextSess := rfl

@[simp] theorem State.upBoot_nextHandle (s : State) (f : BootRT → BootRT) :
    (s.upBoot f).nextHandle = s.nextHandle := rfl

@[simp] theorem State.upBoot_nextSnap (s : State) (f : BootRT → BootRT) :
    (s.upBoot f).nextSnap = s.nextSnap := rfl

@[simp] theorem State.upBoot_commitSeq (s : State) (f : BootRT → BootRT) :
    (s.upBoot f).commitSeq = s.commitSeq := rfl

@[simp] theorem State.upBoot_changed (s : State) (f : BootRT → BootRT) :
    (s.upBoot f).changed = s.changed := rfl

@[simp] theorem State.upBoot_orderNext (s : State) (f : BootRT → BootRT) :
    (s.upBoot f).orderNext = s.orderNext := rfl

@[simp] theorem State.upBoot_waits (s : State) (f : BootRT → BootRT) :
    (s.upBoot f).waits = s.waits := rfl

@[simp] theorem State.upBoot_barq (s : State) (f : BootRT → BootRT) :
    (s.upBoot f).barq = s.barq := rfl

@[simp] theorem State.upBoot_orphans (s : State) (f : BootRT → BootRT) :
    (s.upBoot f).orphans = s.orphans := rfl

@[simp] theorem State.upBoot_chest (s : State) (f : BootRT → BootRT) :
    (s.upBoot f).chest = s.chest := rfl

@[simp] theorem State.upBoot_ao (s : State) (f : BootRT → BootRT) :
    (s.upBoot f).ao = s.ao := rfl

@[simp] theorem State.upBoot_pins (s : State) (f : BootRT → BootRT) :
    (s.upBoot f).pins = s.pins := rfl

@[simp] theorem State.upBoot_free (s : State) (f : BootRT → BootRT) :
    (s.upBoot f).free = s.free := rfl

@[simp] theorem State.upBoot_out (s : State) (f : BootRT → BootRT) :
    (s.upBoot f).out = s.out := rfl

@[simp] theorem State.upBoot_pending (s : State) (f : BootRT → BootRT) :
    (s.upBoot f).pending = s.pending := rfl

@[simp] theorem State.upHbm_store (s : State) (f : HbmRT → HbmRT) :
    (s.upHbm f).store = s.store := rfl

@[simp] theorem State.upHbm_time (s : State) (f : HbmRT → HbmRT) :
    (s.upHbm f).time = s.time := rfl

@[simp] theorem State.upHbm_gen (s : State) (f : HbmRT → HbmRT) :
    (s.upHbm f).gen = s.gen := rfl

@[simp] theorem State.upHbm_route (s : State) (f : HbmRT → HbmRT) :
    (s.upHbm f).route = s.route := rfl

@[simp] theorem State.upHbm_exact (s : State) (f : HbmRT → HbmRT) :
    (s.upHbm f).exact = s.exact := rfl

@[simp] theorem State.upHbm_range (s : State) (f : HbmRT → HbmRT) :
    (s.upHbm f).range = s.range := rfl

@[simp] theorem State.upHbm_repair (s : State) (f : HbmRT → HbmRT) :
    (s.upHbm f).repair = s.repair := rfl

@[simp] theorem State.upHbm_ports (s : State) (f : HbmRT → HbmRT) :
    (s.upHbm f).ports = s.ports := rfl

@[simp] theorem State.upHbm_fe (s : State) (f : HbmRT → HbmRT) :
    (s.upHbm f).fe = s.fe := rfl

@[simp] theorem State.upHbm_tm (s : State) (f : HbmRT → HbmRT) :
    (s.upHbm f).tm = s.tm := rfl

@[simp] theorem State.upHbm_sched (s : State) (f : HbmRT → HbmRT) :
    (s.upHbm f).sched = s.sched := rfl

@[simp] theorem State.upHbm_gates (s : State) (f : HbmRT → HbmRT) :
    (s.upHbm f).gates = s.gates := rfl

@[simp] theorem State.upHbm_shelf (s : State) (f : HbmRT → HbmRT) :
    (s.upHbm f).shelf = s.shelf := rfl

@[simp] theorem State.upHbm_mesh (s : State) (f : HbmRT → HbmRT) :
    (s.upHbm f).mesh = s.mesh := rfl

@[simp] theorem State.upHbm_tel (s : State) (f : HbmRT → HbmRT) :
    (s.upHbm f).tel = s.tel := rfl

@[simp] theorem State.upHbm_host (s : State) (f : HbmRT → HbmRT) :
    (s.upHbm f).host = s.host := rfl

@[simp] theorem State.upHbm_board (s : State) (f : HbmRT → HbmRT) :
    (s.upHbm f).board = s.board := rfl

@[simp] theorem State.upHbm_fw (s : State) (f : HbmRT → HbmRT) :
    (s.upHbm f).fw = s.fw := rfl

@[simp] theorem State.upHbm_boot (s : State) (f : HbmRT → HbmRT) :
    (s.upHbm f).boot = s.boot := rfl

@[simp] theorem State.upHbm_sessions (s : State) (f : HbmRT → HbmRT) :
    (s.upHbm f).sessions = s.sessions := rfl

@[simp] theorem State.upHbm_mbox (s : State) (f : HbmRT → HbmRT) :
    (s.upHbm f).mbox = s.mbox := rfl

@[simp] theorem State.upHbm_nextSess (s : State) (f : HbmRT → HbmRT) :
    (s.upHbm f).nextSess = s.nextSess := rfl

@[simp] theorem State.upHbm_nextHandle (s : State) (f : HbmRT → HbmRT) :
    (s.upHbm f).nextHandle = s.nextHandle := rfl

@[simp] theorem State.upHbm_nextSnap (s : State) (f : HbmRT → HbmRT) :
    (s.upHbm f).nextSnap = s.nextSnap := rfl

@[simp] theorem State.upHbm_commitSeq (s : State) (f : HbmRT → HbmRT) :
    (s.upHbm f).commitSeq = s.commitSeq := rfl

@[simp] theorem State.upHbm_changed (s : State) (f : HbmRT → HbmRT) :
    (s.upHbm f).changed = s.changed := rfl

@[simp] theorem State.upHbm_orderNext (s : State) (f : HbmRT → HbmRT) :
    (s.upHbm f).orderNext = s.orderNext := rfl

@[simp] theorem State.upHbm_waits (s : State) (f : HbmRT → HbmRT) :
    (s.upHbm f).waits = s.waits := rfl

@[simp] theorem State.upHbm_barq (s : State) (f : HbmRT → HbmRT) :
    (s.upHbm f).barq = s.barq := rfl

@[simp] theorem State.upHbm_orphans (s : State) (f : HbmRT → HbmRT) :
    (s.upHbm f).orphans = s.orphans := rfl

@[simp] theorem State.upHbm_chest (s : State) (f : HbmRT → HbmRT) :
    (s.upHbm f).chest = s.chest := rfl

@[simp] theorem State.upHbm_ao (s : State) (f : HbmRT → HbmRT) :
    (s.upHbm f).ao = s.ao := rfl

@[simp] theorem State.upHbm_pins (s : State) (f : HbmRT → HbmRT) :
    (s.upHbm f).pins = s.pins := rfl

@[simp] theorem State.upHbm_free (s : State) (f : HbmRT → HbmRT) :
    (s.upHbm f).free = s.free := rfl

@[simp] theorem State.upHbm_out (s : State) (f : HbmRT → HbmRT) :
    (s.upHbm f).out = s.out := rfl

@[simp] theorem State.upHbm_pending (s : State) (f : HbmRT → HbmRT) :
    (s.upHbm f).pending = s.pending := rfl

@[simp] theorem State.upFw_store (s : State) (f : FwRT → FwRT) :
    (s.upFw f).store = s.store := rfl

@[simp] theorem State.upFw_time (s : State) (f : FwRT → FwRT) :
    (s.upFw f).time = s.time := rfl

@[simp] theorem State.upFw_gen (s : State) (f : FwRT → FwRT) :
    (s.upFw f).gen = s.gen := rfl

@[simp] theorem State.upFw_route (s : State) (f : FwRT → FwRT) :
    (s.upFw f).route = s.route := rfl

@[simp] theorem State.upFw_exact (s : State) (f : FwRT → FwRT) :
    (s.upFw f).exact = s.exact := rfl

@[simp] theorem State.upFw_range (s : State) (f : FwRT → FwRT) :
    (s.upFw f).range = s.range := rfl

@[simp] theorem State.upFw_repair (s : State) (f : FwRT → FwRT) :
    (s.upFw f).repair = s.repair := rfl

@[simp] theorem State.upFw_ports (s : State) (f : FwRT → FwRT) :
    (s.upFw f).ports = s.ports := rfl

@[simp] theorem State.upFw_fe (s : State) (f : FwRT → FwRT) :
    (s.upFw f).fe = s.fe := rfl

@[simp] theorem State.upFw_tm (s : State) (f : FwRT → FwRT) :
    (s.upFw f).tm = s.tm := rfl

@[simp] theorem State.upFw_sched (s : State) (f : FwRT → FwRT) :
    (s.upFw f).sched = s.sched := rfl

@[simp] theorem State.upFw_gates (s : State) (f : FwRT → FwRT) :
    (s.upFw f).gates = s.gates := rfl

@[simp] theorem State.upFw_shelf (s : State) (f : FwRT → FwRT) :
    (s.upFw f).shelf = s.shelf := rfl

@[simp] theorem State.upFw_mesh (s : State) (f : FwRT → FwRT) :
    (s.upFw f).mesh = s.mesh := rfl

@[simp] theorem State.upFw_tel (s : State) (f : FwRT → FwRT) :
    (s.upFw f).tel = s.tel := rfl

@[simp] theorem State.upFw_host (s : State) (f : FwRT → FwRT) :
    (s.upFw f).host = s.host := rfl

@[simp] theorem State.upFw_hbm (s : State) (f : FwRT → FwRT) :
    (s.upFw f).hbm = s.hbm := rfl

@[simp] theorem State.upFw_board (s : State) (f : FwRT → FwRT) :
    (s.upFw f).board = s.board := rfl

@[simp] theorem State.upFw_boot (s : State) (f : FwRT → FwRT) :
    (s.upFw f).boot = s.boot := rfl

@[simp] theorem State.upFw_sessions (s : State) (f : FwRT → FwRT) :
    (s.upFw f).sessions = s.sessions := rfl

@[simp] theorem State.upFw_mbox (s : State) (f : FwRT → FwRT) :
    (s.upFw f).mbox = s.mbox := rfl

@[simp] theorem State.upFw_nextSess (s : State) (f : FwRT → FwRT) :
    (s.upFw f).nextSess = s.nextSess := rfl

@[simp] theorem State.upFw_nextHandle (s : State) (f : FwRT → FwRT) :
    (s.upFw f).nextHandle = s.nextHandle := rfl

@[simp] theorem State.upFw_nextSnap (s : State) (f : FwRT → FwRT) :
    (s.upFw f).nextSnap = s.nextSnap := rfl

@[simp] theorem State.upFw_commitSeq (s : State) (f : FwRT → FwRT) :
    (s.upFw f).commitSeq = s.commitSeq := rfl

@[simp] theorem State.upFw_changed (s : State) (f : FwRT → FwRT) :
    (s.upFw f).changed = s.changed := rfl

@[simp] theorem State.upFw_orderNext (s : State) (f : FwRT → FwRT) :
    (s.upFw f).orderNext = s.orderNext := rfl

@[simp] theorem State.upFw_waits (s : State) (f : FwRT → FwRT) :
    (s.upFw f).waits = s.waits := rfl

@[simp] theorem State.upFw_barq (s : State) (f : FwRT → FwRT) :
    (s.upFw f).barq = s.barq := rfl

@[simp] theorem State.upFw_orphans (s : State) (f : FwRT → FwRT) :
    (s.upFw f).orphans = s.orphans := rfl

@[simp] theorem State.upFw_chest (s : State) (f : FwRT → FwRT) :
    (s.upFw f).chest = s.chest := rfl

@[simp] theorem State.upFw_ao (s : State) (f : FwRT → FwRT) :
    (s.upFw f).ao = s.ao := rfl

@[simp] theorem State.upFw_pins (s : State) (f : FwRT → FwRT) :
    (s.upFw f).pins = s.pins := rfl

@[simp] theorem State.upFw_free (s : State) (f : FwRT → FwRT) :
    (s.upFw f).free = s.free := rfl

@[simp] theorem State.upFw_out (s : State) (f : FwRT → FwRT) :
    (s.upFw f).out = s.out := rfl

@[simp] theorem State.upFw_pending (s : State) (f : FwRT → FwRT) :
    (s.upFw f).pending = s.pending := rfl

@[simp] theorem State.upExact_store (s : State) (f : ExactRT → ExactRT) :
    (s.upExact f).store = s.store := rfl

@[simp] theorem State.upExact_time (s : State) (f : ExactRT → ExactRT) :
    (s.upExact f).time = s.time := rfl

@[simp] theorem State.upExact_gen (s : State) (f : ExactRT → ExactRT) :
    (s.upExact f).gen = s.gen := rfl

@[simp] theorem State.upExact_route (s : State) (f : ExactRT → ExactRT) :
    (s.upExact f).route = s.route := rfl

@[simp] theorem State.upExact_range (s : State) (f : ExactRT → ExactRT) :
    (s.upExact f).range = s.range := rfl

@[simp] theorem State.upExact_repair (s : State) (f : ExactRT → ExactRT) :
    (s.upExact f).repair = s.repair := rfl

@[simp] theorem State.upExact_ports (s : State) (f : ExactRT → ExactRT) :
    (s.upExact f).ports = s.ports := rfl

@[simp] theorem State.upExact_fe (s : State) (f : ExactRT → ExactRT) :
    (s.upExact f).fe = s.fe := rfl

@[simp] theorem State.upExact_tm (s : State) (f : ExactRT → ExactRT) :
    (s.upExact f).tm = s.tm := rfl

@[simp] theorem State.upExact_sched (s : State) (f : ExactRT → ExactRT) :
    (s.upExact f).sched = s.sched := rfl

@[simp] theorem State.upExact_gates (s : State) (f : ExactRT → ExactRT) :
    (s.upExact f).gates = s.gates := rfl

@[simp] theorem State.upExact_shelf (s : State) (f : ExactRT → ExactRT) :
    (s.upExact f).shelf = s.shelf := rfl

@[simp] theorem State.upExact_mesh (s : State) (f : ExactRT → ExactRT) :
    (s.upExact f).mesh = s.mesh := rfl

@[simp] theorem State.upExact_tel (s : State) (f : ExactRT → ExactRT) :
    (s.upExact f).tel = s.tel := rfl

@[simp] theorem State.upExact_host (s : State) (f : ExactRT → ExactRT) :
    (s.upExact f).host = s.host := rfl

@[simp] theorem State.upExact_hbm (s : State) (f : ExactRT → ExactRT) :
    (s.upExact f).hbm = s.hbm := rfl

@[simp] theorem State.upExact_board (s : State) (f : ExactRT → ExactRT) :
    (s.upExact f).board = s.board := rfl

@[simp] theorem State.upExact_fw (s : State) (f : ExactRT → ExactRT) :
    (s.upExact f).fw = s.fw := rfl

@[simp] theorem State.upExact_boot (s : State) (f : ExactRT → ExactRT) :
    (s.upExact f).boot = s.boot := rfl

@[simp] theorem State.upExact_sessions (s : State) (f : ExactRT → ExactRT) :
    (s.upExact f).sessions = s.sessions := rfl

@[simp] theorem State.upExact_mbox (s : State) (f : ExactRT → ExactRT) :
    (s.upExact f).mbox = s.mbox := rfl

@[simp] theorem State.upExact_nextSess (s : State) (f : ExactRT → ExactRT) :
    (s.upExact f).nextSess = s.nextSess := rfl

@[simp] theorem State.upExact_nextHandle (s : State) (f : ExactRT → ExactRT) :
    (s.upExact f).nextHandle = s.nextHandle := rfl

@[simp] theorem State.upExact_nextSnap (s : State) (f : ExactRT → ExactRT) :
    (s.upExact f).nextSnap = s.nextSnap := rfl

@[simp] theorem State.upExact_commitSeq (s : State) (f : ExactRT → ExactRT) :
    (s.upExact f).commitSeq = s.commitSeq := rfl

@[simp] theorem State.upExact_changed (s : State) (f : ExactRT → ExactRT) :
    (s.upExact f).changed = s.changed := rfl

@[simp] theorem State.upExact_orderNext (s : State) (f : ExactRT → ExactRT) :
    (s.upExact f).orderNext = s.orderNext := rfl

@[simp] theorem State.upExact_waits (s : State) (f : ExactRT → ExactRT) :
    (s.upExact f).waits = s.waits := rfl

@[simp] theorem State.upExact_barq (s : State) (f : ExactRT → ExactRT) :
    (s.upExact f).barq = s.barq := rfl

@[simp] theorem State.upExact_orphans (s : State) (f : ExactRT → ExactRT) :
    (s.upExact f).orphans = s.orphans := rfl

@[simp] theorem State.upExact_chest (s : State) (f : ExactRT → ExactRT) :
    (s.upExact f).chest = s.chest := rfl

@[simp] theorem State.upExact_ao (s : State) (f : ExactRT → ExactRT) :
    (s.upExact f).ao = s.ao := rfl

@[simp] theorem State.upExact_pins (s : State) (f : ExactRT → ExactRT) :
    (s.upExact f).pins = s.pins := rfl

@[simp] theorem State.upExact_free (s : State) (f : ExactRT → ExactRT) :
    (s.upExact f).free = s.free := rfl

@[simp] theorem State.upExact_out (s : State) (f : ExactRT → ExactRT) :
    (s.upExact f).out = s.out := rfl

@[simp] theorem State.upExact_pending (s : State) (f : ExactRT → ExactRT) :
    (s.upExact f).pending = s.pending := rfl

@[simp] theorem State.upRepair_store (s : State) (f : RepairRT → RepairRT) :
    (s.upRepair f).store = s.store := rfl

@[simp] theorem State.upRepair_time (s : State) (f : RepairRT → RepairRT) :
    (s.upRepair f).time = s.time := rfl

@[simp] theorem State.upRepair_gen (s : State) (f : RepairRT → RepairRT) :
    (s.upRepair f).gen = s.gen := rfl

@[simp] theorem State.upRepair_route (s : State) (f : RepairRT → RepairRT) :
    (s.upRepair f).route = s.route := rfl

@[simp] theorem State.upRepair_exact (s : State) (f : RepairRT → RepairRT) :
    (s.upRepair f).exact = s.exact := rfl

@[simp] theorem State.upRepair_range (s : State) (f : RepairRT → RepairRT) :
    (s.upRepair f).range = s.range := rfl

@[simp] theorem State.upRepair_ports (s : State) (f : RepairRT → RepairRT) :
    (s.upRepair f).ports = s.ports := rfl

@[simp] theorem State.upRepair_fe (s : State) (f : RepairRT → RepairRT) :
    (s.upRepair f).fe = s.fe := rfl

@[simp] theorem State.upRepair_tm (s : State) (f : RepairRT → RepairRT) :
    (s.upRepair f).tm = s.tm := rfl

@[simp] theorem State.upRepair_sched (s : State) (f : RepairRT → RepairRT) :
    (s.upRepair f).sched = s.sched := rfl

@[simp] theorem State.upRepair_gates (s : State) (f : RepairRT → RepairRT) :
    (s.upRepair f).gates = s.gates := rfl

@[simp] theorem State.upRepair_shelf (s : State) (f : RepairRT → RepairRT) :
    (s.upRepair f).shelf = s.shelf := rfl

@[simp] theorem State.upRepair_mesh (s : State) (f : RepairRT → RepairRT) :
    (s.upRepair f).mesh = s.mesh := rfl

@[simp] theorem State.upRepair_tel (s : State) (f : RepairRT → RepairRT) :
    (s.upRepair f).tel = s.tel := rfl

@[simp] theorem State.upRepair_host (s : State) (f : RepairRT → RepairRT) :
    (s.upRepair f).host = s.host := rfl

@[simp] theorem State.upRepair_hbm (s : State) (f : RepairRT → RepairRT) :
    (s.upRepair f).hbm = s.hbm := rfl

@[simp] theorem State.upRepair_board (s : State) (f : RepairRT → RepairRT) :
    (s.upRepair f).board = s.board := rfl

@[simp] theorem State.upRepair_fw (s : State) (f : RepairRT → RepairRT) :
    (s.upRepair f).fw = s.fw := rfl

@[simp] theorem State.upRepair_boot (s : State) (f : RepairRT → RepairRT) :
    (s.upRepair f).boot = s.boot := rfl

@[simp] theorem State.upRepair_sessions (s : State) (f : RepairRT → RepairRT) :
    (s.upRepair f).sessions = s.sessions := rfl

@[simp] theorem State.upRepair_mbox (s : State) (f : RepairRT → RepairRT) :
    (s.upRepair f).mbox = s.mbox := rfl

@[simp] theorem State.upRepair_nextSess (s : State) (f : RepairRT → RepairRT) :
    (s.upRepair f).nextSess = s.nextSess := rfl

@[simp] theorem State.upRepair_nextHandle (s : State) (f : RepairRT → RepairRT) :
    (s.upRepair f).nextHandle = s.nextHandle := rfl

@[simp] theorem State.upRepair_nextSnap (s : State) (f : RepairRT → RepairRT) :
    (s.upRepair f).nextSnap = s.nextSnap := rfl

@[simp] theorem State.upRepair_commitSeq (s : State) (f : RepairRT → RepairRT) :
    (s.upRepair f).commitSeq = s.commitSeq := rfl

@[simp] theorem State.upRepair_changed (s : State) (f : RepairRT → RepairRT) :
    (s.upRepair f).changed = s.changed := rfl

@[simp] theorem State.upRepair_orderNext (s : State) (f : RepairRT → RepairRT) :
    (s.upRepair f).orderNext = s.orderNext := rfl

@[simp] theorem State.upRepair_waits (s : State) (f : RepairRT → RepairRT) :
    (s.upRepair f).waits = s.waits := rfl

@[simp] theorem State.upRepair_barq (s : State) (f : RepairRT → RepairRT) :
    (s.upRepair f).barq = s.barq := rfl

@[simp] theorem State.upRepair_orphans (s : State) (f : RepairRT → RepairRT) :
    (s.upRepair f).orphans = s.orphans := rfl

@[simp] theorem State.upRepair_chest (s : State) (f : RepairRT → RepairRT) :
    (s.upRepair f).chest = s.chest := rfl

@[simp] theorem State.upRepair_ao (s : State) (f : RepairRT → RepairRT) :
    (s.upRepair f).ao = s.ao := rfl

@[simp] theorem State.upRepair_pins (s : State) (f : RepairRT → RepairRT) :
    (s.upRepair f).pins = s.pins := rfl

@[simp] theorem State.upRepair_free (s : State) (f : RepairRT → RepairRT) :
    (s.upRepair f).free = s.free := rfl

@[simp] theorem State.upRepair_out (s : State) (f : RepairRT → RepairRT) :
    (s.upRepair f).out = s.out := rfl

@[simp] theorem State.upRepair_pending (s : State) (f : RepairRT → RepairRT) :
    (s.upRepair f).pending = s.pending := rfl

@[simp] theorem State.add64_time (s : State) (obj : ℕ) (row : ℕ) (fld : ℕ) (n : ℕ) :
    (s.add64 obj row fld n).time = s.time := by simp only [State.add64]; split <;> rfl

@[simp] theorem State.add64_gen (s : State) (obj : ℕ) (row : ℕ) (fld : ℕ) (n : ℕ) :
    (s.add64 obj row fld n).gen = s.gen := by simp only [State.add64]; split <;> rfl

@[simp] theorem State.add64_route (s : State) (obj : ℕ) (row : ℕ) (fld : ℕ) (n : ℕ) :
    (s.add64 obj row fld n).route = s.route := by simp only [State.add64]; split <;> rfl

@[simp] theorem State.add64_exact (s : State) (obj : ℕ) (row : ℕ) (fld : ℕ) (n : ℕ) :
    (s.add64 obj row fld n).exact = s.exact := by simp only [State.add64]; split <;> rfl

@[simp] theorem State.add64_range (s : State) (obj : ℕ) (row : ℕ) (fld : ℕ) (n : ℕ) :
    (s.add64 obj row fld n).range = s.range := by simp only [State.add64]; split <;> rfl

@[simp] theorem State.add64_repair (s : State) (obj : ℕ) (row : ℕ) (fld : ℕ) (n : ℕ) :
    (s.add64 obj row fld n).repair = s.repair := by simp only [State.add64]; split <;> rfl

@[simp] theorem State.add64_ports (s : State) (obj : ℕ) (row : ℕ) (fld : ℕ) (n : ℕ) :
    (s.add64 obj row fld n).ports = s.ports := by simp only [State.add64]; split <;> rfl

@[simp] theorem State.add64_fe (s : State) (obj : ℕ) (row : ℕ) (fld : ℕ) (n : ℕ) :
    (s.add64 obj row fld n).fe = s.fe := by simp only [State.add64]; split <;> rfl

@[simp] theorem State.add64_tm (s : State) (obj : ℕ) (row : ℕ) (fld : ℕ) (n : ℕ) :
    (s.add64 obj row fld n).tm = s.tm := by simp only [State.add64]; split <;> rfl

@[simp] theorem State.add64_sched (s : State) (obj : ℕ) (row : ℕ) (fld : ℕ) (n : ℕ) :
    (s.add64 obj row fld n).sched = s.sched := by simp only [State.add64]; split <;> rfl

@[simp] theorem State.add64_gates (s : State) (obj : ℕ) (row : ℕ) (fld : ℕ) (n : ℕ) :
    (s.add64 obj row fld n).gates = s.gates := by simp only [State.add64]; split <;> rfl

@[simp] theorem State.add64_shelf (s : State) (obj : ℕ) (row : ℕ) (fld : ℕ) (n : ℕ) :
    (s.add64 obj row fld n).shelf = s.shelf := by simp only [State.add64]; split <;> rfl

@[simp] theorem State.add64_mesh (s : State) (obj : ℕ) (row : ℕ) (fld : ℕ) (n : ℕ) :
    (s.add64 obj row fld n).mesh = s.mesh := by simp only [State.add64]; split <;> rfl

@[simp] theorem State.add64_tel (s : State) (obj : ℕ) (row : ℕ) (fld : ℕ) (n : ℕ) :
    (s.add64 obj row fld n).tel = s.tel := by simp only [State.add64]; split <;> rfl

@[simp] theorem State.add64_host (s : State) (obj : ℕ) (row : ℕ) (fld : ℕ) (n : ℕ) :
    (s.add64 obj row fld n).host = s.host := by simp only [State.add64]; split <;> rfl

@[simp] theorem State.add64_hbm (s : State) (obj : ℕ) (row : ℕ) (fld : ℕ) (n : ℕ) :
    (s.add64 obj row fld n).hbm = s.hbm := by simp only [State.add64]; split <;> rfl

@[simp] theorem State.add64_board (s : State) (obj : ℕ) (row : ℕ) (fld : ℕ) (n : ℕ) :
    (s.add64 obj row fld n).board = s.board := by simp only [State.add64]; split <;> rfl

@[simp] theorem State.add64_fw (s : State) (obj : ℕ) (row : ℕ) (fld : ℕ) (n : ℕ) :
    (s.add64 obj row fld n).fw = s.fw := by simp only [State.add64]; split <;> rfl

@[simp] theorem State.add64_boot (s : State) (obj : ℕ) (row : ℕ) (fld : ℕ) (n : ℕ) :
    (s.add64 obj row fld n).boot = s.boot := by simp only [State.add64]; split <;> rfl

@[simp] theorem State.add64_sessions (s : State) (obj : ℕ) (row : ℕ) (fld : ℕ) (n : ℕ) :
    (s.add64 obj row fld n).sessions = s.sessions := by simp only [State.add64]; split <;> rfl

@[simp] theorem State.add64_mbox (s : State) (obj : ℕ) (row : ℕ) (fld : ℕ) (n : ℕ) :
    (s.add64 obj row fld n).mbox = s.mbox := by simp only [State.add64]; split <;> rfl

@[simp] theorem State.add64_nextSess (s : State) (obj : ℕ) (row : ℕ) (fld : ℕ) (n : ℕ) :
    (s.add64 obj row fld n).nextSess = s.nextSess := by simp only [State.add64]; split <;> rfl

@[simp] theorem State.add64_nextHandle (s : State) (obj : ℕ) (row : ℕ) (fld : ℕ) (n : ℕ) :
    (s.add64 obj row fld n).nextHandle = s.nextHandle := by simp only [State.add64]; split <;> rfl

@[simp] theorem State.add64_nextSnap (s : State) (obj : ℕ) (row : ℕ) (fld : ℕ) (n : ℕ) :
    (s.add64 obj row fld n).nextSnap = s.nextSnap := by simp only [State.add64]; split <;> rfl

@[simp] theorem State.add64_commitSeq (s : State) (obj : ℕ) (row : ℕ) (fld : ℕ) (n : ℕ) :
    (s.add64 obj row fld n).commitSeq = s.commitSeq := by simp only [State.add64]; split <;> rfl

@[simp] theorem State.add64_changed (s : State) (obj : ℕ) (row : ℕ) (fld : ℕ) (n : ℕ) :
    (s.add64 obj row fld n).changed = s.changed := by simp only [State.add64]; split <;> rfl

@[simp] theorem State.add64_orderNext (s : State) (obj : ℕ) (row : ℕ) (fld : ℕ) (n : ℕ) :
    (s.add64 obj row fld n).orderNext = s.orderNext := by simp only [State.add64]; split <;> rfl

@[simp] theorem State.add64_waits (s : State) (obj : ℕ) (row : ℕ) (fld : ℕ) (n : ℕ) :
    (s.add64 obj row fld n).waits = s.waits := by simp only [State.add64]; split <;> rfl

@[simp] theorem State.add64_barq (s : State) (obj : ℕ) (row : ℕ) (fld : ℕ) (n : ℕ) :
    (s.add64 obj row fld n).barq = s.barq := by simp only [State.add64]; split <;> rfl

@[simp] theorem State.add64_orphans (s : State) (obj : ℕ) (row : ℕ) (fld : ℕ) (n : ℕ) :
    (s.add64 obj row fld n).orphans = s.orphans := by simp only [State.add64]; split <;> rfl

@[simp] theorem State.add64_chest (s : State) (obj : ℕ) (row : ℕ) (fld : ℕ) (n : ℕ) :
    (s.add64 obj row fld n).chest = s.chest := by simp only [State.add64]; split <;> rfl

@[simp] theorem State.add64_ao (s : State) (obj : ℕ) (row : ℕ) (fld : ℕ) (n : ℕ) :
    (s.add64 obj row fld n).ao = s.ao := by simp only [State.add64]; split <;> rfl

@[simp] theorem State.add64_pins (s : State) (obj : ℕ) (row : ℕ) (fld : ℕ) (n : ℕ) :
    (s.add64 obj row fld n).pins = s.pins := by simp only [State.add64]; split <;> rfl

@[simp] theorem State.add64_out (s : State) (obj : ℕ) (row : ℕ) (fld : ℕ) (n : ℕ) :
    (s.add64 obj row fld n).out = s.out := by simp only [State.add64]; split <;> rfl

@[simp] theorem State.add64_pending (s : State) (obj : ℕ) (row : ℕ) (fld : ℕ) (n : ℕ) :
    (s.add64 obj row fld n).pending = s.pending := by simp only [State.add64]; split <;> rfl

@[simp] theorem State.openGen_store (s : State) :
    (s.openGen).store = s.store := rfl

@[simp] theorem State.openGen_time (s : State) :
    (s.openGen).time = s.time := rfl

@[simp] theorem State.openGen_route (s : State) :
    (s.openGen).route = s.route := rfl

@[simp] theorem State.openGen_exact (s : State) :
    (s.openGen).exact = s.exact := rfl

@[simp] theorem State.openGen_range (s : State) :
    (s.openGen).range = s.range := rfl

@[simp] theorem State.openGen_repair (s : State) :
    (s.openGen).repair = s.repair := rfl

@[simp] theorem State.openGen_ports (s : State) :
    (s.openGen).ports = s.ports := rfl

@[simp] theorem State.openGen_fe (s : State) :
    (s.openGen).fe = s.fe := rfl

@[simp] theorem State.openGen_tm (s : State) :
    (s.openGen).tm = s.tm := rfl

@[simp] theorem State.openGen_sched (s : State) :
    (s.openGen).sched = s.sched := rfl

@[simp] theorem State.openGen_gates (s : State) :
    (s.openGen).gates = s.gates := rfl

@[simp] theorem State.openGen_shelf (s : State) :
    (s.openGen).shelf = s.shelf := rfl

@[simp] theorem State.openGen_mesh (s : State) :
    (s.openGen).mesh = s.mesh := rfl

@[simp] theorem State.openGen_tel (s : State) :
    (s.openGen).tel = s.tel := rfl

@[simp] theorem State.openGen_host (s : State) :
    (s.openGen).host = s.host := rfl

@[simp] theorem State.openGen_hbm (s : State) :
    (s.openGen).hbm = s.hbm := rfl

@[simp] theorem State.openGen_board (s : State) :
    (s.openGen).board = s.board := rfl

@[simp] theorem State.openGen_fw (s : State) :
    (s.openGen).fw = s.fw := rfl

@[simp] theorem State.openGen_boot (s : State) :
    (s.openGen).boot = s.boot := rfl

@[simp] theorem State.openGen_sessions (s : State) :
    (s.openGen).sessions = s.sessions := rfl

@[simp] theorem State.openGen_mbox (s : State) :
    (s.openGen).mbox = s.mbox := rfl

@[simp] theorem State.openGen_nextSess (s : State) :
    (s.openGen).nextSess = s.nextSess := rfl

@[simp] theorem State.openGen_nextHandle (s : State) :
    (s.openGen).nextHandle = s.nextHandle := rfl

@[simp] theorem State.openGen_nextSnap (s : State) :
    (s.openGen).nextSnap = s.nextSnap := rfl

@[simp] theorem State.openGen_commitSeq (s : State) :
    (s.openGen).commitSeq = s.commitSeq := rfl

@[simp] theorem State.openGen_changed (s : State) :
    (s.openGen).changed = s.changed := rfl

@[simp] theorem State.openGen_orderNext (s : State) :
    (s.openGen).orderNext = s.orderNext := rfl

@[simp] theorem State.openGen_waits (s : State) :
    (s.openGen).waits = s.waits := rfl

@[simp] theorem State.openGen_barq (s : State) :
    (s.openGen).barq = s.barq := rfl

@[simp] theorem State.openGen_orphans (s : State) :
    (s.openGen).orphans = s.orphans := rfl

@[simp] theorem State.openGen_chest (s : State) :
    (s.openGen).chest = s.chest := rfl

@[simp] theorem State.openGen_ao (s : State) :
    (s.openGen).ao = s.ao := rfl

@[simp] theorem State.openGen_pins (s : State) :
    (s.openGen).pins = s.pins := rfl

@[simp] theorem State.openGen_free (s : State) :
    (s.openGen).free = s.free := rfl

@[simp] theorem State.openGen_out (s : State) :
    (s.openGen).out = s.out := rfl

@[simp] theorem State.openGen_pending (s : State) :
    (s.openGen).pending = s.pending := rfl

@[simp] theorem State.upShelf_store (s : State) (f : ShelfRT → ShelfRT) :
    (s.upShelf f).store = s.store := rfl

@[simp] theorem State.upShelf_time (s : State) (f : ShelfRT → ShelfRT) :
    (s.upShelf f).time = s.time := rfl

@[simp] theorem State.upShelf_gen (s : State) (f : ShelfRT → ShelfRT) :
    (s.upShelf f).gen = s.gen := rfl

@[simp] theorem State.upShelf_route (s : State) (f : ShelfRT → ShelfRT) :
    (s.upShelf f).route = s.route := rfl

@[simp] theorem State.upShelf_exact (s : State) (f : ShelfRT → ShelfRT) :
    (s.upShelf f).exact = s.exact := rfl

@[simp] theorem State.upShelf_range (s : State) (f : ShelfRT → ShelfRT) :
    (s.upShelf f).range = s.range := rfl

@[simp] theorem State.upShelf_repair (s : State) (f : ShelfRT → ShelfRT) :
    (s.upShelf f).repair = s.repair := rfl

@[simp] theorem State.upShelf_ports (s : State) (f : ShelfRT → ShelfRT) :
    (s.upShelf f).ports = s.ports := rfl

@[simp] theorem State.upShelf_fe (s : State) (f : ShelfRT → ShelfRT) :
    (s.upShelf f).fe = s.fe := rfl

@[simp] theorem State.upShelf_tm (s : State) (f : ShelfRT → ShelfRT) :
    (s.upShelf f).tm = s.tm := rfl

@[simp] theorem State.upShelf_sched (s : State) (f : ShelfRT → ShelfRT) :
    (s.upShelf f).sched = s.sched := rfl

@[simp] theorem State.upShelf_gates (s : State) (f : ShelfRT → ShelfRT) :
    (s.upShelf f).gates = s.gates := rfl

@[simp] theorem State.upShelf_mesh (s : State) (f : ShelfRT → ShelfRT) :
    (s.upShelf f).mesh = s.mesh := rfl

@[simp] theorem State.upShelf_tel (s : State) (f : ShelfRT → ShelfRT) :
    (s.upShelf f).tel = s.tel := rfl

@[simp] theorem State.upShelf_host (s : State) (f : ShelfRT → ShelfRT) :
    (s.upShelf f).host = s.host := rfl

@[simp] theorem State.upShelf_hbm (s : State) (f : ShelfRT → ShelfRT) :
    (s.upShelf f).hbm = s.hbm := rfl

@[simp] theorem State.upShelf_board (s : State) (f : ShelfRT → ShelfRT) :
    (s.upShelf f).board = s.board := rfl

@[simp] theorem State.upShelf_fw (s : State) (f : ShelfRT → ShelfRT) :
    (s.upShelf f).fw = s.fw := rfl

@[simp] theorem State.upShelf_boot (s : State) (f : ShelfRT → ShelfRT) :
    (s.upShelf f).boot = s.boot := rfl

@[simp] theorem State.upShelf_sessions (s : State) (f : ShelfRT → ShelfRT) :
    (s.upShelf f).sessions = s.sessions := rfl

@[simp] theorem State.upShelf_mbox (s : State) (f : ShelfRT → ShelfRT) :
    (s.upShelf f).mbox = s.mbox := rfl

@[simp] theorem State.upShelf_nextSess (s : State) (f : ShelfRT → ShelfRT) :
    (s.upShelf f).nextSess = s.nextSess := rfl

@[simp] theorem State.upShelf_nextHandle (s : State) (f : ShelfRT → ShelfRT) :
    (s.upShelf f).nextHandle = s.nextHandle := rfl

@[simp] theorem State.upShelf_nextSnap (s : State) (f : ShelfRT → ShelfRT) :
    (s.upShelf f).nextSnap = s.nextSnap := rfl

@[simp] theorem State.upShelf_commitSeq (s : State) (f : ShelfRT → ShelfRT) :
    (s.upShelf f).commitSeq = s.commitSeq := rfl

@[simp] theorem State.upShelf_changed (s : State) (f : ShelfRT → ShelfRT) :
    (s.upShelf f).changed = s.changed := rfl

@[simp] theorem State.upShelf_orderNext (s : State) (f : ShelfRT → ShelfRT) :
    (s.upShelf f).orderNext = s.orderNext := rfl

@[simp] theorem State.upShelf_waits (s : State) (f : ShelfRT → ShelfRT) :
    (s.upShelf f).waits = s.waits := rfl

@[simp] theorem State.upShelf_barq (s : State) (f : ShelfRT → ShelfRT) :
    (s.upShelf f).barq = s.barq := rfl

@[simp] theorem State.upShelf_orphans (s : State) (f : ShelfRT → ShelfRT) :
    (s.upShelf f).orphans = s.orphans := rfl

@[simp] theorem State.upShelf_chest (s : State) (f : ShelfRT → ShelfRT) :
    (s.upShelf f).chest = s.chest := rfl

@[simp] theorem State.upShelf_ao (s : State) (f : ShelfRT → ShelfRT) :
    (s.upShelf f).ao = s.ao := rfl

@[simp] theorem State.upShelf_pins (s : State) (f : ShelfRT → ShelfRT) :
    (s.upShelf f).pins = s.pins := rfl

@[simp] theorem State.upShelf_free (s : State) (f : ShelfRT → ShelfRT) :
    (s.upShelf f).free = s.free := rfl

@[simp] theorem State.upShelf_out (s : State) (f : ShelfRT → ShelfRT) :
    (s.upShelf f).out = s.out := rfl

@[simp] theorem State.upShelf_pending (s : State) (f : ShelfRT → ShelfRT) :
    (s.upShelf f).pending = s.pending := rfl

@[simp] theorem State.upGen_store (s : State) (f : GenRT → GenRT) :
    (s.upGen f).store = s.store := rfl

@[simp] theorem State.upGen_time (s : State) (f : GenRT → GenRT) :
    (s.upGen f).time = s.time := rfl

@[simp] theorem State.upGen_route (s : State) (f : GenRT → GenRT) :
    (s.upGen f).route = s.route := rfl

@[simp] theorem State.upGen_exact (s : State) (f : GenRT → GenRT) :
    (s.upGen f).exact = s.exact := rfl

@[simp] theorem State.upGen_range (s : State) (f : GenRT → GenRT) :
    (s.upGen f).range = s.range := rfl

@[simp] theorem State.upGen_repair (s : State) (f : GenRT → GenRT) :
    (s.upGen f).repair = s.repair := rfl

@[simp] theorem State.upGen_ports (s : State) (f : GenRT → GenRT) :
    (s.upGen f).ports = s.ports := rfl

@[simp] theorem State.upGen_fe (s : State) (f : GenRT → GenRT) :
    (s.upGen f).fe = s.fe := rfl

@[simp] theorem State.upGen_tm (s : State) (f : GenRT → GenRT) :
    (s.upGen f).tm = s.tm := rfl

@[simp] theorem State.upGen_sched (s : State) (f : GenRT → GenRT) :
    (s.upGen f).sched = s.sched := rfl

@[simp] theorem State.upGen_gates (s : State) (f : GenRT → GenRT) :
    (s.upGen f).gates = s.gates := rfl

@[simp] theorem State.upGen_shelf (s : State) (f : GenRT → GenRT) :
    (s.upGen f).shelf = s.shelf := rfl

@[simp] theorem State.upGen_mesh (s : State) (f : GenRT → GenRT) :
    (s.upGen f).mesh = s.mesh := rfl

@[simp] theorem State.upGen_tel (s : State) (f : GenRT → GenRT) :
    (s.upGen f).tel = s.tel := rfl

@[simp] theorem State.upGen_host (s : State) (f : GenRT → GenRT) :
    (s.upGen f).host = s.host := rfl

@[simp] theorem State.upGen_hbm (s : State) (f : GenRT → GenRT) :
    (s.upGen f).hbm = s.hbm := rfl

@[simp] theorem State.upGen_board (s : State) (f : GenRT → GenRT) :
    (s.upGen f).board = s.board := rfl

@[simp] theorem State.upGen_fw (s : State) (f : GenRT → GenRT) :
    (s.upGen f).fw = s.fw := rfl

@[simp] theorem State.upGen_boot (s : State) (f : GenRT → GenRT) :
    (s.upGen f).boot = s.boot := rfl

@[simp] theorem State.upGen_sessions (s : State) (f : GenRT → GenRT) :
    (s.upGen f).sessions = s.sessions := rfl

@[simp] theorem State.upGen_mbox (s : State) (f : GenRT → GenRT) :
    (s.upGen f).mbox = s.mbox := rfl

@[simp] theorem State.upGen_nextSess (s : State) (f : GenRT → GenRT) :
    (s.upGen f).nextSess = s.nextSess := rfl

@[simp] theorem State.upGen_nextHandle (s : State) (f : GenRT → GenRT) :
    (s.upGen f).nextHandle = s.nextHandle := rfl

@[simp] theorem State.upGen_nextSnap (s : State) (f : GenRT → GenRT) :
    (s.upGen f).nextSnap = s.nextSnap := rfl

@[simp] theorem State.upGen_commitSeq (s : State) (f : GenRT → GenRT) :
    (s.upGen f).commitSeq = s.commitSeq := rfl

@[simp] theorem State.upGen_changed (s : State) (f : GenRT → GenRT) :
    (s.upGen f).changed = s.changed := rfl

@[simp] theorem State.upGen_orderNext (s : State) (f : GenRT → GenRT) :
    (s.upGen f).orderNext = s.orderNext := rfl

@[simp] theorem State.upGen_waits (s : State) (f : GenRT → GenRT) :
    (s.upGen f).waits = s.waits := rfl

@[simp] theorem State.upGen_barq (s : State) (f : GenRT → GenRT) :
    (s.upGen f).barq = s.barq := rfl

@[simp] theorem State.upGen_orphans (s : State) (f : GenRT → GenRT) :
    (s.upGen f).orphans = s.orphans := rfl

@[simp] theorem State.upGen_chest (s : State) (f : GenRT → GenRT) :
    (s.upGen f).chest = s.chest := rfl

@[simp] theorem State.upGen_ao (s : State) (f : GenRT → GenRT) :
    (s.upGen f).ao = s.ao := rfl

@[simp] theorem State.upGen_pins (s : State) (f : GenRT → GenRT) :
    (s.upGen f).pins = s.pins := rfl

@[simp] theorem State.upGen_free (s : State) (f : GenRT → GenRT) :
    (s.upGen f).free = s.free := rfl

@[simp] theorem State.upGen_out (s : State) (f : GenRT → GenRT) :
    (s.upGen f).out = s.out := rfl

@[simp] theorem State.upGen_pending (s : State) (f : GenRT → GenRT) :
    (s.upGen f).pending = s.pending := rfl

@[simp] theorem State.upRange_store (s : State) (f : RangeRT → RangeRT) :
    (s.upRange f).store = s.store := rfl

@[simp] theorem State.upRange_time (s : State) (f : RangeRT → RangeRT) :
    (s.upRange f).time = s.time := rfl

@[simp] theorem State.upRange_gen (s : State) (f : RangeRT → RangeRT) :
    (s.upRange f).gen = s.gen := rfl

@[simp] theorem State.upRange_route (s : State) (f : RangeRT → RangeRT) :
    (s.upRange f).route = s.route := rfl

@[simp] theorem State.upRange_exact (s : State) (f : RangeRT → RangeRT) :
    (s.upRange f).exact = s.exact := rfl

@[simp] theorem State.upRange_repair (s : State) (f : RangeRT → RangeRT) :
    (s.upRange f).repair = s.repair := rfl

@[simp] theorem State.upRange_ports (s : State) (f : RangeRT → RangeRT) :
    (s.upRange f).ports = s.ports := rfl

@[simp] theorem State.upRange_fe (s : State) (f : RangeRT → RangeRT) :
    (s.upRange f).fe = s.fe := rfl

@[simp] theorem State.upRange_tm (s : State) (f : RangeRT → RangeRT) :
    (s.upRange f).tm = s.tm := rfl

@[simp] theorem State.upRange_sched (s : State) (f : RangeRT → RangeRT) :
    (s.upRange f).sched = s.sched := rfl

@[simp] theorem State.upRange_gates (s : State) (f : RangeRT → RangeRT) :
    (s.upRange f).gates = s.gates := rfl

@[simp] theorem State.upRange_shelf (s : State) (f : RangeRT → RangeRT) :
    (s.upRange f).shelf = s.shelf := rfl

@[simp] theorem State.upRange_mesh (s : State) (f : RangeRT → RangeRT) :
    (s.upRange f).mesh = s.mesh := rfl

@[simp] theorem State.upRange_tel (s : State) (f : RangeRT → RangeRT) :
    (s.upRange f).tel = s.tel := rfl

@[simp] theorem State.upRange_host (s : State) (f : RangeRT → RangeRT) :
    (s.upRange f).host = s.host := rfl

@[simp] theorem State.upRange_hbm (s : State) (f : RangeRT → RangeRT) :
    (s.upRange f).hbm = s.hbm := rfl

@[simp] theorem State.upRange_board (s : State) (f : RangeRT → RangeRT) :
    (s.upRange f).board = s.board := rfl

@[simp] theorem State.upRange_fw (s : State) (f : RangeRT → RangeRT) :
    (s.upRange f).fw = s.fw := rfl

@[simp] theorem State.upRange_boot (s : State) (f : RangeRT → RangeRT) :
    (s.upRange f).boot = s.boot := rfl

@[simp] theorem State.upRange_sessions (s : State) (f : RangeRT → RangeRT) :
    (s.upRange f).sessions = s.sessions := rfl

@[simp] theorem State.upRange_mbox (s : State) (f : RangeRT → RangeRT) :
    (s.upRange f).mbox = s.mbox := rfl

@[simp] theorem State.upRange_nextSess (s : State) (f : RangeRT → RangeRT) :
    (s.upRange f).nextSess = s.nextSess := rfl

@[simp] theorem State.upRange_nextHandle (s : State) (f : RangeRT → RangeRT) :
    (s.upRange f).nextHandle = s.nextHandle := rfl

@[simp] theorem State.upRange_nextSnap (s : State) (f : RangeRT → RangeRT) :
    (s.upRange f).nextSnap = s.nextSnap := rfl

@[simp] theorem State.upRange_commitSeq (s : State) (f : RangeRT → RangeRT) :
    (s.upRange f).commitSeq = s.commitSeq := rfl

@[simp] theorem State.upRange_changed (s : State) (f : RangeRT → RangeRT) :
    (s.upRange f).changed = s.changed := rfl

@[simp] theorem State.upRange_orderNext (s : State) (f : RangeRT → RangeRT) :
    (s.upRange f).orderNext = s.orderNext := rfl

@[simp] theorem State.upRange_waits (s : State) (f : RangeRT → RangeRT) :
    (s.upRange f).waits = s.waits := rfl

@[simp] theorem State.upRange_barq (s : State) (f : RangeRT → RangeRT) :
    (s.upRange f).barq = s.barq := rfl

@[simp] theorem State.upRange_orphans (s : State) (f : RangeRT → RangeRT) :
    (s.upRange f).orphans = s.orphans := rfl

@[simp] theorem State.upRange_chest (s : State) (f : RangeRT → RangeRT) :
    (s.upRange f).chest = s.chest := rfl

@[simp] theorem State.upRange_ao (s : State) (f : RangeRT → RangeRT) :
    (s.upRange f).ao = s.ao := rfl

@[simp] theorem State.upRange_pins (s : State) (f : RangeRT → RangeRT) :
    (s.upRange f).pins = s.pins := rfl

@[simp] theorem State.upRange_free (s : State) (f : RangeRT → RangeRT) :
    (s.upRange f).free = s.free := rfl

@[simp] theorem State.upRange_out (s : State) (f : RangeRT → RangeRT) :
    (s.upRange f).out = s.out := rfl

@[simp] theorem State.upRange_pending (s : State) (f : RangeRT → RangeRT) :
    (s.upRange f).pending = s.pending := rfl

@[simp] theorem State.upTime_store (s : State) (f : TimeRT → TimeRT) :
    (s.upTime f).store = s.store := rfl

@[simp] theorem State.upTime_gen (s : State) (f : TimeRT → TimeRT) :
    (s.upTime f).gen = s.gen := rfl

@[simp] theorem State.upTime_route (s : State) (f : TimeRT → TimeRT) :
    (s.upTime f).route = s.route := rfl

@[simp] theorem State.upTime_exact (s : State) (f : TimeRT → TimeRT) :
    (s.upTime f).exact = s.exact := rfl

@[simp] theorem State.upTime_range (s : State) (f : TimeRT → TimeRT) :
    (s.upTime f).range = s.range := rfl

@[simp] theorem State.upTime_repair (s : State) (f : TimeRT → TimeRT) :
    (s.upTime f).repair = s.repair := rfl

@[simp] theorem State.upTime_ports (s : State) (f : TimeRT → TimeRT) :
    (s.upTime f).ports = s.ports := rfl

@[simp] theorem State.upTime_fe (s : State) (f : TimeRT → TimeRT) :
    (s.upTime f).fe = s.fe := rfl

@[simp] theorem State.upTime_tm (s : State) (f : TimeRT → TimeRT) :
    (s.upTime f).tm = s.tm := rfl

@[simp] theorem State.upTime_sched (s : State) (f : TimeRT → TimeRT) :
    (s.upTime f).sched = s.sched := rfl

@[simp] theorem State.upTime_gates (s : State) (f : TimeRT → TimeRT) :
    (s.upTime f).gates = s.gates := rfl

@[simp] theorem State.upTime_shelf (s : State) (f : TimeRT → TimeRT) :
    (s.upTime f).shelf = s.shelf := rfl

@[simp] theorem State.upTime_mesh (s : State) (f : TimeRT → TimeRT) :
    (s.upTime f).mesh = s.mesh := rfl

@[simp] theorem State.upTime_tel (s : State) (f : TimeRT → TimeRT) :
    (s.upTime f).tel = s.tel := rfl

@[simp] theorem State.upTime_host (s : State) (f : TimeRT → TimeRT) :
    (s.upTime f).host = s.host := rfl

@[simp] theorem State.upTime_hbm (s : State) (f : TimeRT → TimeRT) :
    (s.upTime f).hbm = s.hbm := rfl

@[simp] theorem State.upTime_board (s : State) (f : TimeRT → TimeRT) :
    (s.upTime f).board = s.board := rfl

@[simp] theorem State.upTime_fw (s : State) (f : TimeRT → TimeRT) :
    (s.upTime f).fw = s.fw := rfl

@[simp] theorem State.upTime_boot (s : State) (f : TimeRT → TimeRT) :
    (s.upTime f).boot = s.boot := rfl

@[simp] theorem State.upTime_sessions (s : State) (f : TimeRT → TimeRT) :
    (s.upTime f).sessions = s.sessions := rfl

@[simp] theorem State.upTime_mbox (s : State) (f : TimeRT → TimeRT) :
    (s.upTime f).mbox = s.mbox := rfl

@[simp] theorem State.upTime_nextSess (s : State) (f : TimeRT → TimeRT) :
    (s.upTime f).nextSess = s.nextSess := rfl

@[simp] theorem State.upTime_nextHandle (s : State) (f : TimeRT → TimeRT) :
    (s.upTime f).nextHandle = s.nextHandle := rfl

@[simp] theorem State.upTime_nextSnap (s : State) (f : TimeRT → TimeRT) :
    (s.upTime f).nextSnap = s.nextSnap := rfl

@[simp] theorem State.upTime_commitSeq (s : State) (f : TimeRT → TimeRT) :
    (s.upTime f).commitSeq = s.commitSeq := rfl

@[simp] theorem State.upTime_changed (s : State) (f : TimeRT → TimeRT) :
    (s.upTime f).changed = s.changed := rfl

@[simp] theorem State.upTime_orderNext (s : State) (f : TimeRT → TimeRT) :
    (s.upTime f).orderNext = s.orderNext := rfl

@[simp] theorem State.upTime_waits (s : State) (f : TimeRT → TimeRT) :
    (s.upTime f).waits = s.waits := rfl

@[simp] theorem State.upTime_barq (s : State) (f : TimeRT → TimeRT) :
    (s.upTime f).barq = s.barq := rfl

@[simp] theorem State.upTime_orphans (s : State) (f : TimeRT → TimeRT) :
    (s.upTime f).orphans = s.orphans := rfl

@[simp] theorem State.upTime_chest (s : State) (f : TimeRT → TimeRT) :
    (s.upTime f).chest = s.chest := rfl

@[simp] theorem State.upTime_ao (s : State) (f : TimeRT → TimeRT) :
    (s.upTime f).ao = s.ao := rfl

@[simp] theorem State.upTime_pins (s : State) (f : TimeRT → TimeRT) :
    (s.upTime f).pins = s.pins := rfl

@[simp] theorem State.upTime_free (s : State) (f : TimeRT → TimeRT) :
    (s.upTime f).free = s.free := rfl

@[simp] theorem State.upTime_out (s : State) (f : TimeRT → TimeRT) :
    (s.upTime f).out = s.out := rfl

@[simp] theorem State.upTime_pending (s : State) (f : TimeRT → TimeRT) :
    (s.upTime f).pending = s.pending := rfl

@[simp] theorem State.ws_time (s : State) (obj : ℕ) (v : ℕ) :
    (s.ws obj v).time = s.time := rfl

@[simp] theorem State.ws_gen (s : State) (obj : ℕ) (v : ℕ) :
    (s.ws obj v).gen = s.gen := rfl

@[simp] theorem State.ws_route (s : State) (obj : ℕ) (v : ℕ) :
    (s.ws obj v).route = s.route := rfl

@[simp] theorem State.ws_exact (s : State) (obj : ℕ) (v : ℕ) :
    (s.ws obj v).exact = s.exact := rfl

@[simp] theorem State.ws_range (s : State) (obj : ℕ) (v : ℕ) :
    (s.ws obj v).range = s.range := rfl

@[simp] theorem State.ws_repair (s : State) (obj : ℕ) (v : ℕ) :
    (s.ws obj v).repair = s.repair := rfl

@[simp] theorem State.ws_ports (s : State) (obj : ℕ) (v : ℕ) :
    (s.ws obj v).ports = s.ports := rfl

@[simp] theorem State.ws_fe (s : State) (obj : ℕ) (v : ℕ) :
    (s.ws obj v).fe = s.fe := rfl

@[simp] theorem State.ws_tm (s : State) (obj : ℕ) (v : ℕ) :
    (s.ws obj v).tm = s.tm := rfl

@[simp] theorem State.ws_sched (s : State) (obj : ℕ) (v : ℕ) :
    (s.ws obj v).sched = s.sched := rfl

@[simp] theorem State.ws_gates (s : State) (obj : ℕ) (v : ℕ) :
    (s.ws obj v).gates = s.gates := rfl

@[simp] theorem State.ws_shelf (s : State) (obj : ℕ) (v : ℕ) :
    (s.ws obj v).shelf = s.shelf := rfl

@[simp] theorem State.ws_mesh (s : State) (obj : ℕ) (v : ℕ) :
    (s.ws obj v).mesh = s.mesh := rfl

@[simp] theorem State.ws_tel (s : State) (obj : ℕ) (v : ℕ) :
    (s.ws obj v).tel = s.tel := rfl

@[simp] theorem State.ws_host (s : State) (obj : ℕ) (v : ℕ) :
    (s.ws obj v).host = s.host := rfl

@[simp] theorem State.ws_hbm (s : State) (obj : ℕ) (v : ℕ) :
    (s.ws obj v).hbm = s.hbm := rfl

@[simp] theorem State.ws_board (s : State) (obj : ℕ) (v : ℕ) :
    (s.ws obj v).board = s.board := rfl

@[simp] theorem State.ws_fw (s : State) (obj : ℕ) (v : ℕ) :
    (s.ws obj v).fw = s.fw := rfl

@[simp] theorem State.ws_boot (s : State) (obj : ℕ) (v : ℕ) :
    (s.ws obj v).boot = s.boot := rfl

@[simp] theorem State.ws_sessions (s : State) (obj : ℕ) (v : ℕ) :
    (s.ws obj v).sessions = s.sessions := rfl

@[simp] theorem State.ws_mbox (s : State) (obj : ℕ) (v : ℕ) :
    (s.ws obj v).mbox = s.mbox := rfl

@[simp] theorem State.ws_nextSess (s : State) (obj : ℕ) (v : ℕ) :
    (s.ws obj v).nextSess = s.nextSess := rfl

@[simp] theorem State.ws_nextHandle (s : State) (obj : ℕ) (v : ℕ) :
    (s.ws obj v).nextHandle = s.nextHandle := rfl

@[simp] theorem State.ws_nextSnap (s : State) (obj : ℕ) (v : ℕ) :
    (s.ws obj v).nextSnap = s.nextSnap := rfl

@[simp] theorem State.ws_commitSeq (s : State) (obj : ℕ) (v : ℕ) :
    (s.ws obj v).commitSeq = s.commitSeq := rfl

@[simp] theorem State.ws_changed (s : State) (obj : ℕ) (v : ℕ) :
    (s.ws obj v).changed = s.changed := rfl

@[simp] theorem State.ws_orderNext (s : State) (obj : ℕ) (v : ℕ) :
    (s.ws obj v).orderNext = s.orderNext := rfl

@[simp] theorem State.ws_waits (s : State) (obj : ℕ) (v : ℕ) :
    (s.ws obj v).waits = s.waits := rfl

@[simp] theorem State.ws_barq (s : State) (obj : ℕ) (v : ℕ) :
    (s.ws obj v).barq = s.barq := rfl

@[simp] theorem State.ws_orphans (s : State) (obj : ℕ) (v : ℕ) :
    (s.ws obj v).orphans = s.orphans := rfl

@[simp] theorem State.ws_chest (s : State) (obj : ℕ) (v : ℕ) :
    (s.ws obj v).chest = s.chest := rfl

@[simp] theorem State.ws_ao (s : State) (obj : ℕ) (v : ℕ) :
    (s.ws obj v).ao = s.ao := rfl

@[simp] theorem State.ws_pins (s : State) (obj : ℕ) (v : ℕ) :
    (s.ws obj v).pins = s.pins := rfl

@[simp] theorem State.ws_free (s : State) (obj : ℕ) (v : ℕ) :
    (s.ws obj v).free = s.free := rfl

@[simp] theorem State.ws_out (s : State) (obj : ℕ) (v : ℕ) :
    (s.ws obj v).out = s.out := rfl

@[simp] theorem State.ws_pending (s : State) (obj : ℕ) (v : ℕ) :
    (s.ws obj v).pending = s.pending := rfl

@[simp] theorem State.wr_time (s : State) (obj : ℕ) (row : ℕ) (fld : ℕ) (v : ℕ) :
    (s.wr obj row fld v).time = s.time := rfl

@[simp] theorem State.wr_gen (s : State) (obj : ℕ) (row : ℕ) (fld : ℕ) (v : ℕ) :
    (s.wr obj row fld v).gen = s.gen := rfl

@[simp] theorem State.wr_route (s : State) (obj : ℕ) (row : ℕ) (fld : ℕ) (v : ℕ) :
    (s.wr obj row fld v).route = s.route := rfl

@[simp] theorem State.wr_exact (s : State) (obj : ℕ) (row : ℕ) (fld : ℕ) (v : ℕ) :
    (s.wr obj row fld v).exact = s.exact := rfl

@[simp] theorem State.wr_range (s : State) (obj : ℕ) (row : ℕ) (fld : ℕ) (v : ℕ) :
    (s.wr obj row fld v).range = s.range := rfl

@[simp] theorem State.wr_repair (s : State) (obj : ℕ) (row : ℕ) (fld : ℕ) (v : ℕ) :
    (s.wr obj row fld v).repair = s.repair := rfl

@[simp] theorem State.wr_ports (s : State) (obj : ℕ) (row : ℕ) (fld : ℕ) (v : ℕ) :
    (s.wr obj row fld v).ports = s.ports := rfl

@[simp] theorem State.wr_fe (s : State) (obj : ℕ) (row : ℕ) (fld : ℕ) (v : ℕ) :
    (s.wr obj row fld v).fe = s.fe := rfl

@[simp] theorem State.wr_tm (s : State) (obj : ℕ) (row : ℕ) (fld : ℕ) (v : ℕ) :
    (s.wr obj row fld v).tm = s.tm := rfl

@[simp] theorem State.wr_sched (s : State) (obj : ℕ) (row : ℕ) (fld : ℕ) (v : ℕ) :
    (s.wr obj row fld v).sched = s.sched := rfl

@[simp] theorem State.wr_gates (s : State) (obj : ℕ) (row : ℕ) (fld : ℕ) (v : ℕ) :
    (s.wr obj row fld v).gates = s.gates := rfl

@[simp] theorem State.wr_shelf (s : State) (obj : ℕ) (row : ℕ) (fld : ℕ) (v : ℕ) :
    (s.wr obj row fld v).shelf = s.shelf := rfl

@[simp] theorem State.wr_mesh (s : State) (obj : ℕ) (row : ℕ) (fld : ℕ) (v : ℕ) :
    (s.wr obj row fld v).mesh = s.mesh := rfl

@[simp] theorem State.wr_tel (s : State) (obj : ℕ) (row : ℕ) (fld : ℕ) (v : ℕ) :
    (s.wr obj row fld v).tel = s.tel := rfl

@[simp] theorem State.wr_host (s : State) (obj : ℕ) (row : ℕ) (fld : ℕ) (v : ℕ) :
    (s.wr obj row fld v).host = s.host := rfl

@[simp] theorem State.wr_hbm (s : State) (obj : ℕ) (row : ℕ) (fld : ℕ) (v : ℕ) :
    (s.wr obj row fld v).hbm = s.hbm := rfl

@[simp] theorem State.wr_board (s : State) (obj : ℕ) (row : ℕ) (fld : ℕ) (v : ℕ) :
    (s.wr obj row fld v).board = s.board := rfl

@[simp] theorem State.wr_fw (s : State) (obj : ℕ) (row : ℕ) (fld : ℕ) (v : ℕ) :
    (s.wr obj row fld v).fw = s.fw := rfl

@[simp] theorem State.wr_boot (s : State) (obj : ℕ) (row : ℕ) (fld : ℕ) (v : ℕ) :
    (s.wr obj row fld v).boot = s.boot := rfl

@[simp] theorem State.wr_sessions (s : State) (obj : ℕ) (row : ℕ) (fld : ℕ) (v : ℕ) :
    (s.wr obj row fld v).sessions = s.sessions := rfl

@[simp] theorem State.wr_mbox (s : State) (obj : ℕ) (row : ℕ) (fld : ℕ) (v : ℕ) :
    (s.wr obj row fld v).mbox = s.mbox := rfl

@[simp] theorem State.wr_nextSess (s : State) (obj : ℕ) (row : ℕ) (fld : ℕ) (v : ℕ) :
    (s.wr obj row fld v).nextSess = s.nextSess := rfl

@[simp] theorem State.wr_nextHandle (s : State) (obj : ℕ) (row : ℕ) (fld : ℕ) (v : ℕ) :
    (s.wr obj row fld v).nextHandle = s.nextHandle := rfl

@[simp] theorem State.wr_nextSnap (s : State) (obj : ℕ) (row : ℕ) (fld : ℕ) (v : ℕ) :
    (s.wr obj row fld v).nextSnap = s.nextSnap := rfl

@[simp] theorem State.wr_commitSeq (s : State) (obj : ℕ) (row : ℕ) (fld : ℕ) (v : ℕ) :
    (s.wr obj row fld v).commitSeq = s.commitSeq := rfl

@[simp] theorem State.wr_changed (s : State) (obj : ℕ) (row : ℕ) (fld : ℕ) (v : ℕ) :
    (s.wr obj row fld v).changed = s.changed := rfl

@[simp] theorem State.wr_orderNext (s : State) (obj : ℕ) (row : ℕ) (fld : ℕ) (v : ℕ) :
    (s.wr obj row fld v).orderNext = s.orderNext := rfl

@[simp] theorem State.wr_waits (s : State) (obj : ℕ) (row : ℕ) (fld : ℕ) (v : ℕ) :
    (s.wr obj row fld v).waits = s.waits := rfl

@[simp] theorem State.wr_barq (s : State) (obj : ℕ) (row : ℕ) (fld : ℕ) (v : ℕ) :
    (s.wr obj row fld v).barq = s.barq := rfl

@[simp] theorem State.wr_orphans (s : State) (obj : ℕ) (row : ℕ) (fld : ℕ) (v : ℕ) :
    (s.wr obj row fld v).orphans = s.orphans := rfl

@[simp] theorem State.wr_chest (s : State) (obj : ℕ) (row : ℕ) (fld : ℕ) (v : ℕ) :
    (s.wr obj row fld v).chest = s.chest := rfl

@[simp] theorem State.wr_ao (s : State) (obj : ℕ) (row : ℕ) (fld : ℕ) (v : ℕ) :
    (s.wr obj row fld v).ao = s.ao := rfl

@[simp] theorem State.wr_pins (s : State) (obj : ℕ) (row : ℕ) (fld : ℕ) (v : ℕ) :
    (s.wr obj row fld v).pins = s.pins := rfl

@[simp] theorem State.wr_free (s : State) (obj : ℕ) (row : ℕ) (fld : ℕ) (v : ℕ) :
    (s.wr obj row fld v).free = s.free := rfl

@[simp] theorem State.wr_out (s : State) (obj : ℕ) (row : ℕ) (fld : ℕ) (v : ℕ) :
    (s.wr obj row fld v).out = s.out := rfl

@[simp] theorem State.wr_pending (s : State) (obj : ℕ) (row : ℕ) (fld : ℕ) (v : ℕ) :
    (s.wr obj row fld v).pending = s.pending := rfl

@[simp] theorem State.upBoard_store (s : State) (f : BoardRT → BoardRT) :
    (s.upBoard f).store = s.store := rfl

@[simp] theorem State.upBoard_time (s : State) (f : BoardRT → BoardRT) :
    (s.upBoard f).time = s.time := rfl

@[simp] theorem State.upBoard_gen (s : State) (f : BoardRT → BoardRT) :
    (s.upBoard f).gen = s.gen := rfl

@[simp] theorem State.upBoard_route (s : State) (f : BoardRT → BoardRT) :
    (s.upBoard f).route = s.route := rfl

@[simp] theorem State.upBoard_exact (s : State) (f : BoardRT → BoardRT) :
    (s.upBoard f).exact = s.exact := rfl

@[simp] theorem State.upBoard_range (s : State) (f : BoardRT → BoardRT) :
    (s.upBoard f).range = s.range := rfl

@[simp] theorem State.upBoard_repair (s : State) (f : BoardRT → BoardRT) :
    (s.upBoard f).repair = s.repair := rfl

@[simp] theorem State.upBoard_ports (s : State) (f : BoardRT → BoardRT) :
    (s.upBoard f).ports = s.ports := rfl

@[simp] theorem State.upBoard_fe (s : State) (f : BoardRT → BoardRT) :
    (s.upBoard f).fe = s.fe := rfl

@[simp] theorem State.upBoard_tm (s : State) (f : BoardRT → BoardRT) :
    (s.upBoard f).tm = s.tm := rfl

@[simp] theorem State.upBoard_sched (s : State) (f : BoardRT → BoardRT) :
    (s.upBoard f).sched = s.sched := rfl

@[simp] theorem State.upBoard_gates (s : State) (f : BoardRT → BoardRT) :
    (s.upBoard f).gates = s.gates := rfl

@[simp] theorem State.upBoard_shelf (s : State) (f : BoardRT → BoardRT) :
    (s.upBoard f).shelf = s.shelf := rfl

@[simp] theorem State.upBoard_mesh (s : State) (f : BoardRT → BoardRT) :
    (s.upBoard f).mesh = s.mesh := rfl

@[simp] theorem State.upBoard_tel (s : State) (f : BoardRT → BoardRT) :
    (s.upBoard f).tel = s.tel := rfl

@[simp] theorem State.upBoard_host (s : State) (f : BoardRT → BoardRT) :
    (s.upBoard f).host = s.host := rfl

@[simp] theorem State.upBoard_hbm (s : State) (f : BoardRT → BoardRT) :
    (s.upBoard f).hbm = s.hbm := rfl

@[simp] theorem State.upBoard_fw (s : State) (f : BoardRT → BoardRT) :
    (s.upBoard f).fw = s.fw := rfl

@[simp] theorem State.upBoard_boot (s : State) (f : BoardRT → BoardRT) :
    (s.upBoard f).boot = s.boot := rfl

@[simp] theorem State.upBoard_sessions (s : State) (f : BoardRT → BoardRT) :
    (s.upBoard f).sessions = s.sessions := rfl

@[simp] theorem State.upBoard_mbox (s : State) (f : BoardRT → BoardRT) :
    (s.upBoard f).mbox = s.mbox := rfl

@[simp] theorem State.upBoard_nextSess (s : State) (f : BoardRT → BoardRT) :
    (s.upBoard f).nextSess = s.nextSess := rfl

@[simp] theorem State.upBoard_nextHandle (s : State) (f : BoardRT → BoardRT) :
    (s.upBoard f).nextHandle = s.nextHandle := rfl

@[simp] theorem State.upBoard_nextSnap (s : State) (f : BoardRT → BoardRT) :
    (s.upBoard f).nextSnap = s.nextSnap := rfl

@[simp] theorem State.upBoard_commitSeq (s : State) (f : BoardRT → BoardRT) :
    (s.upBoard f).commitSeq = s.commitSeq := rfl

@[simp] theorem State.upBoard_changed (s : State) (f : BoardRT → BoardRT) :
    (s.upBoard f).changed = s.changed := rfl

@[simp] theorem State.upBoard_orderNext (s : State) (f : BoardRT → BoardRT) :
    (s.upBoard f).orderNext = s.orderNext := rfl

@[simp] theorem State.upBoard_waits (s : State) (f : BoardRT → BoardRT) :
    (s.upBoard f).waits = s.waits := rfl

@[simp] theorem State.upBoard_barq (s : State) (f : BoardRT → BoardRT) :
    (s.upBoard f).barq = s.barq := rfl

@[simp] theorem State.upBoard_orphans (s : State) (f : BoardRT → BoardRT) :
    (s.upBoard f).orphans = s.orphans := rfl

@[simp] theorem State.upBoard_chest (s : State) (f : BoardRT → BoardRT) :
    (s.upBoard f).chest = s.chest := rfl

@[simp] theorem State.upBoard_ao (s : State) (f : BoardRT → BoardRT) :
    (s.upBoard f).ao = s.ao := rfl

@[simp] theorem State.upBoard_pins (s : State) (f : BoardRT → BoardRT) :
    (s.upBoard f).pins = s.pins := rfl

@[simp] theorem State.upBoard_free (s : State) (f : BoardRT → BoardRT) :
    (s.upBoard f).free = s.free := rfl

@[simp] theorem State.upBoard_out (s : State) (f : BoardRT → BoardRT) :
    (s.upBoard f).out = s.out := rfl

@[simp] theorem State.upBoard_pending (s : State) (f : BoardRT → BoardRT) :
    (s.upBoard f).pending = s.pending := rfl

@[simp] theorem State.upFe_store (s : State) (f : FeRT → FeRT) :
    (s.upFe f).store = s.store := rfl

@[simp] theorem State.upFe_time (s : State) (f : FeRT → FeRT) :
    (s.upFe f).time = s.time := rfl

@[simp] theorem State.upFe_gen (s : State) (f : FeRT → FeRT) :
    (s.upFe f).gen = s.gen := rfl

@[simp] theorem State.upFe_route (s : State) (f : FeRT → FeRT) :
    (s.upFe f).route = s.route := rfl

@[simp] theorem State.upFe_exact (s : State) (f : FeRT → FeRT) :
    (s.upFe f).exact = s.exact := rfl

@[simp] theorem State.upFe_range (s : State) (f : FeRT → FeRT) :
    (s.upFe f).range = s.range := rfl

@[simp] theorem State.upFe_repair (s : State) (f : FeRT → FeRT) :
    (s.upFe f).repair = s.repair := rfl

@[simp] theorem State.upFe_ports (s : State) (f : FeRT → FeRT) :
    (s.upFe f).ports = s.ports := rfl

@[simp] theorem State.upFe_tm (s : State) (f : FeRT → FeRT) :
    (s.upFe f).tm = s.tm := rfl

@[simp] theorem State.upFe_sched (s : State) (f : FeRT → FeRT) :
    (s.upFe f).sched = s.sched := rfl

@[simp] theorem State.upFe_gates (s : State) (f : FeRT → FeRT) :
    (s.upFe f).gates = s.gates := rfl

@[simp] theorem State.upFe_shelf (s : State) (f : FeRT → FeRT) :
    (s.upFe f).shelf = s.shelf := rfl

@[simp] theorem State.upFe_mesh (s : State) (f : FeRT → FeRT) :
    (s.upFe f).mesh = s.mesh := rfl

@[simp] theorem State.upFe_tel (s : State) (f : FeRT → FeRT) :
    (s.upFe f).tel = s.tel := rfl

@[simp] theorem State.upFe_host (s : State) (f : FeRT → FeRT) :
    (s.upFe f).host = s.host := rfl

@[simp] theorem State.upFe_hbm (s : State) (f : FeRT → FeRT) :
    (s.upFe f).hbm = s.hbm := rfl

@[simp] theorem State.upFe_board (s : State) (f : FeRT → FeRT) :
    (s.upFe f).board = s.board := rfl

@[simp] theorem State.upFe_fw (s : State) (f : FeRT → FeRT) :
    (s.upFe f).fw = s.fw := rfl

@[simp] theorem State.upFe_boot (s : State) (f : FeRT → FeRT) :
    (s.upFe f).boot = s.boot := rfl

@[simp] theorem State.upFe_sessions (s : State) (f : FeRT → FeRT) :
    (s.upFe f).sessions = s.sessions := rfl

@[simp] theorem State.upFe_mbox (s : State) (f : FeRT → FeRT) :
    (s.upFe f).mbox = s.mbox := rfl

@[simp] theorem State.upFe_nextSess (s : State) (f : FeRT → FeRT) :
    (s.upFe f).nextSess = s.nextSess := rfl

@[simp] theorem State.upFe_nextHandle (s : State) (f : FeRT → FeRT) :
    (s.upFe f).nextHandle = s.nextHandle := rfl

@[simp] theorem State.upFe_nextSnap (s : State) (f : FeRT → FeRT) :
    (s.upFe f).nextSnap = s.nextSnap := rfl

@[simp] theorem State.upFe_commitSeq (s : State) (f : FeRT → FeRT) :
    (s.upFe f).commitSeq = s.commitSeq := rfl

@[simp] theorem State.upFe_changed (s : State) (f : FeRT → FeRT) :
    (s.upFe f).changed = s.changed := rfl

@[simp] theorem State.upFe_orderNext (s : State) (f : FeRT → FeRT) :
    (s.upFe f).orderNext = s.orderNext := rfl

@[simp] theorem State.upFe_waits (s : State) (f : FeRT → FeRT) :
    (s.upFe f).waits = s.waits := rfl

@[simp] theorem State.upFe_barq (s : State) (f : FeRT → FeRT) :
    (s.upFe f).barq = s.barq := rfl

@[simp] theorem State.upFe_orphans (s : State) (f : FeRT → FeRT) :
    (s.upFe f).orphans = s.orphans := rfl

@[simp] theorem State.upFe_chest (s : State) (f : FeRT → FeRT) :
    (s.upFe f).chest = s.chest := rfl

@[simp] theorem State.upFe_ao (s : State) (f : FeRT → FeRT) :
    (s.upFe f).ao = s.ao := rfl

@[simp] theorem State.upFe_pins (s : State) (f : FeRT → FeRT) :
    (s.upFe f).pins = s.pins := rfl

@[simp] theorem State.upFe_free (s : State) (f : FeRT → FeRT) :
    (s.upFe f).free = s.free := rfl

@[simp] theorem State.upFe_out (s : State) (f : FeRT → FeRT) :
    (s.upFe f).out = s.out := rfl

@[simp] theorem State.upFe_pending (s : State) (f : FeRT → FeRT) :
    (s.upFe f).pending = s.pending := rfl

@[simp] theorem State.upRoute_store (s : State) (f : RouteRT → RouteRT) :
    (s.upRoute f).store = s.store := rfl

@[simp] theorem State.upRoute_time (s : State) (f : RouteRT → RouteRT) :
    (s.upRoute f).time = s.time := rfl

@[simp] theorem State.upRoute_gen (s : State) (f : RouteRT → RouteRT) :
    (s.upRoute f).gen = s.gen := rfl

@[simp] theorem State.upRoute_exact (s : State) (f : RouteRT → RouteRT) :
    (s.upRoute f).exact = s.exact := rfl

@[simp] theorem State.upRoute_range (s : State) (f : RouteRT → RouteRT) :
    (s.upRoute f).range = s.range := rfl

@[simp] theorem State.upRoute_repair (s : State) (f : RouteRT → RouteRT) :
    (s.upRoute f).repair = s.repair := rfl

@[simp] theorem State.upRoute_ports (s : State) (f : RouteRT → RouteRT) :
    (s.upRoute f).ports = s.ports := rfl

@[simp] theorem State.upRoute_fe (s : State) (f : RouteRT → RouteRT) :
    (s.upRoute f).fe = s.fe := rfl

@[simp] theorem State.upRoute_tm (s : State) (f : RouteRT → RouteRT) :
    (s.upRoute f).tm = s.tm := rfl

@[simp] theorem State.upRoute_sched (s : State) (f : RouteRT → RouteRT) :
    (s.upRoute f).sched = s.sched := rfl

@[simp] theorem State.upRoute_gates (s : State) (f : RouteRT → RouteRT) :
    (s.upRoute f).gates = s.gates := rfl

@[simp] theorem State.upRoute_shelf (s : State) (f : RouteRT → RouteRT) :
    (s.upRoute f).shelf = s.shelf := rfl

@[simp] theorem State.upRoute_mesh (s : State) (f : RouteRT → RouteRT) :
    (s.upRoute f).mesh = s.mesh := rfl

@[simp] theorem State.upRoute_tel (s : State) (f : RouteRT → RouteRT) :
    (s.upRoute f).tel = s.tel := rfl

@[simp] theorem State.upRoute_host (s : State) (f : RouteRT → RouteRT) :
    (s.upRoute f).host = s.host := rfl

@[simp] theorem State.upRoute_hbm (s : State) (f : RouteRT → RouteRT) :
    (s.upRoute f).hbm = s.hbm := rfl

@[simp] theorem State.upRoute_board (s : State) (f : RouteRT → RouteRT) :
    (s.upRoute f).board = s.board := rfl

@[simp] theorem State.upRoute_fw (s : State) (f : RouteRT → RouteRT) :
    (s.upRoute f).fw = s.fw := rfl

@[simp] theorem State.upRoute_boot (s : State) (f : RouteRT → RouteRT) :
    (s.upRoute f).boot = s.boot := rfl

@[simp] theorem State.upRoute_sessions (s : State) (f : RouteRT → RouteRT) :
    (s.upRoute f).sessions = s.sessions := rfl

@[simp] theorem State.upRoute_mbox (s : State) (f : RouteRT → RouteRT) :
    (s.upRoute f).mbox = s.mbox := rfl

@[simp] theorem State.upRoute_nextSess (s : State) (f : RouteRT → RouteRT) :
    (s.upRoute f).nextSess = s.nextSess := rfl

@[simp] theorem State.upRoute_nextHandle (s : State) (f : RouteRT → RouteRT) :
    (s.upRoute f).nextHandle = s.nextHandle := rfl

@[simp] theorem State.upRoute_nextSnap (s : State) (f : RouteRT → RouteRT) :
    (s.upRoute f).nextSnap = s.nextSnap := rfl

@[simp] theorem State.upRoute_commitSeq (s : State) (f : RouteRT → RouteRT) :
    (s.upRoute f).commitSeq = s.commitSeq := rfl

@[simp] theorem State.upRoute_changed (s : State) (f : RouteRT → RouteRT) :
    (s.upRoute f).changed = s.changed := rfl

@[simp] theorem State.upRoute_orderNext (s : State) (f : RouteRT → RouteRT) :
    (s.upRoute f).orderNext = s.orderNext := rfl

@[simp] theorem State.upRoute_waits (s : State) (f : RouteRT → RouteRT) :
    (s.upRoute f).waits = s.waits := rfl

@[simp] theorem State.upRoute_barq (s : State) (f : RouteRT → RouteRT) :
    (s.upRoute f).barq = s.barq := rfl

@[simp] theorem State.upRoute_orphans (s : State) (f : RouteRT → RouteRT) :
    (s.upRoute f).orphans = s.orphans := rfl

@[simp] theorem State.upRoute_chest (s : State) (f : RouteRT → RouteRT) :
    (s.upRoute f).chest = s.chest := rfl

@[simp] theorem State.upRoute_ao (s : State) (f : RouteRT → RouteRT) :
    (s.upRoute f).ao = s.ao := rfl

@[simp] theorem State.upRoute_pins (s : State) (f : RouteRT → RouteRT) :
    (s.upRoute f).pins = s.pins := rfl

@[simp] theorem State.upRoute_free (s : State) (f : RouteRT → RouteRT) :
    (s.upRoute f).free = s.free := rfl

@[simp] theorem State.upRoute_out (s : State) (f : RouteRT → RouteRT) :
    (s.upRoute f).out = s.out := rfl

@[simp] theorem State.upRoute_pending (s : State) (f : RouteRT → RouteRT) :
    (s.upRoute f).pending = s.pending := rfl

@[simp] theorem State.emit_store (s : State) (o : Output) :
    (s.emit o).store = s.store := rfl

@[simp] theorem State.emit_time (s : State) (o : Output) :
    (s.emit o).time = s.time := rfl

@[simp] theorem State.emit_gen (s : State) (o : Output) :
    (s.emit o).gen = s.gen := rfl

@[simp] theorem State.emit_route (s : State) (o : Output) :
    (s.emit o).route = s.route := rfl

@[simp] theorem State.emit_exact (s : State) (o : Output) :
    (s.emit o).exact = s.exact := rfl

@[simp] theorem State.emit_range (s : State) (o : Output) :
    (s.emit o).range = s.range := rfl

@[simp] theorem State.emit_repair (s : State) (o : Output) :
    (s.emit o).repair = s.repair := rfl

@[simp] theorem State.emit_ports (s : State) (o : Output) :
    (s.emit o).ports = s.ports := rfl

@[simp] theorem State.emit_fe (s : State) (o : Output) :
    (s.emit o).fe = s.fe := rfl

@[simp] theorem State.emit_tm (s : State) (o : Output) :
    (s.emit o).tm = s.tm := rfl

@[simp] theorem State.emit_sched (s : State) (o : Output) :
    (s.emit o).sched = s.sched := rfl

@[simp] theorem State.emit_gates (s : State) (o : Output) :
    (s.emit o).gates = s.gates := rfl

@[simp] theorem State.emit_shelf (s : State) (o : Output) :
    (s.emit o).shelf = s.shelf := rfl

@[simp] theorem State.emit_mesh (s : State) (o : Output) :
    (s.emit o).mesh = s.mesh := rfl

@[simp] theorem State.emit_tel (s : State) (o : Output) :
    (s.emit o).tel = s.tel := rfl

@[simp] theorem State.emit_host (s : State) (o : Output) :
    (s.emit o).host = s.host := rfl

@[simp] theorem State.emit_hbm (s : State) (o : Output) :
    (s.emit o).hbm = s.hbm := rfl

@[simp] theorem State.emit_board (s : State) (o : Output) :
    (s.emit o).board = s.board := rfl

@[simp] theorem State.emit_fw (s : State) (o : Output) :
    (s.emit o).fw = s.fw := rfl

@[simp] theorem State.emit_boot (s : State) (o : Output) :
    (s.emit o).boot = s.boot := rfl

@[simp] theorem State.emit_sessions (s : State) (o : Output) :
    (s.emit o).sessions = s.sessions := rfl

@[simp] theorem State.emit_mbox (s : State) (o : Output) :
    (s.emit o).mbox = s.mbox := rfl

@[simp] theorem State.emit_nextSess (s : State) (o : Output) :
    (s.emit o).nextSess = s.nextSess := rfl

@[simp] theorem State.emit_nextHandle (s : State) (o : Output) :
    (s.emit o).nextHandle = s.nextHandle := rfl

@[simp] theorem State.emit_nextSnap (s : State) (o : Output) :
    (s.emit o).nextSnap = s.nextSnap := rfl

@[simp] theorem State.emit_commitSeq (s : State) (o : Output) :
    (s.emit o).commitSeq = s.commitSeq := rfl

@[simp] theorem State.emit_changed (s : State) (o : Output) :
    (s.emit o).changed = s.changed := rfl

@[simp] theorem State.emit_orderNext (s : State) (o : Output) :
    (s.emit o).orderNext = s.orderNext := rfl

@[simp] theorem State.emit_waits (s : State) (o : Output) :
    (s.emit o).waits = s.waits := rfl

@[simp] theorem State.emit_barq (s : State) (o : Output) :
    (s.emit o).barq = s.barq := rfl

@[simp] theorem State.emit_orphans (s : State) (o : Output) :
    (s.emit o).orphans = s.orphans := rfl

@[simp] theorem State.emit_chest (s : State) (o : Output) :
    (s.emit o).chest = s.chest := rfl

@[simp] theorem State.emit_ao (s : State) (o : Output) :
    (s.emit o).ao = s.ao := rfl

@[simp] theorem State.emit_pins (s : State) (o : Output) :
    (s.emit o).pins = s.pins := rfl

@[simp] theorem State.emit_free (s : State) (o : Output) :
    (s.emit o).free = s.free := rfl

@[simp] theorem State.emit_pending (s : State) (o : Output) :
    (s.emit o).pending = s.pending := rfl

@[simp] theorem State.upSched_store (s : State) (f : SchedRT → SchedRT) :
    (s.upSched f).store = s.store := rfl

@[simp] theorem State.upSched_time (s : State) (f : SchedRT → SchedRT) :
    (s.upSched f).time = s.time := rfl

@[simp] theorem State.upSched_gen (s : State) (f : SchedRT → SchedRT) :
    (s.upSched f).gen = s.gen := rfl

@[simp] theorem State.upSched_route (s : State) (f : SchedRT → SchedRT) :
    (s.upSched f).route = s.route := rfl

@[simp] theorem State.upSched_exact (s : State) (f : SchedRT → SchedRT) :
    (s.upSched f).exact = s.exact := rfl

@[simp] theorem State.upSched_range (s : State) (f : SchedRT → SchedRT) :
    (s.upSched f).range = s.range := rfl

@[simp] theorem State.upSched_repair (s : State) (f : SchedRT → SchedRT) :
    (s.upSched f).repair = s.repair := rfl

@[simp] theorem State.upSched_ports (s : State) (f : SchedRT → SchedRT) :
    (s.upSched f).ports = s.ports := rfl

@[simp] theorem State.upSched_fe (s : State) (f : SchedRT → SchedRT) :
    (s.upSched f).fe = s.fe := rfl

@[simp] theorem State.upSched_tm (s : State) (f : SchedRT → SchedRT) :
    (s.upSched f).tm = s.tm := rfl

@[simp] theorem State.upSched_gates (s : State) (f : SchedRT → SchedRT) :
    (s.upSched f).gates = s.gates := rfl

@[simp] theorem State.upSched_shelf (s : State) (f : SchedRT → SchedRT) :
    (s.upSched f).shelf = s.shelf := rfl

@[simp] theorem State.upSched_mesh (s : State) (f : SchedRT → SchedRT) :
    (s.upSched f).mesh = s.mesh := rfl

@[simp] theorem State.upSched_tel (s : State) (f : SchedRT → SchedRT) :
    (s.upSched f).tel = s.tel := rfl

@[simp] theorem State.upSched_host (s : State) (f : SchedRT → SchedRT) :
    (s.upSched f).host = s.host := rfl

@[simp] theorem State.upSched_hbm (s : State) (f : SchedRT → SchedRT) :
    (s.upSched f).hbm = s.hbm := rfl

@[simp] theorem State.upSched_board (s : State) (f : SchedRT → SchedRT) :
    (s.upSched f).board = s.board := rfl

@[simp] theorem State.upSched_fw (s : State) (f : SchedRT → SchedRT) :
    (s.upSched f).fw = s.fw := rfl

@[simp] theorem State.upSched_boot (s : State) (f : SchedRT → SchedRT) :
    (s.upSched f).boot = s.boot := rfl

@[simp] theorem State.upSched_sessions (s : State) (f : SchedRT → SchedRT) :
    (s.upSched f).sessions = s.sessions := rfl

@[simp] theorem State.upSched_mbox (s : State) (f : SchedRT → SchedRT) :
    (s.upSched f).mbox = s.mbox := rfl

@[simp] theorem State.upSched_nextSess (s : State) (f : SchedRT → SchedRT) :
    (s.upSched f).nextSess = s.nextSess := rfl

@[simp] theorem State.upSched_nextHandle (s : State) (f : SchedRT → SchedRT) :
    (s.upSched f).nextHandle = s.nextHandle := rfl

@[simp] theorem State.upSched_nextSnap (s : State) (f : SchedRT → SchedRT) :
    (s.upSched f).nextSnap = s.nextSnap := rfl

@[simp] theorem State.upSched_commitSeq (s : State) (f : SchedRT → SchedRT) :
    (s.upSched f).commitSeq = s.commitSeq := rfl

@[simp] theorem State.upSched_changed (s : State) (f : SchedRT → SchedRT) :
    (s.upSched f).changed = s.changed := rfl

@[simp] theorem State.upSched_orderNext (s : State) (f : SchedRT → SchedRT) :
    (s.upSched f).orderNext = s.orderNext := rfl

@[simp] theorem State.upSched_waits (s : State) (f : SchedRT → SchedRT) :
    (s.upSched f).waits = s.waits := rfl

@[simp] theorem State.upSched_barq (s : State) (f : SchedRT → SchedRT) :
    (s.upSched f).barq = s.barq := rfl

@[simp] theorem State.upSched_orphans (s : State) (f : SchedRT → SchedRT) :
    (s.upSched f).orphans = s.orphans := rfl

@[simp] theorem State.upSched_chest (s : State) (f : SchedRT → SchedRT) :
    (s.upSched f).chest = s.chest := rfl

@[simp] theorem State.upSched_ao (s : State) (f : SchedRT → SchedRT) :
    (s.upSched f).ao = s.ao := rfl

@[simp] theorem State.upSched_pins (s : State) (f : SchedRT → SchedRT) :
    (s.upSched f).pins = s.pins := rfl

@[simp] theorem State.upSched_free (s : State) (f : SchedRT → SchedRT) :
    (s.upSched f).free = s.free := rfl

@[simp] theorem State.upSched_out (s : State) (f : SchedRT → SchedRT) :
    (s.upSched f).out = s.out := rfl

@[simp] theorem State.upSched_pending (s : State) (f : SchedRT → SchedRT) :
    (s.upSched f).pending = s.pending := rfl

@[simp] theorem State.updSess_store (s : State) (i : SessId) (f : Sess → Sess) :
    (s.updSess i f).store = s.store := rfl

@[simp] theorem State.updSess_time (s : State) (i : SessId) (f : Sess → Sess) :
    (s.updSess i f).time = s.time := rfl

@[simp] theorem State.updSess_gen (s : State) (i : SessId) (f : Sess → Sess) :
    (s.updSess i f).gen = s.gen := rfl

@[simp] theorem State.updSess_route (s : State) (i : SessId) (f : Sess → Sess) :
    (s.updSess i f).route = s.route := rfl

@[simp] theorem State.updSess_exact (s : State) (i : SessId) (f : Sess → Sess) :
    (s.updSess i f).exact = s.exact := rfl

@[simp] theorem State.updSess_range (s : State) (i : SessId) (f : Sess → Sess) :
    (s.updSess i f).range = s.range := rfl

@[simp] theorem State.updSess_repair (s : State) (i : SessId) (f : Sess → Sess) :
    (s.updSess i f).repair = s.repair := rfl

@[simp] theorem State.updSess_ports (s : State) (i : SessId) (f : Sess → Sess) :
    (s.updSess i f).ports = s.ports := rfl

@[simp] theorem State.updSess_fe (s : State) (i : SessId) (f : Sess → Sess) :
    (s.updSess i f).fe = s.fe := rfl

@[simp] theorem State.updSess_tm (s : State) (i : SessId) (f : Sess → Sess) :
    (s.updSess i f).tm = s.tm := rfl

@[simp] theorem State.updSess_sched (s : State) (i : SessId) (f : Sess → Sess) :
    (s.updSess i f).sched = s.sched := rfl

@[simp] theorem State.updSess_gates (s : State) (i : SessId) (f : Sess → Sess) :
    (s.updSess i f).gates = s.gates := rfl

@[simp] theorem State.updSess_shelf (s : State) (i : SessId) (f : Sess → Sess) :
    (s.updSess i f).shelf = s.shelf := rfl

@[simp] theorem State.updSess_mesh (s : State) (i : SessId) (f : Sess → Sess) :
    (s.updSess i f).mesh = s.mesh := rfl

@[simp] theorem State.updSess_tel (s : State) (i : SessId) (f : Sess → Sess) :
    (s.updSess i f).tel = s.tel := rfl

@[simp] theorem State.updSess_host (s : State) (i : SessId) (f : Sess → Sess) :
    (s.updSess i f).host = s.host := rfl

@[simp] theorem State.updSess_hbm (s : State) (i : SessId) (f : Sess → Sess) :
    (s.updSess i f).hbm = s.hbm := rfl

@[simp] theorem State.updSess_board (s : State) (i : SessId) (f : Sess → Sess) :
    (s.updSess i f).board = s.board := rfl

@[simp] theorem State.updSess_fw (s : State) (i : SessId) (f : Sess → Sess) :
    (s.updSess i f).fw = s.fw := rfl

@[simp] theorem State.updSess_boot (s : State) (i : SessId) (f : Sess → Sess) :
    (s.updSess i f).boot = s.boot := rfl

@[simp] theorem State.updSess_mbox (s : State) (i : SessId) (f : Sess → Sess) :
    (s.updSess i f).mbox = s.mbox := rfl

@[simp] theorem State.updSess_nextSess (s : State) (i : SessId) (f : Sess → Sess) :
    (s.updSess i f).nextSess = s.nextSess := rfl

@[simp] theorem State.updSess_nextHandle (s : State) (i : SessId) (f : Sess → Sess) :
    (s.updSess i f).nextHandle = s.nextHandle := rfl

@[simp] theorem State.updSess_nextSnap (s : State) (i : SessId) (f : Sess → Sess) :
    (s.updSess i f).nextSnap = s.nextSnap := rfl

@[simp] theorem State.updSess_commitSeq (s : State) (i : SessId) (f : Sess → Sess) :
    (s.updSess i f).commitSeq = s.commitSeq := rfl

@[simp] theorem State.updSess_changed (s : State) (i : SessId) (f : Sess → Sess) :
    (s.updSess i f).changed = s.changed := rfl

@[simp] theorem State.updSess_orderNext (s : State) (i : SessId) (f : Sess → Sess) :
    (s.updSess i f).orderNext = s.orderNext := rfl

@[simp] theorem State.updSess_waits (s : State) (i : SessId) (f : Sess → Sess) :
    (s.updSess i f).waits = s.waits := rfl

@[simp] theorem State.updSess_barq (s : State) (i : SessId) (f : Sess → Sess) :
    (s.updSess i f).barq = s.barq := rfl

@[simp] theorem State.updSess_orphans (s : State) (i : SessId) (f : Sess → Sess) :
    (s.updSess i f).orphans = s.orphans := rfl

@[simp] theorem State.updSess_chest (s : State) (i : SessId) (f : Sess → Sess) :
    (s.updSess i f).chest = s.chest := rfl

@[simp] theorem State.updSess_ao (s : State) (i : SessId) (f : Sess → Sess) :
    (s.updSess i f).ao = s.ao := rfl

@[simp] theorem State.updSess_pins (s : State) (i : SessId) (f : Sess → Sess) :
    (s.updSess i f).pins = s.pins := rfl

@[simp] theorem State.updSess_free (s : State) (i : SessId) (f : Sess → Sess) :
    (s.updSess i f).free = s.free := rfl

@[simp] theorem State.updSess_out (s : State) (i : SessId) (f : Sess → Sess) :
    (s.updSess i f).out = s.out := rfl

@[simp] theorem State.updSess_pending (s : State) (i : SessId) (f : Sess → Sess) :
    (s.updSess i f).pending = s.pending := rfl

@[simp] theorem State.keepOld_store (s : State) (dead : ℕ) (obj : ℕ) (row : ℕ) (fld : ℕ) :
    (s.keepOld dead obj row fld).store = s.store := rfl

@[simp] theorem State.keepOld_time (s : State) (dead : ℕ) (obj : ℕ) (row : ℕ) (fld : ℕ) :
    (s.keepOld dead obj row fld).time = s.time := rfl

@[simp] theorem State.keepOld_route (s : State) (dead : ℕ) (obj : ℕ) (row : ℕ) (fld : ℕ) :
    (s.keepOld dead obj row fld).route = s.route := rfl

@[simp] theorem State.keepOld_exact (s : State) (dead : ℕ) (obj : ℕ) (row : ℕ) (fld : ℕ) :
    (s.keepOld dead obj row fld).exact = s.exact := rfl

@[simp] theorem State.keepOld_range (s : State) (dead : ℕ) (obj : ℕ) (row : ℕ) (fld : ℕ) :
    (s.keepOld dead obj row fld).range = s.range := rfl

@[simp] theorem State.keepOld_repair (s : State) (dead : ℕ) (obj : ℕ) (row : ℕ) (fld : ℕ) :
    (s.keepOld dead obj row fld).repair = s.repair := rfl

@[simp] theorem State.keepOld_ports (s : State) (dead : ℕ) (obj : ℕ) (row : ℕ) (fld : ℕ) :
    (s.keepOld dead obj row fld).ports = s.ports := rfl

@[simp] theorem State.keepOld_fe (s : State) (dead : ℕ) (obj : ℕ) (row : ℕ) (fld : ℕ) :
    (s.keepOld dead obj row fld).fe = s.fe := rfl

@[simp] theorem State.keepOld_tm (s : State) (dead : ℕ) (obj : ℕ) (row : ℕ) (fld : ℕ) :
    (s.keepOld dead obj row fld).tm = s.tm := rfl

@[simp] theorem State.keepOld_sched (s : State) (dead : ℕ) (obj : ℕ) (row : ℕ) (fld : ℕ) :
    (s.keepOld dead obj row fld).sched = s.sched := rfl

@[simp] theorem State.keepOld_gates (s : State) (dead : ℕ) (obj : ℕ) (row : ℕ) (fld : ℕ) :
    (s.keepOld dead obj row fld).gates = s.gates := rfl

@[simp] theorem State.keepOld_shelf (s : State) (dead : ℕ) (obj : ℕ) (row : ℕ) (fld : ℕ) :
    (s.keepOld dead obj row fld).shelf = s.shelf := rfl

@[simp] theorem State.keepOld_mesh (s : State) (dead : ℕ) (obj : ℕ) (row : ℕ) (fld : ℕ) :
    (s.keepOld dead obj row fld).mesh = s.mesh := rfl

@[simp] theorem State.keepOld_tel (s : State) (dead : ℕ) (obj : ℕ) (row : ℕ) (fld : ℕ) :
    (s.keepOld dead obj row fld).tel = s.tel := rfl

@[simp] theorem State.keepOld_host (s : State) (dead : ℕ) (obj : ℕ) (row : ℕ) (fld : ℕ) :
    (s.keepOld dead obj row fld).host = s.host := rfl

@[simp] theorem State.keepOld_hbm (s : State) (dead : ℕ) (obj : ℕ) (row : ℕ) (fld : ℕ) :
    (s.keepOld dead obj row fld).hbm = s.hbm := rfl

@[simp] theorem State.keepOld_board (s : State) (dead : ℕ) (obj : ℕ) (row : ℕ) (fld : ℕ) :
    (s.keepOld dead obj row fld).board = s.board := rfl

@[simp] theorem State.keepOld_fw (s : State) (dead : ℕ) (obj : ℕ) (row : ℕ) (fld : ℕ) :
    (s.keepOld dead obj row fld).fw = s.fw := rfl

@[simp] theorem State.keepOld_boot (s : State) (dead : ℕ) (obj : ℕ) (row : ℕ) (fld : ℕ) :
    (s.keepOld dead obj row fld).boot = s.boot := rfl

@[simp] theorem State.keepOld_sessions (s : State) (dead : ℕ) (obj : ℕ) (row : ℕ) (fld : ℕ) :
    (s.keepOld dead obj row fld).sessions = s.sessions := rfl

@[simp] theorem State.keepOld_mbox (s : State) (dead : ℕ) (obj : ℕ) (row : ℕ) (fld : ℕ) :
    (s.keepOld dead obj row fld).mbox = s.mbox := rfl

@[simp] theorem State.keepOld_nextSess (s : State) (dead : ℕ) (obj : ℕ) (row : ℕ) (fld : ℕ) :
    (s.keepOld dead obj row fld).nextSess = s.nextSess := rfl

@[simp] theorem State.keepOld_nextHandle (s : State) (dead : ℕ) (obj : ℕ) (row : ℕ) (fld : ℕ) :
    (s.keepOld dead obj row fld).nextHandle = s.nextHandle := rfl

@[simp] theorem State.keepOld_nextSnap (s : State) (dead : ℕ) (obj : ℕ) (row : ℕ) (fld : ℕ) :
    (s.keepOld dead obj row fld).nextSnap = s.nextSnap := rfl

@[simp] theorem State.keepOld_commitSeq (s : State) (dead : ℕ) (obj : ℕ) (row : ℕ) (fld : ℕ) :
    (s.keepOld dead obj row fld).commitSeq = s.commitSeq := rfl

@[simp] theorem State.keepOld_changed (s : State) (dead : ℕ) (obj : ℕ) (row : ℕ) (fld : ℕ) :
    (s.keepOld dead obj row fld).changed = s.changed := rfl

@[simp] theorem State.keepOld_orderNext (s : State) (dead : ℕ) (obj : ℕ) (row : ℕ) (fld : ℕ) :
    (s.keepOld dead obj row fld).orderNext = s.orderNext := rfl

@[simp] theorem State.keepOld_waits (s : State) (dead : ℕ) (obj : ℕ) (row : ℕ) (fld : ℕ) :
    (s.keepOld dead obj row fld).waits = s.waits := rfl

@[simp] theorem State.keepOld_barq (s : State) (dead : ℕ) (obj : ℕ) (row : ℕ) (fld : ℕ) :
    (s.keepOld dead obj row fld).barq = s.barq := rfl

@[simp] theorem State.keepOld_orphans (s : State) (dead : ℕ) (obj : ℕ) (row : ℕ) (fld : ℕ) :
    (s.keepOld dead obj row fld).orphans = s.orphans := rfl

@[simp] theorem State.keepOld_chest (s : State) (dead : ℕ) (obj : ℕ) (row : ℕ) (fld : ℕ) :
    (s.keepOld dead obj row fld).chest = s.chest := rfl

@[simp] theorem State.keepOld_ao (s : State) (dead : ℕ) (obj : ℕ) (row : ℕ) (fld : ℕ) :
    (s.keepOld dead obj row fld).ao = s.ao := rfl

@[simp] theorem State.keepOld_pins (s : State) (dead : ℕ) (obj : ℕ) (row : ℕ) (fld : ℕ) :
    (s.keepOld dead obj row fld).pins = s.pins := rfl

@[simp] theorem State.keepOld_free (s : State) (dead : ℕ) (obj : ℕ) (row : ℕ) (fld : ℕ) :
    (s.keepOld dead obj row fld).free = s.free := rfl

@[simp] theorem State.keepOld_out (s : State) (dead : ℕ) (obj : ℕ) (row : ℕ) (fld : ℕ) :
    (s.keepOld dead obj row fld).out = s.out := rfl

@[simp] theorem State.keepOld_pending (s : State) (dead : ℕ) (obj : ℕ) (row : ℕ) (fld : ℕ) :
    (s.keepOld dead obj row fld).pending = s.pending := rfl

@[simp] theorem State.upTm_store (s : State) (f : TmRT → TmRT) :
    (s.upTm f).store = s.store := rfl

@[simp] theorem State.upTm_time (s : State) (f : TmRT → TmRT) :
    (s.upTm f).time = s.time := rfl

@[simp] theorem State.upTm_gen (s : State) (f : TmRT → TmRT) :
    (s.upTm f).gen = s.gen := rfl

@[simp] theorem State.upTm_route (s : State) (f : TmRT → TmRT) :
    (s.upTm f).route = s.route := rfl

@[simp] theorem State.upTm_exact (s : State) (f : TmRT → TmRT) :
    (s.upTm f).exact = s.exact := rfl

@[simp] theorem State.upTm_range (s : State) (f : TmRT → TmRT) :
    (s.upTm f).range = s.range := rfl

@[simp] theorem State.upTm_repair (s : State) (f : TmRT → TmRT) :
    (s.upTm f).repair = s.repair := rfl

@[simp] theorem State.upTm_ports (s : State) (f : TmRT → TmRT) :
    (s.upTm f).ports = s.ports := rfl

@[simp] theorem State.upTm_fe (s : State) (f : TmRT → TmRT) :
    (s.upTm f).fe = s.fe := rfl

@[simp] theorem State.upTm_sched (s : State) (f : TmRT → TmRT) :
    (s.upTm f).sched = s.sched := rfl

@[simp] theorem State.upTm_gates (s : State) (f : TmRT → TmRT) :
    (s.upTm f).gates = s.gates := rfl

@[simp] theorem State.upTm_shelf (s : State) (f : TmRT → TmRT) :
    (s.upTm f).shelf = s.shelf := rfl

@[simp] theorem State.upTm_mesh (s : State) (f : TmRT → TmRT) :
    (s.upTm f).mesh = s.mesh := rfl

@[simp] theorem State.upTm_tel (s : State) (f : TmRT → TmRT) :
    (s.upTm f).tel = s.tel := rfl

@[simp] theorem State.upTm_host (s : State) (f : TmRT → TmRT) :
    (s.upTm f).host = s.host := rfl

@[simp] theorem State.upTm_hbm (s : State) (f : TmRT → TmRT) :
    (s.upTm f).hbm = s.hbm := rfl

@[simp] theorem State.upTm_board (s : State) (f : TmRT → TmRT) :
    (s.upTm f).board = s.board := rfl

@[simp] theorem State.upTm_fw (s : State) (f : TmRT → TmRT) :
    (s.upTm f).fw = s.fw := rfl

@[simp] theorem State.upTm_boot (s : State) (f : TmRT → TmRT) :
    (s.upTm f).boot = s.boot := rfl

@[simp] theorem State.upTm_sessions (s : State) (f : TmRT → TmRT) :
    (s.upTm f).sessions = s.sessions := rfl

@[simp] theorem State.upTm_mbox (s : State) (f : TmRT → TmRT) :
    (s.upTm f).mbox = s.mbox := rfl

@[simp] theorem State.upTm_nextSess (s : State) (f : TmRT → TmRT) :
    (s.upTm f).nextSess = s.nextSess := rfl

@[simp] theorem State.upTm_nextHandle (s : State) (f : TmRT → TmRT) :
    (s.upTm f).nextHandle = s.nextHandle := rfl

@[simp] theorem State.upTm_nextSnap (s : State) (f : TmRT → TmRT) :
    (s.upTm f).nextSnap = s.nextSnap := rfl

@[simp] theorem State.upTm_commitSeq (s : State) (f : TmRT → TmRT) :
    (s.upTm f).commitSeq = s.commitSeq := rfl

@[simp] theorem State.upTm_changed (s : State) (f : TmRT → TmRT) :
    (s.upTm f).changed = s.changed := rfl

@[simp] theorem State.upTm_orderNext (s : State) (f : TmRT → TmRT) :
    (s.upTm f).orderNext = s.orderNext := rfl

@[simp] theorem State.upTm_waits (s : State) (f : TmRT → TmRT) :
    (s.upTm f).waits = s.waits := rfl

@[simp] theorem State.upTm_barq (s : State) (f : TmRT → TmRT) :
    (s.upTm f).barq = s.barq := rfl

@[simp] theorem State.upTm_orphans (s : State) (f : TmRT → TmRT) :
    (s.upTm f).orphans = s.orphans := rfl

@[simp] theorem State.upTm_chest (s : State) (f : TmRT → TmRT) :
    (s.upTm f).chest = s.chest := rfl

@[simp] theorem State.upTm_ao (s : State) (f : TmRT → TmRT) :
    (s.upTm f).ao = s.ao := rfl

@[simp] theorem State.upTm_pins (s : State) (f : TmRT → TmRT) :
    (s.upTm f).pins = s.pins := rfl

@[simp] theorem State.upTm_free (s : State) (f : TmRT → TmRT) :
    (s.upTm f).free = s.free := rfl

@[simp] theorem State.upTm_out (s : State) (f : TmRT → TmRT) :
    (s.upTm f).out = s.out := rfl

@[simp] theorem State.upTm_pending (s : State) (f : TmRT → TmRT) :
    (s.upTm f).pending = s.pending := rfl

@[simp] theorem State.wrHome_time (s : State) (obj : ℕ) (row : ℕ) (fld : ℕ) (v : ℕ) :
    (s.wrHome obj row fld v).time = s.time := rfl

@[simp] theorem State.wrHome_gen (s : State) (obj : ℕ) (row : ℕ) (fld : ℕ) (v : ℕ) :
    (s.wrHome obj row fld v).gen = s.gen := rfl

@[simp] theorem State.wrHome_route (s : State) (obj : ℕ) (row : ℕ) (fld : ℕ) (v : ℕ) :
    (s.wrHome obj row fld v).route = s.route := rfl

@[simp] theorem State.wrHome_exact (s : State) (obj : ℕ) (row : ℕ) (fld : ℕ) (v : ℕ) :
    (s.wrHome obj row fld v).exact = s.exact := rfl

@[simp] theorem State.wrHome_range (s : State) (obj : ℕ) (row : ℕ) (fld : ℕ) (v : ℕ) :
    (s.wrHome obj row fld v).range = s.range := rfl

@[simp] theorem State.wrHome_repair (s : State) (obj : ℕ) (row : ℕ) (fld : ℕ) (v : ℕ) :
    (s.wrHome obj row fld v).repair = s.repair := rfl

@[simp] theorem State.wrHome_ports (s : State) (obj : ℕ) (row : ℕ) (fld : ℕ) (v : ℕ) :
    (s.wrHome obj row fld v).ports = s.ports := rfl

@[simp] theorem State.wrHome_fe (s : State) (obj : ℕ) (row : ℕ) (fld : ℕ) (v : ℕ) :
    (s.wrHome obj row fld v).fe = s.fe := rfl

@[simp] theorem State.wrHome_tm (s : State) (obj : ℕ) (row : ℕ) (fld : ℕ) (v : ℕ) :
    (s.wrHome obj row fld v).tm = s.tm := rfl

@[simp] theorem State.wrHome_sched (s : State) (obj : ℕ) (row : ℕ) (fld : ℕ) (v : ℕ) :
    (s.wrHome obj row fld v).sched = s.sched := rfl

@[simp] theorem State.wrHome_gates (s : State) (obj : ℕ) (row : ℕ) (fld : ℕ) (v : ℕ) :
    (s.wrHome obj row fld v).gates = s.gates := rfl

@[simp] theorem State.wrHome_shelf (s : State) (obj : ℕ) (row : ℕ) (fld : ℕ) (v : ℕ) :
    (s.wrHome obj row fld v).shelf = s.shelf := rfl

@[simp] theorem State.wrHome_mesh (s : State) (obj : ℕ) (row : ℕ) (fld : ℕ) (v : ℕ) :
    (s.wrHome obj row fld v).mesh = s.mesh := rfl

@[simp] theorem State.wrHome_tel (s : State) (obj : ℕ) (row : ℕ) (fld : ℕ) (v : ℕ) :
    (s.wrHome obj row fld v).tel = s.tel := rfl

@[simp] theorem State.wrHome_host (s : State) (obj : ℕ) (row : ℕ) (fld : ℕ) (v : ℕ) :
    (s.wrHome obj row fld v).host = s.host := rfl

@[simp] theorem State.wrHome_hbm (s : State) (obj : ℕ) (row : ℕ) (fld : ℕ) (v : ℕ) :
    (s.wrHome obj row fld v).hbm = s.hbm := rfl

@[simp] theorem State.wrHome_board (s : State) (obj : ℕ) (row : ℕ) (fld : ℕ) (v : ℕ) :
    (s.wrHome obj row fld v).board = s.board := rfl

@[simp] theorem State.wrHome_fw (s : State) (obj : ℕ) (row : ℕ) (fld : ℕ) (v : ℕ) :
    (s.wrHome obj row fld v).fw = s.fw := rfl

@[simp] theorem State.wrHome_boot (s : State) (obj : ℕ) (row : ℕ) (fld : ℕ) (v : ℕ) :
    (s.wrHome obj row fld v).boot = s.boot := rfl

@[simp] theorem State.wrHome_sessions (s : State) (obj : ℕ) (row : ℕ) (fld : ℕ) (v : ℕ) :
    (s.wrHome obj row fld v).sessions = s.sessions := rfl

@[simp] theorem State.wrHome_mbox (s : State) (obj : ℕ) (row : ℕ) (fld : ℕ) (v : ℕ) :
    (s.wrHome obj row fld v).mbox = s.mbox := rfl

@[simp] theorem State.wrHome_nextSess (s : State) (obj : ℕ) (row : ℕ) (fld : ℕ) (v : ℕ) :
    (s.wrHome obj row fld v).nextSess = s.nextSess := rfl

@[simp] theorem State.wrHome_nextHandle (s : State) (obj : ℕ) (row : ℕ) (fld : ℕ) (v : ℕ) :
    (s.wrHome obj row fld v).nextHandle = s.nextHandle := rfl

@[simp] theorem State.wrHome_nextSnap (s : State) (obj : ℕ) (row : ℕ) (fld : ℕ) (v : ℕ) :
    (s.wrHome obj row fld v).nextSnap = s.nextSnap := rfl

@[simp] theorem State.wrHome_commitSeq (s : State) (obj : ℕ) (row : ℕ) (fld : ℕ) (v : ℕ) :
    (s.wrHome obj row fld v).commitSeq = s.commitSeq := rfl

@[simp] theorem State.wrHome_changed (s : State) (obj : ℕ) (row : ℕ) (fld : ℕ) (v : ℕ) :
    (s.wrHome obj row fld v).changed = s.changed := rfl

@[simp] theorem State.wrHome_orderNext (s : State) (obj : ℕ) (row : ℕ) (fld : ℕ) (v : ℕ) :
    (s.wrHome obj row fld v).orderNext = s.orderNext := rfl

@[simp] theorem State.wrHome_waits (s : State) (obj : ℕ) (row : ℕ) (fld : ℕ) (v : ℕ) :
    (s.wrHome obj row fld v).waits = s.waits := rfl

@[simp] theorem State.wrHome_barq (s : State) (obj : ℕ) (row : ℕ) (fld : ℕ) (v : ℕ) :
    (s.wrHome obj row fld v).barq = s.barq := rfl

@[simp] theorem State.wrHome_orphans (s : State) (obj : ℕ) (row : ℕ) (fld : ℕ) (v : ℕ) :
    (s.wrHome obj row fld v).orphans = s.orphans := rfl

@[simp] theorem State.wrHome_ao (s : State) (obj : ℕ) (row : ℕ) (fld : ℕ) (v : ℕ) :
    (s.wrHome obj row fld v).ao = s.ao := rfl

@[simp] theorem State.wrHome_pins (s : State) (obj : ℕ) (row : ℕ) (fld : ℕ) (v : ℕ) :
    (s.wrHome obj row fld v).pins = s.pins := rfl

@[simp] theorem State.wrHome_free (s : State) (obj : ℕ) (row : ℕ) (fld : ℕ) (v : ℕ) :
    (s.wrHome obj row fld v).free = s.free := rfl

@[simp] theorem State.wrHome_out (s : State) (obj : ℕ) (row : ℕ) (fld : ℕ) (v : ℕ) :
    (s.wrHome obj row fld v).out = s.out := rfl

@[simp] theorem State.wrHome_pending (s : State) (obj : ℕ) (row : ℕ) (fld : ℕ) (v : ℕ) :
    (s.wrHome obj row fld v).pending = s.pending := rfl

@[simp] theorem State.journal_store (s : State) (keys : List (ℕ × ℕ × ℕ)) (bytes : ℕ) (r : JRec) :
    (s.journal keys bytes r).store = s.store := rfl

@[simp] theorem State.journal_time (s : State) (keys : List (ℕ × ℕ × ℕ)) (bytes : ℕ) (r : JRec) :
    (s.journal keys bytes r).time = s.time := rfl

@[simp] theorem State.journal_gen (s : State) (keys : List (ℕ × ℕ × ℕ)) (bytes : ℕ) (r : JRec) :
    (s.journal keys bytes r).gen = s.gen := rfl

@[simp] theorem State.journal_route (s : State) (keys : List (ℕ × ℕ × ℕ)) (bytes : ℕ) (r : JRec) :
    (s.journal keys bytes r).route = s.route := rfl

@[simp] theorem State.journal_exact (s : State) (keys : List (ℕ × ℕ × ℕ)) (bytes : ℕ) (r : JRec) :
    (s.journal keys bytes r).exact = s.exact := rfl

@[simp] theorem State.journal_range (s : State) (keys : List (ℕ × ℕ × ℕ)) (bytes : ℕ) (r : JRec) :
    (s.journal keys bytes r).range = s.range := rfl

@[simp] theorem State.journal_repair (s : State) (keys : List (ℕ × ℕ × ℕ)) (bytes : ℕ) (r : JRec) :
    (s.journal keys bytes r).repair = s.repair := rfl

@[simp] theorem State.journal_ports (s : State) (keys : List (ℕ × ℕ × ℕ)) (bytes : ℕ) (r : JRec) :
    (s.journal keys bytes r).ports = s.ports := rfl

@[simp] theorem State.journal_fe (s : State) (keys : List (ℕ × ℕ × ℕ)) (bytes : ℕ) (r : JRec) :
    (s.journal keys bytes r).fe = s.fe := rfl

@[simp] theorem State.journal_tm (s : State) (keys : List (ℕ × ℕ × ℕ)) (bytes : ℕ) (r : JRec) :
    (s.journal keys bytes r).tm = s.tm := rfl

@[simp] theorem State.journal_sched (s : State) (keys : List (ℕ × ℕ × ℕ)) (bytes : ℕ) (r : JRec) :
    (s.journal keys bytes r).sched = s.sched := rfl

@[simp] theorem State.journal_gates (s : State) (keys : List (ℕ × ℕ × ℕ)) (bytes : ℕ) (r : JRec) :
    (s.journal keys bytes r).gates = s.gates := rfl

@[simp] theorem State.journal_shelf (s : State) (keys : List (ℕ × ℕ × ℕ)) (bytes : ℕ) (r : JRec) :
    (s.journal keys bytes r).shelf = s.shelf := rfl

@[simp] theorem State.journal_mesh (s : State) (keys : List (ℕ × ℕ × ℕ)) (bytes : ℕ) (r : JRec) :
    (s.journal keys bytes r).mesh = s.mesh := rfl

@[simp] theorem State.journal_tel (s : State) (keys : List (ℕ × ℕ × ℕ)) (bytes : ℕ) (r : JRec) :
    (s.journal keys bytes r).tel = s.tel := rfl

@[simp] theorem State.journal_host (s : State) (keys : List (ℕ × ℕ × ℕ)) (bytes : ℕ) (r : JRec) :
    (s.journal keys bytes r).host = s.host := rfl

@[simp] theorem State.journal_hbm (s : State) (keys : List (ℕ × ℕ × ℕ)) (bytes : ℕ) (r : JRec) :
    (s.journal keys bytes r).hbm = s.hbm := rfl

@[simp] theorem State.journal_board (s : State) (keys : List (ℕ × ℕ × ℕ)) (bytes : ℕ) (r : JRec) :
    (s.journal keys bytes r).board = s.board := rfl

@[simp] theorem State.journal_fw (s : State) (keys : List (ℕ × ℕ × ℕ)) (bytes : ℕ) (r : JRec) :
    (s.journal keys bytes r).fw = s.fw := rfl

@[simp] theorem State.journal_boot (s : State) (keys : List (ℕ × ℕ × ℕ)) (bytes : ℕ) (r : JRec) :
    (s.journal keys bytes r).boot = s.boot := rfl

@[simp] theorem State.journal_sessions (s : State) (keys : List (ℕ × ℕ × ℕ)) (bytes : ℕ) (r : JRec) :
    (s.journal keys bytes r).sessions = s.sessions := rfl

@[simp] theorem State.journal_mbox (s : State) (keys : List (ℕ × ℕ × ℕ)) (bytes : ℕ) (r : JRec) :
    (s.journal keys bytes r).mbox = s.mbox := rfl

@[simp] theorem State.journal_nextSess (s : State) (keys : List (ℕ × ℕ × ℕ)) (bytes : ℕ) (r : JRec) :
    (s.journal keys bytes r).nextSess = s.nextSess := rfl

@[simp] theorem State.journal_nextHandle (s : State) (keys : List (ℕ × ℕ × ℕ)) (bytes : ℕ) (r : JRec) :
    (s.journal keys bytes r).nextHandle = s.nextHandle := rfl

@[simp] theorem State.journal_nextSnap (s : State) (keys : List (ℕ × ℕ × ℕ)) (bytes : ℕ) (r : JRec) :
    (s.journal keys bytes r).nextSnap = s.nextSnap := rfl

@[simp] theorem State.journal_commitSeq (s : State) (keys : List (ℕ × ℕ × ℕ)) (bytes : ℕ) (r : JRec) :
    (s.journal keys bytes r).commitSeq = s.commitSeq := rfl

@[simp] theorem State.journal_changed (s : State) (keys : List (ℕ × ℕ × ℕ)) (bytes : ℕ) (r : JRec) :
    (s.journal keys bytes r).changed = s.changed := rfl

@[simp] theorem State.journal_orderNext (s : State) (keys : List (ℕ × ℕ × ℕ)) (bytes : ℕ) (r : JRec) :
    (s.journal keys bytes r).orderNext = s.orderNext := rfl

@[simp] theorem State.journal_waits (s : State) (keys : List (ℕ × ℕ × ℕ)) (bytes : ℕ) (r : JRec) :
    (s.journal keys bytes r).waits = s.waits := rfl

@[simp] theorem State.journal_barq (s : State) (keys : List (ℕ × ℕ × ℕ)) (bytes : ℕ) (r : JRec) :
    (s.journal keys bytes r).barq = s.barq := rfl

@[simp] theorem State.journal_orphans (s : State) (keys : List (ℕ × ℕ × ℕ)) (bytes : ℕ) (r : JRec) :
    (s.journal keys bytes r).orphans = s.orphans := rfl

@[simp] theorem State.journal_ao (s : State) (keys : List (ℕ × ℕ × ℕ)) (bytes : ℕ) (r : JRec) :
    (s.journal keys bytes r).ao = s.ao := rfl

@[simp] theorem State.journal_pins (s : State) (keys : List (ℕ × ℕ × ℕ)) (bytes : ℕ) (r : JRec) :
    (s.journal keys bytes r).pins = s.pins := rfl

@[simp] theorem State.journal_free (s : State) (keys : List (ℕ × ℕ × ℕ)) (bytes : ℕ) (r : JRec) :
    (s.journal keys bytes r).free = s.free := rfl

@[simp] theorem State.journal_out (s : State) (keys : List (ℕ × ℕ × ℕ)) (bytes : ℕ) (r : JRec) :
    (s.journal keys bytes r).out = s.out := rfl

@[simp] theorem State.journal_pending (s : State) (keys : List (ℕ × ℕ × ℕ)) (bytes : ℕ) (r : JRec) :
    (s.journal keys bytes r).pending = s.pending := rfl

@[simp] theorem State.updDom_store (s : State) (d : Dom) (f : DomRT → DomRT) :
    (s.updDom d f).store = s.store := by cases d <;> rfl

@[simp] theorem State.updDom_gen (s : State) (d : Dom) (f : DomRT → DomRT) :
    (s.updDom d f).gen = s.gen := by cases d <;> rfl

@[simp] theorem State.updDom_route (s : State) (d : Dom) (f : DomRT → DomRT) :
    (s.updDom d f).route = s.route := by cases d <;> rfl

@[simp] theorem State.updDom_exact (s : State) (d : Dom) (f : DomRT → DomRT) :
    (s.updDom d f).exact = s.exact := by cases d <;> rfl

@[simp] theorem State.updDom_range (s : State) (d : Dom) (f : DomRT → DomRT) :
    (s.updDom d f).range = s.range := by cases d <;> rfl

@[simp] theorem State.updDom_repair (s : State) (d : Dom) (f : DomRT → DomRT) :
    (s.updDom d f).repair = s.repair := by cases d <;> rfl

@[simp] theorem State.updDom_ports (s : State) (d : Dom) (f : DomRT → DomRT) :
    (s.updDom d f).ports = s.ports := by cases d <;> rfl

@[simp] theorem State.updDom_fe (s : State) (d : Dom) (f : DomRT → DomRT) :
    (s.updDom d f).fe = s.fe := by cases d <;> rfl

@[simp] theorem State.updDom_tm (s : State) (d : Dom) (f : DomRT → DomRT) :
    (s.updDom d f).tm = s.tm := by cases d <;> rfl

@[simp] theorem State.updDom_sched (s : State) (d : Dom) (f : DomRT → DomRT) :
    (s.updDom d f).sched = s.sched := by cases d <;> rfl

@[simp] theorem State.updDom_gates (s : State) (d : Dom) (f : DomRT → DomRT) :
    (s.updDom d f).gates = s.gates := by cases d <;> rfl

@[simp] theorem State.updDom_shelf (s : State) (d : Dom) (f : DomRT → DomRT) :
    (s.updDom d f).shelf = s.shelf := by cases d <;> rfl

@[simp] theorem State.updDom_mesh (s : State) (d : Dom) (f : DomRT → DomRT) :
    (s.updDom d f).mesh = s.mesh := by cases d <;> rfl

@[simp] theorem State.updDom_tel (s : State) (d : Dom) (f : DomRT → DomRT) :
    (s.updDom d f).tel = s.tel := by cases d <;> rfl

@[simp] theorem State.updDom_host (s : State) (d : Dom) (f : DomRT → DomRT) :
    (s.updDom d f).host = s.host := by cases d <;> rfl

@[simp] theorem State.updDom_hbm (s : State) (d : Dom) (f : DomRT → DomRT) :
    (s.updDom d f).hbm = s.hbm := by cases d <;> rfl

@[simp] theorem State.updDom_board (s : State) (d : Dom) (f : DomRT → DomRT) :
    (s.updDom d f).board = s.board := by cases d <;> rfl

@[simp] theorem State.updDom_fw (s : State) (d : Dom) (f : DomRT → DomRT) :
    (s.updDom d f).fw = s.fw := by cases d <;> rfl

@[simp] theorem State.updDom_boot (s : State) (d : Dom) (f : DomRT → DomRT) :
    (s.updDom d f).boot = s.boot := by cases d <;> rfl

@[simp] theorem State.updDom_sessions (s : State) (d : Dom) (f : DomRT → DomRT) :
    (s.updDom d f).sessions = s.sessions := by cases d <;> rfl

@[simp] theorem State.updDom_mbox (s : State) (d : Dom) (f : DomRT → DomRT) :
    (s.updDom d f).mbox = s.mbox := by cases d <;> rfl

@[simp] theorem State.updDom_nextSess (s : State) (d : Dom) (f : DomRT → DomRT) :
    (s.updDom d f).nextSess = s.nextSess := by cases d <;> rfl

@[simp] theorem State.updDom_nextHandle (s : State) (d : Dom) (f : DomRT → DomRT) :
    (s.updDom d f).nextHandle = s.nextHandle := by cases d <;> rfl

@[simp] theorem State.updDom_nextSnap (s : State) (d : Dom) (f : DomRT → DomRT) :
    (s.updDom d f).nextSnap = s.nextSnap := by cases d <;> rfl

@[simp] theorem State.updDom_commitSeq (s : State) (d : Dom) (f : DomRT → DomRT) :
    (s.updDom d f).commitSeq = s.commitSeq := by cases d <;> rfl

@[simp] theorem State.updDom_changed (s : State) (d : Dom) (f : DomRT → DomRT) :
    (s.updDom d f).changed = s.changed := by cases d <;> rfl

@[simp] theorem State.updDom_orderNext (s : State) (d : Dom) (f : DomRT → DomRT) :
    (s.updDom d f).orderNext = s.orderNext := by cases d <;> rfl

@[simp] theorem State.updDom_waits (s : State) (d : Dom) (f : DomRT → DomRT) :
    (s.updDom d f).waits = s.waits := by cases d <;> rfl

@[simp] theorem State.updDom_barq (s : State) (d : Dom) (f : DomRT → DomRT) :
    (s.updDom d f).barq = s.barq := by cases d <;> rfl

@[simp] theorem State.updDom_orphans (s : State) (d : Dom) (f : DomRT → DomRT) :
    (s.updDom d f).orphans = s.orphans := by cases d <;> rfl

@[simp] theorem State.updDom_chest (s : State) (d : Dom) (f : DomRT → DomRT) :
    (s.updDom d f).chest = s.chest := by cases d <;> rfl

@[simp] theorem State.updDom_ao (s : State) (d : Dom) (f : DomRT → DomRT) :
    (s.updDom d f).ao = s.ao := by cases d <;> rfl

@[simp] theorem State.updDom_pins (s : State) (d : Dom) (f : DomRT → DomRT) :
    (s.updDom d f).pins = s.pins := by cases d <;> rfl

@[simp] theorem State.updDom_free (s : State) (d : Dom) (f : DomRT → DomRT) :
    (s.updDom d f).free = s.free := by cases d <;> rfl

@[simp] theorem State.updDom_out (s : State) (d : Dom) (f : DomRT → DomRT) :
    (s.updDom d f).out = s.out := by cases d <;> rfl

@[simp] theorem State.updDom_pending (s : State) (d : Dom) (f : DomRT → DomRT) :
    (s.updDom d f).pending = s.pending := by cases d <;> rfl

@[simp] theorem State.updMbox_store (s : State) (k : ℕ) (f : Mbox → Mbox) :
    (s.updMbox k f).store = s.store := rfl

@[simp] theorem State.updMbox_time (s : State) (k : ℕ) (f : Mbox → Mbox) :
    (s.updMbox k f).time = s.time := rfl

@[simp] theorem State.updMbox_gen (s : State) (k : ℕ) (f : Mbox → Mbox) :
    (s.updMbox k f).gen = s.gen := rfl

@[simp] theorem State.updMbox_route (s : State) (k : ℕ) (f : Mbox → Mbox) :
    (s.updMbox k f).route = s.route := rfl

@[simp] theorem State.updMbox_exact (s : State) (k : ℕ) (f : Mbox → Mbox) :
    (s.updMbox k f).exact = s.exact := rfl

@[simp] theorem State.updMbox_range (s : State) (k : ℕ) (f : Mbox → Mbox) :
    (s.updMbox k f).range = s.range := rfl

@[simp] theorem State.updMbox_repair (s : State) (k : ℕ) (f : Mbox → Mbox) :
    (s.updMbox k f).repair = s.repair := rfl

@[simp] theorem State.updMbox_ports (s : State) (k : ℕ) (f : Mbox → Mbox) :
    (s.updMbox k f).ports = s.ports := rfl

@[simp] theorem State.updMbox_fe (s : State) (k : ℕ) (f : Mbox → Mbox) :
    (s.updMbox k f).fe = s.fe := rfl

@[simp] theorem State.updMbox_tm (s : State) (k : ℕ) (f : Mbox → Mbox) :
    (s.updMbox k f).tm = s.tm := rfl

@[simp] theorem State.updMbox_sched (s : State) (k : ℕ) (f : Mbox → Mbox) :
    (s.updMbox k f).sched = s.sched := rfl

@[simp] theorem State.updMbox_gates (s : State) (k : ℕ) (f : Mbox → Mbox) :
    (s.updMbox k f).gates = s.gates := rfl

@[simp] theorem State.updMbox_shelf (s : State) (k : ℕ) (f : Mbox → Mbox) :
    (s.updMbox k f).shelf = s.shelf := rfl

@[simp] theorem State.updMbox_mesh (s : State) (k : ℕ) (f : Mbox → Mbox) :
    (s.updMbox k f).mesh = s.mesh := rfl

@[simp] theorem State.updMbox_tel (s : State) (k : ℕ) (f : Mbox → Mbox) :
    (s.updMbox k f).tel = s.tel := rfl

@[simp] theorem State.updMbox_host (s : State) (k : ℕ) (f : Mbox → Mbox) :
    (s.updMbox k f).host = s.host := rfl

@[simp] theorem State.updMbox_hbm (s : State) (k : ℕ) (f : Mbox → Mbox) :
    (s.updMbox k f).hbm = s.hbm := rfl

@[simp] theorem State.updMbox_board (s : State) (k : ℕ) (f : Mbox → Mbox) :
    (s.updMbox k f).board = s.board := rfl

@[simp] theorem State.updMbox_fw (s : State) (k : ℕ) (f : Mbox → Mbox) :
    (s.updMbox k f).fw = s.fw := rfl

@[simp] theorem State.updMbox_boot (s : State) (k : ℕ) (f : Mbox → Mbox) :
    (s.updMbox k f).boot = s.boot := rfl

@[simp] theorem State.updMbox_sessions (s : State) (k : ℕ) (f : Mbox → Mbox) :
    (s.updMbox k f).sessions = s.sessions := rfl

@[simp] theorem State.updMbox_nextSess (s : State) (k : ℕ) (f : Mbox → Mbox) :
    (s.updMbox k f).nextSess = s.nextSess := rfl

@[simp] theorem State.updMbox_nextHandle (s : State) (k : ℕ) (f : Mbox → Mbox) :
    (s.updMbox k f).nextHandle = s.nextHandle := rfl

@[simp] theorem State.updMbox_nextSnap (s : State) (k : ℕ) (f : Mbox → Mbox) :
    (s.updMbox k f).nextSnap = s.nextSnap := rfl

@[simp] theorem State.updMbox_commitSeq (s : State) (k : ℕ) (f : Mbox → Mbox) :
    (s.updMbox k f).commitSeq = s.commitSeq := rfl

@[simp] theorem State.updMbox_changed (s : State) (k : ℕ) (f : Mbox → Mbox) :
    (s.updMbox k f).changed = s.changed := rfl

@[simp] theorem State.updMbox_orderNext (s : State) (k : ℕ) (f : Mbox → Mbox) :
    (s.updMbox k f).orderNext = s.orderNext := rfl

@[simp] theorem State.updMbox_waits (s : State) (k : ℕ) (f : Mbox → Mbox) :
    (s.updMbox k f).waits = s.waits := rfl

@[simp] theorem State.updMbox_barq (s : State) (k : ℕ) (f : Mbox → Mbox) :
    (s.updMbox k f).barq = s.barq := rfl

@[simp] theorem State.updMbox_orphans (s : State) (k : ℕ) (f : Mbox → Mbox) :
    (s.updMbox k f).orphans = s.orphans := rfl

@[simp] theorem State.updMbox_chest (s : State) (k : ℕ) (f : Mbox → Mbox) :
    (s.updMbox k f).chest = s.chest := rfl

@[simp] theorem State.updMbox_ao (s : State) (k : ℕ) (f : Mbox → Mbox) :
    (s.updMbox k f).ao = s.ao := rfl

@[simp] theorem State.updMbox_pins (s : State) (k : ℕ) (f : Mbox → Mbox) :
    (s.updMbox k f).pins = s.pins := rfl

@[simp] theorem State.updMbox_free (s : State) (k : ℕ) (f : Mbox → Mbox) :
    (s.updMbox k f).free = s.free := rfl

@[simp] theorem State.updMbox_out (s : State) (k : ℕ) (f : Mbox → Mbox) :
    (s.updMbox k f).out = s.out := rfl

@[simp] theorem State.updMbox_pending (s : State) (k : ℕ) (f : Mbox → Mbox) :
    (s.updMbox k f).pending = s.pending := rfl

@[simp] theorem State.heard_store (s : State) (id : SessId) :
    (s.heard id).store = s.store := rfl

@[simp] theorem State.heard_time (s : State) (id : SessId) :
    (s.heard id).time = s.time := rfl

@[simp] theorem State.heard_gen (s : State) (id : SessId) :
    (s.heard id).gen = s.gen := rfl

@[simp] theorem State.heard_route (s : State) (id : SessId) :
    (s.heard id).route = s.route := rfl

@[simp] theorem State.heard_exact (s : State) (id : SessId) :
    (s.heard id).exact = s.exact := rfl

@[simp] theorem State.heard_range (s : State) (id : SessId) :
    (s.heard id).range = s.range := rfl

@[simp] theorem State.heard_repair (s : State) (id : SessId) :
    (s.heard id).repair = s.repair := rfl

@[simp] theorem State.heard_ports (s : State) (id : SessId) :
    (s.heard id).ports = s.ports := rfl

@[simp] theorem State.heard_fe (s : State) (id : SessId) :
    (s.heard id).fe = s.fe := rfl

@[simp] theorem State.heard_tm (s : State) (id : SessId) :
    (s.heard id).tm = s.tm := rfl

@[simp] theorem State.heard_sched (s : State) (id : SessId) :
    (s.heard id).sched = s.sched := rfl

@[simp] theorem State.heard_gates (s : State) (id : SessId) :
    (s.heard id).gates = s.gates := rfl

@[simp] theorem State.heard_shelf (s : State) (id : SessId) :
    (s.heard id).shelf = s.shelf := rfl

@[simp] theorem State.heard_mesh (s : State) (id : SessId) :
    (s.heard id).mesh = s.mesh := rfl

@[simp] theorem State.heard_tel (s : State) (id : SessId) :
    (s.heard id).tel = s.tel := rfl

@[simp] theorem State.heard_host (s : State) (id : SessId) :
    (s.heard id).host = s.host := rfl

@[simp] theorem State.heard_hbm (s : State) (id : SessId) :
    (s.heard id).hbm = s.hbm := rfl

@[simp] theorem State.heard_board (s : State) (id : SessId) :
    (s.heard id).board = s.board := rfl

@[simp] theorem State.heard_fw (s : State) (id : SessId) :
    (s.heard id).fw = s.fw := rfl

@[simp] theorem State.heard_boot (s : State) (id : SessId) :
    (s.heard id).boot = s.boot := rfl

@[simp] theorem State.heard_mbox (s : State) (id : SessId) :
    (s.heard id).mbox = s.mbox := rfl

@[simp] theorem State.heard_nextSess (s : State) (id : SessId) :
    (s.heard id).nextSess = s.nextSess := rfl

@[simp] theorem State.heard_nextHandle (s : State) (id : SessId) :
    (s.heard id).nextHandle = s.nextHandle := rfl

@[simp] theorem State.heard_nextSnap (s : State) (id : SessId) :
    (s.heard id).nextSnap = s.nextSnap := rfl

@[simp] theorem State.heard_commitSeq (s : State) (id : SessId) :
    (s.heard id).commitSeq = s.commitSeq := rfl

@[simp] theorem State.heard_changed (s : State) (id : SessId) :
    (s.heard id).changed = s.changed := rfl

@[simp] theorem State.heard_orderNext (s : State) (id : SessId) :
    (s.heard id).orderNext = s.orderNext := rfl

@[simp] theorem State.heard_waits (s : State) (id : SessId) :
    (s.heard id).waits = s.waits := rfl

@[simp] theorem State.heard_barq (s : State) (id : SessId) :
    (s.heard id).barq = s.barq := rfl

@[simp] theorem State.heard_orphans (s : State) (id : SessId) :
    (s.heard id).orphans = s.orphans := rfl

@[simp] theorem State.heard_chest (s : State) (id : SessId) :
    (s.heard id).chest = s.chest := rfl

@[simp] theorem State.heard_ao (s : State) (id : SessId) :
    (s.heard id).ao = s.ao := rfl

@[simp] theorem State.heard_pins (s : State) (id : SessId) :
    (s.heard id).pins = s.pins := rfl

@[simp] theorem State.heard_free (s : State) (id : SessId) :
    (s.heard id).free = s.free := rfl

@[simp] theorem State.heard_out (s : State) (id : SessId) :
    (s.heard id).out = s.out := rfl

@[simp] theorem State.heard_pending (s : State) (id : SessId) :
    (s.heard id).pending = s.pending := rfl

@[simp] theorem State.upMesh_mesh (s : State) (f : MeshRT → MeshRT) : (s.upMesh f).mesh = f s.mesh := rfl

@[simp] theorem State.upTel_tel (s : State) (f : TelRT → TelRT) : (s.upTel f).tel = f s.tel := rfl

@[simp] theorem State.upHost_host (s : State) (f : HostRT → HostRT) : (s.upHost f).host = f s.host := rfl

@[simp] theorem State.upBoot_boot (s : State) (f : BootRT → BootRT) : (s.upBoot f).boot = f s.boot := rfl

@[simp] theorem State.upHbm_hbm (s : State) (f : HbmRT → HbmRT) : (s.upHbm f).hbm = f s.hbm := rfl

@[simp] theorem State.upFw_fw (s : State) (f : FwRT → FwRT) : (s.upFw f).fw = f s.fw := rfl

@[simp] theorem State.upExact_exact (s : State) (f : ExactRT → ExactRT) : (s.upExact f).exact = f s.exact := rfl

@[simp] theorem State.upRepair_repair (s : State) (f : RepairRT → RepairRT) : (s.upRepair f).repair = f s.repair := rfl

@[simp] theorem State.upShelf_shelf (s : State) (f : ShelfRT → ShelfRT) : (s.upShelf f).shelf = f s.shelf := rfl

@[simp] theorem State.upGen_gen (s : State) (f : GenRT → GenRT) : (s.upGen f).gen = f s.gen := rfl

@[simp] theorem State.upRange_range (s : State) (f : RangeRT → RangeRT) : (s.upRange f).range = f s.range := rfl

@[simp] theorem State.upTime_time (s : State) (f : TimeRT → TimeRT) : (s.upTime f).time = f s.time := rfl

@[simp] theorem State.upBoard_board (s : State) (f : BoardRT → BoardRT) : (s.upBoard f).board = f s.board := rfl

@[simp] theorem State.upFe_fe (s : State) (f : FeRT → FeRT) : (s.upFe f).fe = f s.fe := rfl

@[simp] theorem State.upRoute_route (s : State) (f : RouteRT → RouteRT) : (s.upRoute f).route = f s.route := rfl

@[simp] theorem State.upSched_sched (s : State) (f : SchedRT → SchedRT) : (s.upSched f).sched = f s.sched := rfl

@[simp] theorem State.upTm_tm (s : State) (f : TmRT → TmRT) : (s.upTm f).tm = f s.tm := rfl

@[simp] theorem State.wr_store (s : State) (obj row fld v : ℕ) : (s.wr obj row fld v).store = putKey s.store (skey obj row fld) v := rfl

@[simp] theorem State.emit_out (s : State) (o : Output) : (s.emit o).out = s.out ++ [o] := rfl

@[simp] theorem State.updSess_sessions (s : State) (i : SessId) (f : Sess → Sess) :
    (s.updSess i f).sessions = updWhere s.sessions (fun x => x.id == i) f := rfl

end Sys2Proof.Machine
end

