-- ==== Sys2Proof/Laws/Sound.lean ====
section
/-! SUPPORT. What the named operations keep: the form of `State.Sound`, and the queue. -/
namespace Sys2Proof.Machine

/-- A state of sound form whose queue is `q`. -/
structure Ok (q : List Instr) (s : State) : Prop where
  sound : s.Sound
  queue : s.pending = q

/-- The answer is a next state of sound form whose queue is `q`. -/
def OutOk (q : List Instr) (o : Out) : Prop := ∃ t, o = .next t ∧ Ok q t

theorem outOk_next {q : List Instr} {t : State} (h : Ok q t) : OutOk q (.next t) := ⟨t, rfl, h⟩

/-- A state that differs in nothing that `Ok` speaks of. -/
theorem ok_of {q : List Instr} {s t : State} (h : Ok q s) (store : t.store = s.store) (home : t.chest.home = s.chest.home)
    (staging : t.host.staging = s.host.staging) (msix : t.host.msixTable = s.host.msixTable)
    (region : t.tel.region = s.tel.region) (mbox : t.mbox = s.mbox)
    (sessions : t.sessions = s.sessions) (pending : t.pending = s.pending) : Ok q t := by
  obtain ⟨⟨h1, h2, h3, h4, h5, h6, h7, h8⟩, h9⟩ := h
  exact ⟨⟨store ▸ h1, home ▸ h2, staging ▸ h3, msix ▸ h4, region ▸ h5, mbox ▸ h6, mbox ▸ h7, sessions ▸ h8⟩, pending ▸ h9⟩

theorem Ok.store {q : List Instr} {s : State} (h : Ok q s) : storeWf s.store := h.sound.store

theorem Ok.home {q : List Instr} {s : State} (h : Ok q s) : storeWf s.chest.home := h.sound.home

theorem Ok.staging {q : List Instr} {s : State} (h : Ok q s) : Memory.wf s.host.staging = true := h.sound.staging

theorem Ok.msix {q : List Instr} {s : State} (h : Ok q s) : Memory.wf s.host.msixTable = true := h.sound.msix

theorem Ok.buffers {q : List Instr} {s : State} (h : Ok q s) : ∀ m ∈ s.mbox, Memory.wf m.reqBuf = true := h.sound.buffers

theorem Ok.region {q : List Instr} {s : State} (h : Ok q s) : Memory.wf s.tel.region = true := h.sound.region

theorem Ok.slots {q : List Instr} {s : State} (h : Ok q s) : s.mbox.length = 4 := h.sound.slots

theorem Ok.host {q : List Instr} {s : State} (h : Ok q s) : ∀ i ∈ hostIds, i ∈ s.sessions.map (·.id) := h.sound.host

/-- What `Ok` says of a state written out. -/
theorem ok_mk {q : List Instr} {b : Blocks} {sessions : List Sess} {mbox : List Mbox} {nextSess nextHandle nextSnap commitSeq : Nat}
    {changed : List (CUnit × Nat)} {orderNext : Nat} {waits : List Wait} {barq : List BarWrite} {orphans : List (Nat × Nat × Txn)} {chest : Chest}
    {ao : AlwaysOn} {pins : Pins} {free : Nat} {out : List Output} {pending : List Instr} :
    Ok q (State.mk b sessions mbox nextSess nextHandle nextSnap commitSeq changed orderNext waits barq orphans chest ao pins free out
      pending) ↔
    storeWf b.store ∧ storeWf chest.home ∧ Memory.wf b.host.staging = true ∧ Memory.wf b.host.msixTable = true ∧
      Memory.wf b.tel.region = true ∧ (∀ m ∈ mbox, Memory.wf m.reqBuf = true) ∧ mbox.length = 4 ∧
      (∀ i ∈ hostIds, i ∈ sessions.map (·.id)) ∧ pending = q :=
  ⟨fun h => ⟨h.store, h.home, h.staging, h.msix, h.region, h.buffers, h.slots, h.host, h.queue⟩,
    fun ⟨h1, h2, h3, h4, h5, h6, h7, h8, h9⟩ => ⟨⟨h1, h2, h3, h4, h5, h6, h7, h8⟩, h9⟩⟩

theorem ok_snd {q : List Instr} {α : Type} {p : α × State} {a : α} {s : State} (e : p = (a, s)) (h : Ok q p.2) : Ok q s := by
  subst e
  exact h

theorem ite_ok {q : List Instr} {c : Prop} [Decidable c] {s t : State} (hs : Ok q s) (ht : Ok q t) :
    Ok q (if c then s else t) := by
  split <;> assumption

/-- A refusal leaves behind only what `Ok` allows. -/
def Verdict.Keeps (q : List Instr) : Verdict → Prop
  | .go => True
  | .refuse _ _ _ side => ∀ s, Ok q s → Ok q (side s)

theorem Verdict.Keeps.and {q : List Instr} {v w : Verdict} (hv : v.Keeps q) (hw : w.Keeps q) : (v.and w).Keeps q := by
  cases v with
  | go => exact hw
  | refuse st obj row side => exact hv

theorem need_keeps {q : List Instr} (ok : Bool) (st : Status) (obj row : Nat) : (need ok st obj row).Keeps q := by
  unfold need
  split
  · trivial
  · exact fun _ h => h

theorem needRows_keeps {q : List Instr} (l : List WCell) (ok : WCell → Bool) (st : Status) : (needRows l ok st).Keeps q := by
  unfold needRows
  split
  · exact fun _ h => h
  · trivial

theorem getD_ok {q : List Instr} {o : Option State} {s : State} (h : Ok q s) (ho : ∀ t, o = some t → Ok q t) :
    Ok q (o.getD s) := by
  cases o with
  | none => exact h
  | some t => exact ho t rfl

theorem foldl_ok {q : List Instr} {α : Type} {f : State → α → State} {s : State} (l : List α) (h : Ok q s)
    (hf : ∀ a e, Ok q a → Ok q (f a e)) : Ok q (l.foldl f s) := by
  induction l generalizing s with
  | nil => exact h
  | cons e l ih => exact ih (hf s e h)

theorem foldl_snd_ok {q : List Instr} {α β : Type} {f : β × State → α → β × State} {b : β × State} (l : List α)
    (h : Ok q b.2) (hf : ∀ a e, Ok q a.2 → Ok q (f a e).2) : Ok q (l.foldl f b).2 := by
  induction l generalizing b with
  | nil => exact h
  | cons e l ih => exact ih (hf b e h)

theorem foldl_fst_ok {q : List Instr} {α β : Type} {f : State × β → α → State × β} {b : State × β} (l : List α)
    (h : Ok q b.1) (hf : ∀ a e, Ok q a.1 → Ok q (f a e).1) : Ok q (l.foldl f b).1 := by
  induction l generalizing b with
  | nil => exact h
  | cons e l ih => exact ih (hf b e h)

theorem State.wr_ok {q : List Instr} {s : State} (h : Ok q s) (obj row fld v : Nat) : Ok q (s.wr obj row fld v) :=
  ⟨{ h.sound with store := storeWf_put h.sound.store _ _ }, h.queue⟩

theorem State.ws_ok {q : List Instr} {s : State} (h : Ok q s) (obj v : Nat) : Ok q (s.ws obj v) := State.wr_ok h _ _ _ _

theorem fresh_ok {q : List Instr} {s : State} (h : Ok q s) : Ok q s.fresh.2 := ok_of h rfl rfl rfl rfl rfl rfl rfl rfl

theorem State.add64_ok {q : List Instr} {s : State} (h : Ok q s) (obj row fld n : Nat) : Ok q (s.add64 obj row fld n) := by
  simp only [State.add64]
  split
  · exact State.wr_ok h _ _ _ _
  · exact State.wr_ok (fresh_ok h) _ _ _ _

theorem State.sat32_ok {q : List Instr} {s : State} (h : Ok q s) (obj row fld n : Nat) : Ok q (s.sat32 obj row fld n) :=
  State.wr_ok h _ _ _ _

/-- The memories of BAR4 that the host interface holds are in canonical form. -/
abbrev HostRT.wf (x : HostRT) : Prop := Memory.wf x.staging = true ∧ Memory.wf x.msixTable = true

theorem State.upHost_ok {q : List Instr} {s : State} {f : HostRT → HostRT} (h : Ok q s) (hf : ∀ x, x.wf → (f x).wf) :
    Ok q (s.upHost f) :=
  have w := hf _ ⟨h.sound.staging, h.sound.msix⟩
  ⟨{ h.sound with staging := w.1, msix := w.2 }, h.queue⟩

theorem State.upTel_ok {q : List Instr} {s : State} {f : TelRT → TelRT} (h : Ok q s)
    (hf : ∀ x, Memory.wf x.region = true → Memory.wf (f x).region = true) : Ok q (s.upTel f) :=
  ⟨{ h.sound with region := hf _ h.sound.region }, h.queue⟩

/-- A change of telemetry that hangs on a condition. -/
theorem upTel_ite_ok {q : List Instr} {s : State} (p : TelRT → Prop) [DecidablePred p] (a b : TelRT → TelRT) (h : Ok q s)
    (ha : ∀ x, Memory.wf x.region = true → Memory.wf (a x).region = true)
    (hb : ∀ x, Memory.wf x.region = true → Memory.wf (b x).region = true) :
    Ok q (s.upTel fun t => if p t then a t else b t) := by
  by_cases c : p s.tel
  · have e : s.upTel (fun t => if p t then a t else b t) = s.upTel a := by
      simp only [State.upTel, if_pos c]
    exact e ▸ State.upTel_ok h ha
  · have e : s.upTel (fun t => if p t then a t else b t) = s.upTel b := by
      simp only [State.upTel, if_neg c]
    exact e ▸ State.upTel_ok h hb

theorem updWhere_ids (l : List Sess) (p : Sess → Bool) (f : Sess → Sess) (hf : ∀ x, (f x).id = x.id) :
    (updWhere l p f).map (·.id) = l.map (·.id) := by
  unfold updWhere
  induction l with
  | nil => rfl
  | cons x t ih =>
    simp only [List.map_cons, ih]
    split <;> simp [hf]

/-- A change of the sessions that keeps who they are. -/
theorem sessions_ok {q : List Instr} {s : State} (h : Ok q s) (l : List Sess) (hl : l.map (·.id) = s.sessions.map (·.id)) :
    Ok q { s with sessions := l } :=
  ⟨{ h.sound with host := fun i hi => hl.symm ▸ h.sound.host i hi }, h.queue⟩

theorem State.updSess_ok {q : List Instr} {s : State} {i : SessId} {f : Sess → Sess} (h : Ok q s)
    (hf : ∀ x, (f x).id = x.id) : Ok q (s.updSess i f) :=
  sessions_ok h _ (updWhere_ids _ _ _ hf)

/-- A change of the mailbox slots that keeps their number and the form of their buffers. -/
theorem mbox_ok {q : List Instr} {s : State} (h : Ok q s) (l : List Mbox) (hl : l.length = s.mbox.length)
    (hw : ∀ m ∈ l, Memory.wf m.reqBuf = true) : Ok q { s with mbox := l } :=
  ⟨{ h.sound with slots := hl.trans h.sound.slots, buffers := hw }, h.queue⟩

theorem State.updMbox_ok {q : List Instr} {s : State} {k : Nat} {f : Mbox → Mbox} (h : Ok q s)
    (hf : ∀ m, Memory.wf m.reqBuf = true → Memory.wf (f m).reqBuf = true) : Ok q (s.updMbox k f) :=
  mbox_ok h _ (by simp) fun m hm => by
    obtain ⟨e, he, rfl⟩ := List.mem_map.1 hm
    have w := h.buffers e.1 (List.of_mem_zip (List.zipIdx_eq_zip_range' (l := s.mbox) ▸ he)).1
    split
    · exact hf _ w
    · exact w

theorem State.updDom_ok {q : List Instr} {s : State} {d : Dom} {f : DomRT → DomRT} (h : Ok q s) : Ok q (s.updDom d f) := by
  cases d <;> exact ok_of h rfl rfl rfl rfl rfl rfl rfl rfl

theorem State.journal_ok {q : List Instr} {s : State} (h : Ok q s) (keys : List (Nat × Nat × Nat)) (bytes : Nat)
    (r : JRec) : Ok q (s.journal keys bytes r) :=
  ⟨{ h.sound with home := storeWf_foldl_put _ _ _ h.sound.home }, h.queue⟩

theorem State.wrHome_ok {q : List Instr} {s : State} (h : Ok q s) (obj row fld v : Nat) : Ok q (s.wrHome obj row fld v) :=
  ⟨{ h.sound with store := storeWf_put h.sound.store _ _, home := storeWf_put h.sound.home _ _ }, h.queue⟩

theorem sendMsix_ok {q : List Instr} {v : Nat} {s : State} (h : Ok q s) : Ok q (sendMsix v s) := by
  unfold sendMsix
  split
  · exact ok_of h rfl rfl rfl rfl rfl rfl rfl rfl
  · exact State.upHost_ok h fun _ hx => hx

theorem routeAct_ok {q : List Instr} {n : Nat} {s : State} (h : Ok q s) : Ok q (routeAct n s) := by
  unfold routeAct
  dsimp only
  split
  · exact sendMsix_ok h
  · exact sessions_ok h _ (updWhere_ids _ _ _ fun _ => rfl)
  · exact h

theorem raiseN_ok {q : List Instr} (k n : Nat) {s : State} (h : Ok q s) : Ok q (raiseN k n s) := by
  have one : ∀ {s : State}, Ok q s → Ok q (raise n s) := by
    intro s h
    unfold raise
    dsimp only
    split
    · exact routeAct_ok (State.wr_ok (State.wr_ok h _ _ _ _) _ _ _ _)
    · exact State.wr_ok (State.wr_ok h _ _ _ _) _ _ _ _
  induction k generalizing s with
  | zero => exact h
  | succ k ih => exact ih (one h)

theorem raise_ok {q : List Instr} {n : Nat} {s : State} (h : Ok q s) : Ok q (raise n s) := raiseN_ok 1 n h

end Sys2Proof.Machine
end

