-- ==== Sys2Proof/Laws/KeepPipelines.lean ====
section
/-! SUPPORT. What every operation of Ops.lean, Flags.lean, Parse.lean, Route.lean, Exact.lean, Range.lean, Actions.lean, Buffer.lean
keeps: the form of `State.Sound`, and the queue. -/
namespace Sys2Proof.Machine

/-! ### Ops -/


theorem State.emit_ok {Q : List Instr} {s : State} {o : Output} (hok : Ok Q s) : Ok Q (State.emit s o) :=
  ok_of hok rfl rfl rfl rfl rfl rfl rfl rfl

theorem State.upTime_ok {Q : List Instr} {s : State} {f : TimeRT → TimeRT} (hok : Ok Q s) : Ok Q (State.upTime s f) :=
  ok_of hok rfl rfl rfl rfl rfl rfl rfl rfl

theorem State.upGen_ok {Q : List Instr} {s : State} {f : GenRT → GenRT} (hok : Ok Q s) : Ok Q (State.upGen s f) :=
  ok_of hok rfl rfl rfl rfl rfl rfl rfl rfl

theorem State.upRoute_ok {Q : List Instr} {s : State} {f : RouteRT → RouteRT} (hok : Ok Q s) : Ok Q (State.upRoute s f) :=
  ok_of hok rfl rfl rfl rfl rfl rfl rfl rfl

theorem State.upExact_ok {Q : List Instr} {s : State} {f : ExactRT → ExactRT} (hok : Ok Q s) : Ok Q (State.upExact s f) :=
  ok_of hok rfl rfl rfl rfl rfl rfl rfl rfl

theorem State.upRange_ok {Q : List Instr} {s : State} {f : RangeRT → RangeRT} (hok : Ok Q s) : Ok Q (State.upRange s f) :=
  ok_of hok rfl rfl rfl rfl rfl rfl rfl rfl

theorem State.upRepair_ok {Q : List Instr} {s : State} {f : RepairRT → RepairRT} (hok : Ok Q s) : Ok Q (State.upRepair s f) :=
  ok_of hok rfl rfl rfl rfl rfl rfl rfl rfl

theorem State.upFe_ok {Q : List Instr} {s : State} {f : FeRT → FeRT} (hok : Ok Q s) : Ok Q (State.upFe s f) :=
  ok_of hok rfl rfl rfl rfl rfl rfl rfl rfl

theorem State.upTm_ok {Q : List Instr} {s : State} {f : TmRT → TmRT} (hok : Ok Q s) : Ok Q (State.upTm s f) :=
  ok_of hok rfl rfl rfl rfl rfl rfl rfl rfl

theorem State.upSched_ok {Q : List Instr} {s : State} {f : SchedRT → SchedRT} (hok : Ok Q s) : Ok Q (State.upSched s f) :=
  ok_of hok rfl rfl rfl rfl rfl rfl rfl rfl

theorem State.upShelf_ok {Q : List Instr} {s : State} {f : ShelfRT → ShelfRT} (hok : Ok Q s) : Ok Q (State.upShelf s f) :=
  ok_of hok rfl rfl rfl rfl rfl rfl rfl rfl

theorem State.upMesh_ok {Q : List Instr} {s : State} {f : MeshRT → MeshRT} (hok : Ok Q s) : Ok Q (State.upMesh s f) :=
  ok_of hok rfl rfl rfl rfl rfl rfl rfl rfl

theorem State.upHbm_ok {Q : List Instr} {s : State} {f : HbmRT → HbmRT} (hok : Ok Q s) : Ok Q (State.upHbm s f) :=
  ok_of hok rfl rfl rfl rfl rfl rfl rfl rfl

theorem State.upBoard_ok {Q : List Instr} {s : State} {f : BoardRT → BoardRT} (hok : Ok Q s) : Ok Q (State.upBoard s f) :=
  ok_of hok rfl rfl rfl rfl rfl rfl rfl rfl

theorem State.upFw_ok {Q : List Instr} {s : State} {f : FwRT → FwRT} (hok : Ok Q s) : Ok Q (State.upFw s f) :=
  ok_of hok rfl rfl rfl rfl rfl rfl rfl rfl

theorem State.upBoot_ok {Q : List Instr} {s : State} {f : BootRT → BootRT} (hok : Ok Q s) : Ok Q (State.upBoot s f) :=
  ok_of hok rfl rfl rfl rfl rfl rfl rfl rfl

theorem State.openGen_ok {Q : List Instr} {s : State} (hok : Ok Q s) : Ok Q (State.openGen s) :=
  ok_of hok rfl rfl rfl rfl rfl rfl rfl rfl

theorem State.keepOld_ok {Q : List Instr} {s : State} {dead : ℕ} {obj : ℕ} {row : ℕ} {fld : ℕ} (hok : Ok Q s) : Ok Q (State.keepOld s dead obj row fld) :=
  ok_of hok rfl rfl rfl rfl rfl rfl rfl rfl

/-! ### Flags -/


theorem raiseIf_ok {Q : List Instr} {c : Bool} {n : ℕ} {s : State} (hok : Ok Q s) :
    Ok Q (raiseIf c n s) := by
  unfold raiseIf
  try dsimp only
  repeat' first
    | with_reducible assumption
    | (intro _)
    | with_reducible apply raise_ok
    | with_reducible apply foldl_ok
    | with_reducible apply foldl_snd_ok
    | with_reducible apply foldl_fst_ok
    | with_reducible apply ite_ok

theorem setDetail_ok {Q : List Instr} {obj : ℕ} {row : ℕ} {bitNo : ℕ} {source : ℕ} {s : State} (hok : Ok Q s) :
    Ok Q (setDetail obj row bitNo source s) := by
  unfold setDetail
  try dsimp only
  repeat' first
    | with_reducible assumption
    | (intro _)
    | with_reducible apply raise_ok
    | with_reducible apply State.wr_ok

theorem State.setFwMeta_ok {Q : List Instr} {s : State} {f : FwMeta → FwMeta} (hok : Ok Q s) :
    Ok Q (State.setFwMeta s f) := by
  unfold State.setFwMeta
  try dsimp only
  repeat' first
    | with_reducible assumption
    | with_reducible apply Ok.buffers
    | with_reducible apply Ok.host
    | (intro _)
    | with_reducible apply State.journal_ok
    | with_reducible apply foldl_ok
    | with_reducible apply foldl_snd_ok
    | with_reducible apply foldl_fst_ok
    | with_reducible apply ite_ok
    | with_reducible apply storeWf_filter
    | with_reducible exact storeWf_nil
    | with_reducible apply Memory.wf_memWrite
    | with_reducible exact Memory.wf_nil
    | split
    | dsimp only
    | (with_reducible refine ok_snd ‹_ = (_, _)› ?_)
    | rfl
    | (rw [ok_mk]; refine ⟨?_, ?_, ?_, ?_, ?_, ?_, ?_, ?_, ?_⟩)
    | with_reducible apply Ok.store
    | with_reducible apply Ok.home
    | with_reducible apply Ok.staging
    | with_reducible apply Ok.msix
    | with_reducible apply Ok.region
    | with_reducible apply Ok.buffers
    | with_reducible apply Ok.slots
    | with_reducible apply Ok.host
    | with_reducible apply Ok.queue

theorem auditWith_ok {Q : List Instr} {keys : List (ℕ × ℕ × ℕ)} {k : AuditKind} {client : ℕ} {role : ℕ} {op : ℕ} {obj : ℕ} {row : ℕ} {fld : ℕ} {detail : ℕ} {s : State} (hok : Ok Q s) :
    Ok Q (auditWith keys k client role op obj row fld detail s) := by
  unfold auditWith
  try dsimp only
  repeat' first
    | with_reducible assumption
    | with_reducible apply Ok.buffers
    | with_reducible apply Ok.host
    | (intro _)
    | with_reducible apply State.sat32_ok
    | with_reducible apply State.journal_ok
    | with_reducible apply foldl_ok
    | with_reducible apply foldl_snd_ok
    | with_reducible apply foldl_fst_ok
    | with_reducible apply ite_ok
    | with_reducible apply storeWf_filter
    | with_reducible exact storeWf_nil
    | with_reducible apply Memory.wf_memWrite
    | with_reducible exact Memory.wf_nil
    | split
    | dsimp only
    | (with_reducible refine ok_snd ‹_ = (_, _)› ?_)
    | rfl
    | (rw [ok_mk]; refine ⟨?_, ?_, ?_, ?_, ?_, ?_, ?_, ?_, ?_⟩)
    | with_reducible apply Ok.store
    | with_reducible apply Ok.home
    | with_reducible apply Ok.staging
    | with_reducible apply Ok.msix
    | with_reducible apply Ok.region
    | with_reducible apply Ok.buffers
    | with_reducible apply Ok.slots
    | with_reducible apply Ok.host
    | with_reducible apply Ok.queue

theorem auditEntry_ok {Q : List Instr} {k : AuditKind} {client : ℕ} {role : ℕ} {op : ℕ} {obj : ℕ} {row : ℕ} {fld : ℕ} {detail : ℕ} {s : State} (hok : Ok Q s) :
    Ok Q (auditEntry k client role op obj row fld detail s) := by
  unfold auditEntry
  try dsimp only
  repeat' first
    | with_reducible assumption
    | (intro _)
    | with_reducible apply auditWith_ok

theorem silentAccess_ok {Q : List Instr} {client : ℕ} {role : ℕ} {op : ℕ} {obj : ℕ} {row : ℕ} {fld : ℕ} {s : State} (hok : Ok Q s) :
    Ok Q (silentAccess client role op obj row fld s) := by
  unfold silentAccess
  try dsimp only
  repeat' first
    | with_reducible assumption
    | (intro _)
    | with_reducible apply auditWith_ok
    | with_reducible apply State.add64_ok

/-! ### Parse -/


theorem parseFailed_ok {Q : List Instr} {w : Walk} {e : ParseFail} {srcPort : ℕ} {s : State} (hok : Ok Q s) :
    Ok Q (parseFailed w e srcPort s) := by
  unfold parseFailed
  try dsimp only
  repeat' first
    | with_reducible assumption
    | (intro _)
    | with_reducible apply State.add64_ok
    | with_reducible apply State.wr_ok
    | with_reducible apply raise_ok

/-! ### Route -/


theorem filterUp_ok {Q : List Instr} {c : ℕ} {s : State} (hok : Ok Q s) :
    Ok Q (filterUp c s) := by
  unfold filterUp
  try dsimp only
  repeat' first
    | with_reducible assumption
    | (intro _)
    | with_reducible apply State.upRoute_ok
    | with_reducible apply raise_ok
    | with_reducible apply State.sat32_ok
    | with_reducible apply foldl_ok
    | with_reducible apply foldl_snd_ok
    | with_reducible apply foldl_fst_ok
    | with_reducible apply ite_ok

theorem filterDown_ok {Q : List Instr} {c : ℕ} {s : State} (hok : Ok Q s) :
    Ok Q (filterDown c s) := by
  unfold filterDown
  try dsimp only
  repeat' first
    | with_reducible assumption
    | (intro _)
    | with_reducible apply State.upRoute_ok
    | with_reducible apply foldl_ok
    | with_reducible apply foldl_snd_ok
    | with_reducible apply foldl_fst_ok
    | with_reducible apply ite_ok

theorem routeCommit_ok {Q : List Instr} {g : ℕ} {ops : List RouteOp} {s : State} (hok : Ok Q s) :
    Ok Q (routeCommit g ops s) := by
  unfold routeCommit
  try dsimp only
  repeat' first
    | with_reducible assumption
    | with_reducible apply Ok.buffers
    | with_reducible apply Ok.host
    | (intro _)
    | with_reducible apply filterUp_ok
    | with_reducible apply foldl_ok
    | with_reducible apply foldl_snd_ok
    | with_reducible apply foldl_fst_ok
    | with_reducible apply ite_ok
    | with_reducible apply storeWf_filter
    | with_reducible exact storeWf_nil
    | with_reducible apply Memory.wf_memWrite
    | with_reducible exact Memory.wf_nil
    | split
    | dsimp only
    | (with_reducible refine ok_snd ‹_ = (_, _)› ?_)
    | rfl
    | (rw [ok_mk]; refine ⟨?_, ?_, ?_, ?_, ?_, ?_, ?_, ?_, ?_⟩)
    | with_reducible apply Ok.store
    | with_reducible apply Ok.home
    | with_reducible apply Ok.staging
    | with_reducible apply Ok.msix
    | with_reducible apply Ok.region
    | with_reducible apply Ok.buffers
    | with_reducible apply Ok.slots
    | with_reducible apply Ok.host
    | with_reducible apply Ok.queue

theorem routeRefused_ok {Q : List Instr} {f : PlaceFail} {row : ℕ} {s : State} (hok : Ok Q s) :
    Ok Q (routeRefused f row s) := by
  unfold routeRefused
  try dsimp only
  repeat' first
    | with_reducible assumption
    | (intro _)
    | with_reducible apply State.ws_ok
    | with_reducible apply State.sat32_ok
    | with_reducible apply raise_ok
    | with_reducible apply foldl_ok
    | with_reducible apply foldl_snd_ok
    | with_reducible apply foldl_fst_ok
    | with_reducible apply ite_ok

theorem routeReclaim_ok {Q : List Instr} {s : State} (hok : Ok Q s) :
    Ok Q (routeReclaim s) := by
  unfold routeReclaim
  try dsimp only
  repeat' first
    | with_reducible assumption
    | (intro _)
    | with_reducible apply filterDown_ok
    | with_reducible apply State.upRoute_ok
    | with_reducible apply foldl_ok

theorem execRouteFilterRecompute_ok {Q : List Instr} {block : Fin 1048576} {s : State} (hok : Ok Q s) :
    OutOk Q (execRouteFilterRecompute block s) := by
  unfold execRouteFilterRecompute
  try dsimp only
  repeat' first
    | with_reducible assumption
    | with_reducible apply outOk_next
    | (intro _)
    | with_reducible apply State.upRoute_ok
    | with_reducible apply foldl_ok
    | with_reducible apply foldl_snd_ok
    | with_reducible apply foldl_fst_ok
    | with_reducible apply ite_ok
    | with_reducible apply storeWf_filter
    | with_reducible exact storeWf_nil
    | with_reducible apply Memory.wf_memWrite
    | with_reducible exact Memory.wf_nil
    | split

/-! ### Exact -/


theorem exactTouch_ok {Q : List Instr} {loc : ℕ} {s : State} (hok : Ok Q s) :
    Ok Q (exactTouch loc s) := by
  unfold exactTouch
  try dsimp only
  repeat' first
    | with_reducible assumption
    | (intro _)
    | with_reducible apply State.upExact_ok

theorem overflowEvent_ok {Q : List Instr} {before : ℕ} {s : State} (hok : Ok Q s) :
    Ok Q (overflowEvent before s) := by
  unfold overflowEvent
  try dsimp only
  repeat' first
    | with_reducible assumption
    | (intro _)
    | with_reducible apply raiseIf_ok

theorem exactCommit_ok {Q : List Instr} {g : ℕ} {ops : List ExactOp} {s : State} (hok : Ok Q s) :
    Ok Q (exactCommit g ops s) := by
  unfold exactCommit
  try dsimp only
  repeat' first
    | with_reducible assumption
    | with_reducible apply Ok.buffers
    | with_reducible apply Ok.host
    | (intro _)
    | with_reducible apply overflowEvent_ok
    | with_reducible apply foldl_ok
    | with_reducible apply foldl_snd_ok
    | with_reducible apply foldl_fst_ok
    | with_reducible apply ite_ok
    | with_reducible apply storeWf_filter
    | with_reducible exact storeWf_nil
    | with_reducible apply Memory.wf_memWrite
    | with_reducible exact Memory.wf_nil
    | split
    | dsimp only
    | (with_reducible refine ok_snd ‹_ = (_, _)› ?_)
    | rfl
    | (rw [ok_mk]; refine ⟨?_, ?_, ?_, ?_, ?_, ?_, ?_, ?_, ?_⟩)
    | with_reducible apply Ok.store
    | with_reducible apply Ok.home
    | with_reducible apply Ok.staging
    | with_reducible apply Ok.msix
    | with_reducible apply Ok.region
    | with_reducible apply Ok.buffers
    | with_reducible apply Ok.slots
    | with_reducible apply Ok.host
    | with_reducible apply Ok.queue

theorem exactRefused_ok {Q : List Instr} {f : ExactFail} {row : ℕ} {s : State} (hok : Ok Q s) :
    Ok Q (exactRefused f row s) := by
  unfold exactRefused
  try dsimp only
  repeat' first
    | with_reducible assumption
    | (intro _)
    | with_reducible apply raiseIf_ok
    | with_reducible apply State.ws_ok

theorem exactReclaim_ok {Q : List Instr} {s : State} (hok : Ok Q s) :
    Ok Q (exactReclaim s) := by
  unfold exactReclaim
  try dsimp only
  repeat' first
    | with_reducible assumption
    | (intro _)
    | with_reducible apply State.upExact_ok

theorem execExactAgerScan_ok {Q : List Instr} {s : State} (hok : Ok Q s) :
    OutOk Q (execExactAgerScan s) := by
  unfold execExactAgerScan
  try dsimp only
  repeat' first
    | with_reducible assumption
    | with_reducible apply outOk_next
    | (intro _)
    | with_reducible apply State.upExact_ok
    | with_reducible apply foldl_ok
    | with_reducible apply foldl_snd_ok
    | with_reducible apply foldl_fst_ok
    | with_reducible apply ite_ok
    | with_reducible apply storeWf_filter
    | with_reducible exact storeWf_nil
    | with_reducible apply Memory.wf_memWrite
    | with_reducible exact Memory.wf_nil
    | split

theorem ageCommit_ok {Q : List Instr} {s : State} (hok : Ok Q s) :
    Ok Q (ageCommit s) := by
  unfold ageCommit
  try dsimp only
  repeat' first
    | with_reducible assumption
    | with_reducible apply Ok.buffers
    | with_reducible apply Ok.host
    | (intro _)
    | with_reducible apply State.openGen_ok
    | with_reducible apply State.upExact_ok
    | with_reducible apply raise_ok
    | with_reducible apply State.add64_ok
    | with_reducible apply foldl_ok
    | with_reducible apply foldl_snd_ok
    | with_reducible apply foldl_fst_ok
    | with_reducible apply ite_ok
    | with_reducible apply storeWf_filter
    | with_reducible exact storeWf_nil
    | with_reducible apply Memory.wf_memWrite
    | with_reducible exact Memory.wf_nil
    | split
    | dsimp only
    | (with_reducible refine ok_snd ‹_ = (_, _)› ?_)
    | rfl
    | (rw [ok_mk]; refine ⟨?_, ?_, ?_, ?_, ?_, ?_, ?_, ?_, ?_⟩)
    | with_reducible apply Ok.store
    | with_reducible apply Ok.home
    | with_reducible apply Ok.staging
    | with_reducible apply Ok.msix
    | with_reducible apply Ok.region
    | with_reducible apply Ok.buffers
    | with_reducible apply Ok.slots
    | with_reducible apply Ok.host
    | with_reducible apply Ok.queue

theorem rememberNotified_ok {Q : List Instr} {id : ℕ} {s : State} (hok : Ok Q s) :
    Ok Q (rememberNotified id s) := by
  unfold rememberNotified
  try dsimp only
  repeat' first
    | with_reducible assumption
    | (intro _)
    | with_reducible apply State.upExact_ok

theorem learnQueue_ok {Q : List Instr} {k : LearnKey} {s : State} (hok : Ok Q s) :
    Ok Q (learnQueue k s) := by
  unfold learnQueue
  try dsimp only
  repeat' first
    | with_reducible assumption
    | (intro _)
    | with_reducible apply raise_ok
    | with_reducible apply State.add64_ok
    | with_reducible apply State.upExact_ok
    | with_reducible apply foldl_ok
    | with_reducible apply foldl_snd_ok
    | with_reducible apply foldl_fst_ok
    | with_reducible apply ite_ok

/-! ### Range -/


theorem rangeCommit_ok {Q : List Instr} {g : ℕ} {ops : List RangeOp} {s : State} (hok : Ok Q s) :
    Ok Q (rangeCommit g ops s) := by
  unfold rangeCommit
  try dsimp only
  repeat' first
    | with_reducible assumption
    | with_reducible apply Ok.buffers
    | with_reducible apply Ok.host
    | (intro _)
    | with_reducible apply foldl_ok
    | with_reducible apply foldl_snd_ok
    | with_reducible apply foldl_fst_ok
    | with_reducible apply ite_ok
    | with_reducible apply storeWf_filter
    | with_reducible exact storeWf_nil
    | with_reducible apply Memory.wf_memWrite
    | with_reducible exact Memory.wf_nil
    | split
    | dsimp only
    | (with_reducible refine ok_snd ‹_ = (_, _)› ?_)
    | rfl
    | (rw [ok_mk]; refine ⟨?_, ?_, ?_, ?_, ?_, ?_, ?_, ?_, ?_⟩)
    | with_reducible apply Ok.store
    | with_reducible apply Ok.home
    | with_reducible apply Ok.staging
    | with_reducible apply Ok.msix
    | with_reducible apply Ok.region
    | with_reducible apply Ok.buffers
    | with_reducible apply Ok.slots
    | with_reducible apply Ok.host
    | with_reducible apply Ok.queue

theorem rangeRefused_ok {Q : List Instr} {row : ℕ} {s : State} (hok : Ok Q s) :
    Ok Q (rangeRefused row s) := by
  unfold rangeRefused
  try dsimp only
  repeat' first
    | with_reducible assumption
    | (intro _)
    | with_reducible apply raise_ok
    | with_reducible apply State.ws_ok

theorem rangeReclaim_ok {Q : List Instr} {s : State} (hok : Ok Q s) :
    Ok Q (rangeReclaim s) := by
  unfold rangeReclaim
  try dsimp only
  repeat' first
    | with_reducible assumption
    | with_reducible apply Ok.buffers
    | with_reducible apply Ok.host
    | (intro _)
    | with_reducible apply foldl_ok
    | with_reducible apply foldl_snd_ok
    | with_reducible apply foldl_fst_ok
    | with_reducible apply ite_ok
    | with_reducible apply storeWf_filter
    | with_reducible exact storeWf_nil
    | with_reducible apply Memory.wf_memWrite
    | with_reducible exact Memory.wf_nil
    | split
    | dsimp only
    | (with_reducible refine ok_snd ‹_ = (_, _)› ?_)
    | rfl
    | (rw [ok_mk]; refine ⟨?_, ?_, ?_, ?_, ?_, ?_, ?_, ?_, ?_⟩)
    | with_reducible apply Ok.store
    | with_reducible apply Ok.home
    | with_reducible apply Ok.staging
    | with_reducible apply Ok.msix
    | with_reducible apply Ok.region
    | with_reducible apply Ok.buffers
    | with_reducible apply Ok.slots
    | with_reducible apply Ok.host
    | with_reducible apply Ok.queue

theorem rangeDirect_ok {Q : List Instr} {g : ℕ} {o : RangeOp} {s : State} (hok : Ok Q s) :
    Ok Q (rangeDirect g o s) := by
  unfold rangeDirect
  try dsimp only
  repeat' first
    | with_reducible assumption
    | (intro _)
    | with_reducible apply State.upRange_ok
    | with_reducible apply State.sat32_ok

/-! ### Actions -/


theorem meterPacket_ok {Q : List Instr} {idx : ℕ} {colour : ℕ} {len : ℕ} {s : State} (hok : Ok Q s) :
    Ok Q (meterPacket idx colour len s).2.2 := by
  unfold meterPacket
  try dsimp only
  repeat' first
    | with_reducible assumption
    | (intro _)
    | with_reducible apply State.upFe_ok
    | with_reducible apply State.add64_ok
    | with_reducible apply raise_ok
    | with_reducible apply foldl_ok
    | with_reducible apply foldl_snd_ok
    | with_reducible apply foldl_fst_ok
    | with_reducible apply ite_ok
    | with_reducible apply storeWf_filter
    | with_reducible exact storeWf_nil
    | with_reducible apply Memory.wf_memWrite
    | with_reducible exact Memory.wf_nil
    | split

theorem samplerAdmits_ok {Q : List Instr} {sampler : ℕ} {sealed_ : Bool} {s : State} (hok : Ok Q s) :
    Ok Q (samplerAdmits sampler sealed_ s).2 := by
  unfold samplerAdmits
  try dsimp only
  repeat' first
    | with_reducible assumption
    | (intro _)
    | with_reducible apply fresh_ok
    | with_reducible apply foldl_ok
    | with_reducible apply foldl_snd_ok
    | with_reducible apply foldl_fst_ok
    | with_reducible apply ite_ok
    | with_reducible apply storeWf_filter
    | with_reducible exact storeWf_nil
    | with_reducible apply Memory.wf_memWrite
    | with_reducible exact Memory.wf_nil
    | split

theorem recordBuilt_ok {Q : List Instr} {s : State} (hok : Ok Q s) : Ok Q (recordBuilt s) := by
  exact upTel_ite_ok (fun t => t.second + ticksPerS ≤ s.time.ticks) (fun t => { t with second := s.time.ticks, built := 1 })
    (fun t => { t with built := t.built + 1 }) hok (fun _ hx => hx) fun _ hx => hx

theorem fillSlot_ok {Q : List Instr} {r : ℕ} {s : State} (hok : Ok Q s) :
    Ok Q (fillSlot r s) := by
  unfold fillSlot
  try dsimp only
  repeat' first
    | with_reducible assumption
    | (intro _)
    | with_reducible apply State.upTel_ok
    | with_reducible apply foldl_ok
    | with_reducible apply foldl_snd_ok
    | with_reducible apply foldl_fst_ok
    | with_reducible apply ite_ok

theorem offerRecord_ok {Q : List Instr} {k : ℕ} {p : Pkt} {i : RecordInfo} {s : State} (hok : Ok Q s) :
    Ok Q (offerRecord k p i s) := by
  unfold offerRecord
  try dsimp only
  repeat' first
    | with_reducible assumption
    | (intro _)
    | with_reducible apply State.add64_ok
    | with_reducible apply fillSlot_ok
    | with_reducible apply raise_ok
    | with_reducible apply recordBuilt_ok
    | with_reducible apply State.upTel_ok
    | with_reducible apply raiseIf_ok
    | with_reducible apply foldl_ok
    | with_reducible apply foldl_snd_ok
    | with_reducible apply foldl_fst_ok
    | with_reducible apply ite_ok

theorem recordPacket_ok {Q : List Instr} {p : Pkt} {i : RecordInfo} {s : State} (hok : Ok Q s) :
    Ok Q (recordPacket p i s) := by
  unfold recordPacket
  try dsimp only
  repeat' first
    | with_reducible assumption
    | (intro _)
    | with_reducible apply offerRecord_ok
    | with_reducible apply foldl_ok
    | with_reducible apply foldl_snd_ok
    | with_reducible apply foldl_fst_ok
    | with_reducible apply ite_ok

/-! ### Buffer -/


theorem State.setQueue_ok {Q : List Instr} {s : State} {q : ℕ} {l : List QItem} (hok : Ok Q s) :
    Ok Q (State.setQueue s q l) := by
  unfold State.setQueue
  try dsimp only
  repeat' first
    | with_reducible assumption
    | (intro _)
    | with_reducible apply State.upTm_ok

theorem noteDiscard_ok {Q : List Instr} {p : Pkt} {s : State} (hok : Ok Q s) :
    Ok Q (noteDiscard p s) := by
  unfold noteDiscard
  try dsimp only
  repeat' first
    | with_reducible assumption
    | (intro _)
    | with_reducible apply State.upHost_ok
    | with_reducible apply foldl_ok
    | with_reducible apply foldl_snd_ok
    | with_reducible apply foldl_fst_ok
    | with_reducible apply ite_ok
    | with_reducible apply storeWf_filter
    | with_reducible exact storeWf_nil
    | with_reducible apply Memory.wf_memWrite
    | with_reducible exact Memory.wf_nil
    | split

theorem recordDrop_ok {Q : List Instr} {code : ℕ} {p : Pkt} {s : State} (hok : Ok Q s) :
    Ok Q (recordDrop code p s) := by
  unfold recordDrop
  try dsimp only
  repeat' first
    | with_reducible assumption
    | (intro _)
    | with_reducible apply noteDiscard_ok
    | with_reducible apply recordPacket_ok

theorem countDropped_ok {Q : List Instr} {q : ℕ} {len : ℕ} {s : State} (hok : Ok Q s) :
    Ok Q (countDropped q len s) := by
  unfold countDropped
  try dsimp only
  repeat' first
    | with_reducible assumption
    | (intro _)
    | with_reducible apply State.add64_ok

theorem tmDrop_ok {Q : List Instr} {r : DropReason} {p : Pkt} {s : State} (hok : Ok Q s) :
    Ok Q (tmDrop r p s) := by
  unfold tmDrop
  try dsimp only
  repeat' first
    | with_reducible assumption
    | (intro _)
    | with_reducible apply countDropped_ok
    | with_reducible apply recordDrop_ok
    | with_reducible apply State.add64_ok

theorem spillFailed_ok {Q : List Instr} {r : SpillNo} {s : State} (hok : Ok Q s) :
    Ok Q (spillFailed r s) := by
  unfold spillFailed
  try dsimp only
  repeat' first
    | with_reducible assumption
    | (intro _)
    | with_reducible apply raise_ok
    | with_reducible apply State.add64_ok
    | with_reducible apply foldl_ok
    | with_reducible apply foldl_snd_ok
    | with_reducible apply foldl_fst_ok
    | with_reducible apply ite_ok
    | with_reducible apply storeWf_filter
    | with_reducible exact storeWf_nil
    | with_reducible apply Memory.wf_memWrite
    | with_reducible exact Memory.wf_nil
    | split

theorem askReturn_ok {Q : List Instr} {q : ℕ} {s : State} (hok : Ok Q s) :
    Ok Q (askReturn q s) := by
  unfold askReturn
  try dsimp only
  repeat' first
    | with_reducible assumption
    | (intro _)
    | with_reducible apply State.upTm_ok
    | with_reducible apply foldl_ok
    | with_reducible apply foldl_snd_ok
    | with_reducible apply foldl_fst_ok
    | with_reducible apply ite_ok

theorem lowWater_ok {Q : List Instr} {cells : ℕ} {descs : ℕ} {s : State} (hok : Ok Q s) :
    Ok Q (lowWater cells descs s) := by
  unfold lowWater
  try dsimp only
  repeat' first
    | with_reducible assumption
    | (intro _)
    | with_reducible apply raiseIf_ok

theorem linkPacket_ok {Q : List Instr} {p : Pkt} {link : Pkt → State → State} {s : State} (hok : Ok Q s) (hl : ∀ p s, Ok Q s → Ok Q (link p s)) :
    Ok Q (linkPacket p link s) := by
  unfold linkPacket
  try dsimp only
  repeat' first
    | with_reducible assumption
    | with_reducible apply hl
    | (intro _)
    | with_reducible apply State.add64_ok
    | with_reducible apply askReturn_ok
    | with_reducible apply foldl_ok
    | with_reducible apply foldl_snd_ok
    | with_reducible apply foldl_fst_ok
    | with_reducible apply ite_ok

theorem admitOnChip_ok {Q : List Instr} {p : Pkt} {s : State} (hok : Ok Q s) :
    Ok Q (admitOnChip p s) := by
  unfold admitOnChip
  try dsimp only
  repeat' first
    | with_reducible assumption
    | (intro _)
    | with_reducible apply tmDrop_ok
    | with_reducible apply linkPacket_ok
    | with_reducible apply State.setQueue_ok
    | with_reducible apply lowWater_ok
    | with_reducible apply foldl_ok
    | with_reducible apply foldl_snd_ok
    | with_reducible apply foldl_fst_ok
    | with_reducible apply ite_ok
    | with_reducible apply storeWf_filter
    | with_reducible exact storeWf_nil
    | with_reducible apply Memory.wf_memWrite
    | with_reducible exact Memory.wf_nil
    | split

theorem intake_ok {Q : List Instr} {p : Pkt} {s : State} (hok : Ok Q s) :
    Ok Q (intake p s) := by
  unfold intake
  try dsimp only
  repeat' first
    | with_reducible assumption
    | (intro _)
    | with_reducible apply tmDrop_ok
    | with_reducible apply raise_ok
    | with_reducible apply State.add64_ok
    | with_reducible apply admitOnChip_ok
    | with_reducible apply spillFailed_ok
    | with_reducible apply State.setQueue_ok
    | with_reducible apply linkPacket_ok
    | with_reducible apply State.upTm_ok
    | with_reducible apply lowWater_ok
    | with_reducible apply foldl_ok
    | with_reducible apply foldl_snd_ok
    | with_reducible apply foldl_fst_ok
    | with_reducible apply ite_ok
    | with_reducible apply storeWf_filter
    | with_reducible exact storeWf_nil
    | with_reducible apply Memory.wf_memWrite
    | with_reducible exact Memory.wf_nil
    | split

theorem puntLimit_ok {Q : List Instr} {p : Pkt} {s : State} (hok : Ok Q s) :
    Ok Q (puntLimit p s).2 := by
  unfold puntLimit
  try dsimp only
  repeat' first
    | with_reducible assumption
    | (intro _)
    | with_reducible apply State.upTm_ok
    | with_reducible apply State.add64_ok
    | with_reducible apply raise_ok
    | with_reducible apply foldl_ok
    | with_reducible apply foldl_snd_ok
    | with_reducible apply foldl_fst_ok
    | with_reducible apply ite_ok
    | with_reducible apply storeWf_filter
    | with_reducible exact storeWf_nil
    | with_reducible apply Memory.wf_memWrite
    | with_reducible exact Memory.wf_nil
    | split

theorem enqueueLocal_ok {Q : List Instr} {p : Pkt} {s : State} (hok : Ok Q s) :
    Ok Q (enqueueLocal p s) := by
  unfold enqueueLocal
  try dsimp only
  repeat' first
    | with_reducible assumption
    | (intro _)
    | with_reducible apply puntLimit_ok
    | with_reducible apply intake_ok
    | with_reducible apply recordDrop_ok
    | with_reducible apply foldl_ok
    | with_reducible apply foldl_snd_ok
    | with_reducible apply foldl_fst_ok
    | with_reducible apply ite_ok

theorem State.updNode_ok {Q : List Instr} {s : State} {key : ℕ} {f : NodeRT → NodeRT} (hok : Ok Q s) :
    Ok Q (State.updNode s key f) := by
  unfold State.updNode
  try dsimp only
  repeat' first
    | with_reducible assumption
    | (intro _)
    | with_reducible apply State.upSched_ok

theorem settleRounds_ok {Q : List Instr} {s : State} (hok : Ok Q s) :
    Ok Q (settleRounds s) := by
  unfold settleRounds
  try dsimp only
  repeat' first
    | with_reducible assumption
    | (intro _)
    | with_reducible apply State.updNode_ok
    | with_reducible apply State.upSched_ok
    | with_reducible apply foldl_ok

theorem returnOne_ok {Q : List Instr} {q : ℕ} {s : State} (hok : Ok Q s) :
    ∀ t, returnOne q s = some t → Ok Q t := by
  intro t e
  unfold returnOne at e
  try dsimp only at e
  repeat' split at e
  all_goals cases e
  repeat' first
    | with_reducible assumption
    | (intro _)
    | with_reducible apply State.upTm_ok
    | with_reducible apply State.setQueue_ok
    | with_reducible apply lowWater_ok
    | with_reducible apply State.add64_ok

theorem returnPage_ok {Q : List Instr} {q : Nat} (fuel got : Nat) {s : State} (hok : Ok Q s) : Ok Q (returnPage q fuel got s) := by
  induction fuel generalizing got s with
  | zero => exact hok
  | succ fuel ih =>
    unfold returnPage
    try dsimp only
    repeat' first
      | with_reducible assumption
      | with_reducible apply ih
      | (intro _)
      | (with_reducible refine returnOne_ok ?_ _ ‹_ = some _›)
      | (with_reducible apply getD_ok)
      | with_reducible apply foldl_ok
      | with_reducible apply foldl_snd_ok
      | with_reducible apply foldl_fst_ok
      | with_reducible apply ite_ok
      | with_reducible apply storeWf_filter
      | with_reducible exact storeWf_nil
      | with_reducible apply Memory.wf_memWrite
      | with_reducible exact Memory.wf_nil
      | split

theorem losePage_ok {Q : List Instr} {q : ℕ} {page : ℕ} {s : State} (hok : Ok Q s) :
    Ok Q (losePage q page s) := by
  unfold losePage
  try dsimp only
  repeat' first
    | with_reducible assumption
    | (intro _)
    | with_reducible apply askReturn_ok
    | with_reducible apply settleRounds_ok
    | with_reducible apply raise_ok
    | with_reducible apply State.add64_ok
    | with_reducible apply recordDrop_ok
    | with_reducible apply countDropped_ok
    | with_reducible apply State.setQueue_ok
    | with_reducible apply foldl_ok

theorem hbmEvent_ok {Q : List Instr} {s : State} (hok : Ok Q s) :
    Ok Q (hbmEvent s) := by
  unfold hbmEvent
  try dsimp only
  repeat' first
    | with_reducible assumption
    | (intro _)
    | with_reducible apply State.sat32_ok

theorem hbmLog_ok {Q : List Instr} {kind : ℕ} {cls : ℕ} {synd : ℕ} {addr : ℕ} {s : State} (hok : Ok Q s) :
    Ok Q (hbmLog kind cls synd addr s) := by
  unfold hbmLog
  try dsimp only
  repeat' first
    | with_reducible assumption
    | (intro _)
    | with_reducible apply State.upHbm_ok

theorem hbmNote_ok {Q : List Instr} {cls : ℕ} {base : ℕ} {r : HbmRead} {s : State} (hok : Ok Q s) :
    Ok Q (hbmNote cls base r s) := by
  unfold hbmNote
  try dsimp only
  repeat' first
    | with_reducible assumption
    | (intro _)
    | with_reducible apply raise_ok
    | with_reducible apply hbmLog_ok
    | with_reducible apply State.add64_ok
    | with_reducible apply foldl_ok
    | with_reducible apply foldl_snd_ok
    | with_reducible apply foldl_fst_ok
    | with_reducible apply ite_ok
    | with_reducible apply storeWf_filter
    | with_reducible exact storeWf_nil
    | with_reducible apply Memory.wf_memWrite
    | with_reducible exact Memory.wf_nil
    | split

theorem loseReturn_ok {Q : List Instr} {q : ℕ} {s : State} (hok : Ok Q s) :
    Ok Q (loseReturn q s) := by
  unfold loseReturn
  try dsimp only
  repeat' first
    | with_reducible assumption
    | (intro _)
    | with_reducible apply hbmEvent_ok
    | with_reducible apply losePage_ok
    | with_reducible apply foldl_ok
    | with_reducible apply foldl_snd_ok
    | with_reducible apply foldl_fst_ok
    | with_reducible apply ite_ok
    | with_reducible apply storeWf_filter
    | with_reducible exact storeWf_nil
    | with_reducible apply Memory.wf_memWrite
    | with_reducible exact Memory.wf_nil
    | split

theorem serveReturn_ok {Q : List Instr} {r : HbmRead} {q : ℕ} {s : State} (hok : Ok Q s) :
    Ok Q (serveReturn r q s) := by
  unfold serveReturn
  try dsimp only
  repeat' first
    | with_reducible assumption
    | (intro _)
    | with_reducible apply State.upTm_ok
    | with_reducible apply hbmNote_ok
    | with_reducible apply loseReturn_ok
    | with_reducible apply returnPage_ok
    | with_reducible apply askReturn_ok
    | with_reducible apply foldl_ok
    | with_reducible apply foldl_snd_ok
    | with_reducible apply foldl_fst_ok
    | with_reducible apply ite_ok

theorem execSpillReturn_ok {Q : List Instr} {r : HbmRead} {s : State} (hok : Ok Q s) :
    OutOk Q (execSpillReturn r s) := by
  unfold execSpillReturn
  try dsimp only
  repeat' first
    | with_reducible assumption
    | with_reducible apply outOk_next
    | (intro _)
    | with_reducible apply State.upTm_ok
    | with_reducible apply raiseIf_ok
    | with_reducible apply serveReturn_ok
    | with_reducible apply foldl_ok
    | with_reducible apply foldl_snd_ok
    | with_reducible apply foldl_fst_ok
    | with_reducible apply ite_ok
    | with_reducible apply storeWf_filter
    | with_reducible exact storeWf_nil
    | with_reducible apply Memory.wf_memWrite
    | with_reducible exact Memory.wf_nil
    | split

theorem flushQueue_ok {Q : List Instr} {q : ℕ} {s : State} (hok : Ok Q s) :
    Ok Q (flushQueue q s) := by
  unfold flushQueue
  try dsimp only
  repeat' first
    | with_reducible assumption
    | (intro _)
    | with_reducible apply State.upTm_ok
    | with_reducible apply State.setQueue_ok
    | with_reducible apply tmDrop_ok
    | with_reducible apply raiseIf_ok
    | with_reducible apply settleRounds_ok
    | with_reducible apply foldl_ok
    | with_reducible apply foldl_snd_ok
    | with_reducible apply foldl_fst_ok
    | with_reducible apply ite_ok

theorem execTmIntegrityError_ok {Q : List Instr} {cells : List (Fin 524288)} {descs : List (Fin 2097152)} {s : State} (hok : Ok Q s) :
    OutOk Q (execTmIntegrityError cells descs s) := by
  unfold execTmIntegrityError
  try dsimp only
  repeat' first
    | with_reducible assumption
    | with_reducible apply outOk_next
    | (intro _)
    | with_reducible apply State.setQueue_ok
    | with_reducible apply State.upFe_ok
    | with_reducible apply raise_ok
    | with_reducible apply State.add64_ok
    | with_reducible apply recordDrop_ok
    | with_reducible apply countDropped_ok
    | with_reducible apply settleRounds_ok
    | with_reducible apply askReturn_ok
    | with_reducible apply foldl_ok

theorem shelfAlloc_ok {Q : List Instr} {client : ℕ} {size : ℕ} {s : State} (hok : Ok Q s) :
    Ok Q (shelfAlloc client size s).2 := by
  unfold shelfAlloc
  try dsimp only
  repeat' first
    | with_reducible assumption
    | (intro _)
    | with_reducible apply State.add64_ok
    | with_reducible apply State.upShelf_ok
    | with_reducible apply State.wr_ok
    | with_reducible apply raiseIf_ok
    | with_reducible apply foldl_ok
    | with_reducible apply foldl_snd_ok
    | with_reducible apply foldl_fst_ok
    | with_reducible apply ite_ok
    | with_reducible apply storeWf_filter
    | with_reducible exact storeWf_nil
    | with_reducible apply Memory.wf_memWrite
    | with_reducible exact Memory.wf_nil
    | split

theorem shelfRelease_ok {Q : List Instr} {client : ℕ} {k : ℕ} {n : ℕ} {s : State} (hok : Ok Q s) :
    Ok Q (shelfRelease client k n s) := by
  unfold shelfRelease
  try dsimp only
  repeat' first
    | with_reducible assumption
    | (intro _)
    | with_reducible apply State.upShelf_ok
    | with_reducible apply State.add64_ok
    | with_reducible apply State.wr_ok
    | with_reducible apply raise_ok
    | with_reducible apply foldl_ok
    | with_reducible apply foldl_snd_ok
    | with_reducible apply foldl_fst_ok
    | with_reducible apply ite_ok

theorem shelfClientEnd_ok {Q : List Instr} {client : ℕ} {s : State} (hok : Ok Q s) :
    Ok Q (shelfClientEnd client s) := by
  unfold shelfClientEnd
  try dsimp only
  repeat' first
    | with_reducible assumption
    | (intro _)
    | with_reducible apply State.upShelf_ok

theorem execShelfAllocate_ok {Q : List Instr} {client : BitVec 16} {size : ℕ} {s : State} (hok : Ok Q s) :
    OutOk Q (execShelfAllocate client size s) := by
  unfold execShelfAllocate
  try dsimp only
  repeat' first
    | with_reducible assumption
    | with_reducible apply outOk_next
    | (intro _)
    | with_reducible apply shelfAlloc_ok
    | with_reducible apply foldl_ok
    | with_reducible apply foldl_snd_ok
    | with_reducible apply foldl_fst_ok
    | with_reducible apply ite_ok
    | with_reducible apply storeWf_filter
    | with_reducible exact storeWf_nil
    | with_reducible apply Memory.wf_memWrite
    | with_reducible exact Memory.wf_nil
    | split

theorem execShelfRelease_ok {Q : List Instr} {client : BitVec 16} {pool : Fin 4} {buffer : ℕ} {s : State} (hok : Ok Q s) :
    OutOk Q (execShelfRelease client pool buffer s) := by
  unfold execShelfRelease
  try dsimp only
  repeat' first
    | with_reducible assumption
    | with_reducible apply outOk_next
    | (intro _)
    | with_reducible apply shelfRelease_ok

end Sys2Proof.Machine
end

