-- ==== Sys2Proof/Laws/KeepNetwork.lean ====
section
/-! SUPPORT. What every operation of Time.lean, Ports.lean, Sched.lean, Ingress.lean, Mesh.lean, MeshRx.lean, Egress.lean
keeps: the form of `State.Sound`, and the queue. -/
namespace Sys2Proof.Machine

/-! ### Time -/


theorem execLongcaseTick_ok {Q : List Instr} {s : State} (hok : Ok Q s) :
    OutOk Q (execLongcaseTick s) := by
  unfold execLongcaseTick
  try dsimp only
  repeat' first
    | with_reducible assumption
    | with_reducible apply outOk_next
    | with_reducible apply Ok.buffers
    | with_reducible apply Ok.host
    | (intro _)
    | with_reducible apply foldl_ok
    | with_reducible apply foldl_snd_ok
    | with_reducible apply foldl_fst_ok
    | with_reducible apply ite_ok
    | with_reducible apply storeWf_filter
    | with_reducible exact storeWf_nil
    | with_reducible apply Memory.wf_memWrite
    | with_reducible exact Memory.wf_nil
    | split
    | dsimp only
    | (with_reducible refine ok_snd ‹_ = (_, _)› ?_)
    | rfl
    | (rw [ok_mk]; refine ⟨?_, ?_, ?_, ?_, ?_, ?_, ?_, ?_, ?_⟩)
    | with_reducible apply Ok.store
    | with_reducible apply Ok.home
    | with_reducible apply Ok.staging
    | with_reducible apply Ok.msix
    | with_reducible apply Ok.region
    | with_reducible apply Ok.buffers
    | with_reducible apply Ok.slots
    | with_reducible apply Ok.host
    | with_reducible apply Ok.queue

theorem enterGrid_ok {Q : List Instr} {st : GridSt} {s : State} (hok : Ok Q s) :
    Ok Q (enterGrid st s) := by
  unfold enterGrid
  try dsimp only
  repeat' first
    | with_reducible assumption
    | with_reducible apply Ok.buffers
    | with_reducible apply Ok.host
    | (intro _)
    | with_reducible apply fresh_ok
    | with_reducible apply raise_ok
    | with_reducible apply foldl_ok
    | with_reducible apply foldl_snd_ok
    | with_reducible apply foldl_fst_ok
    | with_reducible apply ite_ok
    | with_reducible apply storeWf_filter
    | with_reducible exact storeWf_nil
    | with_reducible apply Memory.wf_memWrite
    | with_reducible exact Memory.wf_nil
    | split
    | dsimp only
    | (with_reducible refine ok_snd ‹_ = (_, _)› ?_)
    | rfl
    | (rw [ok_mk]; refine ⟨?_, ?_, ?_, ?_, ?_, ?_, ?_, ?_, ?_⟩)
    | with_reducible apply Ok.store
    | with_reducible apply Ok.home
    | with_reducible apply Ok.staging
    | with_reducible apply Ok.msix
    | with_reducible apply Ok.region
    | with_reducible apply Ok.buffers
    | with_reducible apply Ok.slots
    | with_reducible apply Ok.host
    | with_reducible apply Ok.queue

theorem selectedLost_ok {Q : List Instr} {s : State} (hok : Ok Q s) :
    Ok Q (selectedLost s) := by
  unfold selectedLost
  try dsimp only
  repeat' first
    | with_reducible assumption
    | (intro _)
    | with_reducible apply raise_ok
    | with_reducible apply State.ws_ok
    | with_reducible apply enterGrid_ok
    | with_reducible apply foldl_ok
    | with_reducible apply foldl_snd_ok
    | with_reducible apply foldl_fst_ok
    | with_reducible apply ite_ok
    | with_reducible apply storeWf_filter
    | with_reducible exact storeWf_nil
    | with_reducible apply Memory.wf_memWrite
    | with_reducible exact Memory.wf_nil
    | split

theorem domainQualified_ok {Q : List Instr} {d : Dom} {s : State} (hok : Ok Q s) :
    Ok Q (domainQualified d s) := by
  unfold domainQualified
  try dsimp only
  repeat' first
    | with_reducible assumption
    | (intro _)
    | with_reducible apply enterGrid_ok
    | with_reducible apply raise_ok
    | with_reducible apply State.ws_ok
    | with_reducible apply foldl_ok
    | with_reducible apply foldl_snd_ok
    | with_reducible apply foldl_fst_ok
    | with_reducible apply ite_ok

theorem setQualified_ok {Q : List Instr} {d : Dom} {v : ℕ} {s : State} (hok : Ok Q s) :
    Ok Q (setQualified d v s) := by
  unfold setQualified
  try dsimp only
  repeat' first
    | with_reducible assumption
    | (intro _)
    | with_reducible apply State.updDom_ok
    | with_reducible apply State.ws_ok
    | with_reducible apply domainQualified_ok
    | with_reducible apply selectedLost_ok
    | with_reducible apply foldl_ok
    | with_reducible apply foldl_snd_ok
    | with_reducible apply foldl_fst_ok
    | with_reducible apply ite_ok

theorem relockGrid_ok {Q : List Instr} {s : State} (hok : Ok Q s) :
    Ok Q (relockGrid s) := by
  unfold relockGrid
  try dsimp only
  repeat' first
    | with_reducible assumption
    | (intro _)
    | with_reducible apply enterGrid_ok
    | with_reducible apply foldl_ok
    | with_reducible apply foldl_snd_ok
    | with_reducible apply foldl_fst_ok
    | with_reducible apply ite_ok

theorem gridSourceWritten_ok {Q : List Instr} {s : State} (hok : Ok Q s) :
    Ok Q (gridSourceWritten s) := by
  unfold gridSourceWritten
  try dsimp only
  repeat' first
    | with_reducible assumption
    | (intro _)
    | with_reducible apply enterGrid_ok
    | with_reducible apply foldl_ok
    | with_reducible apply foldl_snd_ok
    | with_reducible apply foldl_fst_ok
    | with_reducible apply ite_ok
    | with_reducible apply storeWf_filter
    | with_reducible exact storeWf_nil
    | with_reducible apply Memory.wf_memWrite
    | with_reducible exact Memory.wf_nil
    | split

theorem execGridSteerUpdate_ok {Q : List Instr} {s : State} (hok : Ok Q s) :
    OutOk Q (execGridSteerUpdate s) := by
  unfold execGridSteerUpdate
  try dsimp only
  repeat' first
    | with_reducible assumption
    | with_reducible apply outOk_next
    | with_reducible apply Ok.buffers
    | with_reducible apply Ok.host
    | (intro _)
    | with_reducible apply foldl_ok
    | with_reducible apply foldl_snd_ok
    | with_reducible apply foldl_fst_ok
    | with_reducible apply ite_ok
    | with_reducible apply storeWf_filter
    | with_reducible exact storeWf_nil
    | with_reducible apply Memory.wf_memWrite
    | with_reducible exact Memory.wf_nil
    | split
    | dsimp only
    | (with_reducible refine ok_snd ‹_ = (_, _)› ?_)
    | rfl
    | (rw [ok_mk]; refine ⟨?_, ?_, ?_, ?_, ?_, ?_, ?_, ?_, ?_⟩)
    | with_reducible apply Ok.store
    | with_reducible apply Ok.home
    | with_reducible apply Ok.staging
    | with_reducible apply Ok.msix
    | with_reducible apply Ok.region
    | with_reducible apply Ok.buffers
    | with_reducible apply Ok.slots
    | with_reducible apply Ok.host
    | with_reducible apply Ok.queue

theorem execGridLock_ok {Q : List Instr} {s : State} (hok : Ok Q s) :
    OutOk Q (execGridLock s) := by
  unfold execGridLock
  try dsimp only
  repeat' first
    | with_reducible assumption
    | with_reducible apply outOk_next
    | (intro _)
    | with_reducible apply enterGrid_ok
    | with_reducible apply foldl_ok
    | with_reducible apply foldl_snd_ok
    | with_reducible apply foldl_fst_ok
    | with_reducible apply ite_ok
    | with_reducible apply storeWf_filter
    | with_reducible exact storeWf_nil
    | with_reducible apply Memory.wf_memWrite
    | with_reducible exact Memory.wf_nil
    | split

theorem noteLinkLost_ok {Q : List Instr} {p : ℕ} {s : State} (hok : Ok Q s) :
    Ok Q (noteLinkLost p s) := by
  unfold noteLinkLost
  try dsimp only
  repeat' first
    | with_reducible assumption
    | (intro _)
    | with_reducible apply State.updDom_ok
    | with_reducible apply foldl_ok
    | with_reducible apply foldl_snd_ok
    | with_reducible apply foldl_fst_ok
    | with_reducible apply ite_ok

theorem loseDomain_ok {Q : List Instr} {d : Dom} {s : State} (hok : Ok Q s) :
    Ok Q (loseDomain d s) := by
  unfold loseDomain
  try dsimp only
  repeat' first
    | with_reducible assumption
    | (intro _)
    | with_reducible apply State.ws_ok
    | with_reducible apply State.sat32_ok
    | with_reducible apply raise_ok
    | with_reducible apply selectedLost_ok
    | with_reducible apply foldl_ok
    | with_reducible apply foldl_snd_ok
    | with_reducible apply foldl_fst_ok
    | with_reducible apply ite_ok

theorem execDomainOffsetUpdate_ok {Q : List Instr} {d : Dom} {s : State} (hok : Ok Q s) :
    OutOk Q (execDomainOffsetUpdate d s) := by
  unfold execDomainOffsetUpdate
  try dsimp only
  repeat' first
    | with_reducible assumption
    | with_reducible apply outOk_next
    | (intro _)
    | with_reducible apply State.updDom_ok
    | with_reducible apply State.ws_ok
    | with_reducible apply foldl_ok
    | with_reducible apply foldl_snd_ok
    | with_reducible apply foldl_fst_ok
    | with_reducible apply ite_ok
    | with_reducible apply storeWf_filter
    | with_reducible exact storeWf_nil
    | with_reducible apply Memory.wf_memWrite
    | with_reducible exact Memory.wf_nil
    | split

theorem execDomainDisagreementUpdate_ok {Q : List Instr} {s : State} (hok : Ok Q s) :
    OutOk Q (execDomainDisagreementUpdate s) := by
  unfold execDomainDisagreementUpdate
  try dsimp only
  repeat' first
    | with_reducible assumption
    | with_reducible apply outOk_next
    | (intro _)
    | with_reducible apply State.ws_ok
    | with_reducible apply raiseIf_ok
    | with_reducible apply foldl_ok
    | with_reducible apply foldl_snd_ok
    | with_reducible apply foldl_fst_ok
    | with_reducible apply ite_ok
    | with_reducible apply storeWf_filter
    | with_reducible exact storeWf_nil
    | with_reducible apply Memory.wf_memWrite
    | with_reducible exact Memory.wf_nil
    | split

theorem noteEdge_ok {Q : List Instr} {input : ℕ} {s : State} (hok : Ok Q s) :
    Ok Q (noteEdge input s) := by
  unfold noteEdge
  try dsimp only
  repeat' first
    | with_reducible assumption
    | (intro _)
    | with_reducible apply State.upTime_ok

theorem edgeLost_ok {Q : List Instr} {s : State} (hok : Ok Q s) :
    Ok Q (edgeLost s) := by
  unfold edgeLost
  try dsimp only
  repeat' first
    | with_reducible assumption
    | (intro _)
    | with_reducible apply raise_ok
    | with_reducible apply State.sat32_ok

theorem logEdge_ok {Q : List Instr} {input : ℕ} {rising : Bool} {phase : ℕ} {s : State} (hok : Ok Q s) :
    Ok Q (logEdge input rising phase s) := by
  unfold logEdge
  try dsimp only
  repeat' first
    | with_reducible assumption
    | (intro _)
    | with_reducible apply edgeLost_ok
    | with_reducible apply raise_ok
    | with_reducible apply State.upTime_ok
    | with_reducible apply foldl_ok
    | with_reducible apply foldl_snd_ok
    | with_reducible apply foldl_fst_ok
    | with_reducible apply ite_ok

theorem execTimeCaptureEdge_ok {Q : List Instr} {input : Fin 8} {rising : Bool} {edge : PulseEdge} {s : State} (hok : Ok Q s) :
    OutOk Q (execTimeCaptureEdge input rising edge s) := by
  unfold execTimeCaptureEdge
  try dsimp only
  repeat' first
    | with_reducible assumption
    | with_reducible apply outOk_next
    | (intro _)
    | with_reducible apply edgeLost_ok
    | with_reducible apply logEdge_ok
    | with_reducible apply noteEdge_ok
    | with_reducible apply foldl_ok
    | with_reducible apply foldl_snd_ok
    | with_reducible apply foldl_fst_ok
    | with_reducible apply ite_ok
    | with_reducible apply storeWf_filter
    | with_reducible exact storeWf_nil
    | with_reducible apply Memory.wf_memWrite
    | with_reducible exact Memory.wf_nil
    | split

theorem ppsDomain_ok {Q : List Instr} {d : Dom} {phase : ℕ} {s : State} (hok : Ok Q s) :
    Ok Q (ppsDomain d phase s) := by
  unfold ppsDomain
  try dsimp only
  repeat' first
    | with_reducible assumption
    | (intro _)
    | with_reducible apply State.updDom_ok
    | with_reducible apply State.ws_ok
    | with_reducible apply foldl_ok
    | with_reducible apply foldl_snd_ok
    | with_reducible apply foldl_fst_ok
    | with_reducible apply ite_ok

theorem execPpsInEdge_ok {Q : List Instr} {rising : Bool} {edge : PulseEdge} {s : State} (hok : Ok Q s) :
    OutOk Q (execPpsInEdge rising edge s) := by
  unfold execPpsInEdge
  try dsimp only
  repeat' first
    | with_reducible assumption
    | with_reducible apply outOk_next
    | (intro _)
    | with_reducible apply edgeLost_ok
    | with_reducible apply noteEdge_ok
    | with_reducible apply ppsDomain_ok
    | with_reducible apply logEdge_ok
    | with_reducible apply foldl_ok
    | with_reducible apply foldl_snd_ok
    | with_reducible apply foldl_fst_ok
    | with_reducible apply ite_ok
    | with_reducible apply storeWf_filter
    | with_reducible exact storeWf_nil
    | with_reducible apply Memory.wf_memWrite
    | with_reducible exact Memory.wf_nil
    | split

theorem triggerWritten_ok {Q : List Instr} {row : ℕ} {s : State} (hok : Ok Q s) :
    Ok Q (triggerWritten row s) := by
  unfold triggerWritten
  try dsimp only
  repeat' first
    | with_reducible assumption
    | with_reducible apply Ok.buffers
    | with_reducible apply Ok.host
    | (intro _)
    | with_reducible apply State.wr_ok
    | with_reducible apply raise_ok
    | with_reducible apply foldl_ok
    | with_reducible apply foldl_snd_ok
    | with_reducible apply foldl_fst_ok
    | with_reducible apply ite_ok
    | with_reducible apply storeWf_filter
    | with_reducible exact storeWf_nil
    | with_reducible apply Memory.wf_memWrite
    | with_reducible exact Memory.wf_nil
    | split
    | dsimp only
    | (with_reducible refine ok_snd ‹_ = (_, _)› ?_)
    | rfl
    | (rw [ok_mk]; refine ⟨?_, ?_, ?_, ?_, ?_, ?_, ?_, ?_, ?_⟩)
    | with_reducible apply Ok.store
    | with_reducible apply Ok.home
    | with_reducible apply Ok.staging
    | with_reducible apply Ok.msix
    | with_reducible apply Ok.region
    | with_reducible apply Ok.buffers
    | with_reducible apply Ok.slots
    | with_reducible apply Ok.host
    | with_reducible apply Ok.queue

theorem triggersAfterStep_ok {Q : List Instr} {s : State} (hok : Ok Q s) :
    Ok Q (triggersAfterStep s) := by
  unfold triggersAfterStep
  try dsimp only
  repeat' first
    | with_reducible assumption
    | with_reducible apply Ok.buffers
    | with_reducible apply Ok.host
    | (intro _)
    | with_reducible apply foldl_ok
    | with_reducible apply foldl_snd_ok
    | with_reducible apply foldl_fst_ok
    | with_reducible apply ite_ok
    | with_reducible apply storeWf_filter
    | with_reducible exact storeWf_nil
    | with_reducible apply Memory.wf_memWrite
    | with_reducible exact Memory.wf_nil
    | split
    | dsimp only
    | (with_reducible refine ok_snd ‹_ = (_, _)› ?_)
    | rfl
    | (rw [ok_mk]; refine ⟨?_, ?_, ?_, ?_, ?_, ?_, ?_, ?_, ?_⟩)
    | with_reducible apply Ok.store
    | with_reducible apply Ok.home
    | with_reducible apply Ok.staging
    | with_reducible apply Ok.msix
    | with_reducible apply Ok.region
    | with_reducible apply Ok.buffers
    | with_reducible apply Ok.slots
    | with_reducible apply Ok.host
    | with_reducible apply Ok.queue

theorem triggerAdvance_ok {Q : List Instr} {t : TrigRT} {emitted : Bool} {s : State} (hok : Ok Q s) :
    Ok Q (triggerAdvance t emitted s) := by
  unfold triggerAdvance
  try dsimp only
  repeat' first
    | with_reducible assumption
    | with_reducible apply Ok.buffers
    | with_reducible apply Ok.host
    | (intro _)
    | with_reducible apply State.wr_ok
    | with_reducible apply raiseIf_ok
    | with_reducible apply foldl_ok
    | with_reducible apply foldl_snd_ok
    | with_reducible apply foldl_fst_ok
    | with_reducible apply ite_ok
    | with_reducible apply storeWf_filter
    | with_reducible exact storeWf_nil
    | with_reducible apply Memory.wf_memWrite
    | with_reducible exact Memory.wf_nil
    | split
    | dsimp only
    | (with_reducible refine ok_snd ‹_ = (_, _)› ?_)
    | rfl
    | (rw [ok_mk]; refine ⟨?_, ?_, ?_, ?_, ?_, ?_, ?_, ?_, ?_⟩)
    | with_reducible apply Ok.store
    | with_reducible apply Ok.home
    | with_reducible apply Ok.staging
    | with_reducible apply Ok.msix
    | with_reducible apply Ok.region
    | with_reducible apply Ok.buffers
    | with_reducible apply Ok.slots
    | with_reducible apply Ok.host
    | with_reducible apply Ok.queue

theorem execPpsOutPulse_ok {Q : List Instr} {s : State} (hok : Ok Q s) :
    OutOk Q (execPpsOutPulse s) := by
  unfold execPpsOutPulse
  try dsimp only
  repeat' first
    | with_reducible assumption
    | with_reducible apply outOk_next
    | (intro _)
    | with_reducible apply State.emit_ok
    | with_reducible apply State.upTime_ok
    | with_reducible apply foldl_ok
    | with_reducible apply foldl_snd_ok
    | with_reducible apply foldl_fst_ok
    | with_reducible apply ite_ok
    | with_reducible apply storeWf_filter
    | with_reducible exact storeWf_nil
    | with_reducible apply Memory.wf_memWrite
    | with_reducible exact Memory.wf_nil
    | split

/-! ### Ports -/


theorem State.updPort_ok {Q : List Instr} {s : State} {p : ℕ} {f : PortRT → PortRT} (hok : Ok Q s) :
    Ok Q (State.updPort s p f) := by
  unfold State.updPort
  try dsimp only
  repeat' first
    | with_reducible assumption
    | with_reducible apply Ok.buffers
    | with_reducible apply Ok.host
    | (intro _)
    | with_reducible apply foldl_ok
    | with_reducible apply foldl_snd_ok
    | with_reducible apply foldl_fst_ok
    | with_reducible apply ite_ok
    | with_reducible apply storeWf_filter
    | with_reducible exact storeWf_nil
    | with_reducible apply Memory.wf_memWrite
    | with_reducible exact Memory.wf_nil
    | split
    | dsimp only
    | (with_reducible refine ok_snd ‹_ = (_, _)› ?_)
    | rfl
    | (rw [ok_mk]; refine ⟨?_, ?_, ?_, ?_, ?_, ?_, ?_, ?_, ?_⟩)
    | with_reducible apply Ok.store
    | with_reducible apply Ok.home
    | with_reducible apply Ok.staging
    | with_reducible apply Ok.msix
    | with_reducible apply Ok.region
    | with_reducible apply Ok.buffers
    | with_reducible apply Ok.slots
    | with_reducible apply Ok.host
    | with_reducible apply Ok.queue

theorem clearRunning_ok {Q : List Instr} {p : ℕ} {s : State} (hok : Ok Q s) :
    Ok Q (clearRunning p s) := by
  unfold clearRunning
  try dsimp only
  repeat' first
    | with_reducible assumption
    | (intro _)
    | with_reducible apply State.wr_ok
    | with_reducible apply foldl_ok

theorem setLink_ok {Q : List Instr} {p : ℕ} {st : ℕ} {s : State} (hok : Ok Q s) :
    Ok Q (setLink p st s) := by
  unfold setLink
  try dsimp only
  repeat' first
    | with_reducible assumption
    | (intro _)
    | with_reducible apply State.updPort_ok
    | with_reducible apply State.wr_ok
    | with_reducible apply clearRunning_ok
    | with_reducible apply noteLinkLost_ok
    | with_reducible apply setDetail_ok
    | with_reducible apply foldl_ok
    | with_reducible apply foldl_snd_ok
    | with_reducible apply foldl_fst_ok
    | with_reducible apply ite_ok

theorem clearCable_ok {Q : List Instr} {p : ℕ} {s : State} (hok : Ok Q s) :
    Ok Q (clearCable p s) := by
  unfold clearCable
  try dsimp only
  repeat' first
    | with_reducible assumption
    | (intro _)
    | with_reducible apply State.wr_ok
    | with_reducible apply foldl_ok
    | with_reducible apply foldl_snd_ok
    | with_reducible apply foldl_fst_ok
    | with_reducible apply ite_ok

theorem restartPort_ok {Q : List Instr} {p : ℕ} {s : State} (hok : Ok Q s) :
    Ok Q (restartPort p s) := by
  unfold restartPort
  try dsimp only
  repeat' first
    | with_reducible assumption
    | (intro _)
    | with_reducible apply State.updPort_ok
    | with_reducible apply setLink_ok
    | with_reducible apply clearCable_ok
    | with_reducible apply State.wr_ok
    | with_reducible apply foldl_ok
    | with_reducible apply foldl_snd_ok
    | with_reducible apply foldl_fst_ok
    | with_reducible apply ite_ok

theorem writeLead_ok {Q : List Instr} {p : ℕ} {mode : ℕ} {s : State} (hok : Ok Q s) :
    Ok Q (writeLead p mode s) := by
  unfold writeLead
  try dsimp only
  repeat' first
    | with_reducible assumption
    | (intro _)
    | with_reducible apply State.wr_ok

theorem execAutonegComplete_ok {Q : List Instr} {port : Fin 128} {ability : BitVec 16} {fec : BitVec 2} {s : State} (hok : Ok Q s) :
    OutOk Q (execAutonegComplete port ability fec s) := by
  unfold execAutonegComplete
  try dsimp only
  repeat' first
    | with_reducible assumption
    | with_reducible apply outOk_next
    | (intro _)
    | with_reducible apply State.wr_ok
    | with_reducible apply setLink_ok
    | with_reducible apply foldl_ok
    | with_reducible apply foldl_snd_ok
    | with_reducible apply foldl_fst_ok
    | with_reducible apply ite_ok
    | with_reducible apply storeWf_filter
    | with_reducible exact storeWf_nil
    | with_reducible apply Memory.wf_memWrite
    | with_reducible exact Memory.wf_nil
    | split

theorem execAutonegTimeout_ok {Q : List Instr} {port : Fin 128} {ability : BitVec 16} {fec : BitVec 2} {s : State} (hok : Ok Q s) :
    OutOk Q (execAutonegTimeout port ability fec s) := by
  unfold execAutonegTimeout
  try dsimp only
  repeat' first
    | with_reducible assumption
    | with_reducible apply outOk_next
    | (intro _)
    | with_reducible apply State.wr_ok
    | with_reducible apply setLink_ok
    | with_reducible apply setDetail_ok
    | with_reducible apply foldl_ok
    | with_reducible apply foldl_snd_ok
    | with_reducible apply foldl_fst_ok
    | with_reducible apply ite_ok
    | with_reducible apply storeWf_filter
    | with_reducible exact storeWf_nil
    | with_reducible apply Memory.wf_memWrite
    | with_reducible exact Memory.wf_nil
    | split

theorem execLinkTrainingComplete_ok {Q : List Instr} {port : Fin 128} {losses : List (BitVec 16)} {s : State} (hok : Ok Q s) :
    OutOk Q (execLinkTrainingComplete port losses s) := by
  unfold execLinkTrainingComplete
  try dsimp only
  repeat' first
    | with_reducible assumption
    | with_reducible apply outOk_next
    | (intro _)
    | with_reducible apply State.wr_ok
    | with_reducible apply setLink_ok
    | with_reducible apply foldl_ok
    | with_reducible apply foldl_snd_ok
    | with_reducible apply foldl_fst_ok
    | with_reducible apply ite_ok
    | with_reducible apply storeWf_filter
    | with_reducible exact storeWf_nil
    | with_reducible apply Memory.wf_memWrite
    | with_reducible exact Memory.wf_nil
    | split

theorem execTrainingTimeout_ok {Q : List Instr} {port : Fin 128} {s : State} (hok : Ok Q s) :
    OutOk Q (execTrainingTimeout port s) := by
  unfold execTrainingTimeout
  try dsimp only
  repeat' first
    | with_reducible assumption
    | with_reducible apply outOk_next
    | (intro _)
    | with_reducible apply setLink_ok
    | with_reducible apply setDetail_ok
    | with_reducible apply State.wr_ok
    | with_reducible apply foldl_ok
    | with_reducible apply foldl_snd_ok
    | with_reducible apply foldl_fst_ok
    | with_reducible apply ite_ok
    | with_reducible apply storeWf_filter
    | with_reducible exact storeWf_nil
    | with_reducible apply Memory.wf_memWrite
    | with_reducible exact Memory.wf_nil
    | split

theorem sendPause_ok {Q : List Instr} {p : ℕ} {cls : ℕ} {quanta : ℕ} {s : State} (hok : Ok Q s) :
    Ok Q (sendPause p cls quanta s) := by
  unfold sendPause
  try dsimp only
  repeat' first
    | with_reducible assumption
    | (intro _)
    | with_reducible apply State.emit_ok
    | with_reducible apply State.add64_ok
    | with_reducible apply foldl_ok
    | with_reducible apply foldl_snd_ok
    | with_reducible apply foldl_fst_ok
    | with_reducible apply ite_ok

theorem flowCheck_ok {Q : List Instr} {p : ℕ} {s : State} (hok : Ok Q s) :
    Ok Q (flowCheck p s) := by
  unfold flowCheck
  try dsimp only
  repeat' first
    | with_reducible assumption
    | (intro _)
    | with_reducible apply State.updPort_ok
    | with_reducible apply sendPause_ok
    | with_reducible apply foldl_ok
    | with_reducible apply foldl_snd_ok
    | with_reducible apply foldl_fst_ok
    | with_reducible apply ite_ok

theorem execPortLinkUp_ok {Q : List Instr} {port : Fin 128} {s : State} (hok : Ok Q s) :
    OutOk Q (execPortLinkUp port s) := by
  unfold execPortLinkUp
  try dsimp only
  repeat' first
    | with_reducible assumption
    | with_reducible apply outOk_next
    | (intro _)
    | with_reducible apply State.wr_ok
    | with_reducible apply flowCheck_ok
    | with_reducible apply setLink_ok
    | with_reducible apply writeLead_ok
    | with_reducible apply clearCable_ok
    | with_reducible apply foldl_ok
    | with_reducible apply foldl_snd_ok
    | with_reducible apply foldl_fst_ok
    | with_reducible apply ite_ok
    | with_reducible apply storeWf_filter
    | with_reducible exact storeWf_nil
    | with_reducible apply Memory.wf_memWrite
    | with_reducible exact Memory.wf_nil
    | split

theorem execLaneLockLoss_ok {Q : List Instr} {port : Fin 128} {lanes : BitVec 8} {cut : Bool} {s : State} (hok : Ok Q s) :
    OutOk Q (execLaneLockLoss port lanes cut s) := by
  unfold execLaneLockLoss
  try dsimp only
  repeat' first
    | with_reducible assumption
    | with_reducible apply outOk_next
    | (intro _)
    | with_reducible apply State.wr_ok
    | with_reducible apply State.add64_ok
    | with_reducible apply State.updPort_ok
    | with_reducible apply setLink_ok
    | with_reducible apply setDetail_ok
    | with_reducible apply foldl_ok
    | with_reducible apply foldl_snd_ok
    | with_reducible apply foldl_fst_ok
    | with_reducible apply ite_ok
    | with_reducible apply storeWf_filter
    | with_reducible exact storeWf_nil
    | with_reducible apply Memory.wf_memWrite
    | with_reducible exact Memory.wf_nil
    | split

theorem execPortDegradeComplete_ok {Q : List Instr} {port : Fin 128} {stopped : BitVec 8} {s : State} (hok : Ok Q s) :
    OutOk Q (execPortDegradeComplete port stopped s) := by
  unfold execPortDegradeComplete
  try dsimp only
  repeat' first
    | with_reducible assumption
    | with_reducible apply outOk_next
    | (intro _)
    | with_reducible apply State.wr_ok
    | with_reducible apply setLink_ok
    | with_reducible apply writeLead_ok
    | with_reducible apply foldl_ok
    | with_reducible apply foldl_snd_ok
    | with_reducible apply foldl_fst_ok
    | with_reducible apply ite_ok
    | with_reducible apply storeWf_filter
    | with_reducible exact storeWf_nil
    | with_reducible apply Memory.wf_memWrite
    | with_reducible exact Memory.wf_nil
    | split

theorem showPaused_ok {Q : List Instr} {p : ℕ} {s : State} (hok : Ok Q s) :
    Ok Q (showPaused p s) := by
  unfold showPaused
  try dsimp only
  repeat' first
    | with_reducible assumption
    | (intro _)
    | with_reducible apply State.wr_ok

theorem pauseReceived_ok {Q : List Instr} {p : ℕ} {l : List (ℕ × ℕ)} {s : State} (hok : Ok Q s) :
    Ok Q (pauseReceived p l s) := by
  unfold pauseReceived
  try dsimp only
  repeat' first
    | with_reducible assumption
    | (intro _)
    | with_reducible apply showPaused_ok
    | with_reducible apply State.updPort_ok

theorem execPauseExpire_ok {Q : List Instr} {port : Fin 128} {cls : Fin 8} {s : State} (hok : Ok Q s) :
    OutOk Q (execPauseExpire port cls s) := by
  unfold execPauseExpire
  try dsimp only
  repeat' first
    | with_reducible assumption
    | with_reducible apply outOk_next
    | (intro _)
    | with_reducible apply showPaused_ok
    | with_reducible apply State.updPort_ok
    | with_reducible apply foldl_ok
    | with_reducible apply foldl_snd_ok
    | with_reducible apply foldl_fst_ok
    | with_reducible apply ite_ok
    | with_reducible apply storeWf_filter
    | with_reducible exact storeWf_nil
    | with_reducible apply Memory.wf_memWrite
    | with_reducible exact Memory.wf_nil
    | split

theorem execPfcRepeat_ok {Q : List Instr} {port : Fin 128} {cls : Fin 9} {s : State} (hok : Ok Q s) :
    OutOk Q (execPfcRepeat port cls s) := by
  unfold execPfcRepeat
  try dsimp only
  repeat' first
    | with_reducible assumption
    | with_reducible apply outOk_next
    | (intro _)
    | with_reducible apply State.updPort_ok
    | with_reducible apply sendPause_ok
    | with_reducible apply foldl_ok
    | with_reducible apply foldl_snd_ok
    | with_reducible apply foldl_fst_ok
    | with_reducible apply ite_ok
    | with_reducible apply storeWf_filter
    | with_reducible exact storeWf_nil
    | with_reducible apply Memory.wf_memWrite
    | with_reducible exact Memory.wf_nil
    | split

theorem ptpHeard_ok {Q : List Instr} {p : ℕ} {d : Bytes} {s : State} (hok : Ok Q s) :
    Ok Q (ptpHeard p d s) := by
  unfold ptpHeard
  try dsimp only
  repeat' first
    | with_reducible assumption
    | (intro _)
    | with_reducible apply State.updDom_ok
    | with_reducible apply foldl_ok
    | with_reducible apply foldl_snd_ok
    | with_reducible apply foldl_fst_ok
    | with_reducible apply ite_ok

theorem bufferFrame_ok {Q : List Instr} {p : ℕ} {f : RxFrame} {s : State} (hok : Ok Q s) :
    Ok Q (bufferFrame p f s) := by
  unfold bufferFrame
  try dsimp only
  repeat' first
    | with_reducible assumption
    | (intro _)
    | with_reducible apply State.add64_ok
    | with_reducible apply State.updPort_ok
    | with_reducible apply setDetail_ok
    | with_reducible apply flowCheck_ok
    | with_reducible apply foldl_ok
    | with_reducible apply foldl_snd_ok
    | with_reducible apply foldl_fst_ok
    | with_reducible apply ite_ok

theorem countFec_ok {Q : List Instr} {p : ℕ} {fec : FecCount} {s : State} (hok : Ok Q s) :
    Ok Q (countFec p fec s) := by
  unfold countFec
  try dsimp only
  repeat' first
    | with_reducible assumption
    | (intro _)
    | with_reducible apply State.add64_ok

theorem execFrameReceive_ok {Q : List Instr} {port : Fin 128} {rx : LineBytes} {phase : Fin 5} {s : State} (hok : Ok Q s) :
    OutOk Q (execFrameReceive port rx phase s) := by
  unfold execFrameReceive
  try dsimp only
  repeat' first
    | with_reducible assumption
    | with_reducible apply outOk_next
    | (intro _)
    | with_reducible apply State.updPort_ok
    | with_reducible apply State.add64_ok
    | with_reducible apply countFec_ok
    | with_reducible apply pauseReceived_ok
    | with_reducible apply ptpHeard_ok
    | with_reducible apply bufferFrame_ok
    | with_reducible apply foldl_ok
    | with_reducible apply foldl_snd_ok
    | with_reducible apply foldl_fst_ok
    | with_reducible apply ite_ok
    | with_reducible apply storeWf_filter
    | with_reducible exact storeWf_nil
    | with_reducible apply Memory.wf_memWrite
    | with_reducible exact Memory.wf_nil
    | split

theorem portConfigApplied_ok {Q : List Instr} {p : ℕ} {changed : List ℕ} {s : State} (hok : Ok Q s) :
    Ok Q (portConfigApplied p changed s) := by
  unfold portConfigApplied
  try dsimp only
  repeat' first
    | with_reducible assumption
    | (intro _)
    | with_reducible apply restartPort_ok
    | with_reducible apply foldl_ok
    | with_reducible apply foldl_snd_ok
    | with_reducible apply foldl_fst_ok
    | with_reducible apply ite_ok

theorem portRetrain_ok {Q : List Instr} {p : ℕ} {s : State} (hok : Ok Q s) :
    Ok Q (portRetrain p s) := by
  unfold portRetrain
  try dsimp only
  repeat' first
    | with_reducible assumption
    | (intro _)
    | with_reducible apply restartPort_ok
    | with_reducible apply foldl_ok
    | with_reducible apply foldl_snd_ok
    | with_reducible apply foldl_fst_ok
    | with_reducible apply ite_ok

theorem tcPortWritten_ok {Q : List Instr} {p : ℕ} {s : State} (hok : Ok Q s) :
    Ok Q (tcPortWritten p s) := by
  unfold tcPortWritten
  try dsimp only
  repeat' first
    | with_reducible assumption
    | (intro _)
    | with_reducible apply State.wr_ok
    | with_reducible apply foldl_ok
    | with_reducible apply foldl_snd_ok
    | with_reducible apply foldl_fst_ok
    | with_reducible apply ite_ok

/-! ### Sched -/


theorem installFields_ok {Q : List Instr} {level : ℕ} {row : ℕ} {flds : List ℕ} {s : State} (hok : Ok Q s) :
    Ok Q (installFields level row flds s) := by
  unfold installFields
  try dsimp only
  repeat' first
    | with_reducible assumption
    | (intro _)
    | with_reducible apply State.upSched_ok

theorem installRow_ok {Q : List Instr} {level : ℕ} {row : ℕ} {s : State} (hok : Ok Q s) :
    Ok Q (installRow level row s) := by
  unfold installRow
  try dsimp only
  repeat' first
    | with_reducible assumption
    | (intro _)
    | with_reducible apply installFields_ok
    | with_reducible apply State.upSched_ok
    | with_reducible apply State.updNode_ok
    | with_reducible apply foldl_ok
    | with_reducible apply foldl_snd_ok
    | with_reducible apply foldl_fst_ok
    | with_reducible apply ite_ok

theorem refillNode_ok {Q : List Instr} {level : ℕ} {row : ℕ} {s : State} (hok : Ok Q s) :
    Ok Q (refillNode level row s) := by
  unfold refillNode
  try dsimp only
  repeat' first
    | with_reducible assumption
    | (intro _)
    | with_reducible apply State.updNode_ok

theorem execShaperRefill_ok {Q : List Instr} {level : Fin 5} {s : State} (hok : Ok Q s) :
    OutOk Q (execShaperRefill level s) := by
  unfold execShaperRefill
  try dsimp only
  repeat' first
    | with_reducible assumption
    | with_reducible apply outOk_next
    | (intro _)
    | with_reducible apply installRow_ok
    | with_reducible apply State.upSched_ok
    | with_reducible apply refillNode_ok
    | with_reducible apply foldl_ok

theorem execCalendarSlotRelease_ok {Q : List Instr} {s : State} (hok : Ok Q s) :
    OutOk Q (execCalendarSlotRelease s) := by
  unfold execCalendarSlotRelease
  try dsimp only
  repeat' first
    | with_reducible assumption
    | with_reducible apply outOk_next
    | (intro _)
    | with_reducible apply State.updNode_ok
    | with_reducible apply raise_ok
    | with_reducible apply State.add64_ok
    | with_reducible apply foldl_ok

theorem chargeCalendar_ok {Q : List Instr} {level : ℕ} {row : ℕ} {cost : ℕ} {s : State} (hok : Ok Q s) :
    Ok Q (chargeCalendar level row cost s) := by
  unfold chargeCalendar
  try dsimp only
  repeat' first
    | with_reducible assumption
    | (intro _)
    | with_reducible apply raise_ok
    | with_reducible apply State.add64_ok
    | with_reducible apply State.updNode_ok
    | with_reducible apply foldl_ok
    | with_reducible apply foldl_snd_ok
    | with_reducible apply foldl_fst_ok
    | with_reducible apply ite_ok

theorem State.updGate_ok {Q : List Instr} {s : State} {p : ℕ} {f : GateRT → GateRT} (hok : Ok Q s) :
    Ok Q (State.updGate s p f) := by
  unfold State.updGate
  try dsimp only
  repeat' first
    | with_reducible assumption
    | with_reducible apply Ok.buffers
    | with_reducible apply Ok.host
    | (intro _)
    | with_reducible apply foldl_ok
    | with_reducible apply foldl_snd_ok
    | with_reducible apply foldl_fst_ok
    | with_reducible apply ite_ok
    | with_reducible apply storeWf_filter
    | with_reducible exact storeWf_nil
    | with_reducible apply Memory.wf_memWrite
    | with_reducible exact Memory.wf_nil
    | split
    | dsimp only
    | (with_reducible refine ok_snd ‹_ = (_, _)› ?_)
    | rfl
    | (rw [ok_mk]; refine ⟨?_, ?_, ?_, ?_, ?_, ?_, ?_, ?_, ?_⟩)
    | with_reducible apply Ok.store
    | with_reducible apply Ok.home
    | with_reducible apply Ok.staging
    | with_reducible apply Ok.msix
    | with_reducible apply Ok.region
    | with_reducible apply Ok.buffers
    | with_reducible apply Ok.slots
    | with_reducible apply Ok.host
    | with_reducible apply Ok.queue

theorem gateRefresh_ok {Q : List Instr} {p : ℕ} {s : State} (hok : Ok Q s) :
    Ok Q (gateRefresh p s) := by
  unfold gateRefresh
  try dsimp only
  repeat' first
    | with_reducible assumption
    | (intro _)
    | with_reducible apply State.updGate_ok

theorem execGateEntryChange_ok {Q : List Instr} {port : Fin 128} {s : State} (hok : Ok Q s) :
    OutOk Q (execGateEntryChange port s) := by
  unfold execGateEntryChange
  try dsimp only
  repeat' first
    | with_reducible assumption
    | with_reducible apply outOk_next
    | (intro _)
    | with_reducible apply gateRefresh_ok

theorem execGateListStart_ok {Q : List Instr} {port : Fin 128} {s : State} (hok : Ok Q s) :
    OutOk Q (execGateListStart port s) := by
  unfold execGateListStart
  try dsimp only
  repeat' first
    | with_reducible assumption
    | with_reducible apply outOk_next
    | (intro _)
    | with_reducible apply raise_ok
    | with_reducible apply gateRefresh_ok
    | with_reducible apply State.updGate_ok
    | with_reducible apply foldl_ok
    | with_reducible apply foldl_snd_ok
    | with_reducible apply foldl_fst_ok
    | with_reducible apply ite_ok
    | with_reducible apply storeWf_filter
    | with_reducible exact storeWf_nil
    | with_reducible apply Memory.wf_memWrite
    | with_reducible exact Memory.wf_nil
    | split

theorem gateChange_ok {Q : List Instr} {p : ℕ} {s : State} (hok : Ok Q s) :
    Ok Q (gateChange p s) := by
  unfold gateChange
  try dsimp only
  repeat' first
    | with_reducible assumption
    | (intro _)
    | with_reducible apply State.updGate_ok
    | with_reducible apply raise_ok
    | with_reducible apply State.sat32_ok
    | with_reducible apply foldl_ok
    | with_reducible apply foldl_snd_ok
    | with_reducible apply foldl_fst_ok
    | with_reducible apply ite_ok

theorem installCalendar_ok {Q : List Instr} {level : ℕ} {row : ℕ} {s : State} (hok : Ok Q s) :
    Ok Q (installCalendar level row s) := by
  unfold installCalendar
  try dsimp only
  repeat' first
    | with_reducible assumption
    | (intro _)
    | with_reducible apply installFields_ok
    | with_reducible apply State.upSched_ok
    | with_reducible apply State.updNode_ok
    | with_reducible apply foldl_ok
    | with_reducible apply foldl_snd_ok
    | with_reducible apply foldl_fst_ok
    | with_reducible apply ite_ok

theorem chargeNode_ok {Q : List Instr} {level : ℕ} {row : ℕ} {len : ℕ} {s : State} (hok : Ok Q s) :
    Ok Q (chargeNode level row len s) := by
  unfold chargeNode
  try dsimp only
  repeat' first
    | with_reducible assumption
    | (intro _)
    | with_reducible apply installCalendar_ok
    | with_reducible apply chargeCalendar_ok
    | with_reducible apply State.updNode_ok
    | with_reducible apply foldl_ok
    | with_reducible apply foldl_snd_ok
    | with_reducible apply foldl_fst_ok
    | with_reducible apply ite_ok

theorem popHead_ok {Q : List Instr} {q : ℕ} {s : State} (hok : Ok Q s) :
    Ok Q (popHead q s) := by
  unfold popHead
  try dsimp only
  repeat' first
    | with_reducible assumption
    | (intro _)
    | with_reducible apply askReturn_ok
    | with_reducible apply State.setQueue_ok

theorem dropAged_ok {Q : List Instr} {q : ℕ} {p : Pkt} {s : State} (hok : Ok Q s) :
    Ok Q (dropAged q p s) := by
  unfold dropAged
  try dsimp only
  repeat' first
    | with_reducible assumption
    | (intro _)
    | with_reducible apply popHead_ok
    | with_reducible apply State.add64_ok
    | with_reducible apply raise_ok
    | with_reducible apply recordDrop_ok
    | with_reducible apply foldl_ok
    | with_reducible apply foldl_snd_ok
    | with_reducible apply foldl_fst_ok
    | with_reducible apply ite_ok

theorem dropLate_ok {Q : List Instr} {q port : Nat} (fuel : Nat) {s : State} (hok : Ok Q s) : Ok Q (dropLate q port fuel s) := by
  induction fuel generalizing s with
  | zero => exact hok
  | succ fuel ih =>
    unfold dropLate
    try dsimp only
    repeat' first
      | with_reducible assumption
      | with_reducible apply ih
      | (intro _)
      | with_reducible apply State.add64_ok
      | with_reducible apply raise_ok
      | with_reducible apply recordDrop_ok
      | with_reducible apply countDropped_ok
      | with_reducible apply popHead_ok
      | with_reducible apply foldl_ok
      | with_reducible apply foldl_snd_ok
      | with_reducible apply foldl_fst_ok
      | with_reducible apply ite_ok
      | with_reducible apply storeWf_filter
      | with_reducible exact storeWf_nil
      | with_reducible apply Memory.wf_memWrite
      | with_reducible exact Memory.wf_nil
      | split

theorem headTests_ok {Q : List Instr} {c : Cand} {s : State} (hok : Ok Q s) :
    Ok Q (headTests c s).2 := by
  unfold headTests
  try dsimp only
  repeat' first
    | with_reducible assumption
    | (intro _)
    | with_reducible apply dropAged_ok
    | with_reducible apply dropLate_ok
    | with_reducible apply foldl_ok
    | with_reducible apply foldl_snd_ok
    | with_reducible apply foldl_fst_ok
    | with_reducible apply ite_ok
    | with_reducible apply storeWf_filter
    | with_reducible exact storeWf_nil
    | with_reducible apply Memory.wf_memWrite
    | with_reducible exact Memory.wf_nil
    | split

theorem countLaunch_ok {Q : List Instr} {c : Cand} {s : State} (hok : Ok Q s) :
    Ok Q (countLaunch c s) := by
  unfold countLaunch
  try dsimp only
  repeat' first
    | with_reducible assumption
    | (intro _)
    | with_reducible apply State.add64_ok
    | with_reducible apply raise_ok
    | with_reducible apply foldl_ok
    | with_reducible apply foldl_snd_ok
    | with_reducible apply foldl_fst_ok
    | with_reducible apply ite_ok

theorem applyRounds_ok {Q : List Instr} {c : Child} {s : State} (hok : Ok Q s) :
    Ok Q (applyRounds c s) := by
  unfold applyRounds
  try dsimp only
  repeat' first
    | with_reducible assumption
    | (intro _)
    | with_reducible apply State.upSched_ok
    | with_reducible apply State.updNode_ok
    | with_reducible apply foldl_ok

theorem sendHead_ok {Q : List Instr} {c : Child} {link : ℕ} {s : State} (hok : Ok Q s) :
    Ok Q (sendHead c link s) := by
  unfold sendHead
  try dsimp only
  repeat' first
    | with_reducible assumption
    | (intro _)
    | with_reducible apply State.upFe_ok
    | with_reducible apply popHead_ok
    | with_reducible apply chargeNode_ok
    | with_reducible apply settleRounds_ok
    | with_reducible apply applyRounds_ok
    | with_reducible apply foldl_ok
    | with_reducible apply foldl_snd_ok
    | with_reducible apply foldl_fst_ok
    | with_reducible apply ite_ok
    | with_reducible apply storeWf_filter
    | with_reducible exact storeWf_nil
    | with_reducible apply Memory.wf_memWrite
    | with_reducible exact Memory.wf_nil
    | split

theorem execSchedulerSelect_ok {Q : List Instr} {port : Fin 160} {s : State} (hok : Ok Q s) :
    OutOk Q (execSchedulerSelect port s) := by
  unfold execSchedulerSelect
  try dsimp only
  repeat' first
    | with_reducible assumption
    | with_reducible apply outOk_next
    | (intro _)
    | with_reducible apply headTests_ok
    | with_reducible apply settleRounds_ok
    | with_reducible apply sendHead_ok
    | with_reducible apply countLaunch_ok
    | with_reducible apply foldl_ok
    | with_reducible apply foldl_snd_ok
    | with_reducible apply foldl_fst_ok
    | with_reducible apply ite_ok
    | with_reducible apply storeWf_filter
    | with_reducible exact storeWf_nil
    | with_reducible apply Memory.wf_memWrite
    | with_reducible exact Memory.wf_nil
    | split

/-! ### Ingress -/


theorem crossToTm_ok {Q : List Instr} {hash : ℕ} {bundle : List Pkt} {s : State} (hok : Ok Q s) :
    Ok Q (crossToTm hash bundle s) := by
  unfold crossToTm
  try dsimp only
  repeat' first
    | with_reducible assumption
    | (intro _)
    | with_reducible apply State.upFe_ok
    | with_reducible apply foldl_ok
    | with_reducible apply foldl_snd_ok
    | with_reducible apply foldl_fst_ok
    | with_reducible apply ite_ok
    | with_reducible apply storeWf_filter
    | with_reducible exact storeWf_nil
    | with_reducible apply Memory.wf_memWrite
    | with_reducible exact Memory.wf_nil
    | split

theorem ingressDrop_ok {Q : List Instr} {code : ℕ} {p : Pkt} {s : State} (hok : Ok Q s) :
    Ok Q (ingressDrop code p s) := by
  unfold ingressDrop
  try dsimp only
  repeat' first
    | with_reducible assumption
    | (intro _)
    | with_reducible apply noteDiscard_ok
    | with_reducible apply recordPacket_ok

theorem notifyLearn_ok {Q : List Instr} {kind : ℕ} {oldTag : ℕ} {k : LearnKey} {s : State} (hok : Ok Q s) :
    Ok Q (notifyLearn kind oldTag k s) := by
  unfold notifyLearn
  try dsimp only
  repeat' first
    | with_reducible assumption
    | (intro _)
    | with_reducible apply State.add64_ok
    | with_reducible apply rememberNotified_ok
    | with_reducible apply crossToTm_ok
    | with_reducible apply foldl_ok
    | with_reducible apply foldl_snd_ok
    | with_reducible apply foldl_fst_ok
    | with_reducible apply ite_ok

theorem learnFrom_ok {Q : List Instr} {which : ℕ} {l : Option ExactLook} {g : ℕ} {p : Pkt} {s : State} (hok : Ok Q s) :
    Ok Q (learnFrom which l g p s) := by
  unfold learnFrom
  try dsimp only
  repeat' first
    | with_reducible assumption
    | (intro _)
    | with_reducible apply learnQueue_ok
    | with_reducible apply notifyLearn_ok
    | with_reducible apply foldl_ok
    | with_reducible apply foldl_snd_ok
    | with_reducible apply foldl_fst_ok
    | with_reducible apply ite_ok
    | with_reducible apply storeWf_filter
    | with_reducible exact storeWf_nil
    | with_reducible apply Memory.wf_memWrite
    | with_reducible exact Memory.wf_nil
    | split

theorem touchHit_ok {Q : List Instr} {l : Option ExactLook} {s : State} (hok : Ok Q s) :
    Ok Q (touchHit l s) := by
  unfold touchHit
  try dsimp only
  repeat' first
    | with_reducible assumption
    | (intro _)
    | with_reducible apply exactTouch_ok
    | with_reducible apply foldl_ok
    | with_reducible apply foldl_snd_ok
    | with_reducible apply foldl_fst_ok
    | with_reducible apply ite_ok
    | with_reducible apply storeWf_filter
    | with_reducible exact storeWf_nil
    | with_reducible apply Memory.wf_memWrite
    | with_reducible exact Memory.wf_nil
    | split

theorem countLookups_ok {Q : List Instr} {l : Look} {s : State} (hok : Ok Q s) :
    Ok Q (countLookups l s) := by
  unfold countLookups
  try dsimp only
  repeat' first
    | with_reducible assumption
    | (intro _)
    | with_reducible apply State.add64_ok
    | with_reducible apply foldl_ok
    | with_reducible apply foldl_snd_ok
    | with_reducible apply foldl_fst_ok
    | with_reducible apply ite_ok
    | with_reducible apply storeWf_filter
    | with_reducible exact storeWf_nil
    | with_reducible apply Memory.wf_memWrite
    | with_reducible exact Memory.wf_nil
    | split

theorem countPairs_ok {Q : List Instr} {cs : List ℕ} {len : ℕ} {s : State} (hok : Ok Q s) :
    Ok Q (countPairs cs len s) := by
  unfold countPairs
  try dsimp only
  repeat' first
    | with_reducible assumption
    | (intro _)
    | with_reducible apply State.add64_ok
    | with_reducible apply foldl_ok

theorem takeSeq_ok {Q : List Instr} {stream : ℕ} {s : State} (hok : Ok Q s) :
    Ok Q (takeSeq stream s).2 := by
  unfold takeSeq
  try dsimp only
  repeat' first
    | with_reducible assumption
    | (intro _)
    | with_reducible apply State.wr_ok

theorem forwardPacket_ok {Q : List Instr} {dst : Dest} {edit : ℕ} {marks : List ℕ} {p : Pkt} {s : State} (hok : Ok Q s) :
    Ok Q (forwardPacket dst edit marks p s).2 := by
  unfold forwardPacket
  try dsimp only
  repeat' first
    | with_reducible assumption
    | (intro _)
    | with_reducible apply raise_ok
    | with_reducible apply foldl_ok
    | with_reducible apply foldl_snd_ok
    | with_reducible apply foldl_fst_ok
    | with_reducible apply ite_ok
    | with_reducible apply storeWf_filter
    | with_reducible exact storeWf_nil
    | with_reducible apply Memory.wf_memWrite
    | with_reducible exact Memory.wf_nil
    | split

theorem dispose_ok {Q : List Instr} {d : Disp} {marks : List ℕ} {p : Pkt} {s : State} (hok : Ok Q s) :
    Ok Q (dispose d marks p s).2 := by
  unfold dispose
  try dsimp only
  repeat' first
    | with_reducible assumption
    | (intro _)
    | with_reducible apply takeSeq_ok
    | with_reducible apply forwardPacket_ok
    | with_reducible apply ingressDrop_ok
    | with_reducible apply State.add64_ok
    | with_reducible apply foldl_ok
    | with_reducible apply foldl_snd_ok
    | with_reducible apply foldl_fst_ok
    | with_reducible apply ite_ok
    | with_reducible apply storeWf_filter
    | with_reducible exact storeWf_nil
    | with_reducible apply Memory.wf_memWrite
    | with_reducible exact Memory.wf_nil
    | split

theorem sampleBy_ok {Q : List Instr} {d : Disp} {p : Pkt} {s : State} (hok : Ok Q s) :
    Ok Q (sampleBy d p s).2.2 := by
  unfold sampleBy
  try dsimp only
  repeat' first
    | with_reducible assumption
    | (intro _)
    | with_reducible apply samplerAdmits_ok
    | with_reducible apply foldl_ok
    | with_reducible apply foldl_snd_ok
    | with_reducible apply foldl_fst_ok
    | with_reducible apply ite_ok
    | with_reducible apply storeWf_filter
    | with_reducible exact storeWf_nil
    | with_reducible apply Memory.wf_memWrite
    | with_reducible exact Memory.wf_nil
    | split

theorem ruleStage_ok {Q : List Instr} {d : Disp} {marks : List ℕ} {p : Pkt} {s : State} (hok : Ok Q s) :
    Ok Q (ruleStage d marks p s) := by
  unfold ruleStage
  try dsimp only
  repeat' first
    | with_reducible assumption
    | (intro _)
    | with_reducible apply raiseN_ok _ _
    | with_reducible apply State.add64_ok
    | with_reducible apply raise_ok
    | with_reducible apply countPairs_ok
    | with_reducible apply meterPacket_ok
    | with_reducible apply sampleBy_ok
    | with_reducible apply ingressDrop_ok
    | with_reducible apply dispose_ok
    | with_reducible apply crossToTm_ok
    | with_reducible apply foldl_ok
    | with_reducible apply foldl_snd_ok
    | with_reducible apply foldl_fst_ok
    | with_reducible apply ite_ok
    | with_reducible apply storeWf_filter
    | with_reducible exact storeWf_nil
    | with_reducible apply Memory.wf_memWrite
    | with_reducible exact Memory.wf_nil
    | split

theorem park_ok {Q : List Instr} {e : Entering} {again : Option ℕ} {new : List Line} {pending : Bool} {s : State} (hok : Ok Q s) :
    Ok Q (park e again new pending s) := by
  unfold park
  try dsimp only
  repeat' first
    | with_reducible assumption
    | (intro _)
    | with_reducible apply State.upRepair_ok
    | with_reducible apply State.wr_ok
    | with_reducible apply raiseIf_ok

theorem passOn_ok {Q : List Instr} {e : Entering} {l : Look} {d : Disp} {s : State} (hok : Ok Q s) :
    Ok Q (passOn e l d s) := by
  unfold passOn
  try dsimp only
  repeat' first
    | with_reducible assumption
    | (intro _)
    | with_reducible apply parseFailed_ok
    | with_reducible apply crossToTm_ok
    | with_reducible apply forwardPacket_ok
    | with_reducible apply touchHit_ok
    | with_reducible apply countLookups_ok
    | with_reducible apply learnFrom_ok
    | with_reducible apply ruleStage_ok
    | with_reducible apply foldl_ok
    | with_reducible apply foldl_snd_ok
    | with_reducible apply foldl_fst_ok
    | with_reducible apply ite_ok
    | with_reducible apply storeWf_filter
    | with_reducible exact storeWf_nil
    | with_reducible apply Memory.wf_memWrite
    | with_reducible exact Memory.wf_nil
    | split

theorem enter_ok {Q : List Instr} {e : Entering} {again : Option ℕ} {errs : List Line} {s : State} (hok : Ok Q s) :
    Ok Q (enter e again errs s) := by
  unfold enter
  try dsimp only
  repeat' first
    | with_reducible assumption
    | (intro _)
    | with_reducible apply passOn_ok
    | with_reducible apply parseFailed_ok
    | with_reducible apply crossToTm_ok
    | with_reducible apply State.add64_ok
    | with_reducible apply park_ok
    | with_reducible apply foldl_ok
    | with_reducible apply foldl_snd_ok
    | with_reducible apply foldl_fst_ok
    | with_reducible apply ite_ok
    | with_reducible apply storeWf_filter
    | with_reducible exact storeWf_nil
    | with_reducible apply Memory.wf_memWrite
    | with_reducible exact Memory.wf_nil
    | split

theorem withStamps_ok {Q : List Instr} {p : Pkt} {s : State} (hok : Ok Q s) :
    Ok Q (withStamps p s).2 := by
  unfold withStamps
  try dsimp only
  repeat' first
    | with_reducible assumption
    | (intro _)
    | with_reducible apply fresh_ok

theorem takeFrom_ok {Q : List Instr} {a : AdmitSrc} {s : State} (hok : Ok Q s) :
    ∀ x y t, takeFrom a s = some (x, y, t) → Ok Q t := by
  intro x y t e
  cases a with
  | port p =>
    unfold takeFrom at e
    dsimp only at e
    split at e <;> cases e
    exact flowCheck_ok (ok_of hok rfl rfl rfl rfl rfl rfl rfl rfl)
  | inject =>
    unfold takeFrom at e
    dsimp only at e
    split at e <;> cases e
    exact shelfRelease_ok (ok_of hok rfl rfl rfl rfl rfl rfl rfl rfl)
  | recirc =>
    unfold takeFrom at e
    dsimp only at e
    split at e <;> cases e
    exact State.add64_ok (s := s.upFe _) (ok_of hok rfl rfl rfl rfl rfl rfl rfl rfl) _ _ _ _
  | reenter =>
    unfold takeFrom at e
    dsimp only at e
    split at e
    · cases e
    · obtain ⟨_, _, h⟩ := Option.map_eq_some_iff.1 e
      cases h
      exact ok_of hok rfl rfl rfl rfl rfl rfl rfl rfl

theorem execPacketAdmit_ok {Q : List Instr} {a : AdmitSrc} {held : ℕ} {errs : SramErrors} {s : State} (hok : Ok Q s) :
    OutOk Q (execPacketAdmit a held errs s) := by
  unfold execPacketAdmit
  try dsimp only
  repeat' first
    | with_reducible assumption
    | with_reducible apply outOk_next
    | (intro _)
    | with_reducible apply State.add64_ok
    | (with_reducible refine takeFrom_ok ?_ _ _ _ ‹_ = some _›)
    | (with_reducible apply getD_ok)
    | with_reducible apply withStamps_ok
    | with_reducible apply enter_ok
    | with_reducible apply raiseN_ok _ _
    | with_reducible apply foldl_ok
    | with_reducible apply foldl_snd_ok
    | with_reducible apply foldl_fst_ok
    | with_reducible apply ite_ok
    | with_reducible apply storeWf_filter
    | with_reducible exact storeWf_nil
    | with_reducible apply Memory.wf_memWrite
    | with_reducible exact Memory.wf_nil
    | split

theorem loseRow_ok {Q : List Instr} {obj : ℕ} {row : ℕ} {s : State} (hok : Ok Q s) :
    Ok Q (loseRow obj row s) := by
  unfold loseRow
  try dsimp only
  repeat' first
    | with_reducible assumption
    | (intro _)
    | with_reducible apply State.wr_ok
    | with_reducible apply State.upGen_ok
    | with_reducible apply State.upRepair_ok
    | with_reducible apply foldl_ok

theorem markLost_ok {Q : List Instr} {l : Line} {s : State} (hok : Ok Q s) :
    Ok Q (markLost l s) := by
  unfold markLost
  try dsimp only
  repeat' first
    | with_reducible assumption
    | (intro _)
    | with_reducible apply State.upRoute_ok
    | with_reducible apply State.upExact_ok
    | with_reducible apply State.upRange_ok
    | with_reducible apply loseRow_ok
    | with_reducible apply foldl_ok
    | with_reducible apply foldl_snd_ok
    | with_reducible apply foldl_fst_ok
    | with_reducible apply ite_ok
    | with_reducible apply storeWf_filter
    | with_reducible exact storeWf_nil
    | with_reducible apply Memory.wf_memWrite
    | with_reducible exact Memory.wf_nil
    | split

theorem execLineRepairComplete_ok {Q : List Instr} {l : Line} {done : Rewrite} {s : State} (hok : Ok Q s) :
    OutOk Q (execLineRepairComplete l done s) := by
  unfold execLineRepairComplete
  try dsimp only
  repeat' first
    | with_reducible assumption
    | with_reducible apply outOk_next
    | (intro _)
    | with_reducible apply raiseN_ok _ _
    | with_reducible apply State.upRepair_ok
    | with_reducible apply State.add64_ok
    | with_reducible apply raise_ok
    | with_reducible apply markLost_ok
    | with_reducible apply State.sat32_ok
    | with_reducible apply foldl_ok
    | with_reducible apply foldl_snd_ok
    | with_reducible apply foldl_fst_ok
    | with_reducible apply ite_ok
    | with_reducible apply storeWf_filter
    | with_reducible exact storeWf_nil
    | with_reducible apply Memory.wf_memWrite
    | with_reducible exact Memory.wf_nil
    | split

theorem execExactLearnInsert_ok {Q : List Instr} {s : State} (hok : Ok Q s) :
    OutOk Q (execExactLearnInsert s) := by
  unfold execExactLearnInsert
  try dsimp only
  repeat' first
    | with_reducible assumption
    | with_reducible apply outOk_next
    | (intro _)
    | with_reducible apply State.upExact_ok
    | with_reducible apply raise_ok
    | with_reducible apply State.add64_ok
    | with_reducible apply notifyLearn_ok
    | with_reducible apply overflowEvent_ok
    | with_reducible apply foldl_ok
    | with_reducible apply foldl_snd_ok
    | with_reducible apply foldl_fst_ok
    | with_reducible apply ite_ok
    | with_reducible apply storeWf_filter
    | with_reducible exact storeWf_nil
    | with_reducible apply Memory.wf_memWrite
    | with_reducible exact Memory.wf_nil
    | split

theorem execExactAgeTick_ok {Q : List Instr} {s : State} (hok : Ok Q s) :
    OutOk Q (execExactAgeTick s) := by
  unfold execExactAgeTick
  try dsimp only
  repeat' first
    | with_reducible assumption
    | with_reducible apply outOk_next
    | with_reducible apply Ok.buffers
    | with_reducible apply Ok.host
    | (intro _)
    | with_reducible apply State.upExact_ok
    | with_reducible apply State.ws_ok
    | with_reducible apply ageCommit_ok
    | with_reducible apply raise_ok
    | with_reducible apply State.sat32_ok
    | with_reducible apply foldl_ok
    | with_reducible apply foldl_snd_ok
    | with_reducible apply foldl_fst_ok
    | with_reducible apply ite_ok
    | with_reducible apply storeWf_filter
    | with_reducible exact storeWf_nil
    | with_reducible apply Memory.wf_memWrite
    | with_reducible exact Memory.wf_nil
    | split
    | dsimp only
    | (with_reducible refine ok_snd ‹_ = (_, _)› ?_)
    | rfl
    | (rw [ok_mk]; refine ⟨?_, ?_, ?_, ?_, ?_, ?_, ?_, ?_, ?_⟩)
    | with_reducible apply Ok.store
    | with_reducible apply Ok.home
    | with_reducible apply Ok.staging
    | with_reducible apply Ok.msix
    | with_reducible apply Ok.region
    | with_reducible apply Ok.buffers
    | with_reducible apply Ok.slots
    | with_reducible apply Ok.host
    | with_reducible apply Ok.queue

/-! ### Mesh -/


theorem State.updGroup_ok {Q : List Instr} {s : State} {g : ℕ} {f : GroupRT → GroupRT} (hok : Ok Q s) :
    Ok Q (State.updGroup s g f) := by
  unfold State.updGroup
  try dsimp only
  repeat' first
    | with_reducible assumption
    | (intro _)
    | with_reducible apply State.upMesh_ok

theorem State.setBuilder_ok {Q : List Instr} {s : State} {d : ℕ} {c : ℕ} {x : Builder} (hok : Ok Q s) :
    Ok Q (State.setBuilder s d c x) := by
  unfold State.setBuilder
  try dsimp only
  repeat' first
    | with_reducible assumption
    | (intro _)
    | with_reducible apply State.upMesh_ok

theorem spreadGroup_ok {Q : List Instr} {d : ℕ} {c : ℕ} {l : List Cell} {s : State} (hok : Ok Q s) :
    Ok Q (spreadGroup d c l s) := by
  unfold spreadGroup
  try dsimp only
  repeat' first
    | with_reducible assumption
    | (intro _)
    | with_reducible apply State.add64_ok
    | with_reducible apply State.upMesh_ok
    | with_reducible apply foldl_ok
    | with_reducible apply foldl_snd_ok
    | with_reducible apply foldl_fst_ok
    | with_reducible apply ite_ok

theorem release_ok {Q : List Instr} {d : ℕ} {c : ℕ} {s : State} (hok : Ok Q s) :
    Ok Q (release d c s) := by
  unfold release
  try dsimp only
  repeat' first
    | with_reducible assumption
    | (intro _)
    | with_reducible apply spreadGroup_ok
    | with_reducible apply State.setBuilder_ok
    | with_reducible apply foldl_ok
    | with_reducible apply foldl_snd_ok
    | with_reducible apply foldl_fst_ok
    | with_reducible apply ite_ok

theorem buildRecord_ok {Q : List Instr} {d : ℕ} {c : ℕ} {bytes : Bytes} {mc : Option ℕ} {s : State} (hok : Ok Q s) :
    Ok Q (buildRecord d c bytes mc s) := by
  unfold buildRecord
  try dsimp only
  repeat' first
    | with_reducible assumption
    | (intro _)
    | with_reducible apply release_ok
    | with_reducible apply State.setBuilder_ok

theorem State.setHeldTx_ok {Q : List Instr} {s : State} {d : ℕ} {c : ℕ} {x : HeldTx} (hok : Ok Q s) :
    Ok Q (State.setHeldTx s d c x) := by
  unfold State.setHeldTx
  try dsimp only
  repeat' first
    | with_reducible assumption
    | (intro _)
    | with_reducible apply State.upMesh_ok

theorem meshDiscard_ok {Q : List Instr} {p : Pkt} {obj : ℕ} {row : ℕ} {fld : ℕ} {source : ℕ} {s : State} (hok : Ok Q s) :
    Ok Q (meshDiscard p obj row fld source s) := by
  unfold meshDiscard
  try dsimp only
  repeat' first
    | with_reducible assumption
    | (intro _)
    | with_reducible apply noteDiscard_ok
    | with_reducible apply raise_ok
    | with_reducible apply State.add64_ok

theorem meshSend_ok {Q : List Instr} {p : Pkt} {s : State} (hok : Ok Q s) :
    Ok Q (meshSend p s) := by
  unfold meshSend
  try dsimp only
  repeat' first
    | with_reducible assumption
    | (intro _)
    | with_reducible apply meshDiscard_ok
    | with_reducible apply State.setHeldTx_ok
    | with_reducible apply buildRecord_ok
    | with_reducible apply foldl_ok
    | with_reducible apply foldl_snd_ok
    | with_reducible apply foldl_fst_ok
    | with_reducible apply ite_ok

theorem execMeshPackTimeout_ok {Q : List Instr} {d : Fin 16} {c : Fin 8} {s : State} (hok : Ok Q s) :
    OutOk Q (execMeshPackTimeout d c s) := by
  unfold execMeshPackTimeout
  try dsimp only
  repeat' first
    | with_reducible assumption
    | with_reducible apply outOk_next
    | (intro _)
    | with_reducible apply release_ok
    | with_reducible apply State.setBuilder_ok
    | with_reducible apply foldl_ok
    | with_reducible apply foldl_snd_ok
    | with_reducible apply foldl_fst_ok
    | with_reducible apply ite_ok
    | with_reducible apply storeWf_filter
    | with_reducible exact storeWf_nil
    | with_reducible apply Memory.wf_memWrite
    | with_reducible exact Memory.wf_nil
    | split

theorem dispatchHead_ok {Q : List Instr} {c : ℕ} {s : State} (hok : Ok Q s) :
    ∀ t, dispatchHead c s = some t → Ok Q t := by
  intro t e
  unfold dispatchHead at e
  try dsimp only at e
  repeat' split at e
  all_goals cases e
  repeat' first
    | with_reducible assumption
    | (intro _)
    | with_reducible apply State.upMesh_ok
    | with_reducible apply State.add64_ok
    | with_reducible apply raise_ok
    | with_reducible apply State.updGroup_ok
    | with_reducible apply foldl_ok

theorem execGroupDispatch_ok {Q : List Instr} {s : State} (hok : Ok Q s) :
    OutOk Q (execGroupDispatch s) := by
  unfold execGroupDispatch
  try dsimp only
  repeat' first
    | with_reducible assumption
    | with_reducible apply outOk_next
    | (intro _ hx; with_reducible refine dispatchHead_ok ?_ _ hx)
    | (intro _)
    | with_reducible apply release_ok
    | (with_reducible refine dispatchHead_ok ?_ _ ‹_ = some _›)
    | (with_reducible apply getD_ok)
    | with_reducible apply foldl_ok
    | with_reducible apply foldl_snd_ok
    | with_reducible apply foldl_fst_ok
    | with_reducible apply ite_ok
    | with_reducible apply storeWf_filter
    | with_reducible exact storeWf_nil
    | with_reducible apply Memory.wf_memWrite
    | with_reducible exact Memory.wf_nil
    | split

theorem raiseDefect_ok {Q : List Instr} {g : ℕ} {d : ℕ} {s : State} (hok : Ok Q s) :
    Ok Q (raiseDefect g d s) := by
  unfold raiseDefect
  try dsimp only
  repeat' first
    | with_reducible assumption
    | (intro _)
    | with_reducible apply State.updGroup_ok
    | with_reducible apply setDetail_ok
    | with_reducible apply foldl_ok
    | with_reducible apply foldl_snd_ok
    | with_reducible apply foldl_fst_ok
    | with_reducible apply ite_ok

theorem clearDefect_ok {Q : List Instr} {g : ℕ} {d : ℕ} {s : State} (hok : Ok Q s) :
    Ok Q (clearDefect g d s) := by
  unfold clearDefect
  try dsimp only
  repeat' first
    | with_reducible assumption
    | (intro _)
    | with_reducible apply State.updGroup_ok
    | with_reducible apply setDetail_ok
    | with_reducible apply foldl_ok
    | with_reducible apply foldl_snd_ok
    | with_reducible apply foldl_fst_ok
    | with_reducible apply ite_ok

theorem dropJoin_ok {Q : List Instr} {g : ℕ} {s : State} (hok : Ok Q s) :
    Ok Q (dropJoin g s) := by
  unfold dropJoin
  try dsimp only
  repeat' first
    | with_reducible assumption
    | (intro _)
    | with_reducible apply State.updGroup_ok
    | with_reducible apply foldl_ok
    | with_reducible apply foldl_snd_ok
    | with_reducible apply foldl_fst_ok
    | with_reducible apply ite_ok

theorem fecCounted_ok {Q : List Instr} {g : ℕ} {fec : FecCount} {s : State} (hok : Ok Q s) :
    Ok Q (fecCounted g fec s) := by
  unfold fecCounted
  try dsimp only
  repeat' first
    | with_reducible assumption
    | (intro _)
    | with_reducible apply State.add64_ok
    | with_reducible apply State.updGroup_ok
    | with_reducible apply raiseDefect_ok
    | with_reducible apply clearDefect_ok
    | with_reducible apply foldl_ok
    | with_reducible apply foldl_snd_ok
    | with_reducible apply foldl_fst_ok
    | with_reducible apply ite_ok

theorem execMeshGroupDefectRaise_ok {Q : List Instr} {g : Fin 16} {d : Fin 8} {s : State} (hok : Ok Q s) :
    OutOk Q (execMeshGroupDefectRaise g d s) := by
  unfold execMeshGroupDefectRaise
  try dsimp only
  repeat' first
    | with_reducible assumption
    | with_reducible apply outOk_next
    | (intro _)
    | with_reducible apply dropJoin_ok
    | with_reducible apply raiseDefect_ok
    | with_reducible apply foldl_ok
    | with_reducible apply foldl_snd_ok
    | with_reducible apply foldl_fst_ok
    | with_reducible apply ite_ok
    | with_reducible apply storeWf_filter
    | with_reducible exact storeWf_nil
    | with_reducible apply Memory.wf_memWrite
    | with_reducible exact Memory.wf_nil
    | split

theorem execMeshGroupDefectClear_ok {Q : List Instr} {g : Fin 16} {d : Fin 8} {s : State} (hok : Ok Q s) :
    OutOk Q (execMeshGroupDefectClear g d s) := by
  unfold execMeshGroupDefectClear
  try dsimp only
  repeat' first
    | with_reducible assumption
    | with_reducible apply outOk_next
    | (intro _)
    | with_reducible apply clearDefect_ok
    | with_reducible apply foldl_ok
    | with_reducible apply foldl_snd_ok
    | with_reducible apply foldl_fst_ok
    | with_reducible apply ite_ok
    | with_reducible apply storeWf_filter
    | with_reducible exact storeWf_nil
    | with_reducible apply Memory.wf_memWrite
    | with_reducible exact Memory.wf_nil
    | split

theorem groupCycle_ok {Q : List Instr} {g : ℕ} {s : State} (hok : Ok Q s) :
    Ok Q (groupCycle g s) := by
  unfold groupCycle
  try dsimp only
  repeat' first
    | with_reducible assumption
    | (intro _)
    | with_reducible apply State.updGroup_ok
    | with_reducible apply raiseDefect_ok
    | with_reducible apply clearDefect_ok
    | with_reducible apply foldl_ok
    | with_reducible apply foldl_snd_ok
    | with_reducible apply foldl_fst_ok
    | with_reducible apply ite_ok
    | with_reducible apply storeWf_filter
    | with_reducible exact storeWf_nil
    | with_reducible apply Memory.wf_memWrite
    | with_reducible exact Memory.wf_nil
    | split

theorem rackCycleStart_ok {Q : List Instr} {s : State} (hok : Ok Q s) :
    Ok Q (rackCycleStart s) := by
  unfold rackCycleStart
  try dsimp only
  repeat' first
    | with_reducible assumption
    | (intro _)
    | with_reducible apply groupCycle_ok
    | with_reducible apply State.upMesh_ok
    | with_reducible apply State.ws_ok
    | with_reducible apply raise_ok
    | with_reducible apply State.sat32_ok
    | with_reducible apply foldl_ok
    | with_reducible apply foldl_snd_ok
    | with_reducible apply foldl_fst_ok
    | with_reducible apply ite_ok

theorem settleMoving_ok {Q : List Instr} {s : State} (hok : Ok Q s) :
    Ok Q (settleMoving s) := by
  unfold settleMoving
  try dsimp only
  repeat' first
    | with_reducible assumption
    | (intro _)
    | with_reducible apply State.upMesh_ok

theorem execPageSwapDecide_ok {Q : List Instr} {s : State} (hok : Ok Q s) :
    OutOk Q (execPageSwapDecide s) := by
  unfold execPageSwapDecide
  try dsimp only
  repeat' first
    | with_reducible assumption
    | with_reducible apply outOk_next
    | (intro _)
    | with_reducible apply State.upMesh_ok
    | with_reducible apply raise_ok
    | with_reducible apply foldl_ok
    | with_reducible apply foldl_snd_ok
    | with_reducible apply foldl_fst_ok
    | with_reducible apply ite_ok
    | with_reducible apply storeWf_filter
    | with_reducible exact storeWf_nil
    | with_reducible apply Memory.wf_memWrite
    | with_reducible exact Memory.wf_nil
    | split

theorem execPageSwap_ok {Q : List Instr} {s : State} (hok : Ok Q s) :
    OutOk Q (execPageSwap s) := by
  unfold execPageSwap
  try dsimp only
  repeat' first
    | with_reducible assumption
    | with_reducible apply outOk_next
    | (intro _)
    | with_reducible apply State.upMesh_ok
    | with_reducible apply raiseIf_ok
    | with_reducible apply foldl_ok
    | with_reducible apply foldl_snd_ok
    | with_reducible apply foldl_fst_ok
    | with_reducible apply ite_ok
    | with_reducible apply storeWf_filter
    | with_reducible exact storeWf_nil
    | with_reducible apply Memory.wf_memWrite
    | with_reducible exact Memory.wf_nil
    | split

theorem execAutoPagePlan_ok {Q : List Instr} {s : State} (hok : Ok Q s) :
    OutOk Q (execAutoPagePlan s) := by
  unfold execAutoPagePlan
  try dsimp only
  repeat' first
    | with_reducible assumption
    | with_reducible apply outOk_next
    | (intro _)
    | with_reducible apply State.upMesh_ok
    | with_reducible apply foldl_ok
    | with_reducible apply foldl_snd_ok
    | with_reducible apply foldl_fst_ok
    | with_reducible apply ite_ok
    | with_reducible apply storeWf_filter
    | with_reducible exact storeWf_nil
    | with_reducible apply Memory.wf_memWrite
    | with_reducible exact Memory.wf_nil
    | split

theorem pageSwapWritten_ok {Q : List Instr} {q : ℕ} {s : State} (hok : Ok Q s) :
    Ok Q (pageSwapWritten q s) := by
  unfold pageSwapWritten
  try dsimp only
  repeat' first
    | with_reducible assumption
    | (intro _)
    | with_reducible apply State.upMesh_ok

theorem execMeshJoin_ok {Q : List Instr} {g : Fin 16} {s : State} (hok : Ok Q s) :
    OutOk Q (execMeshJoin g s) := by
  unfold execMeshJoin
  try dsimp only
  repeat' first
    | with_reducible assumption
    | with_reducible apply outOk_next
    | (intro _)
    | with_reducible apply State.updGroup_ok
    | with_reducible apply foldl_ok
    | with_reducible apply foldl_snd_ok
    | with_reducible apply foldl_fst_ok
    | with_reducible apply ite_ok
    | with_reducible apply storeWf_filter
    | with_reducible exact storeWf_nil
    | with_reducible apply Memory.wf_memWrite
    | with_reducible exact Memory.wf_nil
    | split

theorem noteRelays_ok {Q : List Instr} {s : State} (hok : Ok Q s) :
    Ok Q (noteRelays s) := by
  unfold noteRelays
  try dsimp only
  repeat' first
    | with_reducible assumption
    | (intro _)
    | with_reducible apply State.upMesh_ok

theorem leaveWritten_ok {Q : List Instr} {v : ℕ} {s : State} (hok : Ok Q s) :
    Ok Q (leaveWritten v s) := by
  unfold leaveWritten
  try dsimp only
  repeat' first
    | with_reducible assumption
    | (intro _)
    | with_reducible apply State.upMesh_ok
    | with_reducible apply noteRelays_ok
    | with_reducible apply State.ws_ok

theorem execMeshLeaveReady_ok {Q : List Instr} {s : State} (hok : Ok Q s) :
    OutOk Q (execMeshLeaveReady s) := by
  unfold execMeshLeaveReady
  try dsimp only
  repeat' first
    | with_reducible assumption
    | with_reducible apply outOk_next
    | (intro _)
    | with_reducible apply noteRelays_ok
    | with_reducible apply raise_ok
    | with_reducible apply State.ws_ok
    | with_reducible apply foldl_ok
    | with_reducible apply foldl_snd_ok
    | with_reducible apply foldl_fst_ok
    | with_reducible apply ite_ok
    | with_reducible apply storeWf_filter
    | with_reducible exact storeWf_nil
    | with_reducible apply Memory.wf_memWrite
    | with_reducible exact Memory.wf_nil
    | split

theorem setRelay_ok {Q : List Instr} {d : ℕ} {l : List Cell} {s : State} (hok : Ok Q s) :
    Ok Q (setRelay d l s) := by
  unfold setRelay
  try dsimp only
  repeat' first
    | with_reducible assumption
    | (intro _)
    | with_reducible apply State.upMesh_ok

theorem purgeRelay_ok {Q : List Instr} {d : ℕ} {s : State} (hok : Ok Q s) :
    Ok Q (purgeRelay d s) := by
  unfold purgeRelay
  try dsimp only
  repeat' first
    | with_reducible assumption
    | (intro _)
    | with_reducible apply raiseN_ok _ _
    | with_reducible apply State.add64_ok
    | with_reducible apply setRelay_ok
    | with_reducible apply foldl_ok
    | with_reducible apply foldl_snd_ok
    | with_reducible apply foldl_fst_ok
    | with_reducible apply ite_ok

theorem emitCell_ok {Q : List Instr} {g : ℕ} {slot : ℕ} {c : Cell} {s : State} (hok : Ok Q s) :
    Ok Q (emitCell g slot c s) := by
  unfold emitCell
  try dsimp only
  repeat' first
    | with_reducible assumption
    | (intro _)
    | with_reducible apply State.add64_ok
    | with_reducible apply State.emit_ok

theorem slotCell_ok {Q : List Instr} {g : ℕ} {e : ℕ} {s : State} (hok : Ok Q s) :
    ∀ x t, slotCell g e s = some (x, t) → Ok Q t := by
  intro x t e
  unfold slotCell at e
  try dsimp only at e
  repeat' split at e
  all_goals cases e
  repeat' first
    | with_reducible assumption
    | (intro _)
    | with_reducible apply State.updGroup_ok
    | with_reducible apply setRelay_ok
    | with_reducible apply State.upMesh_ok
    | with_reducible apply State.setHeldTx_ok

theorem rgaFrame_ok {Q : List Instr} {f : ℕ} {s : State} (hok : Ok Q s) :
    Ok Q (rgaFrame f s).2 := by
  unfold rgaFrame
  try dsimp only
  repeat' first
    | with_reducible assumption
    | (intro _)
    | with_reducible apply State.upMesh_ok

theorem slotSend_ok {Q : List Instr} {g e free left : Nat} {s : State} (hok : Ok Q s) :
    Ok Q (slotSend g e free left s).2.2 := by
  have own : ∀ x t, (if entKind e ≠ 3 ∧ left ≠ 0 ∧ free ≤ left then none else slotCell g e s) = some (x, t) → Ok Q t := by
    intro x t h
    split at h
    · cases h
    · exact slotCell_ok hok x t h
  unfold slotSend
  dsimp only
  split
  · exact hok
  · split
    · exact own _ _ ‹_›
    · split
      · exact hok
      · exact ok_of hok rfl rfl rfl rfl rfl rfl rfl rfl
    · split
      · exact hok
      · split
        · exact hok
        · exact ok_of hok rfl rfl rfl rfl rfl rfl rfl rfl

theorem sendSlots_ok {Q : List Instr} {f g : Nat} (l : List Nat) {a : Nat × State} (hok : Ok Q a.2) :
    Ok Q (sendSlots f g l a).2 := by
  induction l generalizing a with
  | nil => exact hok
  | cons n l ih => exact ih (emitCell_ok (slotSend_ok hok))

theorem sendFrame_ok {Q : List Instr} {q : ℕ} {g : ℕ} {left : Tbl ℕ} {s : State} (hok : Ok Q s) :
    Ok Q (sendFrame q g left s) := by
  unfold sendFrame
  try dsimp only
  repeat' first
    | with_reducible assumption
    | (intro _)
    | with_reducible apply State.emit_ok
    | with_reducible apply State.updGroup_ok
    | with_reducible apply sendSlots_ok
    | with_reducible apply foldl_ok
    | with_reducible apply foldl_snd_ok
    | with_reducible apply foldl_fst_ok
    | with_reducible apply ite_ok

theorem followSet_ok {Q : List Instr} {s : State} (hok : Ok Q s) :
    Ok Q (followSet s) := by
  unfold followSet
  try dsimp only
  repeat' first
    | with_reducible assumption
    | (intro _)
    | with_reducible apply State.upMesh_ok
    | with_reducible apply foldl_ok
    | with_reducible apply foldl_snd_ok
    | with_reducible apply foldl_fst_ok
    | with_reducible apply ite_ok

theorem markStep_ok {Q : List Instr} {s : State} (hok : Ok Q s) :
    Ok Q (markStep s) := by
  unfold markStep
  try dsimp only
  repeat' first
    | with_reducible assumption
    | (intro _)
    | with_reducible apply State.updGroup_ok
    | with_reducible apply foldl_ok

theorem rackFrame_ok {Q : List Instr} {q : ℕ} {s : State} (hok : Ok Q s) :
    Ok Q (rackFrame q s) := by
  unfold rackFrame
  try dsimp only
  repeat' first
    | with_reducible assumption
    | (intro _)
    | with_reducible apply settleMoving_ok
    | with_reducible apply followSet_ok
    | with_reducible apply State.upMesh_ok
    | with_reducible apply purgeRelay_ok
    | with_reducible apply rgaFrame_ok
    | with_reducible apply noteRelays_ok
    | with_reducible apply sendFrame_ok
    | with_reducible apply foldl_ok

theorem stepFrame_ok {Q : List Instr} {q : ℕ} {s : State} (hok : Ok Q s) :
    Ok Q (stepFrame q s) := by
  unfold stepFrame
  try dsimp only
  repeat' first
    | with_reducible assumption
    | (intro _)
    | with_reducible apply rackFrame_ok
    | with_reducible apply State.upMesh_ok

theorem execRackFrameStart_ok {Q : List Instr} {s : State} (hok : Ok Q s) :
    OutOk Q (execRackFrameStart s) := by
  unfold execRackFrameStart
  try dsimp only
  repeat' first
    | with_reducible assumption
    | with_reducible apply outOk_next
    | (intro _)
    | with_reducible apply rackFrame_ok
    | with_reducible apply stepFrame_ok
    | with_reducible apply State.upMesh_ok
    | with_reducible apply markStep_ok
    | with_reducible apply foldl_ok
    | with_reducible apply foldl_snd_ok
    | with_reducible apply foldl_fst_ok
    | with_reducible apply ite_ok
    | with_reducible apply storeWf_filter
    | with_reducible exact storeWf_nil
    | with_reducible apply Memory.wf_memWrite
    | with_reducible exact Memory.wf_nil
    | split

theorem meshStepped_ok {Q : List Instr} {d : ℤ} {s : State} (hok : Ok Q s) :
    Ok Q (meshStepped d s) := by
  unfold meshStepped
  try dsimp only
  repeat' first
    | with_reducible assumption
    | (intro _)
    | with_reducible apply State.upMesh_ok
    | with_reducible apply markStep_ok
    | with_reducible apply foldl_ok
    | with_reducible apply foldl_snd_ok
    | with_reducible apply foldl_fst_ok
    | with_reducible apply ite_ok
    | with_reducible apply storeWf_filter
    | with_reducible exact storeWf_nil
    | with_reducible apply Memory.wf_memWrite
    | with_reducible exact Memory.wf_nil
    | split

theorem groupConfigWritten_ok {Q : List Instr} {g : ℕ} {s : State} (hok : Ok Q s) :
    Ok Q (groupConfigWritten g s) := by
  unfold groupConfigWritten
  try dsimp only
  repeat' first
    | with_reducible assumption
    | (intro _)
    | with_reducible apply State.upMesh_ok
    | with_reducible apply foldl_ok
    | with_reducible apply foldl_snd_ok
    | with_reducible apply foldl_fst_ok
    | with_reducible apply ite_ok

/-! ### MeshRx -/


theorem toHunt_ok {Q : List Instr} {g : ℕ} {s : State} (hok : Ok Q s) :
    Ok Q (toHunt g s) := by
  unfold toHunt
  try dsimp only
  repeat' first
    | with_reducible assumption
    | (intro _)
    | with_reducible apply raiseDefect_ok
    | with_reducible apply dropJoin_ok
    | with_reducible apply State.updGroup_ok
    | with_reducible apply foldl_ok
    | with_reducible apply foldl_snd_ok
    | with_reducible apply foldl_fst_ok
    | with_reducible apply ite_ok

theorem checkLoc_ok {Q : List Instr} {g : ℕ} {stamp : ℕ} {h : PeerHdr} {s : State} (hok : Ok Q s) :
    Ok Q (checkLoc g stamp h s) := by
  unfold checkLoc
  try dsimp only
  repeat' first
    | with_reducible assumption
    | (intro _)
    | with_reducible apply State.updGroup_ok
    | with_reducible apply raiseDefect_ok
    | with_reducible apply clearDefect_ok
    | with_reducible apply foldl_ok
    | with_reducible apply foldl_snd_ok
    | with_reducible apply foldl_fst_ok
    | with_reducible apply ite_ok

theorem checkPdi_ok {Q : List Instr} {g : ℕ} {h : PeerHdr} {s : State} (hok : Ok Q s) :
    Ok Q (checkPdi g h s) := by
  unfold checkPdi
  try dsimp only
  repeat' first
    | with_reducible assumption
    | (intro _)
    | with_reducible apply State.updGroup_ok
    | with_reducible apply raiseDefect_ok
    | with_reducible apply clearDefect_ok
    | with_reducible apply foldl_ok
    | with_reducible apply foldl_snd_ok
    | with_reducible apply foldl_fst_ok
    | with_reducible apply ite_ok

theorem checkPeer_ok {Q : List Instr} {g : ℕ} {h : PeerHdr} {s : State} (hok : Ok Q s) :
    Ok Q (checkPeer g h s) := by
  unfold checkPeer
  try dsimp only
  repeat' first
    | with_reducible assumption
    | (intro _)
    | with_reducible apply State.updGroup_ok
    | with_reducible apply setDetail_ok
    | with_reducible apply foldl_ok
    | with_reducible apply foldl_snd_ok
    | with_reducible apply foldl_fst_ok
    | with_reducible apply ite_ok

theorem relaySample_ok {Q : List Instr} {g : ℕ} {h : PeerHdr} {phase : ℕ} {s : State} (hok : Ok Q s) :
    Ok Q (relaySample g h phase s) := by
  unfold relaySample
  try dsimp only
  repeat' first
    | with_reducible assumption
    | (intro _)
    | with_reducible apply State.updDom_ok
    | with_reducible apply foldl_ok
    | with_reducible apply foldl_snd_ok
    | with_reducible apply foldl_fst_ok
    | with_reducible apply ite_ok

theorem noteSaid_ok {Q : List Instr} {h : PeerHdr} {s : State} (hok : Ok Q s) :
    Ok Q (noteSaid h s) := by
  unfold noteSaid
  try dsimp only
  repeat' first
    | with_reducible assumption
    | (intro _)
    | with_reducible apply State.upMesh_ok

theorem headerGood_ok {Q : List Instr} {g : ℕ} {phase : ℕ} {h : PeerHdr} {s : State} (hok : Ok Q s) :
    Ok Q (headerGood g phase h s) := by
  unfold headerGood
  try dsimp only
  repeat' first
    | with_reducible assumption
    | (intro _)
    | with_reducible apply checkPeer_ok
    | with_reducible apply checkPdi_ok
    | with_reducible apply checkLoc_ok
    | with_reducible apply State.updGroup_ok
    | with_reducible apply State.upMesh_ok
    | with_reducible apply dropJoin_ok
    | with_reducible apply relaySample_ok
    | with_reducible apply noteSaid_ok

theorem execHeaderCellReceive_ok {Q : List Instr} {g : Fin 16} {rx : LineBytes} {lanes : BitVec 12} {phase : Fin 5} {s : State} (hok : Ok Q s) :
    OutOk Q (execHeaderCellReceive g rx lanes phase s) := by
  unfold execHeaderCellReceive
  try dsimp only
  repeat' first
    | with_reducible assumption
    | with_reducible apply outOk_next
    | (intro _)
    | with_reducible apply fecCounted_ok
    | with_reducible apply State.updGroup_ok
    | with_reducible apply State.add64_ok
    | with_reducible apply toHunt_ok
    | with_reducible apply clearDefect_ok
    | with_reducible apply headerGood_ok
    | with_reducible apply foldl_ok
    | with_reducible apply foldl_snd_ok
    | with_reducible apply foldl_fst_ok
    | with_reducible apply ite_ok
    | with_reducible apply storeWf_filter
    | with_reducible exact storeWf_nil
    | with_reducible apply Memory.wf_memWrite
    | with_reducible exact Memory.wf_nil
    | split

theorem execMeshStepSearchTimeout_ok {Q : List Instr} {g : Fin 16} {s : State} (hok : Ok Q s) :
    OutOk Q (execMeshStepSearchTimeout g s) := by
  unfold execMeshStepSearchTimeout
  try dsimp only
  repeat' first
    | with_reducible assumption
    | with_reducible apply outOk_next
    | (intro _)
    | with_reducible apply toHunt_ok
    | with_reducible apply foldl_ok
    | with_reducible apply foldl_snd_ok
    | with_reducible apply foldl_fst_ok
    | with_reducible apply ite_ok
    | with_reducible apply storeWf_filter
    | with_reducible exact storeWf_nil
    | with_reducible apply Memory.wf_memWrite
    | with_reducible exact Memory.wf_nil
    | split

theorem acceptRecord_ok {Q : List Instr} {src : ℕ} {bytes : Bytes} {mc : Option ℕ} {s : State} (hok : Ok Q s) :
    Ok Q (acceptRecord src bytes mc s) := by
  unfold acceptRecord
  try dsimp only
  repeat' first
    | with_reducible assumption
    | (intro _)
    | with_reducible apply State.add64_ok
    | with_reducible apply State.upMesh_ok
    | with_reducible apply State.upTm_ok
    | with_reducible apply foldl_ok
    | with_reducible apply foldl_snd_ok
    | with_reducible apply foldl_fst_ok
    | with_reducible apply ite_ok
    | with_reducible apply storeWf_filter
    | with_reducible exact storeWf_nil
    | with_reducible apply Memory.wf_memWrite
    | with_reducible exact Memory.wf_nil
    | split

theorem takeRecords_ok {Q : List Instr} {src : Nat} (fuel : Nat) {b : Bytes} {mc : Option Nat} {s : State} (hok : Ok Q s) : Ok Q (takeRecords src fuel b mc s).2.2 := by
  induction fuel generalizing b mc s with
  | zero => exact hok
  | succ fuel ih =>
    unfold takeRecords
    try dsimp only
    repeat' first
      | with_reducible assumption
      | with_reducible apply ih
      | (intro _)
      | with_reducible apply acceptRecord_ok
      | with_reducible apply foldl_ok
      | with_reducible apply foldl_snd_ok
      | with_reducible apply foldl_fst_ok
      | with_reducible apply ite_ok
      | with_reducible apply storeWf_filter
      | with_reducible exact storeWf_nil
      | with_reducible apply Memory.wf_memWrite
      | with_reducible exact Memory.wf_nil
      | split

theorem feedStream_ok {Q : List Instr} {src : ℕ} {c : Cell} {x : RxStream} {s : State} (hok : Ok Q s) :
    Ok Q (feedStream src c x s).2 := by
  unfold feedStream
  try dsimp only
  repeat' first
    | with_reducible assumption
    | (intro _)
    | with_reducible apply takeRecords_ok
    | with_reducible apply State.add64_ok
    | with_reducible apply foldl_ok
    | with_reducible apply foldl_snd_ok
    | with_reducible apply foldl_fst_ok
    | with_reducible apply ite_ok
    | with_reducible apply storeWf_filter
    | with_reducible exact storeWf_nil
    | with_reducible apply Memory.wf_memWrite
    | with_reducible exact Memory.wf_nil
    | split

theorem gapStream_ok {Q : List Instr} {src : ℕ} {n : Option ℕ} {x : RxStream} {s : State} (hok : Ok Q s) :
    Ok Q (gapStream src n x s).2 := by
  unfold gapStream
  try dsimp only
  repeat' first
    | with_reducible assumption
    | (intro _)
    | with_reducible apply State.add64_ok
    | with_reducible apply foldl_ok
    | with_reducible apply foldl_snd_ok
    | with_reducible apply foldl_fst_ok
    | with_reducible apply ite_ok
    | with_reducible apply storeWf_filter
    | with_reducible exact storeWf_nil
    | with_reducible apply Memory.wf_memWrite
    | with_reducible exact Memory.wf_nil
    | split

theorem State.setReseq_ok {Q : List Instr} {s : State} {key : ℕ} {x : Reseq} (hok : Ok Q s) :
    Ok Q (State.setReseq s key x) := by
  unfold State.setReseq
  try dsimp only
  repeat' first
    | with_reducible assumption
    | (intro _)
    | with_reducible apply State.upMesh_ok

theorem deliverCells_ok {Q : List Instr} {src : Nat} (l : List (Option Cell)) {x : RxStream} {s : State} (hok : Ok Q s) :
    Ok Q (deliverCells src l x s).2 := by
  induction l generalizing x s with
  | nil => exact hok
  | cons e l ih =>
    cases e with
    | none => exact ih (gapStream_ok hok)
    | some c => exact ih (feedStream_ok hok)

theorem deliverReady_ok {Q : List Instr} {key : Nat} (fuel : Nat) {s : State} (hok : Ok Q s) : Ok Q (deliverReady key fuel s) := by
  induction fuel generalizing s with
  | zero => exact hok
  | succ fuel ih =>
    unfold deliverReady
    try dsimp only
    repeat' first
      | with_reducible assumption
      | with_reducible apply ih
      | (intro _)
      | with_reducible apply State.setReseq_ok
      | with_reducible apply deliverCells_ok
      | with_reducible apply foldl_ok
      | with_reducible apply foldl_snd_ok
      | with_reducible apply foldl_fst_ok
      | with_reducible apply ite_ok
      | with_reducible apply storeWf_filter
      | with_reducible exact storeWf_nil
      | with_reducible apply Memory.wf_memWrite
      | with_reducible exact Memory.wf_nil
      | split

theorem resequence_ok {Q : List Instr} {c : Cell} {s : State} (hok : Ok Q s) :
    Ok Q (resequence c s) := by
  unfold resequence
  try dsimp only
  repeat' first
    | with_reducible assumption
    | (intro _)
    | with_reducible apply raise_ok
    | with_reducible apply State.add64_ok
    | with_reducible apply State.setReseq_ok
    | with_reducible apply deliverReady_ok
    | with_reducible apply foldl_ok
    | with_reducible apply foldl_snd_ok
    | with_reducible apply foldl_fst_ok
    | with_reducible apply ite_ok
    | with_reducible apply storeWf_filter
    | with_reducible exact storeWf_nil
    | with_reducible apply Memory.wf_memWrite
    | with_reducible exact Memory.wf_nil
    | split

theorem execReseqTimeout_ok {Q : List Instr} {source : Fin 16} {cls : Fin 8} {s : State} (hok : Ok Q s) :
    OutOk Q (execReseqTimeout source cls s) := by
  unfold execReseqTimeout
  try dsimp only
  repeat' first
    | with_reducible assumption
    | with_reducible apply outOk_next
    | (intro _)
    | with_reducible apply raise_ok
    | with_reducible apply State.add64_ok
    | with_reducible apply deliverCells_ok
    | with_reducible apply gapStream_ok
    | with_reducible apply deliverReady_ok
    | with_reducible apply State.setReseq_ok
    | with_reducible apply foldl_ok
    | with_reducible apply foldl_snd_ok
    | with_reducible apply foldl_fst_ok
    | with_reducible apply ite_ok
    | with_reducible apply storeWf_filter
    | with_reducible exact storeWf_nil
    | with_reducible apply Memory.wf_memWrite
    | with_reducible exact Memory.wf_nil
    | split

theorem State.setHeldRx_ok {Q : List Instr} {s : State} {key : ℕ} {x : HeldRx} (hok : Ok Q s) :
    Ok Q (State.setHeldRx s key x) := by
  unfold State.setHeldRx
  try dsimp only
  repeat' first
    | with_reducible assumption
    | (intro _)
    | with_reducible apply State.upMesh_ok

theorem deliverHeld_ok {Q : List Instr} {key : Nat} (fuel : Nat) {s : State} (hok : Ok Q s) : Ok Q (deliverHeld key fuel s) := by
  induction fuel generalizing s with
  | zero => exact hok
  | succ fuel ih =>
    unfold deliverHeld
    try dsimp only
    repeat' first
      | with_reducible assumption
      | with_reducible apply ih
      | (intro _)
      | with_reducible apply State.add64_ok
      | with_reducible apply feedStream_ok
      | with_reducible apply State.setHeldRx_ok
      | with_reducible apply foldl_ok
      | with_reducible apply foldl_snd_ok
      | with_reducible apply foldl_fst_ok
      | with_reducible apply ite_ok
      | with_reducible apply storeWf_filter
      | with_reducible exact storeWf_nil
      | with_reducible apply Memory.wf_memWrite
      | with_reducible exact Memory.wf_nil
      | split

theorem heldArrives_ok {Q : List Instr} {c : Cell} {s : State} (hok : Ok Q s) :
    Ok Q (heldArrives c s) := by
  unfold heldArrives
  try dsimp only
  repeat' first
    | with_reducible assumption
    | (intro _)
    | with_reducible apply State.add64_ok
    | with_reducible apply State.setHeldRx_ok
    | with_reducible apply deliverHeld_ok
    | with_reducible apply foldl_ok
    | with_reducible apply foldl_snd_ok
    | with_reducible apply foldl_fst_ok
    | with_reducible apply ite_ok

theorem execHeldSequenceSkip_ok {Q : List Instr} {source : Fin 16} {cls : Fin 8} {s : State} (hok : Ok Q s) :
    OutOk Q (execHeldSequenceSkip source cls s) := by
  unfold execHeldSequenceSkip
  try dsimp only
  repeat' first
    | with_reducible assumption
    | with_reducible apply outOk_next
    | (intro _)
    | with_reducible apply gapStream_ok
    | with_reducible apply raiseN_ok _ _
    | with_reducible apply State.add64_ok
    | with_reducible apply State.setHeldRx_ok
    | with_reducible apply deliverHeld_ok
    | with_reducible apply foldl_ok
    | with_reducible apply foldl_snd_ok
    | with_reducible apply foldl_fst_ok
    | with_reducible apply ite_ok
    | with_reducible apply storeWf_filter
    | with_reducible exact storeWf_nil
    | with_reducible apply Memory.wf_memWrite
    | with_reducible exact Memory.wf_nil
    | split

theorem relayCell_ok {Q : List Instr} {c : Cell} {s : State} (hok : Ok Q s) :
    Ok Q (relayCell c s) := by
  unfold relayCell
  try dsimp only
  repeat' first
    | with_reducible assumption
    | (intro _)
    | with_reducible apply raise_ok
    | with_reducible apply State.add64_ok
    | with_reducible apply setRelay_ok
    | with_reducible apply foldl_ok
    | with_reducible apply foldl_snd_ok
    | with_reducible apply foldl_fst_ok
    | with_reducible apply ite_ok

theorem relayHeld_ok {Q : List Instr} {c : Cell} {s : State} (hok : Ok Q s) :
    Ok Q (relayHeld c s) := by
  unfold relayHeld
  try dsimp only
  repeat' first
    | with_reducible assumption
    | (intro _)
    | with_reducible apply State.add64_ok
    | with_reducible apply State.upMesh_ok
    | with_reducible apply foldl_ok
    | with_reducible apply foldl_snd_ok
    | with_reducible apply foldl_fst_ok
    | with_reducible apply ite_ok

theorem placeCell_ok {Q : List Instr} {c : Cell} {s : State} (hok : Ok Q s) :
    Ok Q (placeCell c s) := by
  unfold placeCell
  try dsimp only
  repeat' first
    | with_reducible assumption
    | (intro _)
    | with_reducible apply resequence_ok
    | with_reducible apply relayCell_ok
    | with_reducible apply heldArrives_ok
    | with_reducible apply relayHeld_ok
    | with_reducible apply foldl_ok
    | with_reducible apply foldl_snd_ok
    | with_reducible apply foldl_fst_ok
    | with_reducible apply ite_ok

theorem execDataCellReceive_ok {Q : List Instr} {g : Fin 16} {slot : Fin 128} {bytes : Bytes} {s : State} (hok : Ok Q s) :
    OutOk Q (execDataCellReceive g slot bytes s) := by
  unfold execDataCellReceive
  try dsimp only
  repeat' first
    | with_reducible assumption
    | with_reducible apply outOk_next
    | (intro _)
    | with_reducible apply State.add64_ok
    | with_reducible apply State.updGroup_ok
    | with_reducible apply raiseDefect_ok
    | with_reducible apply noteRelays_ok
    | with_reducible apply placeCell_ok
    | with_reducible apply foldl_ok
    | with_reducible apply foldl_snd_ok
    | with_reducible apply foldl_fst_ok
    | with_reducible apply ite_ok
    | with_reducible apply storeWf_filter
    | with_reducible exact storeWf_nil
    | with_reducible apply Memory.wf_memWrite
    | with_reducible exact Memory.wf_nil
    | split

/-! ### Egress -/


theorem serveLane_ok {Q : List Instr} {k : ℕ} {s : State} (hok : Ok Q s) :
    Ok Q (serveLane k s) := by
  unfold serveLane
  try dsimp only
  repeat' first
    | with_reducible assumption
    | (intro _)
    | with_reducible apply enqueueLocal_ok
    | with_reducible apply State.upTm_ok
    | with_reducible apply foldl_ok
    | with_reducible apply foldl_snd_ok
    | with_reducible apply foldl_fst_ok
    | with_reducible apply ite_ok
    | with_reducible apply storeWf_filter
    | with_reducible exact storeWf_nil
    | with_reducible apply Memory.wf_memWrite
    | with_reducible exact Memory.wf_nil
    | split

theorem toLane_ok {Q : List Instr} {busy : Bool} {p : Pkt} {s : State} (hok : Ok Q s) :
    Ok Q (toLane busy p s) := by
  unfold toLane
  try dsimp only
  repeat' first
    | with_reducible assumption
    | (intro _)
    | with_reducible apply raise_ok
    | with_reducible apply tmDrop_ok
    | with_reducible apply State.upTm_ok
    | with_reducible apply serveLane_ok
    | with_reducible apply foldl_ok
    | with_reducible apply foldl_snd_ok
    | with_reducible apply foldl_fst_ok
    | with_reducible apply ite_ok

theorem recordIngress_ok {Q : List Instr} {p : Pkt} {s : State} (hok : Ok Q s) :
    Ok Q (recordIngress p s).2 := by
  unfold recordIngress
  try dsimp only
  repeat' first
    | with_reducible assumption
    | (intro _)
    | with_reducible apply recordPacket_ok
    | with_reducible apply foldl_ok
    | with_reducible apply foldl_snd_ok
    | with_reducible apply foldl_fst_ok
    | with_reducible apply ite_ok

theorem tmTake_ok {Q : List Instr} {busy : Bool} {mc : ℕ} {p : Pkt} {s : State} (hok : Ok Q s) :
    Ok Q (tmTake busy mc p s) := by
  unfold tmTake
  try dsimp only
  repeat' first
    | with_reducible assumption
    | (intro _)
    | with_reducible apply recordIngress_ok
    | with_reducible apply toLane_ok
    | with_reducible apply meshSend_ok
    | with_reducible apply foldl_ok
    | with_reducible apply foldl_snd_ok
    | with_reducible apply foldl_fst_ok
    | with_reducible apply ite_ok

theorem tmBundle_ok {Q : List Instr} {busy : Bool} {l : List Pkt} {s : State} (hok : Ok Q s) :
    Ok Q (tmBundle busy l s) := by
  unfold tmBundle
  try dsimp only
  repeat' first
    | with_reducible assumption
    | (intro _)
    | with_reducible apply State.upTm_ok
    | with_reducible apply tmTake_ok
    | with_reducible apply foldl_ok
    | with_reducible apply foldl_snd_ok
    | with_reducible apply foldl_fst_ok
    | with_reducible apply ite_ok

theorem execTmEnqueue_ok {Q : List Instr} {a : TmSrc} {turn : LaneTurn} {s : State} (hok : Ok Q s) :
    OutOk Q (execTmEnqueue a turn s) := by
  unfold execTmEnqueue
  try dsimp only
  repeat' first
    | with_reducible assumption
    | with_reducible apply outOk_next
    | (intro _)
    | with_reducible apply raiseN_ok _ _
    | with_reducible apply tmBundle_ok
    | with_reducible apply State.upFe_ok
    | with_reducible apply toLane_ok
    | with_reducible apply State.upTm_ok
    | with_reducible apply serveLane_ok
    | with_reducible apply foldl_ok
    | with_reducible apply foldl_snd_ok
    | with_reducible apply foldl_fst_ok
    | with_reducible apply ite_ok
    | with_reducible apply storeWf_filter
    | with_reducible exact storeWf_nil
    | with_reducible apply Memory.wf_memWrite
    | with_reducible exact Memory.wf_nil
    | split

theorem stagePunt_ok {Q : List Instr} {p : Pkt} {s : State} (hok : Ok Q s) :
    Ok Q (stagePunt p s) := by
  unfold stagePunt
  try dsimp only
  repeat' first
    | with_reducible assumption
    | (intro _)
    | with_reducible apply noteDiscard_ok
    | with_reducible apply shelfAlloc_ok
    | with_reducible apply State.add64_ok
    | with_reducible apply State.upHost_ok
    | with_reducible apply foldl_ok
    | with_reducible apply foldl_snd_ok
    | with_reducible apply foldl_fst_ok
    | with_reducible apply ite_ok
    | with_reducible apply storeWf_filter
    | with_reducible exact storeWf_nil
    | with_reducible apply Memory.wf_memWrite
    | with_reducible exact Memory.wf_nil
    | split
    | dsimp only
    | (with_reducible refine ok_snd ‹_ = (_, _)› ?_)

theorem eliminate_ok {Q : List Instr} {g : ℕ} {stream : ℕ} {seq : ℕ} {s : State} (hok : Ok Q s) :
    Ok Q (eliminate g stream seq s).2 := by
  unfold eliminate
  try dsimp only
  repeat' first
    | with_reducible assumption
    | (intro _)
    | with_reducible apply State.upFe_ok
    | with_reducible apply State.add64_ok
    | with_reducible apply raiseIf_ok
    | with_reducible apply foldl_ok
    | with_reducible apply foldl_snd_ok
    | with_reducible apply foldl_fst_ok
    | with_reducible apply ite_ok
    | with_reducible apply storeWf_filter
    | with_reducible exact storeWf_nil
    | with_reducible apply Memory.wf_memWrite
    | with_reducible exact Memory.wf_nil
    | split

theorem tcStep_ok {Q : List Instr} {c : EditCtx} {q : ℕ} {e : Editing} {s : State} (hok : Ok Q s) :
    Ok Q (tcStep c q e s).2 := by
  unfold tcStep
  try dsimp only
  repeat' first
    | with_reducible assumption
    | (intro _)
    | with_reducible apply State.add64_ok
    | with_reducible apply foldl_ok
    | with_reducible apply foldl_snd_ok
    | with_reducible apply foldl_fst_ok
    | with_reducible apply ite_ok
    | with_reducible apply storeWf_filter
    | with_reducible exact storeWf_nil
    | with_reducible apply Memory.wf_memWrite
    | with_reducible exact Memory.wf_nil
    | split

theorem editStep_ok {Q : List Instr} {c : EditCtx} {a : Editing × State} {o : ℕ} (hok : Ok Q a.2) :
    Ok Q (editStep c a o).2 := by
  unfold editStep
  try dsimp only
  repeat' first
    | with_reducible assumption
    | (intro _)
    | with_reducible apply eliminate_ok
    | with_reducible apply tcStep_ok
    | with_reducible apply foldl_ok
    | with_reducible apply foldl_snd_ok
    | with_reducible apply foldl_fst_ok
    | with_reducible apply ite_ok
    | with_reducible apply storeWf_filter
    | with_reducible exact storeWf_nil
    | with_reducible apply Memory.wf_memWrite
    | with_reducible exact Memory.wf_nil
    | split

theorem sendFrameOut_ok {Q : List Instr} {port : ℕ} {stamp : ℕ} {ptp : Option ℕ} {body : Bytes} {hits : List ℕ} {p : Pkt} {s : State} (hok : Ok Q s) :
    Ok Q (sendFrameOut port stamp ptp body hits p s) := by
  unfold sendFrameOut
  try dsimp only
  repeat' first
    | with_reducible assumption
    | (intro _)
    | with_reducible apply recordDrop_ok
    | with_reducible apply State.emit_ok
    | with_reducible apply State.add64_ok
    | with_reducible apply State.upHost_ok
    | with_reducible apply recordPacket_ok
    | with_reducible apply foldl_ok
    | with_reducible apply foldl_snd_ok
    | with_reducible apply foldl_fst_ok
    | with_reducible apply ite_ok
    | with_reducible apply storeWf_filter
    | with_reducible exact storeWf_nil
    | with_reducible apply Memory.wf_memWrite
    | with_reducible exact Memory.wf_nil
    | split

theorem leave_ok {Q : List Instr} {port : ℕ} {stamp : ℕ} {ptp : Option ℕ} {body : Bytes} {hits : List ℕ} {p : Pkt} {s : State} (hok : Ok Q s) :
    Ok Q (leave port stamp ptp body hits p s) := by
  unfold leave
  try dsimp only
  repeat' first
    | with_reducible assumption
    | (intro _)
    | with_reducible apply sendFrameOut_ok
    | with_reducible apply recordPacket_ok
    | with_reducible apply stagePunt_ok
    | with_reducible apply State.upFe_ok
    | with_reducible apply State.emit_ok
    | with_reducible apply foldl_ok
    | with_reducible apply foldl_snd_ok
    | with_reducible apply foldl_fst_ok
    | with_reducible apply ite_ok

theorem execEgressProcess_ok {Q : List Instr} {link : Fin 2} {phase : Fin 5} {s : State} (hok : Ok Q s) :
    OutOk Q (execEgressProcess link phase s) := by
  unfold execEgressProcess
  try dsimp only
  repeat' first
    | with_reducible assumption
    | with_reducible apply outOk_next
    | (intro _)
    | with_reducible apply State.upFe_ok
    | with_reducible apply stagePunt_ok
    | with_reducible apply editStep_ok
    | with_reducible apply raiseN_ok _ _
    | with_reducible apply State.add64_ok
    | with_reducible apply recordDrop_ok
    | with_reducible apply leave_ok
    | with_reducible apply foldl_ok
    | with_reducible apply foldl_snd_ok
    | with_reducible apply foldl_fst_ok
    | with_reducible apply ite_ok
    | with_reducible apply storeWf_filter
    | with_reducible exact storeWf_nil
    | with_reducible apply Memory.wf_memWrite
    | with_reducible exact Memory.wf_nil
    | split

theorem execStreamRecoveryReset_ok {Q : List Instr} {stream : Fin 16384} {s : State} (hok : Ok Q s) :
    OutOk Q (execStreamRecoveryReset stream s) := by
  unfold execStreamRecoveryReset
  try dsimp only
  repeat' first
    | with_reducible assumption
    | with_reducible apply outOk_next
    | (intro _)
    | with_reducible apply State.upFe_ok
    | with_reducible apply raise_ok
    | with_reducible apply State.add64_ok
    | with_reducible apply foldl_ok
    | with_reducible apply foldl_snd_ok
    | with_reducible apply foldl_fst_ok
    | with_reducible apply ite_ok
    | with_reducible apply storeWf_filter
    | with_reducible exact storeWf_nil
    | with_reducible apply Memory.wf_memWrite
    | with_reducible exact Memory.wf_nil
    | split

theorem retireOldest_ok {Q : List Instr} {s : State} (hok : Ok Q s) :
    Ok Q (retireOldest s) := by
  unfold retireOldest
  try dsimp only
  repeat' first
    | with_reducible assumption
    | (intro _)
    | with_reducible apply State.upGen_ok
    | with_reducible apply rangeReclaim_ok
    | with_reducible apply exactReclaim_ok
    | with_reducible apply routeReclaim_ok
    | with_reducible apply State.upRepair_ok

theorem execGenerationRetire_ok {Q : List Instr} {s : State} (hok : Ok Q s) :
    OutOk Q (execGenerationRetire s) := by
  unfold execGenerationRetire
  try dsimp only
  repeat' first
    | with_reducible assumption
    | with_reducible apply outOk_next
    | (intro _)
    | with_reducible apply retireOldest_ok
    | with_reducible apply foldl_ok
    | with_reducible apply foldl_snd_ok
    | with_reducible apply foldl_fst_ok
    | with_reducible apply ite_ok
    | with_reducible apply storeWf_filter
    | with_reducible exact storeWf_nil
    | with_reducible apply Memory.wf_memWrite
    | with_reducible exact Memory.wf_nil
    | split

theorem execGenerationAgeLimit_ok {Q : List Instr} {s : State} (hok : Ok Q s) :
    OutOk Q (execGenerationAgeLimit s) := by
  unfold execGenerationAgeLimit
  try dsimp only
  repeat' first
    | with_reducible assumption
    | with_reducible apply outOk_next
    | (intro _)
    | with_reducible apply raise_ok
    | with_reducible apply State.sat32_ok
    | with_reducible apply retireOldest_ok
    | with_reducible apply foldl_ok
    | with_reducible apply foldl_snd_ok
    | with_reducible apply foldl_fst_ok
    | with_reducible apply ite_ok
    | with_reducible apply storeWf_filter
    | with_reducible exact storeWf_nil
    | with_reducible apply Memory.wf_memWrite
    | with_reducible exact Memory.wf_nil
    | split

end Sys2Proof.Machine
end

