-- ==== Sys2Proof/Laws/KeepModule.lean ====
section
/-! SUPPORT. What every operation of Host.lean, Session.lean, Hbm.lean, Reset.lean, Board.lean, Firmware.lean, Security.lean, Clocks.lean
keeps: the form of `State.Sound`, and the queue. -/
namespace Sys2Proof.Machine

/-! ### Host -/


theorem hostWrite_ok {Q : List Instr} {a : ℕ} {d : Bytes} {s : State} (hok : Ok Q s) :
    Ok Q (hostWrite a d s) := by
  unfold hostWrite
  try dsimp only
  repeat' first
    | with_reducible assumption
    | (intro _)
    | with_reducible apply State.emit_ok
    | with_reducible apply foldl_ok

theorem funnelWrite_ok {Q : List Instr} {a : ℕ} {d : Bytes} {s : State} (hok : Ok Q s) :
    Ok Q (funnelWrite a d s) := by
  unfold funnelWrite
  try dsimp only
  repeat' first
    | with_reducible assumption
    | (intro _)
    | with_reducible apply hostWrite_ok

theorem State.updRing_ok {Q : List Instr} {s : State} {r : ℕ} {f : RingRT → RingRT} (hok : Ok Q s) :
    Ok Q (State.updRing s r f) := by
  unfold State.updRing
  try dsimp only
  repeat' first
    | with_reducible assumption
    | (intro _)
    | with_reducible apply State.upHost_ok

theorem ringError_ok {Q : List Instr} {r : ℕ} {s : State} (hok : Ok Q s) :
    Ok Q (ringError r s) := by
  unfold ringError
  try dsimp only
  repeat' first
    | with_reducible assumption
    | (intro _)
    | with_reducible apply raise_ok
    | with_reducible apply State.updRing_ok

theorem ringSignal_ok {Q : List Instr} {r : ℕ} {s : State} (hok : Ok Q s) :
    Ok Q (ringSignal r s) := by
  unfold ringSignal
  try dsimp only
  repeat' first
    | with_reducible assumption
    | (intro _)
    | with_reducible apply hostWrite_ok
    | with_reducible apply State.updRing_ok
    | with_reducible apply State.emit_ok

theorem ringCompleted_ok {Q : List Instr} {r : ℕ} {n : ℕ} {s : State} (hok : Ok Q s) :
    Ok Q (ringCompleted r n s) := by
  unfold ringCompleted
  try dsimp only
  repeat' first
    | with_reducible assumption
    | (intro _)
    | with_reducible apply State.updRing_ok
    | with_reducible apply ringSignal_ok
    | with_reducible apply foldl_ok
    | with_reducible apply foldl_snd_ok
    | with_reducible apply foldl_fst_ok
    | with_reducible apply ite_ok

theorem execRingInterruptHoldoff_ok {Q : List Instr} {r : Fin 8192} {s : State} (hok : Ok Q s) :
    OutOk Q (execRingInterruptHoldoff r s) := by
  unfold execRingInterruptHoldoff
  try dsimp only
  repeat' first
    | with_reducible assumption
    | with_reducible apply outOk_next
    | (intro _)
    | with_reducible apply ringSignal_ok
    | with_reducible apply foldl_ok
    | with_reducible apply foldl_snd_ok
    | with_reducible apply foldl_fst_ok
    | with_reducible apply ite_ok
    | with_reducible apply storeWf_filter
    | with_reducible exact storeWf_nil
    | with_reducible apply Memory.wf_memWrite
    | with_reducible exact Memory.wf_nil
    | split

theorem execRingDoorbell_ok {Q : List Instr} {r : Fin 8192} {value : BitVec 32} {s : State} (hok : Ok Q s) :
    OutOk Q (execRingDoorbell r value s) := by
  unfold execRingDoorbell
  try dsimp only
  repeat' first
    | with_reducible assumption
    | with_reducible apply outOk_next
    | (intro _)
    | with_reducible apply State.add64_ok
    | with_reducible apply ringError_ok
    | with_reducible apply State.updRing_ok
    | with_reducible apply foldl_ok
    | with_reducible apply foldl_snd_ok
    | with_reducible apply foldl_fst_ok
    | with_reducible apply ite_ok
    | with_reducible apply storeWf_filter
    | with_reducible exact storeWf_nil
    | with_reducible apply Memory.wf_memWrite
    | with_reducible exact Memory.wf_nil
    | split

theorem endRing_ok {Q : List Instr} {r : ℕ} {s : State} (hok : Ok Q s) :
    Ok Q (endRing r s) := by
  unfold endRing
  try dsimp only
  repeat' first
    | with_reducible assumption
    | (intro _)
    | with_reducible apply shelfClientEnd_ok
    | with_reducible apply State.updRing_ok
    | with_reducible apply State.upHost_ok

theorem ringWritten_ok {Q : List Instr} {r : ℕ} {s : State} (hok : Ok Q s) :
    Ok Q (ringWritten r s) := by
  unfold ringWritten
  try dsimp only
  repeat' first
    | with_reducible assumption
    | (intro _)
    | with_reducible apply State.updRing_ok
    | with_reducible apply endRing_ok
    | with_reducible apply foldl_ok
    | with_reducible apply foldl_snd_ok
    | with_reducible apply foldl_fst_ok
    | with_reducible apply ite_ok

theorem completePunt_ok {Q : List Instr} {r : ℕ} {p : Pkt} {bufs : List PuntBuf} {cut : Bool} {s : State} (hok : Ok Q s) :
    Ok Q (completePunt r p bufs cut s) := by
  unfold completePunt
  try dsimp only
  repeat' first
    | with_reducible assumption
    | (intro _)
    | with_reducible apply hostWrite_ok
    | with_reducible apply ringCompleted_ok
    | with_reducible apply State.updRing_ok
    | with_reducible apply foldl_ok

theorem puntWritten_ok {Q : List Instr} {r : ℕ} {p : Pkt} {posted : List (ℕ × ℕ)} {buf : ℕ × ℕ} {s : State} (hok : Ok Q s) :
    Ok Q (puntWritten r p posted buf s) := by
  unfold puntWritten
  try dsimp only
  repeat' first
    | with_reducible assumption
    | (intro _)
    | with_reducible apply hostWrite_ok
    | with_reducible apply completePunt_ok
    | with_reducible apply State.add64_ok
    | with_reducible apply shelfRelease_ok
    | with_reducible apply foldl_ok
    | with_reducible apply foldl_snd_ok
    | with_reducible apply foldl_fst_ok
    | with_reducible apply ite_ok

theorem execPuntRingWrite_ok {Q : List Instr} {row : Fin 4096} {bufs : List (BitVec 64 × BitVec 16)} {s : State} (hok : Ok Q s) :
    OutOk Q (execPuntRingWrite row bufs s) := by
  unfold execPuntRingWrite
  try dsimp only
  repeat' first
    | with_reducible assumption
    | with_reducible apply outOk_next
    | (intro _)
    | with_reducible apply puntWritten_ok
    | with_reducible apply State.upHost_ok
    | with_reducible apply foldl_ok
    | with_reducible apply foldl_snd_ok
    | with_reducible apply foldl_fst_ok
    | with_reducible apply ite_ok
    | with_reducible apply storeWf_filter
    | with_reducible exact storeWf_nil
    | with_reducible apply Memory.wf_memWrite
    | with_reducible exact Memory.wf_nil
    | split

theorem flushComps_ok {Q : List Instr} {r : Nat} (fuel : Nat) {s : State} (hok : Ok Q s) : Ok Q (flushComps r fuel s) := by
  induction fuel generalizing s with
  | zero => exact hok
  | succ fuel ih =>
    unfold flushComps
    try dsimp only
    repeat' first
      | with_reducible assumption
      | with_reducible apply ih
      | (intro _)
      | with_reducible apply hostWrite_ok
      | with_reducible apply State.updRing_ok
      | with_reducible apply ringCompleted_ok
      | with_reducible apply foldl_ok
      | with_reducible apply foldl_snd_ok
      | with_reducible apply foldl_fst_ok
      | with_reducible apply ite_ok
      | with_reducible apply storeWf_filter
      | with_reducible exact storeWf_nil
      | with_reducible apply Memory.wf_memWrite
      | with_reducible exact Memory.wf_nil
      | split

theorem pushComp_ok {Q : List Instr} {r : ℕ} {descs : List ℕ} {status : Option ℕ} {wants : Bool} {s : State} (hok : Ok Q s) :
    Ok Q (pushComp r descs status wants s) := by
  unfold pushComp
  try dsimp only
  repeat' first
    | with_reducible assumption
    | (intro _)
    | with_reducible apply State.updRing_ok
    | with_reducible apply flushComps_ok

theorem execInjectPacket_ok {Q : List Instr} {offers : List Offer} {s : State} (hok : Ok Q s) :
    OutOk Q (execInjectPacket offers s) := by
  unfold execInjectPacket
  try dsimp only
  repeat' first
    | with_reducible assumption
    | with_reducible apply outOk_next
    | (intro _)
    | with_reducible apply State.upHost_ok
    | with_reducible apply pushComp_ok
    | with_reducible apply State.add64_ok
    | with_reducible apply shelfAlloc_ok
    | with_reducible apply State.upFe_ok
    | with_reducible apply foldl_ok
    | with_reducible apply foldl_snd_ok
    | with_reducible apply foldl_fst_ok
    | with_reducible apply ite_ok
    | with_reducible apply storeWf_filter
    | with_reducible exact storeWf_nil
    | with_reducible apply Memory.wf_memWrite
    | with_reducible exact Memory.wf_nil
    | split
    | dsimp only
    | (with_reducible refine ok_snd ‹_ = (_, _)› ?_)

theorem settleComp_ok {Q : List Instr} {r : ℕ} {first : ℕ} {status : ℕ} {stamp : ℕ} {s : State} (hok : Ok Q s) :
    Ok Q (settleComp r first status stamp s) := by
  unfold settleComp
  try dsimp only
  repeat' first
    | with_reducible assumption
    | (intro _)
    | with_reducible apply State.updRing_ok
    | with_reducible apply flushComps_ok

theorem execInjectTimestampComplete_ok {Q : List Instr} {s : State} (hok : Ok Q s) :
    OutOk Q (execInjectTimestampComplete s) := by
  unfold execInjectTimestampComplete
  try dsimp only
  repeat' first
    | with_reducible assumption
    | with_reducible apply outOk_next
    | (intro _)
    | with_reducible apply State.upHost_ok
    | with_reducible apply settleComp_ok
    | with_reducible apply foldl_ok
    | with_reducible apply foldl_snd_ok
    | with_reducible apply foldl_fst_ok
    | with_reducible apply ite_ok
    | with_reducible apply storeWf_filter
    | with_reducible exact storeWf_nil
    | with_reducible apply Memory.wf_memWrite
    | with_reducible exact Memory.wf_nil
    | split

theorem execInjectStampTimeout_ok {Q : List Instr} {row : Fin 4096} {s : State} (hok : Ok Q s) :
    OutOk Q (execInjectStampTimeout row s) := by
  unfold execInjectStampTimeout
  try dsimp only
  repeat' first
    | with_reducible assumption
    | with_reducible apply outOk_next
    | (intro _)
    | with_reducible apply State.updRing_ok
    | with_reducible apply flushComps_ok
    | with_reducible apply foldl_ok
    | with_reducible apply foldl_snd_ok
    | with_reducible apply foldl_fst_ok
    | with_reducible apply ite_ok
    | with_reducible apply storeWf_filter
    | with_reducible exact storeWf_nil
    | with_reducible apply Memory.wf_memWrite
    | with_reducible exact Memory.wf_nil
    | split

theorem State.updChan_ok {Q : List Instr} {s : State} {c : ℕ} {f : ChanRT → ChanRT} (hok : Ok Q s) :
    Ok Q (State.updChan s c f) := by
  unfold State.updChan
  try dsimp only
  repeat' first
    | with_reducible assumption
    | (intro _)
    | with_reducible apply State.upHost_ok

theorem trolleyGo_ok {Q : List Instr} {c : ℕ} {addr : ℕ} {s : State} (hok : Ok Q s) :
    Ok Q (trolleyGo c addr s).2 := by
  unfold trolleyGo
  try dsimp only
  repeat' first
    | with_reducible assumption
    | (intro _)
    | with_reducible apply State.updChan_ok
    | with_reducible apply State.upHost_ok
    | with_reducible apply foldl_ok
    | with_reducible apply foldl_snd_ok
    | with_reducible apply foldl_fst_ok
    | with_reducible apply ite_ok
    | with_reducible apply storeWf_filter
    | with_reducible exact storeWf_nil
    | with_reducible apply Memory.wf_memWrite
    | with_reducible exact Memory.wf_nil
    | split

theorem execTrolleyRunStart_ok {Q : List Instr} {s : State} (hok : Ok Q s) :
    OutOk Q (execTrolleyRunStart s) := by
  unfold execTrolleyRunStart
  try dsimp only
  repeat' first
    | with_reducible assumption
    | with_reducible apply outOk_next
    | (intro _)
    | with_reducible apply State.add64_ok
    | with_reducible apply State.updChan_ok
    | with_reducible apply foldl_ok
    | with_reducible apply foldl_snd_ok
    | with_reducible apply foldl_fst_ok
    | with_reducible apply ite_ok
    | with_reducible apply storeWf_filter
    | with_reducible exact storeWf_nil
    | with_reducible apply Memory.wf_memWrite
    | with_reducible exact Memory.wf_nil
    | split

theorem setSpace_ok {Q : List Instr} {space : Nat} {m : List Host.Cell} {s : State} (hok : Ok Q s)
    (hm : Memory.wf m = true) : Ok Q (setSpace space m s) := by
  unfold setSpace
  split
  · exact State.upHost_ok hok fun _ hx => ⟨hm, hx.2⟩
  · exact State.upTel_ok hok fun _ _ => hm

theorem trolleyWriteBack_ok {Q : List Instr} {addr : ℕ} {bytes : ℕ} {status : ℕ} {s : State} (hok : Ok Q s) :
    Ok Q (trolleyWriteBack addr bytes status s) := by
  unfold trolleyWriteBack
  try dsimp only
  repeat' first
    | with_reducible assumption
    | (intro _)
    | with_reducible apply hostWrite_ok

theorem trolleyEnd_ok {Q : List Instr} {c : ℕ} {status : ℕ} {s : State} (hok : Ok Q s) :
    Ok Q (trolleyEnd c status s) := by
  unfold trolleyEnd
  try dsimp only
  repeat' first
    | with_reducible assumption
    | (intro _)
    | with_reducible apply State.updChan_ok
    | with_reducible apply State.add64_ok
    | with_reducible apply foldl_ok
    | with_reducible apply foldl_snd_ok
    | with_reducible apply foldl_fst_ok
    | with_reducible apply ite_ok
    | with_reducible apply storeWf_filter
    | with_reducible exact storeWf_nil
    | with_reducible apply Memory.wf_memWrite
    | with_reducible exact Memory.wf_nil
    | split

theorem Memory.wf_memScatter {m : List Host.Cell} (h : Memory.wf m = true) (l : List (Nat × Nat)) (d : Bytes) :
    Memory.wf (memScatter m l d) = true := by
  induction l generalizing m d with
  | nil => exact h
  | cons e l ih => exact ih (Memory.wf_memWrite _ _ _ h) _

theorem Ok.space {q : List Instr} {s : State} (h : Ok q s) (space : Nat) : Memory.wf (spaceOf s.toBlocks space) = true := by
  unfold spaceOf
  split
  · exact h.staging
  · exact h.region

theorem trolleyMove_ok {Q : List Instr} {d : ℕ} {host : List (ℕ × ℕ)} {mod_ : List (ℕ × ℕ)} {data : Bytes} {s : State} (hok : Ok Q s) :
    Ok Q (trolleyMove d host mod_ data s) := by
  unfold trolleyMove
  try dsimp only
  repeat' first
    | with_reducible assumption
    | (exact Memory.wf_memScatter (Ok.space hok _) _ _)
    | (intro _)
    | with_reducible apply funnelWrite_ok
    | with_reducible apply setSpace_ok
    | with_reducible apply foldl_ok
    | with_reducible apply foldl_snd_ok
    | with_reducible apply foldl_fst_ok
    | with_reducible apply ite_ok

theorem trolleyPart_ok {Q : List Instr} {d : ℕ} {host : List (ℕ × ℕ)} {mod_ : List (ℕ × ℕ)} {data : Bytes} {s : State} (hok : Ok Q s) :
    Ok Q (trolleyPart d host mod_ data s) := by
  unfold trolleyPart
  try dsimp only
  repeat' first
    | with_reducible assumption
    | (exact Memory.wf_memScatter (Ok.space (by assumption) _) _ _)
    | (intro _)
    | with_reducible apply fresh_ok
    | with_reducible apply trolleyMove_ok
    | with_reducible apply foldl_ok
    | with_reducible apply foldl_snd_ok
    | with_reducible apply foldl_fst_ok
    | with_reducible apply ite_ok

theorem execTrolleyDescriptorDone_ok {Q : List Instr} {desc : BitVec 512} {pairs : List (BitVec 64 × BitVec 32)} {data : Bytes} {s : State} (hok : Ok Q s) :
    OutOk Q (execTrolleyDescriptorDone desc pairs data s) := by
  unfold execTrolleyDescriptorDone
  try dsimp only
  repeat' first
    | with_reducible assumption
    | with_reducible apply outOk_next
    | (intro _)
    | with_reducible apply State.updChan_ok
    | with_reducible apply raiseIf_ok
    | with_reducible apply trolleyEnd_ok
    | with_reducible apply trolleyWriteBack_ok
    | with_reducible apply State.add64_ok
    | with_reducible apply trolleyMove_ok
    | with_reducible apply foldl_ok
    | with_reducible apply foldl_snd_ok
    | with_reducible apply foldl_fst_ok
    | with_reducible apply ite_ok
    | with_reducible apply storeWf_filter
    | with_reducible exact storeWf_nil
    | with_reducible apply Memory.wf_memWrite
    | with_reducible exact Memory.wf_nil
    | split

theorem trolleyHalt_ok {Q : List Instr} {c : ℕ} {s : State} (hok : Ok Q s) :
    Ok Q (trolleyHalt c s) := by
  unfold trolleyHalt
  try dsimp only
  repeat' first
    | with_reducible assumption
    | (intro _)
    | with_reducible apply State.updChan_ok
    | with_reducible apply trolleyEnd_ok
    | with_reducible apply foldl_ok
    | with_reducible apply foldl_snd_ok
    | with_reducible apply foldl_fst_ok
    | with_reducible apply ite_ok
    | with_reducible apply storeWf_filter
    | with_reducible exact storeWf_nil
    | with_reducible apply Memory.wf_memWrite
    | with_reducible exact Memory.wf_nil
    | split

theorem trolleyStop_ok {Q : List Instr} {c : ℕ} {s : State} (hok : Ok Q s) :
    Ok Q (trolleyStop c s) := by
  unfold trolleyStop
  try dsimp only
  repeat' first
    | with_reducible assumption
    | (intro _)
    | with_reducible apply trolleyHalt_ok
    | with_reducible apply trolleyWriteBack_ok
    | with_reducible apply foldl_ok
    | with_reducible apply foldl_snd_ok
    | with_reducible apply foldl_fst_ok
    | with_reducible apply ite_ok

theorem readFailed_ok {Q : List Instr} {who : Reader} {f : ReadFail} {s : State} (hok : Ok Q s) :
    Ok Q (readFailed who f s) := by
  unfold readFailed
  try dsimp only
  repeat' first
    | with_reducible assumption
    | (intro _)
    | with_reducible apply raise_ok
    | with_reducible apply State.add64_ok
    | with_reducible apply pushComp_ok
    | with_reducible apply ringError_ok
    | with_reducible apply trolleyPart_ok
    | with_reducible apply State.updChan_ok
    | with_reducible apply raiseIf_ok
    | with_reducible apply trolleyEnd_ok
    | with_reducible apply trolleyWriteBack_ok
    | with_reducible apply foldl_ok
    | with_reducible apply foldl_snd_ok
    | with_reducible apply foldl_fst_ok
    | with_reducible apply ite_ok
    | with_reducible apply storeWf_filter
    | with_reducible exact storeWf_nil
    | with_reducible apply Memory.wf_memWrite
    | with_reducible exact Memory.wf_nil
    | split

theorem execPcieCompletionTimeout_ok {Q : List Instr} {who : Reader} {s : State} (hok : Ok Q s) :
    OutOk Q (execPcieCompletionTimeout who s) := by
  unfold execPcieCompletionTimeout
  try dsimp only
  repeat' first
    | with_reducible assumption
    | with_reducible apply outOk_next
    | (intro _)
    | with_reducible apply readFailed_ok

theorem execPcieHostError_ok {Q : List Instr} {who : Reader} {s : State} (hok : Ok Q s) :
    OutOk Q (execPcieHostError who s) := by
  unfold execPcieHostError
  try dsimp only
  repeat' first
    | with_reducible assumption
    | with_reducible apply outOk_next
    | (intro _)
    | with_reducible apply readFailed_ok

theorem execPcieLinkUp_ok {Q : List Instr} {speed : Fin 5} {width : Fin 4} {s : State} (hok : Ok Q s) :
    OutOk Q (execPcieLinkUp speed width s) := by
  unfold execPcieLinkUp
  try dsimp only
  repeat' first
    | with_reducible assumption
    | with_reducible apply outOk_next
    | (intro _)
    | with_reducible apply State.wr_ok

theorem busMasterSet_ok {Q : List Instr} {s : State} (hok : Ok Q s) :
    Ok Q (busMasterSet s) := by
  unfold busMasterSet
  try dsimp only
  repeat' first
    | with_reducible assumption
    | (intro _)
    | with_reducible apply sendMsix_ok
    | with_reducible apply State.upHost_ok
    | with_reducible apply flushComps_ok
    | with_reducible apply foldl_ok

theorem execBusMasterEnable_ok {Q : List Instr} {on_ : Bool} {s : State} (hok : Ok Q s) :
    OutOk Q (execBusMasterEnable on_ s) := by
  unfold execBusMasterEnable
  try dsimp only
  repeat' first
    | with_reducible assumption
    | with_reducible apply outOk_next
    | (intro _)
    | with_reducible apply State.wr_ok
    | with_reducible apply busMasterSet_ok
    | with_reducible apply foldl_ok
    | with_reducible apply foldl_snd_ok
    | with_reducible apply foldl_fst_ok
    | with_reducible apply ite_ok

theorem hostReset_ok {Q : List Instr} {s : State} (hok : Ok Q s) :
    Ok Q (hostReset s) := by
  unfold hostReset
  try dsimp only
  repeat' first
    | with_reducible assumption
    | (intro _)
    | with_reducible apply endRing_ok
    | with_reducible apply State.upHost_ok
    | with_reducible apply shelfClientEnd_ok
    | with_reducible apply trolleyHalt_ok
    | with_reducible apply foldl_ok
    | with_reducible apply foldl_snd_ok
    | with_reducible apply foldl_fst_ok
    | with_reducible apply ite_ok

/-! ### Session -/


theorem placeInSlot_ok {Q : List Instr} {k : ℕ} {seq : ℕ} {data : Bytes} {s : State} (hok : Ok Q s) :
    Ok Q (placeInSlot k seq data s) := by
  unfold placeInSlot
  try dsimp only
  repeat' first
    | with_reducible assumption
    | (intro _)
    | with_reducible apply raise_ok
    | with_reducible apply State.updMbox_ok

theorem State.heard_ok {Q : List Instr} {s : State} {id : SessId} (hok : Ok Q s) :
    Ok Q (State.heard s id) := by
  unfold State.heard
  try dsimp only
  repeat' first
    | with_reducible assumption
    | (intro _; with_reducible rfl)
    | (intro _)
    | with_reducible apply State.updSess_ok

theorem deliver_ok {Q : List Instr} {id : SessId} {r : Resp} {s : State} (hok : Ok Q s) :
    Ok Q (deliver id r s) := by
  unfold deliver
  try dsimp only
  repeat' first
    | with_reducible assumption
    | (intro _)
    | with_reducible apply State.emit_ok
    | with_reducible apply State.heard_ok
    | with_reducible apply placeInSlot_ok
    | with_reducible apply foldl_ok
    | with_reducible apply foldl_snd_ok
    | with_reducible apply foldl_fst_ok
    | with_reducible apply ite_ok
    | with_reducible apply storeWf_filter
    | with_reducible exact storeWf_nil
    | with_reducible apply Memory.wf_memWrite
    | with_reducible exact Memory.wf_nil
    | split

theorem deliverN_ok {Q : List Instr} {id : SessId} {r : Resp} (n : Nat) {s : State} (hok : Ok Q s) : Ok Q (deliverN id r n s) := by
  induction n generalizing s with
  | zero => exact hok
  | succ n ih =>
    unfold deliverN
    try dsimp only
    repeat' first
      | with_reducible assumption
      | with_reducible apply ih
      | (intro _)
      | with_reducible apply deliver_ok

theorem respond_ok {Q : List Instr} {id : SessId} {op : ℕ} {rid : ℕ} {ctx : ℕ} {small : Bool} {status : Status} {items : List RItem} {s : State} (hok : Ok Q s) :
    Ok Q (respond id op rid ctx small status items s) := by
  unfold respond
  try dsimp only
  repeat' first
    | with_reducible assumption
    | (intro _; with_reducible rfl)
    | (intro _)
    | with_reducible apply deliverN_ok
    | with_reducible apply State.updSess_ok
    | with_reducible apply foldl_ok
    | with_reducible apply foldl_snd_ok
    | with_reducible apply foldl_fst_ok
    | with_reducible apply ite_ok

theorem request_ok {Q : List Instr} {q : Req} {run : Sess → State → State} {s : State} (hok : Ok Q s) (hr : ∀ x s, Ok Q s → Ok Q (run x s)) :
    Ok Q (request q run s) := by
  unfold request
  try dsimp only
  repeat' first
    | with_reducible assumption
    | with_reducible apply hr
    | (intro _; with_reducible rfl)
    | (intro _)
    | with_reducible apply State.heard_ok
    | with_reducible apply deliver_ok
    | with_reducible apply State.updSess_ok
    | with_reducible apply foldl_ok
    | with_reducible apply foldl_snd_ok
    | with_reducible apply foldl_fst_ok
    | with_reducible apply ite_ok
    | with_reducible apply storeWf_filter
    | with_reducible exact storeWf_nil
    | with_reducible apply Memory.wf_memWrite
    | with_reducible exact Memory.wf_nil
    | split

theorem notify_ok {Q : List Instr} {id : SessId} {items : List RItem} {s : State} (hok : Ok Q s) :
    Ok Q (notify id items s) := by
  unfold notify
  try dsimp only
  repeat' first
    | with_reducible assumption
    | (intro _; with_reducible rfl)
    | (intro _)
    | with_reducible apply State.updSess_ok
    | with_reducible apply raise_ok
    | with_reducible apply State.add64_ok
    | with_reducible apply foldl_ok
    | with_reducible apply foldl_snd_ok
    | with_reducible apply foldl_fst_ok
    | with_reducible apply ite_ok
    | with_reducible apply storeWf_filter
    | with_reducible exact storeWf_nil
    | with_reducible apply Memory.wf_memWrite
    | with_reducible exact Memory.wf_nil
    | split

theorem sendNotes_ok {Q : List Instr} {id : SessId} {s : State} (hok : Ok Q s) :
    Ok Q (sendNotes id s) := by
  unfold sendNotes
  try dsimp only
  repeat' first
    | with_reducible assumption
    | (intro _; with_reducible rfl)
    | (intro _)
    | with_reducible apply State.emit_ok
    | with_reducible apply State.updSess_ok
    | with_reducible apply State.heard_ok
    | with_reducible apply foldl_ok
    | with_reducible apply foldl_snd_ok
    | with_reducible apply foldl_fst_ok
    | with_reducible apply ite_ok
    | with_reducible apply storeWf_filter
    | with_reducible exact storeWf_nil
    | with_reducible apply Memory.wf_memWrite
    | with_reducible exact Memory.wf_nil
    | split

theorem endTxn_ok {Q : List Instr} {id : SessId} {st : ℕ} {status : Status} {s : State} (hok : Ok Q s) :
    Ok Q (endTxn id st status s) := by
  unfold endTxn
  try dsimp only
  repeat' first
    | with_reducible assumption
    | (intro _; with_reducible rfl)
    | (intro _)
    | with_reducible apply State.updSess_ok
    | with_reducible apply shelfClientEnd_ok
    | with_reducible apply State.upMesh_ok
    | with_reducible apply foldl_ok
    | with_reducible apply foldl_snd_ok
    | with_reducible apply foldl_fst_ok
    | with_reducible apply ite_ok
    | with_reducible apply storeWf_filter
    | with_reducible exact storeWf_nil
    | with_reducible apply Memory.wf_memWrite
    | with_reducible exact Memory.wf_nil
    | split

theorem barDone_ok {Q : List Instr} {st : Status} {obj : ℕ} {s : State} (hok : Ok Q s) :
    Ok Q (barDone st obj s) := by
  unfold barDone
  try dsimp only
  repeat' first
    | with_reducible assumption
    | (intro _)
    | with_reducible apply State.wr_ok

theorem replyWait_ok {Q : List Instr} {w : Wait} {st : Status} {s : State} (hok : Ok Q s) :
    Ok Q (replyWait w st s) := by
  unfold replyWait
  try dsimp only
  repeat' first
    | with_reducible assumption
    | (intro _)
    | with_reducible apply barDone_ok
    | with_reducible apply respond_ok
    | with_reducible apply foldl_ok
    | with_reducible apply foldl_snd_ok
    | with_reducible apply foldl_fst_ok
    | with_reducible apply ite_ok

theorem dropWait_ok {Q : List Instr} {id : SessId} {s : State} (hok : Ok Q s) :
    Ok Q (dropWait id s) := by
  unfold dropWait
  try dsimp only
  repeat' first
    | with_reducible assumption
    | with_reducible apply Ok.buffers
    | with_reducible apply Ok.host
    | (intro _)
    | with_reducible apply replyWait_ok
    | with_reducible apply foldl_ok
    | with_reducible apply foldl_snd_ok
    | with_reducible apply foldl_fst_ok
    | with_reducible apply ite_ok
    | with_reducible apply storeWf_filter
    | with_reducible exact storeWf_nil
    | with_reducible apply Memory.wf_memWrite
    | with_reducible exact Memory.wf_nil
    | split
    | dsimp only
    | (with_reducible refine ok_snd ‹_ = (_, _)› ?_)
    | rfl
    | (rw [ok_mk]; refine ⟨?_, ?_, ?_, ?_, ?_, ?_, ?_, ?_, ?_⟩)
    | with_reducible apply Ok.store
    | with_reducible apply Ok.home
    | with_reducible apply Ok.staging
    | with_reducible apply Ok.msix
    | with_reducible apply Ok.region
    | with_reducible apply Ok.buffers
    | with_reducible apply Ok.slots
    | with_reducible apply Ok.host
    | with_reducible apply Ok.queue

theorem abortTxn_ok {Q : List Instr} {id : SessId} {status : Status} {s : State} (hok : Ok Q s) :
    Ok Q (abortTxn id status s) := by
  unfold abortTxn
  try dsimp only
  repeat' first
    | with_reducible assumption
    | (intro _)
    | with_reducible apply dropWait_ok
    | with_reducible apply endTxn_ok

theorem endSnap_ok {Q : List Instr} {id : SessId} {s : State} (hok : Ok Q s) :
    Ok Q (endSnap id s) := by
  unfold endSnap
  try dsimp only
  repeat' first
    | with_reducible assumption
    | (intro _; with_reducible rfl)
    | (intro _)
    | with_reducible apply State.updSess_ok

theorem releaseBanks_ok {Q : List Instr} {client : ℕ} {s : State} (hok : Ok Q s) :
    Ok Q (releaseBanks client s) := by
  unfold releaseBanks
  try dsimp only
  repeat' first
    | with_reducible assumption
    | (intro _)
    | with_reducible apply State.wr_ok
    | with_reducible apply foldl_ok
    | with_reducible apply foldl_snd_ok
    | with_reducible apply foldl_fst_ok
    | with_reducible apply ite_ok

theorem releaseSession_ok {Q : List Instr} {id : SessId} {s : State} (hok : Ok Q s) :
    Ok Q (releaseSession id s) := by
  unfold releaseSession
  try dsimp only
  repeat' first
    | with_reducible assumption
    | with_reducible apply Ok.buffers
    | with_reducible apply Ok.host
    | (intro _)
    | with_reducible apply State.updSess_ok
    | with_reducible apply releaseBanks_ok
    | with_reducible apply shelfClientEnd_ok
    | with_reducible apply foldl_ok
    | with_reducible apply foldl_snd_ok
    | with_reducible apply foldl_fst_ok
    | with_reducible apply ite_ok
    | with_reducible apply storeWf_filter
    | with_reducible exact storeWf_nil
    | with_reducible apply Memory.wf_memWrite
    | with_reducible exact Memory.wf_nil
    | split
    | dsimp only
    | (with_reducible refine ok_snd ‹_ = (_, _)› ?_)
    | rfl
    | (rw [ok_mk]; refine ⟨?_, ?_, ?_, ?_, ?_, ?_, ?_, ?_, ?_⟩)
    | with_reducible apply Ok.store
    | with_reducible apply Ok.home
    | with_reducible apply Ok.staging
    | with_reducible apply Ok.msix
    | with_reducible apply Ok.region
    | with_reducible apply Ok.buffers
    | with_reducible apply Ok.slots
    | with_reducible apply Ok.host
    | with_reducible apply Ok.queue

theorem removeSession_ok {Q : List Instr} {id : SessId} {s : State} (hok : Ok Q s) : Ok Q (removeSession id s) := by
  unfold removeSession
  split
  · rw [ok_mk]
    refine ⟨hok.store, hok.home, hok.staging, hok.msix, hok.region, hok.buffers, hok.slots, fun i hi => ?_, hok.queue⟩
    obtain ⟨x, hx, rfl⟩ := List.mem_map.1 (hok.host i hi)
    refine List.mem_map.2 ⟨x, List.mem_filter.2 ⟨hx, ?_⟩, rfl⟩
    simp only [hostIds, List.mem_cons, List.not_mem_nil, or_false] at hi
    rcases hi with h | h | h | h | h <;> simp [h]
  · exact ok_of hok rfl rfl rfl rfl rfl rfl rfl rfl
  · exact State.updMbox_ok hok fun _ _ => Memory.wf_nil

/-! ### Hbm -/


theorem enterPhase_ok {Q : List Instr} {n : ℕ} {s : State} (hok : Ok Q s) :
    Ok Q (enterPhase n s) := by
  unfold enterPhase
  try dsimp only
  repeat' first
    | with_reducible assumption
    | (intro _)
    | with_reducible apply State.wr_ok
    | with_reducible apply State.upBoot_ok

theorem enterHold_ok {Q : List Instr} {reason : ℕ} {s : State} (hok : Ok Q s) :
    Ok Q (enterHold reason s) := by
  unfold enterHold
  try dsimp only
  repeat' first
    | with_reducible assumption
    | (intro _)
    | with_reducible apply enterPhase_ok
    | with_reducible apply State.upBoot_ok

theorem wipeFailed_ok {Q : List Instr} {region : ℕ} {s : State} (hok : Ok Q s) :
    Ok Q (wipeFailed region s) := by
  unfold wipeFailed
  try dsimp only
  repeat' first
    | with_reducible assumption
    | (intro _)
    | with_reducible apply State.wr_ok
    | with_reducible apply auditEntry_ok

theorem execHbmTemperatureSample_ok {Q : List Instr} {celsius : BitVec 8} {s : State} (hok : Ok Q s) :
    OutOk Q (execHbmTemperatureSample celsius s) := by
  unfold execHbmTemperatureSample
  try dsimp only
  repeat' first
    | with_reducible assumption
    | with_reducible apply outOk_next
    | (intro _)
    | with_reducible apply raiseIf_ok
    | with_reducible apply State.upHbm_ok
    | with_reducible apply State.ws_ok

theorem execHbmRefresh_ok {Q : List Instr} {pc : Fin 16} {s : State} (hok : Ok Q s) :
    OutOk Q (execHbmRefresh pc s) := by
  unfold execHbmRefresh
  try dsimp only
  repeat' first
    | with_reducible assumption
    | with_reducible apply outOk_next
    | (intro _)
    | with_reducible apply State.upHbm_ok
    | with_reducible apply State.ws_ok

theorem invalidateDump_ok {Q : List Instr} {off : ℕ} {k : ℕ} {s : State} (hok : Ok Q s) :
    Ok Q (invalidateDump off k s) := by
  unfold invalidateDump
  try dsimp only
  repeat' first
    | with_reducible assumption
    | (intro _)
    | with_reducible apply State.upTel_ok
    | with_reducible apply foldl_ok
    | with_reducible apply foldl_snd_ok
    | with_reducible apply foldl_fst_ok
    | with_reducible apply ite_ok
    | with_reducible apply storeWf_filter
    | with_reducible exact storeWf_nil
    | with_reducible apply Memory.wf_memWrite

theorem invalidateSample_ok {Q : List Instr} {i : ℕ} {s : State} (hok : Ok Q s) :
    Ok Q (invalidateSample i s) := by
  unfold invalidateSample
  try dsimp only
  repeat' first
    | with_reducible assumption
    | (intro _)
    | with_reducible apply State.upTel_ok

theorem loseBuffer_ok {Q : List Instr} {pool : ℕ} {n : ℕ} {s : State} (hok : Ok Q s) :
    Ok Q (loseBuffer pool n s) := by
  unfold loseBuffer
  try dsimp only
  repeat' first
    | with_reducible assumption
    | with_reducible apply Ok.buffers
    | with_reducible apply Ok.host
    | (intro _)
    | with_reducible apply abortTxn_ok
    | with_reducible apply shelfClientEnd_ok
    | with_reducible apply State.upFe_ok
    | with_reducible apply shelfRelease_ok
    | with_reducible apply State.add64_ok
    | with_reducible apply settleComp_ok
    | with_reducible apply State.upHost_ok
    | with_reducible apply noteDiscard_ok
    | with_reducible apply foldl_ok
    | with_reducible apply foldl_snd_ok
    | with_reducible apply foldl_fst_ok
    | with_reducible apply ite_ok
    | with_reducible apply storeWf_filter
    | with_reducible exact storeWf_nil
    | with_reducible apply Memory.wf_memWrite
    | with_reducible exact Memory.wf_nil
    | split
    | dsimp only
    | (with_reducible refine ok_snd ‹_ = (_, _)› ?_)
    | rfl
    | (rw [ok_mk]; refine ⟨?_, ?_, ?_, ?_, ?_, ?_, ?_, ?_, ?_⟩)
    | with_reducible apply Ok.store
    | with_reducible apply Ok.home
    | with_reducible apply Ok.staging
    | with_reducible apply Ok.msix
    | with_reducible apply Ok.region
    | with_reducible apply Ok.buffers
    | with_reducible apply Ok.slots
    | with_reducible apply Ok.host
    | with_reducible apply Ok.queue

theorem hbmBadWord_ok {Q : List Instr} {a : ℕ} {holds : Holds} {s : State} (hok : Ok Q s) :
    Ok Q (hbmBadWord a holds s) := by
  unfold hbmBadWord
  try dsimp only
  repeat' first
    | with_reducible assumption
    | (intro _)
    | with_reducible apply hbmEvent_ok
    | with_reducible apply losePage_ok
    | with_reducible apply invalidateDump_ok
    | with_reducible apply invalidateSample_ok
    | with_reducible apply loseBuffer_ok
    | with_reducible apply foldl_ok
    | with_reducible apply foldl_snd_ok
    | with_reducible apply foldl_fst_ok
    | with_reducible apply ite_ok
    | with_reducible apply storeWf_filter
    | with_reducible exact storeWf_nil
    | with_reducible apply Memory.wf_memWrite
    | with_reducible exact Memory.wf_nil
    | split

theorem hbmWord_ok {Q : List Instr} {cls : ℕ} {unit : ℕ} {w : EccWord} {s : State} (hok : Ok Q s) :
    Ok Q (hbmWord cls unit w s) := by
  unfold hbmWord
  try dsimp only
  repeat' first
    | with_reducible assumption
    | (intro _)
    | with_reducible apply hbmBadWord_ok
    | with_reducible apply hbmNote_ok
    | with_reducible apply foldl_ok
    | with_reducible apply foldl_snd_ok
    | with_reducible apply foldl_fst_ok
    | with_reducible apply ite_ok

theorem setHbmState_ok {Q : List Instr} {v : ℕ} {s : State} (hok : Ok Q s) :
    Ok Q (setHbmState v s) := by
  unfold setHbmState
  try dsimp only
  repeat' first
    | with_reducible assumption
    | (intro _)
    | with_reducible apply State.wr_ok

theorem execHbmScrubStep_ok {Q : List Instr} {turn : ScrubTurn} {s : State} (hok : Ok Q s) :
    OutOk Q (execHbmScrubStep turn s) := by
  unfold execHbmScrubStep
  try dsimp only
  repeat' first
    | with_reducible assumption
    | with_reducible apply outOk_next
    | (intro _)
    | with_reducible apply hbmWord_ok
    | with_reducible apply State.upHbm_ok
    | with_reducible apply State.sat32_ok
    | with_reducible apply foldl_ok
    | with_reducible apply foldl_snd_ok
    | with_reducible apply foldl_fst_ok
    | with_reducible apply ite_ok
    | with_reducible apply storeWf_filter
    | with_reducible exact storeWf_nil
    | with_reducible apply Memory.wf_memWrite
    | with_reducible exact Memory.wf_nil
    | split

theorem freqResult_ok {Q : List Instr} {r : ℕ} {s : State} (hok : Ok Q s) :
    Ok Q (freqResult r s) := by
  unfold freqResult
  try dsimp only
  repeat' first
    | with_reducible assumption
    | (intro _)
    | with_reducible apply State.wr_ok

theorem setDelay_ok {Q : List Instr} {row : ℕ} {v : ℕ} {s : State} (hok : Ok Q s) :
    Ok Q (setDelay row v s) := by
  unfold setDelay
  try dsimp only
  repeat' first
    | with_reducible assumption
    | (intro _)
    | with_reducible apply State.wr_ok

theorem setStrobe_ok {Q : List Instr} {row : ℕ} {v : ℕ} {s : State} (hok : Ok Q s) :
    Ok Q (setStrobe row v s) := by
  unfold setStrobe
  try dsimp only
  repeat' first
    | with_reducible assumption
    | (intro _)
    | with_reducible apply State.wr_ok

theorem loadSet_ok {Q : List Instr} {set : ℕ} {freq : ℕ} {s : State} (hok : Ok Q s) :
    Ok Q (loadSet set freq s) := by
  unfold loadSet
  try dsimp only
  repeat' first
    | with_reducible assumption
    | (intro _)
    | with_reducible apply setDelay_ok
    | with_reducible apply setStrobe_ok
    | with_reducible apply foldl_ok

theorem freqAccept_ok {Q : List Instr} {v : ℕ} {s : State} (hok : Ok Q s) :
    Ok Q (freqAccept v s) := by
  unfold freqAccept
  try dsimp only
  repeat' first
    | with_reducible assumption
    | (intro _)
    | with_reducible apply loadSet_ok
    | with_reducible apply State.ws_ok
    | with_reducible apply State.upHbm_ok
    | with_reducible apply State.wr_ok

theorem freqWritten_ok {Q : List Instr} {v : ℕ} {s : State} (hok : Ok Q s) :
    Ok Q (freqWritten v s) := by
  unfold freqWritten
  try dsimp only
  repeat' first
    | with_reducible assumption
    | (intro _)
    | with_reducible apply State.upHbm_ok
    | with_reducible apply freqAccept_ok
    | with_reducible apply State.ws_ok
    | with_reducible apply freqResult_ok
    | with_reducible apply foldl_ok
    | with_reducible apply foldl_snd_ok
    | with_reducible apply foldl_fst_ok
    | with_reducible apply ite_ok
    | with_reducible apply storeWf_filter
    | with_reducible exact storeWf_nil
    | with_reducible apply Memory.wf_memWrite
    | with_reducible exact Memory.wf_nil
    | split

theorem freqAgain_ok {Q : List Instr} {s : State} (hok : Ok Q s) :
    Ok Q (freqAgain s) := by
  unfold freqAgain
  try dsimp only
  repeat' first
    | with_reducible assumption
    | (intro _)
    | with_reducible apply State.upHbm_ok
    | with_reducible apply freqAccept_ok
    | with_reducible apply State.ws_ok
    | with_reducible apply freqResult_ok
    | with_reducible apply foldl_ok
    | with_reducible apply foldl_snd_ok
    | with_reducible apply foldl_fst_ok
    | with_reducible apply ite_ok
    | with_reducible apply storeWf_filter
    | with_reducible exact storeWf_nil
    | with_reducible apply Memory.wf_memWrite
    | with_reducible exact Memory.wf_nil
    | split

theorem execHbmFreqChange_ok {Q : List Instr} {s : State} (hok : Ok Q s) :
    OutOk Q (execHbmFreqChange s) := by
  unfold execHbmFreqChange
  try dsimp only
  repeat' first
    | with_reducible assumption
    | with_reducible apply outOk_next
    | (intro _)
    | with_reducible apply State.wr_ok
    | with_reducible apply freqResult_ok
    | with_reducible apply raise_ok
    | with_reducible apply State.sat32_ok
    | with_reducible apply State.ws_ok
    | with_reducible apply State.upHbm_ok
    | with_reducible apply freqAgain_ok
    | with_reducible apply foldl_ok
    | with_reducible apply foldl_snd_ok
    | with_reducible apply foldl_fst_ok
    | with_reducible apply ite_ok
    | with_reducible apply storeWf_filter
    | with_reducible exact storeWf_nil
    | with_reducible apply Memory.wf_memWrite
    | with_reducible exact Memory.wf_nil
    | split

theorem trainBegin_ok {Q : List Instr} {s : State} (hok : Ok Q s) :
    Ok Q (trainBegin s) := by
  unfold trainBegin
  try dsimp only
  repeat' first
    | with_reducible assumption
    | (intro _)
    | with_reducible apply setHbmState_ok
    | with_reducible apply State.wr_ok
    | with_reducible apply State.ws_ok
    | with_reducible apply State.upHbm_ok
    | with_reducible apply foldl_ok
    | with_reducible apply foldl_snd_ok
    | with_reducible apply foldl_fst_ok
    | with_reducible apply ite_ok

theorem trainFailed_ok {Q : List Instr} {step : ℕ} {pc : ℕ} {bit_ : Option ℕ} {s : State} (hok : Ok Q s) :
    Ok Q (trainFailed step pc bit_ s) := by
  unfold trainFailed
  try dsimp only
  repeat' first
    | with_reducible assumption
    | (intro _)
    | with_reducible apply State.wr_ok
    | with_reducible apply State.upHbm_ok
    | with_reducible apply enterHold_ok
    | with_reducible apply raise_ok
    | with_reducible apply setHbmState_ok
    | with_reducible apply foldl_ok
    | with_reducible apply foldl_snd_ok
    | with_reducible apply foldl_fst_ok
    | with_reducible apply ite_ok

theorem trainStepped_ok {Q : List Instr} {s : State} (hok : Ok Q s) :
    Ok Q (trainStepped s) := by
  unfold trainStepped
  try dsimp only
  repeat' first
    | with_reducible assumption
    | (intro _)
    | with_reducible apply State.upHbm_ok
    | with_reducible apply State.wr_ok
    | with_reducible apply foldl_ok
    | with_reducible apply foldl_snd_ok
    | with_reducible apply foldl_fst_ok
    | with_reducible apply ite_ok

theorem execHbmTrain_ok {Q : List Instr} {r : TrainResult} {s : State} (hok : Ok Q s) :
    OutOk Q (execHbmTrain r s) := by
  unfold execHbmTrain
  try dsimp only
  repeat' first
    | with_reducible assumption
    | with_reducible apply outOk_next
    | (intro _)
    | with_reducible apply trainStepped_ok
    | with_reducible apply trainFailed_ok
    | with_reducible apply State.upHbm_ok
    | with_reducible apply loadSet_ok
    | with_reducible apply setHbmState_ok
    | with_reducible apply State.wr_ok
    | with_reducible apply enterPhase_ok
    | with_reducible apply foldl_ok
    | with_reducible apply foldl_snd_ok
    | with_reducible apply foldl_fst_ok
    | with_reducible apply ite_ok
    | with_reducible apply storeWf_filter
    | with_reducible exact storeWf_nil
    | with_reducible apply Memory.wf_memWrite
    | with_reducible exact Memory.wf_nil
    | split

theorem execHbmWipe_ok {Q : List Instr} {verified : Bool} {s : State} (hok : Ok Q s) :
    OutOk Q (execHbmWipe verified s) := by
  unfold execHbmWipe
  try dsimp only
  repeat' first
    | with_reducible assumption
    | with_reducible apply outOk_next
    | (exact ⟨Memory.wf_nil, And.right ‹_›⟩)
    | (intro _)
    | with_reducible apply State.wr_ok
    | with_reducible apply enterHold_ok
    | with_reducible apply wipeFailed_ok
    | with_reducible apply setHbmState_ok
    | with_reducible apply State.upTel_ok
    | with_reducible apply State.upHbm_ok
    | with_reducible apply State.upHost_ok
    | with_reducible apply enterPhase_ok
    | with_reducible apply State.ws_ok
    | with_reducible apply foldl_ok
    | with_reducible apply foldl_snd_ok
    | with_reducible apply foldl_fst_ok
    | with_reducible apply ite_ok
    | with_reducible apply storeWf_filter
    | with_reducible exact storeWf_nil
    | with_reducible apply Memory.wf_memWrite
    | with_reducible exact Memory.wf_nil
    | split

theorem retrainBit_ok {Q : List Instr} {pc : ℕ} {moves : List TapMove} {a : State × Bool} {b : ℕ} (hok : Ok Q a.1) :
    Ok Q (retrainBit pc moves a b).1 := by
  unfold retrainBit
  try dsimp only
  repeat' first
    | with_reducible assumption
    | (intro _)
    | with_reducible apply State.upHbm_ok
    | with_reducible apply setDelay_ok
    | with_reducible apply foldl_ok
    | with_reducible apply foldl_snd_ok
    | with_reducible apply foldl_fst_ok
    | with_reducible apply ite_ok
    | with_reducible apply storeWf_filter
    | with_reducible exact storeWf_nil
    | with_reducible apply Memory.wf_memWrite
    | with_reducible exact Memory.wf_nil
    | split

theorem execHbmRetrain_ok {Q : List Instr} {pc : Fin 16} {forced : Bool} {moves : List TapMove} {s : State} (hok : Ok Q s) :
    OutOk Q (execHbmRetrain pc forced moves s) := by
  unfold execHbmRetrain
  try dsimp only
  repeat' first
    | with_reducible assumption
    | with_reducible apply outOk_next
    | (intro _)
    | with_reducible apply State.add64_ok
    | with_reducible apply State.upHbm_ok
    | with_reducible apply retrainBit_ok
    | with_reducible apply raiseIf_ok
    | with_reducible apply foldl_ok
    | with_reducible apply foldl_snd_ok
    | with_reducible apply foldl_fst_ok
    | with_reducible apply ite_ok
    | with_reducible apply storeWf_filter
    | with_reducible exact storeWf_nil
    | with_reducible apply Memory.wf_memWrite
    | with_reducible exact Memory.wf_nil
    | split

theorem serviceWritten_ok {Q : List Instr} {v : ℕ} {s : State} (hok : Ok Q s) :
    Ok Q (serviceWritten v s) := by
  unfold serviceWritten
  try dsimp only
  repeat' first
    | with_reducible assumption
    | (intro _)
    | with_reducible apply State.ws_ok
    | with_reducible apply setHbmState_ok
    | with_reducible apply State.upHbm_ok
    | with_reducible apply foldl_ok
    | with_reducible apply foldl_snd_ok
    | with_reducible apply foldl_fst_ok
    | with_reducible apply ite_ok

theorem patternStart_ok {Q : List Instr} {s : State} (hok : Ok Q s) :
    Ok Q (patternStart s) := by
  unfold patternStart
  try dsimp only
  repeat' first
    | with_reducible assumption
    | (intro _)
    | with_reducible apply State.wr_ok
    | with_reducible apply State.upHbm_ok

theorem execHbmPatternDone_ok {Q : List Instr} {mask : BitVec 72} {count : BitVec 32} {s : State} (hok : Ok Q s) :
    OutOk Q (execHbmPatternDone mask count s) := by
  unfold execHbmPatternDone
  try dsimp only
  repeat' first
    | with_reducible assumption
    | with_reducible apply outOk_next
    | (intro _)
    | with_reducible apply State.wr_ok
    | with_reducible apply State.upHbm_ok
    | with_reducible apply foldl_ok
    | with_reducible apply foldl_snd_ok
    | with_reducible apply foldl_fst_ok
    | with_reducible apply ite_ok
    | with_reducible apply storeWf_filter
    | with_reducible exact storeWf_nil
    | with_reducible apply Memory.wf_memWrite
    | with_reducible exact Memory.wf_nil
    | split

theorem delayWritten_ok {Q : List Instr} {strobe : Bool} {row : ℕ} {s : State} (hok : Ok Q s) :
    Ok Q (delayWritten strobe row s) := by
  unfold delayWritten
  try dsimp only
  repeat' first
    | with_reducible assumption
    | (intro _)
    | with_reducible apply State.upHbm_ok

/-! ### Reset -/


theorem discardRec_home {c : Chest} {r : JRec} (h : storeWf c.home) : storeWf (discardRec c r).home :=
  storeWf_foldl_put _ _ _ h

theorem bootChest_home {c : Chest} (h : storeWf c.home) : storeWf (bootChest c).home := by
  have step : ∀ (l : List JRec) {c : Chest}, storeWf c.home → storeWf (l.foldl discardRec c).home := by
    intro l
    induction l with
    | nil => exact fun h => h
    | cons r l ih => exact fun h => ih (discardRec_home h)
  exact step _ h

theorem moduleReset_ok {Q : List Instr} {cause : Nat} {s : State} (hok : Ok Q s) : Ok Q (moduleReset cause s) := by
  have hc := bootChest_home hok.home
  unfold moduleReset
  dsimp only
  refine State.wr_ok (State.wr_ok (State.wr_ok (ite_ok ?_ (State.wrHome_ok ?_ _ _ _ _)) _ _ _ _) _ _ _ _) _ _ _ _ <;>
  · refine State.wr_ok ?_ _ _ _ _
    rw [ok_mk]
    exact ⟨storeWf_filter hc _, hc, rfl, rfl, rfl, by simp [Mbox.start, Memory.wf_nil], rfl, by decide +revert, hok.queue⟩

theorem leaveReset_ok {Q : List Instr} {s : State} (hok : Ok Q s) :
    Ok Q (leaveReset s) := by
  unfold leaveReset
  try dsimp only
  repeat' first
    | with_reducible assumption
    | (intro _)
    | with_reducible apply State.upBoot_ok
    | with_reducible apply foldl_ok
    | with_reducible apply foldl_snd_ok
    | with_reducible apply foldl_fst_ok
    | with_reducible apply ite_ok

/-! ### Board -/


theorem guardCause_ok {Q : List Instr} {c : GuardCause} {s : State} (hok : Ok Q s) :
    Ok Q (guardCause c s) := by
  unfold guardCause
  try dsimp only
  repeat' first
    | with_reducible assumption
    | (intro _)
    | with_reducible apply raise_ok
    | with_reducible apply State.wr_ok
    | with_reducible apply foldl_ok
    | with_reducible apply foldl_snd_ok
    | with_reducible apply foldl_fst_ok
    | with_reducible apply ite_ok
    | with_reducible apply storeWf_filter
    | with_reducible exact storeWf_nil
    | with_reducible apply Memory.wf_memWrite
    | with_reducible exact Memory.wf_nil
    | split

theorem execNvGuardAssert_ok {Q : List Instr} {c : GuardCause} {s : State} (hok : Ok Q s) :
    OutOk Q (execNvGuardAssert c s) := by
  unfold execNvGuardAssert
  try dsimp only
  repeat' first
    | with_reducible assumption
    | with_reducible apply outOk_next
    | with_reducible apply Ok.buffers
    | with_reducible apply Ok.host
    | (intro _)
    | with_reducible apply guardCause_ok
    | with_reducible apply State.wr_ok
    | with_reducible apply raise_ok
    | with_reducible apply State.sat32_ok
    | with_reducible apply foldl_ok
    | with_reducible apply foldl_snd_ok
    | with_reducible apply foldl_fst_ok
    | with_reducible apply ite_ok
    | with_reducible apply storeWf_filter
    | with_reducible exact storeWf_nil
    | with_reducible apply Memory.wf_memWrite
    | with_reducible exact Memory.wf_nil
    | split
    | dsimp only
    | (with_reducible refine ok_snd ‹_ = (_, _)› ?_)
    | rfl
    | (rw [ok_mk]; refine ⟨?_, ?_, ?_, ?_, ?_, ?_, ?_, ?_, ?_⟩)
    | with_reducible apply Ok.store
    | with_reducible apply Ok.home
    | with_reducible apply Ok.staging
    | with_reducible apply Ok.msix
    | with_reducible apply Ok.region
    | with_reducible apply Ok.buffers
    | with_reducible apply Ok.slots
    | with_reducible apply Ok.host
    | with_reducible apply Ok.queue

theorem execNvGuardRelease_ok {Q : List Instr} {s : State} (hok : Ok Q s) :
    OutOk Q (execNvGuardRelease s) := by
  unfold execNvGuardRelease
  try dsimp only
  repeat' first
    | with_reducible assumption
    | with_reducible apply outOk_next
    | with_reducible apply Ok.buffers
    | with_reducible apply Ok.host
    | (intro _)
    | with_reducible apply State.wr_ok
    | with_reducible apply foldl_ok
    | with_reducible apply foldl_snd_ok
    | with_reducible apply foldl_fst_ok
    | with_reducible apply ite_ok
    | with_reducible apply storeWf_filter
    | with_reducible exact storeWf_nil
    | with_reducible apply Memory.wf_memWrite
    | with_reducible exact Memory.wf_nil
    | split
    | dsimp only
    | (with_reducible refine ok_snd ‹_ = (_, _)› ?_)
    | rfl
    | (rw [ok_mk]; refine ⟨?_, ?_, ?_, ?_, ?_, ?_, ?_, ?_, ?_⟩)
    | with_reducible apply Ok.store
    | with_reducible apply Ok.home
    | with_reducible apply Ok.staging
    | with_reducible apply Ok.msix
    | with_reducible apply Ok.region
    | with_reducible apply Ok.buffers
    | with_reducible apply Ok.slots
    | with_reducible apply Ok.host
    | with_reducible apply Ok.queue

theorem execOverVoltage_ok {Q : List Instr} {rail : Fin 10} {s : State} (hok : Ok Q s) :
    OutOk Q (execOverVoltage rail s) := by
  unfold execOverVoltage
  try dsimp only
  repeat' first
    | with_reducible assumption
    | with_reducible apply outOk_next
    | (intro _)
    | with_reducible apply raise_ok
    | with_reducible apply State.wr_ok

theorem powerLost_ok {Q : List Instr} {s : State} (hok : Ok Q s) :
    Ok Q (powerLost s) := by
  unfold powerLost
  try dsimp only
  repeat' first
    | with_reducible assumption
    | with_reducible apply Ok.buffers
    | with_reducible apply Ok.host
    | (intro _)
    | with_reducible apply moduleReset_ok
    | with_reducible apply foldl_ok
    | with_reducible apply foldl_snd_ok
    | with_reducible apply foldl_fst_ok
    | with_reducible apply ite_ok
    | with_reducible apply storeWf_filter
    | with_reducible exact storeWf_nil
    | with_reducible apply Memory.wf_memWrite
    | with_reducible exact Memory.wf_nil
    | split
    | dsimp only
    | (with_reducible refine ok_snd ‹_ = (_, _)› ?_)
    | rfl
    | (rw [ok_mk]; refine ⟨?_, ?_, ?_, ?_, ?_, ?_, ?_, ?_, ?_⟩)
    | with_reducible apply Ok.store
    | with_reducible apply Ok.home
    | with_reducible apply Ok.staging
    | with_reducible apply Ok.msix
    | with_reducible apply Ok.region
    | with_reducible apply Ok.buffers
    | with_reducible apply Ok.slots
    | with_reducible apply Ok.host
    | with_reducible apply Ok.queue

theorem execLossOfPower_ok {Q : List Instr} {s : State} (hok : Ok Q s) :
    OutOk Q (execLossOfPower s) := by
  unfold execLossOfPower
  try dsimp only
  repeat' first
    | with_reducible assumption
    | with_reducible apply outOk_next
    | (intro _)
    | with_reducible apply powerLost_ok

theorem execBrownOut_ok {Q : List Instr} {rail : Fin 10} {s : State} (hok : Ok Q s) :
    OutOk Q (execBrownOut rail s) := by
  unfold execBrownOut
  try dsimp only
  repeat' first
    | with_reducible assumption
    | with_reducible apply outOk_next
    | with_reducible apply Ok.buffers
    | with_reducible apply Ok.host
    | (intro _)
    | with_reducible apply powerLost_ok
    | with_reducible apply moduleReset_ok
    | with_reducible apply State.wrHome_ok
    | with_reducible apply foldl_ok
    | with_reducible apply foldl_snd_ok
    | with_reducible apply foldl_fst_ok
    | with_reducible apply ite_ok
    | with_reducible apply storeWf_filter
    | with_reducible exact storeWf_nil
    | with_reducible apply Memory.wf_memWrite
    | with_reducible exact Memory.wf_nil
    | split
    | dsimp only
    | (with_reducible refine ok_snd ‹_ = (_, _)› ?_)
    | rfl
    | (rw [ok_mk]; refine ⟨?_, ?_, ?_, ?_, ?_, ?_, ?_, ?_, ?_⟩)
    | with_reducible apply Ok.store
    | with_reducible apply Ok.home
    | with_reducible apply Ok.staging
    | with_reducible apply Ok.msix
    | with_reducible apply Ok.region
    | with_reducible apply Ok.buffers
    | with_reducible apply Ok.slots
    | with_reducible apply Ok.host
    | with_reducible apply Ok.queue

theorem execJournalRecordWrite_ok {Q : List Instr} {inFlight : Bool} {copied : Bool} {s : State} (hok : Ok Q s) :
    OutOk Q (execJournalRecordWrite inFlight copied s) := by
  unfold execJournalRecordWrite
  try dsimp only
  repeat' first
    | with_reducible assumption
    | with_reducible apply outOk_next
    | with_reducible apply Ok.buffers
    | with_reducible apply Ok.host
    | (intro _)
    | with_reducible apply foldl_ok
    | with_reducible apply foldl_snd_ok
    | with_reducible apply foldl_fst_ok
    | with_reducible apply ite_ok
    | with_reducible apply storeWf_filter
    | with_reducible exact storeWf_nil
    | with_reducible apply Memory.wf_memWrite
    | with_reducible exact Memory.wf_nil
    | split
    | dsimp only
    | (with_reducible refine ok_snd ‹_ = (_, _)› ?_)
    | rfl
    | (rw [ok_mk]; refine ⟨?_, ?_, ?_, ?_, ?_, ?_, ?_, ?_, ?_⟩)
    | with_reducible apply Ok.store
    | with_reducible apply Ok.home
    | with_reducible apply Ok.staging
    | with_reducible apply Ok.msix
    | with_reducible apply Ok.region
    | with_reducible apply Ok.buffers
    | with_reducible apply Ok.slots
    | with_reducible apply Ok.host
    | with_reducible apply Ok.queue

theorem railSample_ok {Q : List Instr} {r : ℕ} {s : State} (hok : Ok Q s) :
    Ok Q (railSample r s) := by
  unfold railSample
  try dsimp only
  repeat' first
    | with_reducible assumption
    | (intro _)
    | with_reducible apply State.wr_ok

theorem execDieTemperatureSample_ok {Q : List Instr} {fe : BitVec 16} {tm : BitVec 16} {sense : List (BitVec 16)} {s : State} (hok : Ok Q s) :
    OutOk Q (execDieTemperatureSample fe tm sense s) := by
  unfold execDieTemperatureSample
  try dsimp only
  repeat' first
    | with_reducible assumption
    | with_reducible apply outOk_next
    | (intro _)
    | with_reducible apply State.wr_ok
    | with_reducible apply railSample_ok
    | with_reducible apply raiseIf_ok
    | with_reducible apply State.upBoard_ok
    | with_reducible apply foldl_ok
    | with_reducible apply foldl_snd_ok
    | with_reducible apply foldl_fst_ok
    | with_reducible apply ite_ok

theorem sideTrigger_ok {Q : List Instr} {q : ℕ} {at_ : ℕ} {s : State} (hok : Ok Q s) :
    Ok Q (sideTrigger q at_ s) := by
  unfold sideTrigger
  try dsimp only
  repeat' first
    | with_reducible assumption
    | (intro _)
    | with_reducible apply State.add64_ok
    | with_reducible apply State.upBoard_ok
    | with_reducible apply foldl_ok
    | with_reducible apply foldl_snd_ok
    | with_reducible apply foldl_fst_ok
    | with_reducible apply ite_ok

theorem sideStart_ok {Q : List Instr} {q : ℕ} {s : State} (hok : Ok Q s) :
    Ok Q (sideStart q s) := by
  unfold sideStart
  try dsimp only
  repeat' first
    | with_reducible assumption
    | (intro _)
    | with_reducible apply sideTrigger_ok

theorem execSideboardSequenceStart_ok {Q : List Instr} {s : State} (hok : Ok Q s) :
    OutOk Q (execSideboardSequenceStart s) := by
  unfold execSideboardSequenceStart
  try dsimp only
  repeat' first
    | with_reducible assumption
    | with_reducible apply outOk_next
    | (intro _)
    | with_reducible apply State.upBoard_ok
    | with_reducible apply foldl_ok
    | with_reducible apply foldl_snd_ok
    | with_reducible apply foldl_fst_ok
    | with_reducible apply ite_ok
    | with_reducible apply storeWf_filter
    | with_reducible exact storeWf_nil
    | with_reducible apply Memory.wf_memWrite
    | with_reducible exact Memory.wf_nil
    | split

theorem sideResult_ok {Q : List Instr} {c : ℕ} {code : ℕ} {stamp : ℕ} {s : State} (hok : Ok Q s) :
    Ok Q (sideResult c code stamp s) := by
  unfold sideResult
  try dsimp only
  repeat' first
    | with_reducible assumption
    | (intro _)
    | with_reducible apply State.wr_ok
    | with_reducible apply State.upBoard_ok
    | with_reducible apply setDetail_ok
    | with_reducible apply foldl_ok
    | with_reducible apply foldl_snd_ok
    | with_reducible apply foldl_fst_ok
    | with_reducible apply ite_ok

theorem execSideboardConversion_ok {Q : List Instr} {code : BitVec 12} {s : State} (hok : Ok Q s) :
    OutOk Q (execSideboardConversion code s) := by
  unfold execSideboardConversion
  try dsimp only
  repeat' first
    | with_reducible assumption
    | with_reducible apply outOk_next
    | (intro _)
    | with_reducible apply sideResult_ok
    | with_reducible apply State.upBoard_ok
    | with_reducible apply State.add64_ok
    | with_reducible apply raise_ok
    | with_reducible apply foldl_ok
    | with_reducible apply foldl_snd_ok
    | with_reducible apply foldl_fst_ok
    | with_reducible apply ite_ok
    | with_reducible apply storeWf_filter
    | with_reducible exact storeWf_nil
    | with_reducible apply Memory.wf_memWrite
    | with_reducible exact Memory.wf_nil
    | split

theorem execFanTachWindow_ok {Q : List Instr} {fan : Fin 8} {edges : BitVec 32} {s : State} (hok : Ok Q s) :
    OutOk Q (execFanTachWindow fan edges s) := by
  unfold execFanTachWindow
  try dsimp only
  repeat' first
    | with_reducible assumption
    | with_reducible apply outOk_next
    | (intro _)
    | with_reducible apply fresh_ok
    | with_reducible apply State.wr_ok
    | with_reducible apply State.upBoard_ok
    | with_reducible apply raise_ok
    | with_reducible apply foldl_ok
    | with_reducible apply foldl_snd_ok
    | with_reducible apply foldl_fst_ok
    | with_reducible apply ite_ok
    | with_reducible apply storeWf_filter
    | with_reducible exact storeWf_nil
    | with_reducible apply Memory.wf_memWrite
    | with_reducible exact Memory.wf_nil
    | split

theorem fanWritten_ok {Q : List Instr} {n : ℕ} {s : State} (hok : Ok Q s) :
    Ok Q (fanWritten n s) := by
  unfold fanWritten
  try dsimp only
  repeat' first
    | with_reducible assumption
    | (intro _)
    | with_reducible apply State.upBoard_ok
    | with_reducible apply State.wr_ok
    | with_reducible apply foldl_ok
    | with_reducible apply foldl_snd_ok
    | with_reducible apply foldl_fst_ok
    | with_reducible apply ite_ok

theorem execGpioEdge_ok {Q : List Instr} {pin : Fin 16} {high : Bool} {s : State} (hok : Ok Q s) :
    OutOk Q (execGpioEdge pin high s) := by
  unfold execGpioEdge
  try dsimp only
  repeat' first
    | with_reducible assumption
    | with_reducible apply outOk_next
    | (intro _)
    | with_reducible apply State.ws_ok
    | with_reducible apply setDetail_ok
    | with_reducible apply foldl_ok
    | with_reducible apply foldl_snd_ok
    | with_reducible apply foldl_fst_ok
    | with_reducible apply ite_ok
    | with_reducible apply storeWf_filter
    | with_reducible exact storeWf_nil
    | with_reducible apply Memory.wf_memWrite
    | with_reducible exact Memory.wf_nil
    | split

theorem crossingLoss_ok {Q : List Instr} {row : ℕ} {lost : ℕ} {s : State} (hok : Ok Q s) :
    Ok Q (crossingLoss row lost s) := by
  unfold crossingLoss
  try dsimp only
  repeat' first
    | with_reducible assumption
    | (intro _)
    | with_reducible apply State.sat32_ok
    | with_reducible apply raise_ok

theorem dropLink_ok {Q : List Instr} {k : ℕ} {s : State} (hok : Ok Q s) :
    Ok Q (dropLink k s) := by
  unfold dropLink
  try dsimp only
  repeat' first
    | with_reducible assumption
    | (intro _)
    | with_reducible apply State.upFe_ok
    | with_reducible apply noteDiscard_ok
    | with_reducible apply State.add64_ok
    | with_reducible apply foldl_ok

theorem execDovetailLinkLoss_ok {Q : List Instr} {cut : LinkCut} {s : State} (hok : Ok Q s) :
    OutOk Q (execDovetailLinkLoss cut s) := by
  unfold execDovetailLinkLoss
  try dsimp only
  repeat' first
    | with_reducible assumption
    | with_reducible apply outOk_next
    | (intro _)
    | with_reducible apply crossingLoss_ok
    | with_reducible apply State.ws_ok
    | with_reducible apply raise_ok
    | with_reducible apply dropLink_ok
    | with_reducible apply foldl_ok
    | with_reducible apply foldl_snd_ok
    | with_reducible apply foldl_fst_ok
    | with_reducible apply ite_ok
    | with_reducible apply storeWf_filter
    | with_reducible exact storeWf_nil
    | with_reducible apply Memory.wf_memWrite
    | with_reducible exact Memory.wf_nil
    | split

theorem execDovetailLinkRetrain_ok {Q : List Instr} {link : Fin 2} {trained : Bool} {s : State} (hok : Ok Q s) :
    OutOk Q (execDovetailLinkRetrain link trained s) := by
  unfold execDovetailLinkRetrain
  try dsimp only
  repeat' first
    | with_reducible assumption
    | with_reducible apply outOk_next
    | (intro _)
    | with_reducible apply State.sat32_ok
    | with_reducible apply State.ws_ok
    | with_reducible apply foldl_ok
    | with_reducible apply foldl_snd_ok
    | with_reducible apply foldl_fst_ok
    | with_reducible apply ite_ok
    | with_reducible apply storeWf_filter
    | with_reducible exact storeWf_nil
    | with_reducible apply Memory.wf_memWrite
    | with_reducible exact Memory.wf_nil
    | split

/-! ### Firmware -/


theorem State.setSlot_ok {Q : List Instr} {s : State} {i : ℕ} {f : FwSlot → FwSlot} (hok : Ok Q s) :
    Ok Q (State.setSlot s i f) := by
  unfold State.setSlot
  try dsimp only
  repeat' first
    | with_reducible assumption
    | with_reducible apply Ok.buffers
    | with_reducible apply Ok.host
    | (intro _)
    | with_reducible apply foldl_ok
    | with_reducible apply foldl_snd_ok
    | with_reducible apply foldl_fst_ok
    | with_reducible apply ite_ok
    | with_reducible apply storeWf_filter
    | with_reducible exact storeWf_nil
    | with_reducible apply Memory.wf_memWrite
    | with_reducible exact Memory.wf_nil
    | split
    | dsimp only
    | (with_reducible refine ok_snd ‹_ = (_, _)› ?_)
    | rfl
    | (rw [ok_mk]; refine ⟨?_, ?_, ?_, ?_, ?_, ?_, ?_, ?_, ?_⟩)
    | with_reducible apply Ok.store
    | with_reducible apply Ok.home
    | with_reducible apply Ok.staging
    | with_reducible apply Ok.msix
    | with_reducible apply Ok.region
    | with_reducible apply Ok.buffers
    | with_reducible apply Ok.slots
    | with_reducible apply Ok.host
    | with_reducible apply Ok.queue

theorem standbyLost_ok {Q : List Instr} {s : State} (hok : Ok Q s) :
    Ok Q (standbyLost s) := by
  unfold standbyLost
  try dsimp only
  repeat' first
    | with_reducible assumption
    | (intro _)
    | with_reducible apply raise_ok
    | with_reducible apply State.ws_ok
    | with_reducible apply foldl_ok
    | with_reducible apply foldl_snd_ok
    | with_reducible apply foldl_fst_ok
    | with_reducible apply ite_ok

theorem holdFailed_ok {Q : List Instr} {s : State} (hok : Ok Q s) :
    Ok Q (holdFailed s) := by
  unfold holdFailed
  try dsimp only
  repeat' first
    | with_reducible assumption
    | (intro _)
    | with_reducible apply State.upBoot_ok
    | with_reducible apply State.wr_ok

theorem freeFailed_ok {Q : List Instr} {s : State} (hok : Ok Q s) :
    Ok Q (freeFailed s) := by
  unfold freeFailed
  try dsimp only
  repeat' first
    | with_reducible assumption
    | (intro _)
    | with_reducible apply State.upBoot_ok
    | with_reducible apply State.wr_ok
    | with_reducible apply foldl_ok
    | with_reducible apply foldl_snd_ok
    | with_reducible apply foldl_fst_ok
    | with_reducible apply ite_ok

theorem execStandbyPairSynchronised_ok {Q : List Instr} {s : State} (hok : Ok Q s) :
    OutOk Q (execStandbyPairSynchronised s) := by
  unfold execStandbyPairSynchronised
  try dsimp only
  repeat' first
    | with_reducible assumption
    | with_reducible apply outOk_next
    | (intro _)
    | with_reducible apply State.ws_ok
    | with_reducible apply freeFailed_ok
    | with_reducible apply foldl_ok
    | with_reducible apply foldl_snd_ok
    | with_reducible apply foldl_fst_ok
    | with_reducible apply ite_ok
    | with_reducible apply storeWf_filter
    | with_reducible exact storeWf_nil
    | with_reducible apply Memory.wf_memWrite
    | with_reducible exact Memory.wf_nil
    | split

theorem setLoad_ok {Q : List Instr} {f : ℕ} {v : ℕ} {s : State} (hok : Ok Q s) :
    Ok Q (setLoad f v s) := by
  unfold setLoad
  try dsimp only
  repeat' first
    | with_reducible assumption
    | (intro _)
    | with_reducible apply State.wr_ok

theorem updLoad_ok {Q : List Instr} {f : FwLoad → FwLoad} {s : State} (hok : Ok Q s) :
    Ok Q (updLoad f s) := by
  unfold updLoad
  try dsimp only
  repeat' first
    | with_reducible assumption
    | (intro _)
    | with_reducible apply State.upFw_ok

theorem loadStart_ok {Q : List Instr} {owner : Option SessId} {via : Option (ℕ × ℕ)} {chain : Bool} {tid : ℕ} {entry : ℕ} {map : ℕ} {s : State} (hok : Ok Q s) :
    Ok Q (loadStart owner via chain tid entry map s) := by
  unfold loadStart
  try dsimp only
  repeat' first
    | with_reducible assumption
    | (intro _)
    | with_reducible apply State.setSlot_ok
    | with_reducible apply State.setFwMeta_ok
    | with_reducible apply setLoad_ok
    | with_reducible apply State.upFw_ok

theorem loadBegin_ok {Q : List Instr} {owner : Option SessId} {chain : Bool} {s : State} (hok : Ok Q s) :
    Ok Q (loadBegin owner chain s) := by
  unfold loadBegin
  try dsimp only
  repeat' first
    | with_reducible assumption
    | (intro _)
    | with_reducible apply State.setFwMeta_ok
    | with_reducible apply loadStart_ok
    | with_reducible apply foldl_ok
    | with_reducible apply foldl_snd_ok
    | with_reducible apply foldl_fst_ok
    | with_reducible apply ite_ok

theorem chainSettle_ok {Q : List Instr} {s : State} (hok : Ok Q s) :
    Ok Q (chainSettle s) := by
  unfold chainSettle
  try dsimp only
  repeat' first
    | with_reducible assumption
    | (intro _)
    | with_reducible apply State.upFw_ok
    | with_reducible apply setLoad_ok
    | with_reducible apply State.updGroup_ok
    | with_reducible apply State.wr_ok
    | with_reducible apply raiseIf_ok
    | with_reducible apply foldl_ok
    | with_reducible apply foldl_snd_ok
    | with_reducible apply foldl_fst_ok
    | with_reducible apply ite_ok
    | with_reducible apply storeWf_filter
    | with_reducible exact storeWf_nil
    | with_reducible apply Memory.wf_memWrite
    | with_reducible exact Memory.wf_nil
    | split

theorem turnTo_ok {Q : List Instr}  (l : List Nat) {s : State} (hok : Ok Q s) : Ok Q (turnTo l s) := by
  induction l generalizing s with
  | nil => exact updLoad_ok hok
  | cons e l ih =>
    unfold turnTo
    try dsimp only
    repeat' first
      | with_reducible assumption
      | with_reducible apply ih
      | (intro _)
      | with_reducible apply updLoad_ok
      | with_reducible apply foldl_ok
      | with_reducible apply foldl_snd_ok
      | with_reducible apply foldl_fst_ok
      | with_reducible apply ite_ok
      | with_reducible apply storeWf_filter
      | with_reducible exact storeWf_nil
      | with_reducible apply Memory.wf_memWrite
      | with_reducible exact Memory.wf_nil
      | split

theorem pushData_ok {Q : List Instr} {s : State} (hok : Ok Q s) :
    Ok Q (pushData s) := by
  unfold pushData
  try dsimp only
  repeat' first
    | with_reducible assumption
    | (intro _)
    | with_reducible apply State.updGroup_ok
    | with_reducible apply updLoad_ok
    | with_reducible apply foldl_ok
    | with_reducible apply foldl_snd_ok
    | with_reducible apply foldl_fst_ok
    | with_reducible apply ite_ok
    | with_reducible apply storeWf_filter
    | with_reducible exact storeWf_nil
    | with_reducible apply Memory.wf_memWrite
    | with_reducible exact Memory.wf_nil
    | split

theorem loadCode_ok {Q : List Instr} {code : ℕ} {s : State} (hok : Ok Q s) :
    Ok Q (loadCode code s) := by
  unfold loadCode
  try dsimp only
  repeat' first
    | with_reducible assumption
    | (intro _)
    | with_reducible apply chainSettle_ok
    | with_reducible apply updLoad_ok
    | with_reducible apply State.upFw_ok
    | with_reducible apply foldl_ok
    | with_reducible apply foldl_snd_ok
    | with_reducible apply foldl_fst_ok
    | with_reducible apply ite_ok
    | with_reducible apply storeWf_filter
    | with_reducible exact storeWf_nil
    | with_reducible apply Memory.wf_memWrite
    | with_reducible exact Memory.wf_nil
    | split

theorem loadRefuse_ok {Q : List Instr} {client : ℕ} {role : ℕ} {op : ℕ} {code : ℕ} {s : State} (hok : Ok Q s) :
    Ok Q (loadRefuse client role op code s) := by
  unfold loadRefuse
  try dsimp only
  repeat' first
    | with_reducible assumption
    | (intro _)
    | with_reducible apply State.setFwMeta_ok
    | with_reducible apply setLoad_ok
    | with_reducible apply raise_ok
    | with_reducible apply auditEntry_ok
    | with_reducible apply loadCode_ok

theorem loadAbort_ok {Q : List Instr} {s : State} (hok : Ok Q s) :
    Ok Q (loadAbort s) := by
  unfold loadAbort
  try dsimp only
  repeat' first
    | with_reducible assumption
    | (intro _)
    | with_reducible apply State.setFwMeta_ok
    | with_reducible apply loadCode_ok
    | with_reducible apply setLoad_ok
    | with_reducible apply foldl_ok
    | with_reducible apply foldl_snd_ok
    | with_reducible apply foldl_fst_ok
    | with_reducible apply ite_ok
    | with_reducible apply storeWf_filter
    | with_reducible exact storeWf_nil
    | with_reducible apply Memory.wf_memWrite
    | with_reducible exact Memory.wf_nil
    | split

theorem headerArrived_ok {Q : List Instr} {client : ℕ} {role : ℕ} {op : ℕ} {s : State} (hok : Ok Q s) :
    Ok Q (headerArrived client role op s) := by
  unfold headerArrived
  try dsimp only
  repeat' first
    | with_reducible assumption
    | (intro _)
    | with_reducible apply updLoad_ok
    | with_reducible apply turnTo_ok
    | with_reducible apply loadRefuse_ok
    | with_reducible apply foldl_ok
    | with_reducible apply foldl_snd_ok
    | with_reducible apply foldl_fst_ok
    | with_reducible apply ite_ok
    | with_reducible apply storeWf_filter
    | with_reducible exact storeWf_nil
    | with_reducible apply Memory.wf_memWrite
    | with_reducible exact Memory.wf_nil
    | split

theorem bodyArrived_ok {Q : List Instr} {client : ℕ} {role : ℕ} {op : ℕ} {s : State} (hok : Ok Q s) :
    Ok Q (bodyArrived client role op s) := by
  unfold bodyArrived
  try dsimp only
  repeat' first
    | with_reducible assumption
    | (intro _)
    | with_reducible apply State.setFwMeta_ok
    | with_reducible apply loadCode_ok
    | with_reducible apply setLoad_ok
    | with_reducible apply loadRefuse_ok
    | with_reducible apply foldl_ok
    | with_reducible apply foldl_snd_ok
    | with_reducible apply foldl_fst_ok
    | with_reducible apply ite_ok

theorem loadData_ok {Q : List Instr} {client : ℕ} {role : ℕ} {op : ℕ} {data : Bytes} {s : State} (hok : Ok Q s) :
    Ok Q (loadData client role op data s) := by
  unfold loadData
  try dsimp only
  repeat' first
    | with_reducible assumption
    | (intro _)
    | with_reducible apply State.setSlot_ok
    | with_reducible apply setLoad_ok
    | with_reducible apply updLoad_ok
    | with_reducible apply headerArrived_ok
    | with_reducible apply pushData_ok
    | with_reducible apply bodyArrived_ok
    | with_reducible apply foldl_ok
    | with_reducible apply foldl_snd_ok
    | with_reducible apply foldl_fst_ok
    | with_reducible apply ite_ok
    | with_reducible apply storeWf_filter
    | with_reducible exact storeWf_nil
    | with_reducible apply Memory.wf_memWrite
    | with_reducible exact Memory.wf_nil
    | split

theorem chunkWritten_ok {Q : List Instr} {client : ℕ} {role : ℕ} {op : ℕ} {data : Bytes} {s : State} (hok : Ok Q s) :
    Ok Q (chunkWritten client role op data s).2 := by
  unfold chunkWritten
  try dsimp only
  repeat' first
    | with_reducible assumption
    | (intro _)
    | with_reducible apply loadData_ok
    | with_reducible apply updLoad_ok

theorem stagedWritten_ok {Q : List Instr} {id : SessId} {client : ℕ} {role : ℕ} {length : ℕ} {chain : Bool} {s : State} (hok : Ok Q s) :
    Ok Q (stagedWritten id client role length chain s) := by
  unfold stagedWritten
  try dsimp only
  repeat' first
    | with_reducible assumption
    | (intro _)
    | with_reducible apply loadBegin_ok
    | with_reducible apply loadData_ok
    | with_reducible apply loadRefuse_ok
    | with_reducible apply foldl_ok
    | with_reducible apply foldl_snd_ok
    | with_reducible apply foldl_fst_ok
    | with_reducible apply ite_ok
    | with_reducible apply storeWf_filter
    | with_reducible exact storeWf_nil
    | with_reducible apply Memory.wf_memWrite
    | with_reducible exact Memory.wf_nil
    | split

theorem recoveryLoaded_ok {Q : List Instr} {s : State} (hok : Ok Q s) :
    Ok Q (recoveryLoaded s) := by
  unfold recoveryLoaded
  try dsimp only
  repeat' first
    | with_reducible assumption
    | (intro _)
    | with_reducible apply moduleReset_ok
    | with_reducible apply State.setFwMeta_ok
    | with_reducible apply foldl_ok
    | with_reducible apply foldl_snd_ok
    | with_reducible apply foldl_fst_ok
    | with_reducible apply ite_ok

theorem execFwLoadTimeout_ok {Q : List Instr} {s : State} (hok : Ok Q s) :
    OutOk Q (execFwLoadTimeout s) := by
  unfold execFwLoadTimeout
  try dsimp only
  repeat' first
    | with_reducible assumption
    | with_reducible apply outOk_next
    | (intro _)
    | with_reducible apply loadAbort_ok
    | with_reducible apply foldl_ok
    | with_reducible apply foldl_snd_ok
    | with_reducible apply foldl_fst_ok
    | with_reducible apply ite_ok
    | with_reducible apply storeWf_filter
    | with_reducible exact storeWf_nil
    | with_reducible apply Memory.wf_memWrite
    | with_reducible exact Memory.wf_nil
    | split

theorem sendMgmt_ok {Q : List Instr} {g : ℕ} {m : Bytes} {s : State} (hok : Ok Q s) :
    Ok Q (sendMgmt g m s) := by
  unfold sendMgmt
  try dsimp only
  repeat' first
    | with_reducible assumption
    | (intro _)
    | with_reducible apply State.updGroup_ok

theorem execFwBegin_ok {Q : List Instr} {group : Fin 16} {transfer : BitVec 16} {entry : BitVec 8} {map : BitVec 16} {_length : BitVec 32} {s : State} (hok : Ok Q s) :
    OutOk Q (execFwBegin group transfer entry map _length s) := by
  unfold execFwBegin
  try dsimp only
  repeat' first
    | with_reducible assumption
    | with_reducible apply outOk_next
    | (intro _)
    | with_reducible apply sendMgmt_ok
    | with_reducible apply loadStart_ok
    | with_reducible apply foldl_ok
    | with_reducible apply foldl_snd_ok
    | with_reducible apply foldl_fst_ok
    | with_reducible apply ite_ok
    | with_reducible apply storeWf_filter
    | with_reducible exact storeWf_nil
    | with_reducible apply Memory.wf_memWrite
    | with_reducible exact Memory.wf_nil
    | split

theorem execFwData_ok {Q : List Instr} {group : Fin 16} {transfer : BitVec 16} {offset : BitVec 32} {data : Bytes} {s : State} (hok : Ok Q s) :
    OutOk Q (execFwData group transfer offset data s) := by
  unfold execFwData
  try dsimp only
  repeat' first
    | with_reducible assumption
    | with_reducible apply outOk_next
    | (intro _)
    | with_reducible apply loadData_ok
    | with_reducible apply sendMgmt_ok
    | with_reducible apply foldl_ok
    | with_reducible apply foldl_snd_ok
    | with_reducible apply foldl_fst_ok
    | with_reducible apply ite_ok
    | with_reducible apply storeWf_filter
    | with_reducible exact storeWf_nil
    | with_reducible apply Memory.wf_memWrite
    | with_reducible exact Memory.wf_nil
    | split

theorem hopFailed_ok {Q : List Instr} {code : ℕ} {s : State} (hok : Ok Q s) :
    Ok Q (hopFailed code s) := by
  unfold hopFailed
  try dsimp only
  repeat' first
    | with_reducible assumption
    | (intro _)
    | with_reducible apply chainSettle_ok
    | with_reducible apply turnTo_ok
    | with_reducible apply updLoad_ok
    | with_reducible apply foldl_ok
    | with_reducible apply foldl_snd_ok
    | with_reducible apply foldl_fst_ok
    | with_reducible apply ite_ok
    | with_reducible apply storeWf_filter
    | with_reducible exact storeWf_nil
    | with_reducible apply Memory.wf_memWrite
    | with_reducible exact Memory.wf_nil
    | split

theorem execFwAck_ok {Q : List Instr} {group : Fin 16} {transfer : BitVec 16} {next : BitVec 32} {status : BitVec 8} {s : State} (hok : Ok Q s) :
    OutOk Q (execFwAck group transfer next status s) := by
  unfold execFwAck
  try dsimp only
  repeat' first
    | with_reducible assumption
    | with_reducible apply outOk_next
    | (intro _)
    | with_reducible apply hopFailed_ok
    | with_reducible apply pushData_ok
    | with_reducible apply updLoad_ok
    | with_reducible apply State.updGroup_ok
    | with_reducible apply foldl_ok
    | with_reducible apply foldl_snd_ok
    | with_reducible apply foldl_fst_ok
    | with_reducible apply ite_ok
    | with_reducible apply storeWf_filter
    | with_reducible exact storeWf_nil
    | with_reducible apply Memory.wf_memWrite
    | with_reducible exact Memory.wf_nil
    | split

theorem execFwResult_ok {Q : List Instr} {group : Fin 16} {transfer : BitVec 16} {codes : BitVec 128} {s : State} (hok : Ok Q s) :
    OutOk Q (execFwResult group transfer codes s) := by
  unfold execFwResult
  try dsimp only
  repeat' first
    | with_reducible assumption
    | with_reducible apply outOk_next
    | (intro _)
    | with_reducible apply chainSettle_ok
    | with_reducible apply updLoad_ok
    | with_reducible apply foldl_ok
    | with_reducible apply foldl_snd_ok
    | with_reducible apply foldl_fst_ok
    | with_reducible apply ite_ok
    | with_reducible apply storeWf_filter
    | with_reducible exact storeWf_nil
    | with_reducible apply Memory.wf_memWrite
    | with_reducible exact Memory.wf_nil
    | split

theorem execFwBeginAckTimeout_ok {Q : List Instr} {s : State} (hok : Ok Q s) :
    OutOk Q (execFwBeginAckTimeout s) := by
  unfold execFwBeginAckTimeout
  try dsimp only
  repeat' first
    | with_reducible assumption
    | with_reducible apply outOk_next
    | (intro _)
    | with_reducible apply hopFailed_ok
    | with_reducible apply foldl_ok
    | with_reducible apply foldl_snd_ok
    | with_reducible apply foldl_fst_ok
    | with_reducible apply ite_ok
    | with_reducible apply storeWf_filter
    | with_reducible exact storeWf_nil
    | with_reducible apply Memory.wf_memWrite
    | with_reducible exact Memory.wf_nil
    | split

theorem execFwResend_ok {Q : List Instr} {s : State} (hok : Ok Q s) :
    OutOk Q (execFwResend s) := by
  unfold execFwResend
  try dsimp only
  repeat' first
    | with_reducible assumption
    | with_reducible apply outOk_next
    | (intro _)
    | with_reducible apply State.updGroup_ok
    | with_reducible apply pushData_ok
    | with_reducible apply updLoad_ok
    | with_reducible apply foldl_ok
    | with_reducible apply foldl_snd_ok
    | with_reducible apply foldl_fst_ok
    | with_reducible apply ite_ok
    | with_reducible apply storeWf_filter
    | with_reducible exact storeWf_nil
    | with_reducible apply Memory.wf_memWrite
    | with_reducible exact Memory.wf_nil
    | split

theorem execFwHopTimeout_ok {Q : List Instr} {s : State} (hok : Ok Q s) :
    OutOk Q (execFwHopTimeout s) := by
  unfold execFwHopTimeout
  try dsimp only
  repeat' first
    | with_reducible assumption
    | with_reducible apply outOk_next
    | (intro _)
    | with_reducible apply chainSettle_ok
    | with_reducible apply updLoad_ok
    | with_reducible apply foldl_ok
    | with_reducible apply foldl_snd_ok
    | with_reducible apply foldl_fst_ok
    | with_reducible apply ite_ok
    | with_reducible apply storeWf_filter
    | with_reducible exact storeWf_nil
    | with_reducible apply Memory.wf_memWrite
    | with_reducible exact Memory.wf_nil
    | split

theorem setAct_ok {Q : List Instr} {f : ℕ} {v : ℕ} {s : State} (hok : Ok Q s) :
    Ok Q (setAct f v s) := by
  unfold setAct
  try dsimp only
  repeat' first
    | with_reducible assumption
    | (intro _)
    | with_reducible apply State.wr_ok

theorem activateWritten_ok {Q : List Instr} {q : ℕ} {s : State} (hok : Ok Q s) :
    Ok Q (activateWritten q s) := by
  unfold activateWritten
  try dsimp only
  repeat' first
    | with_reducible assumption
    | (intro _)
    | with_reducible apply setAct_ok
    | with_reducible apply standbyLost_ok
    | with_reducible apply State.upFw_ok

theorem activateFail_ok {Q : List Instr} {reason : ℕ} {s : State} (hok : Ok Q s) :
    Ok Q (activateFail reason s) := by
  unfold activateFail
  try dsimp only
  repeat' first
    | with_reducible assumption
    | (intro _)
    | with_reducible apply State.upFw_ok
    | with_reducible apply setAct_ok

theorem execFwPrepareReady_ok {Q : List Instr} {s : State} (hok : Ok Q s) :
    OutOk Q (execFwPrepareReady s) := by
  unfold execFwPrepareReady
  try dsimp only
  repeat' first
    | with_reducible assumption
    | with_reducible apply outOk_next
    | (intro _)
    | with_reducible apply State.upFw_ok
    | with_reducible apply setAct_ok
    | with_reducible apply foldl_ok
    | with_reducible apply foldl_snd_ok
    | with_reducible apply foldl_fst_ok
    | with_reducible apply ite_ok
    | with_reducible apply storeWf_filter
    | with_reducible exact storeWf_nil
    | with_reducible apply Memory.wf_memWrite
    | with_reducible exact Memory.wf_nil
    | split

theorem execFwSwap_ok {Q : List Instr} {s : State} (hok : Ok Q s) :
    OutOk Q (execFwSwap s) := by
  unfold execFwSwap
  try dsimp only
  repeat' first
    | with_reducible assumption
    | with_reducible apply outOk_next
    | (intro _)
    | with_reducible apply activateFail_ok
    | with_reducible apply State.setFwMeta_ok
    | with_reducible apply setAct_ok
    | with_reducible apply auditEntry_ok
    | with_reducible apply raise_ok
    | with_reducible apply State.upFw_ok
    | with_reducible apply State.upBoot_ok
    | with_reducible apply foldl_ok
    | with_reducible apply foldl_snd_ok
    | with_reducible apply foldl_fst_ok
    | with_reducible apply ite_ok
    | with_reducible apply storeWf_filter
    | with_reducible exact storeWf_nil
    | with_reducible apply Memory.wf_memWrite
    | with_reducible exact Memory.wf_nil
    | split

theorem execSelfTestPassed_ok {Q : List Instr} {s : State} (hok : Ok Q s) :
    OutOk Q (execSelfTestPassed s) := by
  unfold execSelfTestPassed
  try dsimp only
  repeat' first
    | with_reducible assumption
    | with_reducible apply outOk_next
    | (intro _)
    | with_reducible apply setAct_ok
    | with_reducible apply foldl_ok
    | with_reducible apply foldl_snd_ok
    | with_reducible apply foldl_fst_ok
    | with_reducible apply ite_ok
    | with_reducible apply storeWf_filter
    | with_reducible exact storeWf_nil
    | with_reducible apply Memory.wf_memWrite
    | with_reducible exact Memory.wf_nil
    | split

theorem cancelWritten_ok {Q : List Instr} {s : State} (hok : Ok Q s) :
    Ok Q (cancelWritten s) := by
  unfold cancelWritten
  try dsimp only
  repeat' first
    | with_reducible assumption
    | (intro _)
    | with_reducible apply activateFail_ok
    | with_reducible apply foldl_ok
    | with_reducible apply foldl_snd_ok
    | with_reducible apply foldl_fst_ok
    | with_reducible apply ite_ok

theorem confirmWritten_ok {Q : List Instr} {s : State} (hok : Ok Q s) :
    Ok Q (confirmWritten s) := by
  unfold confirmWritten
  try dsimp only
  repeat' first
    | with_reducible assumption
    | (intro _)
    | with_reducible apply State.setFwMeta_ok
    | with_reducible apply standbyLost_ok
    | with_reducible apply setAct_ok
    | with_reducible apply State.upFw_ok

theorem rollbackNow_ok {Q : List Instr} {reason : ℕ} {s : State} (hok : Ok Q s) :
    Ok Q (rollbackNow reason s) := by
  unfold rollbackNow
  try dsimp only
  repeat' first
    | with_reducible assumption
    | (intro _)
    | with_reducible apply State.setFwMeta_ok
    | with_reducible apply setAct_ok
    | with_reducible apply auditEntry_ok
    | with_reducible apply raise_ok
    | with_reducible apply State.upFw_ok
    | with_reducible apply standbyLost_ok
    | with_reducible apply State.upBoot_ok

theorem rollbackAsked_ok {Q : List Instr} {reason : ℕ} {s : State} (hok : Ok Q s) :
    Ok Q (rollbackAsked reason s) := by
  unfold rollbackAsked
  try dsimp only
  repeat' first
    | with_reducible assumption
    | (intro _)
    | with_reducible apply moduleReset_ok
    | with_reducible apply State.upFw_ok
    | with_reducible apply foldl_ok
    | with_reducible apply foldl_snd_ok
    | with_reducible apply foldl_fst_ok
    | with_reducible apply ite_ok

theorem execFwConfirmTimeout_ok {Q : List Instr} {s : State} (hok : Ok Q s) :
    OutOk Q (execFwConfirmTimeout s) := by
  unfold execFwConfirmTimeout
  try dsimp only
  repeat' first
    | with_reducible assumption
    | with_reducible apply outOk_next
    | (intro _)
    | with_reducible apply rollbackAsked_ok
    | with_reducible apply foldl_ok
    | with_reducible apply foldl_snd_ok
    | with_reducible apply foldl_fst_ok
    | with_reducible apply ite_ok
    | with_reducible apply storeWf_filter
    | with_reducible exact storeWf_nil
    | with_reducible apply Memory.wf_memWrite
    | with_reducible exact Memory.wf_nil
    | split

theorem execRackCycleStart_ok {Q : List Instr} {s : State} (hok : Ok Q s) :
    OutOk Q (execRackCycleStart s) := by
  unfold execRackCycleStart
  try dsimp only
  repeat' first
    | with_reducible assumption
    | with_reducible apply outOk_next
    | (intro _)
    | with_reducible apply rackCycleStart_ok
    | with_reducible apply rollbackNow_ok
    | with_reducible apply foldl_ok
    | with_reducible apply foldl_snd_ok
    | with_reducible apply foldl_fst_ok
    | with_reducible apply ite_ok
    | with_reducible apply storeWf_filter
    | with_reducible exact storeWf_nil
    | with_reducible apply Memory.wf_memWrite
    | with_reducible exact Memory.wf_nil
    | split

theorem atResetWritten_ok {Q : List Instr} {v : ℕ} {s : State} (hok : Ok Q s) :
    Ok Q (atResetWritten v s) := by
  unfold atResetWritten
  try dsimp only
  repeat' first
    | with_reducible assumption
    | (intro _)
    | with_reducible apply State.setFwMeta_ok

theorem forgetRequest_ok {Q : List Instr} {s : State} {w : Wait} (hok : Ok Q s) :
    Ok Q (forgetRequest s w) := by
  unfold forgetRequest
  try dsimp only
  repeat' first
    | with_reducible assumption
    | with_reducible apply Ok.buffers
    | with_reducible apply Ok.host
    | (intro _; with_reducible rfl)
    | (intro _)
    | with_reducible apply State.updSess_ok
    | with_reducible apply foldl_ok
    | with_reducible apply foldl_snd_ok
    | with_reducible apply foldl_fst_ok
    | with_reducible apply ite_ok
    | with_reducible apply storeWf_filter
    | with_reducible exact storeWf_nil
    | with_reducible apply Memory.wf_memWrite
    | with_reducible exact Memory.wf_nil
    | split
    | dsimp only
    | (with_reducible refine ok_snd ‹_ = (_, _)› ?_)
    | rfl
    | (rw [ok_mk]; refine ⟨?_, ?_, ?_, ?_, ?_, ?_, ?_, ?_, ?_⟩)
    | with_reducible apply Ok.store
    | with_reducible apply Ok.home
    | with_reducible apply Ok.staging
    | with_reducible apply Ok.msix
    | with_reducible apply Ok.region
    | with_reducible apply Ok.buffers
    | with_reducible apply Ok.slots
    | with_reducible apply Ok.host
    | with_reducible apply Ok.queue

theorem forgetUnheld_ok {Q : List Instr} {s : State} (hok : Ok Q s) :
    Ok Q (forgetUnheld s) := by
  unfold forgetUnheld
  try dsimp only
  repeat' first
    | with_reducible assumption
    | (intro _)
    | with_reducible apply forgetRequest_ok
    | with_reducible apply fresh_ok
    | with_reducible apply foldl_ok

theorem execLockstepMismatch_ok {Q : List Instr} {s : State} (hok : Ok Q s) :
    OutOk Q (execLockstepMismatch s) := by
  unfold execLockstepMismatch
  try dsimp only
  repeat' first
    | with_reducible assumption
    | with_reducible apply outOk_next
    | (intro _)
    | with_reducible apply forgetUnheld_ok
    | with_reducible apply raise_ok
    | with_reducible apply State.sat32_ok
    | with_reducible apply rollbackAsked_ok
    | with_reducible apply holdFailed_ok
    | with_reducible apply rollbackNow_ok
    | with_reducible apply State.upBoot_ok
    | with_reducible apply standbyLost_ok
    | with_reducible apply foldl_ok
    | with_reducible apply foldl_snd_ok
    | with_reducible apply foldl_fst_ok
    | with_reducible apply ite_ok
    | with_reducible apply storeWf_filter
    | with_reducible exact storeWf_nil
    | with_reducible apply Memory.wf_memWrite
    | with_reducible exact Memory.wf_nil
    | split

theorem bootOther_ok {Q : List Instr} {i : ℕ} {s : State} (hok : Ok Q s) :
    Ok Q (bootOther i s).2 := by
  unfold bootOther
  try dsimp only
  repeat' first
    | with_reducible assumption
    | (intro _)
    | with_reducible apply raise_ok
    | with_reducible apply State.setFwMeta_ok
    | with_reducible apply foldl_ok
    | with_reducible apply foldl_snd_ok
    | with_reducible apply foldl_fst_ok
    | with_reducible apply ite_ok
    | with_reducible apply storeWf_filter
    | with_reducible exact storeWf_nil
    | with_reducible apply Memory.wf_memWrite
    | with_reducible exact Memory.wf_nil
    | split

theorem bootSlot_ok {Q : List Instr} {i : ℕ} {trial : Bool} {s : State} (hok : Ok Q s) :
    Ok Q (bootSlot i trial s).2 := by
  unfold bootSlot
  try dsimp only
  repeat' first
    | with_reducible assumption
    | (intro _)
    | with_reducible apply State.setFwMeta_ok
    | with_reducible apply State.upFw_ok
    | with_reducible apply bootOther_ok
    | with_reducible apply foldl_ok
    | with_reducible apply foldl_snd_ok
    | with_reducible apply foldl_fst_ok
    | with_reducible apply ite_ok
    | with_reducible apply storeWf_filter
    | with_reducible exact storeWf_nil
    | with_reducible apply Memory.wf_memWrite
    | with_reducible exact Memory.wf_nil
    | split

theorem chooseSlot_ok {Q : List Instr} {s : State} (hok : Ok Q s) :
    Ok Q (chooseSlot s).2 := by
  unfold chooseSlot
  try dsimp only
  repeat' first
    | with_reducible assumption
    | (intro _)
    | with_reducible apply State.setFwMeta_ok
    | with_reducible apply bootSlot_ok
    | with_reducible apply bootOther_ok
    | with_reducible apply foldl_ok
    | with_reducible apply foldl_snd_ok
    | with_reducible apply foldl_fst_ok
    | with_reducible apply ite_ok
    | with_reducible apply storeWf_filter
    | with_reducible exact storeWf_nil
    | with_reducible apply Memory.wf_memWrite
    | with_reducible exact Memory.wf_nil
    | split

/-! ### Security -/


theorem closeSession_ok {Q : List Instr} {id : SessId} {s : State} (hok : Ok Q s) :
    Ok Q (closeSession id s) := by
  unfold closeSession
  try dsimp only
  repeat' first
    | with_reducible assumption
    | (intro _)
    | with_reducible apply loadAbort_ok
    | with_reducible apply removeSession_ok
    | with_reducible apply releaseSession_ok
    | with_reducible apply foldl_ok
    | with_reducible apply foldl_snd_ok
    | with_reducible apply foldl_fst_ok
    | with_reducible apply ite_ok

theorem closeWhere_ok {Q : List Instr} {p : Sess → Bool} {s : State} (hok : Ok Q s) :
    Ok Q (closeWhere p s) := by
  unfold closeWhere
  try dsimp only
  repeat' first
    | with_reducible assumption
    | (intro _)
    | with_reducible apply closeSession_ok
    | with_reducible apply foldl_ok

theorem execSessionClose_ok {Q : List Instr} {sess : SessId} {s : State} (hok : Ok Q s) :
    OutOk Q (execSessionClose sess s) := by
  unfold execSessionClose
  try dsimp only
  repeat' first
    | with_reducible assumption
    | with_reducible apply outOk_next
    | (intro _)
    | with_reducible apply closeSession_ok
    | with_reducible apply foldl_ok
    | with_reducible apply foldl_snd_ok
    | with_reducible apply foldl_fst_ok
    | with_reducible apply ite_ok
    | with_reducible apply storeWf_filter
    | with_reducible exact storeWf_nil
    | with_reducible apply Memory.wf_memWrite
    | with_reducible exact Memory.wf_nil
    | split

theorem execZoaSessionIdleClose_ok {Q : List Instr} {sess : SessId} {s : State} (hok : Ok Q s) :
    OutOk Q (execZoaSessionIdleClose sess s) := by
  unfold execZoaSessionIdleClose
  try dsimp only
  repeat' first
    | with_reducible assumption
    | with_reducible apply outOk_next
    | (intro _)
    | with_reducible apply closeSession_ok
    | with_reducible apply foldl_ok
    | with_reducible apply foldl_snd_ok
    | with_reducible apply foldl_fst_ok
    | with_reducible apply ite_ok
    | with_reducible apply storeWf_filter
    | with_reducible exact storeWf_nil
    | with_reducible apply Memory.wf_memWrite
    | with_reducible exact Memory.wf_nil
    | split

theorem openSession_ok {Q : List Instr} {kind : SessKind} {role : Nat} {cred : Option Nat} {a : Arrival} {s : State}
    (hok : Ok Q s) : Ok Q (openSession kind role cred a s) := by
  unfold openSession
  rw [ok_mk]
  refine ⟨hok.store, hok.home, hok.staging, hok.msix, hok.region, hok.buffers, hok.slots, fun i hi => ?_, hok.queue⟩
  rw [List.map_append]
  exact List.mem_append_left _ (hok.host i hi)

theorem refuseHandshake_ok {Q : List Instr} {reason : ℕ} {h : Handshake} {s : State} (hok : Ok Q s) :
    Ok Q (refuseHandshake reason h s) := by
  unfold refuseHandshake
  try dsimp only
  repeat' first
    | with_reducible assumption
    | (intro _)
    | with_reducible apply raise_ok
    | with_reducible apply auditEntry_ok

theorem execDtlsHandshake_ok {Q : List Instr} {h : Handshake} {s : State} (hok : Ok Q s) :
    OutOk Q (execDtlsHandshake h s) := by
  unfold execDtlsHandshake
  try dsimp only
  repeat' first
    | with_reducible assumption
    | with_reducible apply outOk_next
    | (intro _)
    | with_reducible apply openSession_ok
    | with_reducible apply refuseHandshake_ok
    | with_reducible apply foldl_ok
    | with_reducible apply foldl_snd_ok
    | with_reducible apply foldl_fst_ok
    | with_reducible apply ite_ok
    | with_reducible apply storeWf_filter
    | with_reducible exact storeWf_nil
    | with_reducible apply Memory.wf_memWrite
    | with_reducible exact Memory.wf_nil
    | split

theorem closeCred_ok {Q : List Instr} {row : ℕ} {s : State} (hok : Ok Q s) :
    Ok Q (closeCred row s) := by
  unfold closeCred
  try dsimp only
  repeat' first
    | with_reducible assumption
    | (intro _)
    | with_reducible apply closeWhere_ok

theorem closeTenant_ok {Q : List Instr} {slot : ℕ} {s : State} (hok : Ok Q s) :
    Ok Q (closeTenant slot s) := by
  unfold closeTenant
  try dsimp only
  repeat' first
    | with_reducible assumption
    | (intro _)
    | with_reducible apply closeWhere_ok

theorem tenantWritten_ok {Q : List Instr} {row : ℕ} {s : State} (hok : Ok Q s) :
    Ok Q (tenantWritten row s) := by
  unfold tenantWritten
  try dsimp only
  repeat' first
    | with_reducible assumption
    | (intro _)
    | with_reducible apply State.wr_ok
    | with_reducible apply foldl_ok
    | with_reducible apply foldl_snd_ok
    | with_reducible apply foldl_fst_ok
    | with_reducible apply ite_ok

theorem besideValues_ok {Q : List Instr} {obj : ℕ} {row : ℕ} {v : ℕ} {s : State} (hok : Ok Q s) :
    Ok Q (besideValues obj row v s) := by
  unfold besideValues
  try dsimp only
  repeat' first
    | with_reducible assumption
    | (intro _)
    | with_reducible apply tenantWritten_ok
    | with_reducible apply State.ws_ok
    | with_reducible apply foldl_ok
    | with_reducible apply foldl_snd_ok
    | with_reducible apply foldl_fst_ok
    | with_reducible apply ite_ok

theorem securityApplied_ok {Q : List Instr} {client : ℕ} {role : ℕ} {op : ℕ} {obj : ℕ} {row : ℕ} {s : State} (hok : Ok Q s) :
    Ok Q (securityApplied client role op obj row s) := by
  unfold securityApplied
  try dsimp only
  repeat' first
    | with_reducible assumption
    | (intro _)
    | with_reducible apply auditEntry_ok
    | with_reducible apply closeCred_ok
    | with_reducible apply closeTenant_ok
    | with_reducible apply foldl_ok
    | with_reducible apply foldl_snd_ok
    | with_reducible apply foldl_fst_ok
    | with_reducible apply ite_ok

theorem setLife_ok {Q : List Instr} {f : ℕ} {v : ℕ} {s : State} (hok : Ok Q s) :
    Ok Q (setLife f v s) := by
  unfold setLife
  try dsimp only
  repeat' first
    | with_reducible assumption
    | (intro _)
    | with_reducible apply State.wr_ok

theorem lifeEntry_ok {Q : List Instr} {client : ℕ} {role : ℕ} {to_ : ℕ} {st : Status} {s : State} (hok : Ok Q s) :
    Ok Q (lifeEntry client role to_ st s) := by
  unfold lifeEntry
  try dsimp only
  repeat' first
    | with_reducible assumption
    | (intro _)
    | with_reducible apply auditEntry_ok
    | with_reducible apply setLife_ok
    | with_reducible apply foldl_ok
    | with_reducible apply foldl_snd_ok
    | with_reducible apply foldl_fst_ok
    | with_reducible apply ite_ok

theorem lifeRefused_ok {Q : List Instr} {client : ℕ} {role : ℕ} {to_ : ℕ} {st : Status} {s : State} (hok : Ok Q s) :
    Ok Q (lifeRefused client role to_ st s) := by
  unfold lifeRefused
  try dsimp only
  repeat' first
    | with_reducible assumption
    | (intro _)
    | with_reducible apply auditEntry_ok
    | with_reducible apply setLife_ok
    | with_reducible apply lifeEntry_ok
    | with_reducible apply foldl_ok
    | with_reducible apply foldl_snd_ok
    | with_reducible apply foldl_fst_ok
    | with_reducible apply ite_ok

theorem cancelTimed_ok {Q : List Instr} {s : State} (hok : Ok Q s) :
    Ok Q (cancelTimed s) := by
  unfold cancelTimed
  try dsimp only
  repeat' first
    | with_reducible assumption
    | with_reducible apply Ok.buffers
    | with_reducible apply Ok.host
    | (intro _)
    | with_reducible apply abortTxn_ok
    | with_reducible apply foldl_ok
    | with_reducible apply foldl_snd_ok
    | with_reducible apply foldl_fst_ok
    | with_reducible apply ite_ok
    | with_reducible apply storeWf_filter
    | with_reducible exact storeWf_nil
    | with_reducible apply Memory.wf_memWrite
    | with_reducible exact Memory.wf_nil
    | split
    | dsimp only
    | (with_reducible refine ok_snd ‹_ = (_, _)› ?_)
    | rfl
    | (rw [ok_mk]; refine ⟨?_, ?_, ?_, ?_, ?_, ?_, ?_, ?_, ?_⟩)
    | with_reducible apply Ok.store
    | with_reducible apply Ok.home
    | with_reducible apply Ok.staging
    | with_reducible apply Ok.msix
    | with_reducible apply Ok.region
    | with_reducible apply Ok.buffers
    | with_reducible apply Ok.slots
    | with_reducible apply Ok.host
    | with_reducible apply Ok.queue

theorem haltTraffic_ok {Q : List Instr} {s : State} (hok : Ok Q s) :
    Ok Q (haltTraffic s) := by
  unfold haltTraffic
  try dsimp only
  repeat' first
    | with_reducible assumption
    | (intro _)
    | with_reducible apply State.upBoot_ok
    | with_reducible apply setLink_ok
    | with_reducible apply State.upMesh_ok
    | with_reducible apply foldl_ok
    | with_reducible apply foldl_snd_ok
    | with_reducible apply foldl_fst_ok
    | with_reducible apply ite_ok

theorem lifeAccepted_ok {Q : List Instr} {client : ℕ} {role : ℕ} {to_ : ℕ} {s : State} (hok : Ok Q s) :
    Ok Q (lifeAccepted client role to_ s) := by
  unfold lifeAccepted
  try dsimp only
  repeat' first
    | with_reducible assumption
    | with_reducible apply Ok.buffers
    | with_reducible apply Ok.host
    | (intro _)
    | with_reducible apply lifeEntry_ok
    | with_reducible apply State.journal_ok
    | with_reducible apply State.upBoot_ok
    | with_reducible apply setLife_ok
    | with_reducible apply haltTraffic_ok
    | with_reducible apply cancelTimed_ok
    | with_reducible apply foldl_ok
    | with_reducible apply foldl_snd_ok
    | with_reducible apply foldl_fst_ok
    | with_reducible apply ite_ok
    | with_reducible apply storeWf_filter
    | with_reducible exact storeWf_nil
    | with_reducible apply Memory.wf_memWrite
    | with_reducible exact Memory.wf_nil
    | split
    | dsimp only
    | (with_reducible refine ok_snd ‹_ = (_, _)› ?_)
    | rfl
    | (rw [ok_mk]; refine ⟨?_, ?_, ?_, ?_, ?_, ?_, ?_, ?_, ?_⟩)
    | with_reducible apply Ok.store
    | with_reducible apply Ok.home
    | with_reducible apply Ok.staging
    | with_reducible apply Ok.msix
    | with_reducible apply Ok.region
    | with_reducible apply Ok.buffers
    | with_reducible apply Ok.slots
    | with_reducible apply Ok.host
    | with_reducible apply Ok.queue

theorem wipeSealed_ok {Q : List Instr} {s : State} (hok : Ok Q s) :
    Ok Q (wipeSealed s) := by
  unfold wipeSealed
  try dsimp only
  repeat' first
    | with_reducible assumption
    | (intro _)
    | with_reducible apply State.upTel_ok

theorem wipeTenants_ok {Q : List Instr} {from_ : ℕ} {s : State} (hok : Ok Q s) :
    Ok Q (wipeTenants from_ s) := by
  unfold wipeTenants
  try dsimp only
  repeat' first
    | with_reducible assumption
    | (intro _)
    | with_reducible apply State.wrHome_ok
    | with_reducible apply foldl_ok
    | with_reducible apply foldl_snd_ok
    | with_reducible apply foldl_fst_ok
    | with_reducible apply ite_ok

theorem lifeSessions_ok {Q : List Instr} {to_ : ℕ} {s : State} (hok : Ok Q s) :
    Ok Q (lifeSessions to_ s) := by
  unfold lifeSessions
  try dsimp only
  repeat' first
    | with_reducible assumption
    | (intro _)
    | with_reducible apply closeWhere_ok
    | with_reducible apply abortTxn_ok
    | with_reducible apply endSnap_ok
    | with_reducible apply foldl_ok
    | with_reducible apply foldl_snd_ok
    | with_reducible apply foldl_fst_ok
    | with_reducible apply ite_ok
    | with_reducible apply storeWf_filter
    | with_reducible exact storeWf_nil
    | with_reducible apply Memory.wf_memWrite
    | with_reducible exact Memory.wf_nil
    | split

theorem wipeChest_ok {Q : List Instr} {s : State} (hok : Ok Q s) :
    Ok Q (wipeChest s) := by
  unfold wipeChest
  try dsimp only
  repeat' first
    | with_reducible assumption
    | with_reducible apply Ok.buffers
    | with_reducible apply Ok.host
    | (intro _)
    | with_reducible apply State.wr_ok
    | with_reducible apply foldl_ok
    | with_reducible apply foldl_snd_ok
    | with_reducible apply foldl_fst_ok
    | with_reducible apply ite_ok
    | with_reducible apply storeWf_filter
    | with_reducible exact storeWf_nil
    | with_reducible apply Memory.wf_memWrite
    | with_reducible exact Memory.wf_nil
    | split
    | dsimp only
    | (with_reducible refine ok_snd ‹_ = (_, _)› ?_)
    | rfl
    | (rw [ok_mk]; refine ⟨?_, ?_, ?_, ?_, ?_, ?_, ?_, ?_, ?_⟩)
    | with_reducible apply Ok.store
    | with_reducible apply Ok.home
    | with_reducible apply Ok.staging
    | with_reducible apply Ok.msix
    | with_reducible apply Ok.region
    | with_reducible apply Ok.buffers
    | with_reducible apply Ok.slots
    | with_reducible apply Ok.host
    | with_reducible apply Ok.queue

theorem leaveMaintenance_ok {Q : List Instr} {s : State} (hok : Ok Q s) :
    Ok Q (leaveMaintenance s) := by
  unfold leaveMaintenance
  try dsimp only
  repeat' first
    | with_reducible assumption
    | (intro _)
    | with_reducible apply closeWhere_ok
    | with_reducible apply State.wrHome_ok
    | with_reducible apply State.ws_ok
    | with_reducible apply serviceWritten_ok
    | with_reducible apply foldl_ok
    | with_reducible apply foldl_snd_ok
    | with_reducible apply foldl_fst_ok
    | with_reducible apply ite_ok

theorem lifeFinish_ok {Q : List Instr} {from_ to_ : Nat} {s : State} (hok : Ok Q s) : Ok Q (lifeFinish from_ to_ s) := by
  unfold lifeFinish
  extract_lets s1 s2 s3 s4 r s5 c s6
  have h1 : Ok Q s1 := wipeSealed_ok (wipeTenants_ok (lifeSessions_ok hok))
  have h2 : Ok Q s2 := ite_ok (leaveMaintenance_ok h1) h1
  have h3 : Ok Q s3 :=
    ite_ok (ok_of (State.wrHome_ok (fresh_ok h2) O.UnitPublicKey 0 0 _) rfl rfl rfl rfl rfl rfl rfl rfl) h2
  have h4 : Ok Q s4 := ite_ok (wipeChest_ok h3) h3
  have h5 : Ok Q s5 := State.journal_ok (State.ws_ok h4 _ _) _ _ _
  have h6 : Ok Q s6 := ok_of h5 rfl rfl rfl rfl rfl rfl rfl rfl
  exact raise_ok (setLife_ok h6)

theorem execLifecycleChangeComplete_ok {Q : List Instr} {verified : Bool} {s : State} (hok : Ok Q s) :
    OutOk Q (execLifecycleChangeComplete verified s) := by
  unfold execLifecycleChangeComplete
  try dsimp only
  repeat' first
    | with_reducible assumption
    | with_reducible apply outOk_next
    | (intro _)
    | with_reducible apply wipeFailed_ok
    | with_reducible apply lifeFinish_ok
    | with_reducible apply foldl_ok
    | with_reducible apply foldl_snd_ok
    | with_reducible apply foldl_fst_ok
    | with_reducible apply ite_ok
    | with_reducible apply storeWf_filter
    | with_reducible exact storeWf_nil
    | with_reducible apply Memory.wf_memWrite
    | with_reducible exact Memory.wf_nil
    | split

/-! ### Clocks -/


theorem hostGone_ok {Q : List Instr} {s : State} (hok : Ok Q s) :
    Ok Q (hostGone s) := by
  unfold hostGone
  try dsimp only
  repeat' first
    | with_reducible assumption
    | (intro _)
    | with_reducible apply closeSession_ok
    | with_reducible apply hostReset_ok
    | with_reducible apply State.wr_ok
    | with_reducible apply foldl_ok

theorem linkGone_ok {Q : List Instr} {s : State} (hok : Ok Q s) :
    Ok Q (linkGone s) := by
  unfold linkGone
  try dsimp only
  repeat' first
    | with_reducible assumption
    | (intro _)
    | with_reducible apply State.wr_ok
    | with_reducible apply hostGone_ok

theorem execPcieLinkReset_ok {Q : List Instr} {k : LinkReset} {lost : BitVec 16} {s : State} (hok : Ok Q s) :
    OutOk Q (execPcieLinkReset k lost s) := by
  unfold execPcieLinkReset
  try dsimp only
  repeat' first
    | with_reducible assumption
    | with_reducible apply outOk_next
    | (intro _)
    | with_reducible apply crossingLoss_ok
    | with_reducible apply raise_ok
    | with_reducible apply hostGone_ok
    | with_reducible apply State.add64_ok
    | with_reducible apply linkGone_ok
    | with_reducible apply foldl_ok
    | with_reducible apply foldl_snd_ok
    | with_reducible apply foldl_fst_ok
    | with_reducible apply ite_ok
    | with_reducible apply storeWf_filter
    | with_reducible exact storeWf_nil
    | with_reducible apply Memory.wf_memWrite
    | with_reducible exact Memory.wf_nil
    | split

theorem portHalf_ok {Q : List Instr} {h : ℕ} {s : State} (hok : Ok Q s) :
    Ok Q (portHalf h s) := by
  unfold portHalf
  try dsimp only
  repeat' first
    | with_reducible assumption
    | (intro _)
    | with_reducible apply restartPort_ok
    | with_reducible apply foldl_ok
    | with_reducible apply foldl_snd_ok
    | with_reducible apply foldl_fst_ok
    | with_reducible apply ite_ok

theorem groupHalf_ok {Q : List Instr} {h : ℕ} {s : State} (hok : Ok Q s) :
    Ok Q (groupHalf h s) := by
  unfold groupHalf
  try dsimp only
  repeat' first
    | with_reducible assumption
    | (intro _)
    | with_reducible apply dropJoin_ok
    | with_reducible apply raiseDefect_ok
    | with_reducible apply foldl_ok
    | with_reducible apply foldl_snd_ok
    | with_reducible apply foldl_fst_ok
    | with_reducible apply ite_ok

theorem setLost_ok {Q : List Instr} {i : ℕ} {lost : Bool} {s : State} (hok : Ok Q s) :
    Ok Q (setLost i lost s) := by
  unfold setLost
  try dsimp only
  repeat' first
    | with_reducible assumption
    | (intro _)
    | with_reducible apply State.upBoot_ok

theorem execReferenceClockLoss_ok {Q : List Instr} {input : Fin 6} {s : State} (hok : Ok Q s) :
    OutOk Q (execReferenceClockLoss input s) := by
  unfold execReferenceClockLoss
  try dsimp only
  repeat' first
    | with_reducible assumption
    | with_reducible apply outOk_next
    | with_reducible apply Ok.buffers
    | with_reducible apply Ok.host
    | (intro _)
    | with_reducible apply State.sat32_ok
    | with_reducible apply moduleReset_ok
    | with_reducible apply portHalf_ok
    | with_reducible apply setLost_ok
    | with_reducible apply groupHalf_ok
    | with_reducible apply linkGone_ok
    | with_reducible apply foldl_ok
    | with_reducible apply foldl_snd_ok
    | with_reducible apply foldl_fst_ok
    | with_reducible apply ite_ok
    | with_reducible apply storeWf_filter
    | with_reducible exact storeWf_nil
    | with_reducible apply Memory.wf_memWrite
    | with_reducible exact Memory.wf_nil
    | split
    | dsimp only
    | (with_reducible refine ok_snd ‹_ = (_, _)› ?_)
    | rfl
    | (rw [ok_mk]; refine ⟨?_, ?_, ?_, ?_, ?_, ?_, ?_, ?_, ?_⟩)
    | with_reducible apply Ok.store
    | with_reducible apply Ok.home
    | with_reducible apply Ok.staging
    | with_reducible apply Ok.msix
    | with_reducible apply Ok.region
    | with_reducible apply Ok.buffers
    | with_reducible apply Ok.slots
    | with_reducible apply Ok.host
    | with_reducible apply Ok.queue

theorem execReferenceClockRestore_ok {Q : List Instr} {input : Fin 6} {s : State} (hok : Ok Q s) :
    OutOk Q (execReferenceClockRestore input s) := by
  unfold execReferenceClockRestore
  try dsimp only
  repeat' first
    | with_reducible assumption
    | with_reducible apply outOk_next
    | with_reducible apply Ok.buffers
    | with_reducible apply Ok.host
    | (intro _)
    | with_reducible apply leaveReset_ok
    | with_reducible apply portHalf_ok
    | with_reducible apply setLost_ok
    | with_reducible apply foldl_ok
    | with_reducible apply foldl_snd_ok
    | with_reducible apply foldl_fst_ok
    | with_reducible apply ite_ok
    | with_reducible apply storeWf_filter
    | with_reducible exact storeWf_nil
    | with_reducible apply Memory.wf_memWrite
    | with_reducible exact Memory.wf_nil
    | split
    | dsimp only
    | (with_reducible refine ok_snd ‹_ = (_, _)› ?_)
    | rfl
    | (rw [ok_mk]; refine ⟨?_, ?_, ?_, ?_, ?_, ?_, ?_, ?_, ?_⟩)
    | with_reducible apply Ok.store
    | with_reducible apply Ok.home
    | with_reducible apply Ok.staging
    | with_reducible apply Ok.msix
    | with_reducible apply Ok.region
    | with_reducible apply Ok.buffers
    | with_reducible apply Ok.slots
    | with_reducible apply Ok.host
    | with_reducible apply Ok.queue

theorem noteOrder_ok {Q : List Instr} {r : Option (Fin 10)} {s : State} (hok : Ok Q s) :
    Ok Q (noteOrder r s) := by
  unfold noteOrder
  try dsimp only
  repeat' first
    | with_reducible assumption
    | with_reducible apply Ok.buffers
    | with_reducible apply Ok.host
    | (intro _)
    | with_reducible apply foldl_ok
    | with_reducible apply foldl_snd_ok
    | with_reducible apply foldl_fst_ok
    | with_reducible apply ite_ok
    | with_reducible apply storeWf_filter
    | with_reducible exact storeWf_nil
    | with_reducible apply Memory.wf_memWrite
    | with_reducible exact Memory.wf_nil
    | split
    | dsimp only
    | (with_reducible refine ok_snd ‹_ = (_, _)› ?_)
    | rfl
    | (rw [ok_mk]; refine ⟨?_, ?_, ?_, ?_, ?_, ?_, ?_, ?_, ?_⟩)
    | with_reducible apply Ok.store
    | with_reducible apply Ok.home
    | with_reducible apply Ok.staging
    | with_reducible apply Ok.msix
    | with_reducible apply Ok.region
    | with_reducible apply Ok.buffers
    | with_reducible apply Ok.slots
    | with_reducible apply Ok.host
    | with_reducible apply Ok.queue

theorem copyOrder_ok {Q : List Instr} {s : State} (hok : Ok Q s) :
    Ok Q (copyOrder s) := by
  unfold copyOrder
  try dsimp only
  repeat' first
    | with_reducible assumption
    | (intro _)
    | with_reducible apply State.wr_ok

theorem execPowerOnReset_ok {Q : List Instr} {e : PorEdge} {s : State} (hok : Ok Q s) :
    OutOk Q (execPowerOnReset e s) := by
  unfold execPowerOnReset
  try dsimp only
  repeat' first
    | with_reducible assumption
    | with_reducible apply outOk_next
    | with_reducible apply Ok.buffers
    | with_reducible apply Ok.host
    | (intro _)
    | with_reducible apply moduleReset_ok
    | with_reducible apply leaveReset_ok
    | with_reducible apply copyOrder_ok
    | with_reducible apply noteOrder_ok
    | with_reducible apply foldl_ok
    | with_reducible apply foldl_snd_ok
    | with_reducible apply foldl_fst_ok
    | with_reducible apply ite_ok
    | with_reducible apply storeWf_filter
    | with_reducible exact storeWf_nil
    | with_reducible apply Memory.wf_memWrite
    | with_reducible exact Memory.wf_nil
    | split
    | dsimp only
    | (with_reducible refine ok_snd ‹_ = (_, _)› ?_)
    | rfl
    | (rw [ok_mk]; refine ⟨?_, ?_, ?_, ?_, ?_, ?_, ?_, ?_, ?_⟩)
    | with_reducible apply Ok.store
    | with_reducible apply Ok.home
    | with_reducible apply Ok.staging
    | with_reducible apply Ok.msix
    | with_reducible apply Ok.region
    | with_reducible apply Ok.buffers
    | with_reducible apply Ok.slots
    | with_reducible apply Ok.host
    | with_reducible apply Ok.queue

theorem execModuleResetPin_ok {Q : List Instr} {ns : ℕ} {s : State} (hok : Ok Q s) :
    OutOk Q (execModuleResetPin ns s) := by
  unfold execModuleResetPin
  try dsimp only
  repeat' first
    | with_reducible assumption
    | with_reducible apply outOk_next
    | (intro _)
    | with_reducible apply moduleReset_ok
    | with_reducible apply foldl_ok
    | with_reducible apply foldl_snd_ok
    | with_reducible apply foldl_fst_ok
    | with_reducible apply ite_ok
    | with_reducible apply storeWf_filter
    | with_reducible exact storeWf_nil
    | with_reducible apply Memory.wf_memWrite
    | with_reducible exact Memory.wf_nil
    | split

theorem abortAll_ok {Q : List Instr} {s : State} (hok : Ok Q s) :
    Ok Q (abortAll s) := by
  unfold abortAll
  try dsimp only
  repeat' first
    | with_reducible assumption
    | with_reducible apply Ok.buffers
    | with_reducible apply Ok.host
    | (intro _)
    | with_reducible apply endSnap_ok
    | with_reducible apply abortTxn_ok
    | with_reducible apply foldl_ok
    | with_reducible apply foldl_snd_ok
    | with_reducible apply foldl_fst_ok
    | with_reducible apply ite_ok
    | with_reducible apply storeWf_filter
    | with_reducible exact storeWf_nil
    | with_reducible apply Memory.wf_memWrite
    | with_reducible exact Memory.wf_nil
    | split
    | dsimp only
    | (with_reducible refine ok_snd ‹_ = (_, _)› ?_)
    | rfl
    | (rw [ok_mk]; refine ⟨?_, ?_, ?_, ?_, ?_, ?_, ?_, ?_, ?_⟩)
    | with_reducible apply Ok.store
    | with_reducible apply Ok.home
    | with_reducible apply Ok.staging
    | with_reducible apply Ok.msix
    | with_reducible apply Ok.region
    | with_reducible apply Ok.buffers
    | with_reducible apply Ok.slots
    | with_reducible apply Ok.host
    | with_reducible apply Ok.queue

theorem blockEffect_ok {Q : List Instr} {row : ℕ} {s : State} (hok : Ok Q s) :
    Ok Q (blockEffect row s) := by
  unfold blockEffect
  try dsimp only
  repeat' first
    | with_reducible assumption
    | (intro _)
    | with_reducible apply State.updPort_ok
    | with_reducible apply State.add64_ok
    | with_reducible apply restartPort_ok
    | with_reducible apply dropJoin_ok
    | with_reducible apply State.updGroup_ok
    | with_reducible apply toHunt_ok
    | with_reducible apply standbyLost_ok
    | with_reducible apply hostReset_ok
    | with_reducible apply abortAll_ok
    | with_reducible apply trainBegin_ok
    | with_reducible apply State.upShelf_ok
    | with_reducible apply foldl_ok
    | with_reducible apply foldl_snd_ok
    | with_reducible apply foldl_fst_ok
    | with_reducible apply ite_ok

theorem blockReset_ok {Q : List Instr} {row : ℕ} {lost : ℕ} {s : State} (hok : Ok Q s) :
    Ok Q (blockReset row lost s) := by
  unfold blockReset
  try dsimp only
  repeat' first
    | with_reducible assumption
    | (intro _)
    | with_reducible apply State.upBoot_ok
    | with_reducible apply blockEffect_ok
    | with_reducible apply crossingLoss_ok
    | with_reducible apply State.wr_ok
    | with_reducible apply foldl_ok
    | with_reducible apply foldl_snd_ok
    | with_reducible apply foldl_fst_ok
    | with_reducible apply ite_ok

theorem execBlockResetRelease_ok {Q : List Instr} {row : Fin 147} {s : State} (hok : Ok Q s) :
    OutOk Q (execBlockResetRelease row s) := by
  unfold execBlockResetRelease
  try dsimp only
  repeat' first
    | with_reducible assumption
    | with_reducible apply outOk_next
    | (intro _)
    | with_reducible apply State.upBoot_ok
    | with_reducible apply State.wr_ok
    | with_reducible apply restartPort_ok
    | with_reducible apply foldl_ok
    | with_reducible apply foldl_snd_ok
    | with_reducible apply foldl_fst_ok
    | with_reducible apply ite_ok
    | with_reducible apply storeWf_filter
    | with_reducible exact storeWf_nil
    | with_reducible apply Memory.wf_memWrite
    | with_reducible exact Memory.wf_nil
    | split

theorem execSenseComplete_ok {Q : List Instr} {s : State} (hok : Ok Q s) :
    OutOk Q (execSenseComplete s) := by
  unfold execSenseComplete
  try dsimp only
  repeat' first
    | with_reducible assumption
    | with_reducible apply outOk_next
    | (intro _)
    | with_reducible apply enterPhase_ok
    | with_reducible apply foldl_ok
    | with_reducible apply foldl_snd_ok
    | with_reducible apply foldl_fst_ok
    | with_reducible apply ite_ok
    | with_reducible apply storeWf_filter
    | with_reducible exact storeWf_nil
    | with_reducible apply Memory.wf_memWrite
    | with_reducible exact Memory.wf_nil
    | split

theorem execRomSlotChoose_ok {Q : List Instr} {wiped : Bool} {s : State} (hok : Ok Q s) :
    OutOk Q (execRomSlotChoose wiped s) := by
  unfold execRomSlotChoose
  try dsimp only
  repeat' first
    | with_reducible assumption
    | with_reducible apply outOk_next
    | (intro _)
    | with_reducible apply enterHold_ok
    | with_reducible apply wipeFailed_ok
    | with_reducible apply chooseSlot_ok
    | with_reducible apply State.wr_ok
    | with_reducible apply enterPhase_ok
    | with_reducible apply State.upBoot_ok
    | with_reducible apply foldl_ok
    | with_reducible apply foldl_snd_ok
    | with_reducible apply foldl_fst_ok
    | with_reducible apply ite_ok
    | with_reducible apply storeWf_filter
    | with_reducible exact storeWf_nil
    | with_reducible apply Memory.wf_memWrite
    | with_reducible exact Memory.wf_nil
    | split

theorem execBootComplete_ok {Q : List Instr} {wiped : Bool} {s : State} (hok : Ok Q s) :
    OutOk Q (execBootComplete wiped s) := by
  unfold execBootComplete
  try dsimp only
  repeat' first
    | with_reducible assumption
    | with_reducible apply outOk_next
    | (intro _)
    | with_reducible apply enterHold_ok
    | with_reducible apply wipeFailed_ok
    | with_reducible apply State.ws_ok
    | with_reducible apply State.wr_ok
    | with_reducible apply trainBegin_ok
    | with_reducible apply enterPhase_ok
    | with_reducible apply foldl_ok
    | with_reducible apply foldl_snd_ok
    | with_reducible apply foldl_fst_ok
    | with_reducible apply ite_ok
    | with_reducible apply storeWf_filter
    | with_reducible exact storeWf_nil
    | with_reducible apply Memory.wf_memWrite
    | with_reducible exact Memory.wf_nil
    | split

theorem execTrafficEnable_ok {Q : List Instr} {s : State} (hok : Ok Q s) :
    OutOk Q (execTrafficEnable s) := by
  unfold execTrafficEnable
  try dsimp only
  repeat' first
    | with_reducible assumption
    | with_reducible apply outOk_next
    | (intro _)
    | with_reducible apply State.wr_ok
    | with_reducible apply enterPhase_ok
    | with_reducible apply foldl_ok
    | with_reducible apply foldl_snd_ok
    | with_reducible apply foldl_fst_ok
    | with_reducible apply ite_ok
    | with_reducible apply storeWf_filter
    | with_reducible exact storeWf_nil
    | with_reducible apply Memory.wf_memWrite
    | with_reducible exact Memory.wf_nil
    | split

theorem trafficStarted_ok {Q : List Instr} {s : State} (hok : Ok Q s) :
    Ok Q (trafficStarted s) := by
  unfold trafficStarted
  try dsimp only
  repeat' first
    | with_reducible assumption
    | (intro _)
    | with_reducible apply State.upBoot_ok

end Sys2Proof.Machine
end

