-- ==== Sys2Proof/Laws/KeepControl.lean ====
section
/-! SUPPORT. What every operation of Tallboy.lean, Commit.lean, Txn.lean, Zoa.lean, Restore.lean, TimeCmds.lean, Objects.lean
keeps: the form of `State.Sound`, and the queue. -/
namespace Sys2Proof.Machine

/-! ### Tallboy -/


theorem State.updDump_ok {Q : List Instr} {s : State} {k : ℕ} {f : DumpRT → DumpRT} (hok : Ok Q s) :
    Ok Q (State.updDump s k f) := by
  unfold State.updDump
  try dsimp only
  repeat' first
    | with_reducible assumption
    | (intro _)
    | with_reducible apply State.upTel_ok

theorem dumpWritten_ok {Q : List Instr} {k : ℕ} {s : State} (hok : Ok Q s) :
    Ok Q (dumpWritten k s) := by
  unfold dumpWritten
  try dsimp only
  repeat' first
    | with_reducible assumption
    | (intro _)
    | with_reducible apply State.wr_ok
    | with_reducible apply State.updDump_ok
    | with_reducible apply foldl_ok
    | with_reducible apply foldl_snd_ok
    | with_reducible apply foldl_fst_ok
    | with_reducible apply ite_ok

theorem dumpsAfterStep_ok {Q : List Instr} {s : State} (hok : Ok Q s) :
    Ok Q (dumpsAfterStep s) := by
  unfold dumpsAfterStep
  try dsimp only
  repeat' first
    | with_reducible assumption
    | (intro _)
    | with_reducible apply State.updDump_ok
    | with_reducible apply foldl_ok

theorem passInstant_ok {Q : List Instr} {skipped : Bool} {s : State} {k : ℕ} (hok : Ok Q s) :
    Ok Q (passInstant skipped s k) := by
  unfold passInstant
  try dsimp only
  repeat' first
    | with_reducible assumption
    | (intro _)
    | with_reducible apply State.updDump_ok
    | with_reducible apply raise_ok
    | with_reducible apply State.add64_ok
    | with_reducible apply foldl_ok
    | with_reducible apply foldl_snd_ok
    | with_reducible apply foldl_fst_ok
    | with_reducible apply ite_ok

theorem execDumpLatch_ok {Q : List Instr} {s : State} (hok : Ok Q s) :
    OutOk Q (execDumpLatch s) := by
  unfold execDumpLatch
  try dsimp only
  repeat' first
    | with_reducible assumption
    | with_reducible apply outOk_next
    | (intro _)
    | with_reducible apply passInstant_ok
    | with_reducible apply State.upTel_ok
    | with_reducible apply foldl_ok
    | with_reducible apply foldl_snd_ok
    | with_reducible apply foldl_fst_ok
    | with_reducible apply ite_ok
    | with_reducible apply storeWf_filter
    | with_reducible exact storeWf_nil
    | with_reducible apply Memory.wf_memWrite
    | with_reducible exact Memory.wf_nil
    | split

theorem slotToHost_ok {Q : List Instr} {r : ℕ} {d : Bytes} {s : State} (hok : Ok Q s) :
    Ok Q (slotToHost r d s) := by
  unfold slotToHost
  try dsimp only
  repeat' first
    | with_reducible assumption
    | (intro _)
    | with_reducible apply hostWrite_ok
    | with_reducible apply State.wr_ok
    | with_reducible apply State.emit_ok

theorem copyDump_ok {Q : List Instr} {k : ℕ} {d : Bytes} {s : State} (hok : Ok Q s) :
    Ok Q (copyDump k d s) := by
  unfold copyDump
  try dsimp only
  repeat' first
    | with_reducible assumption
    | (intro _)
    | with_reducible apply raise_ok
    | with_reducible apply State.add64_ok
    | with_reducible apply slotToHost_ok
    | with_reducible apply foldl_ok
    | with_reducible apply foldl_snd_ok
    | with_reducible apply foldl_fst_ok
    | with_reducible apply ite_ok

theorem execDumpComplete_ok {Q : List Instr} {r : HbmRead} {s : State} (hok : Ok Q s) :
    OutOk Q (execDumpComplete r s) := by
  unfold execDumpComplete
  try dsimp only
  repeat' first
    | with_reducible assumption
    | with_reducible apply outOk_next
    | (intro _ hx; ((try dsimp only); (repeat' split); all_goals with_reducible exact hx))
    | (intro _)
    | with_reducible apply State.upTel_ok
    | with_reducible apply hbmNote_ok
    | with_reducible apply hbmEvent_ok
    | with_reducible apply State.add64_ok
    | with_reducible apply raise_ok
    | with_reducible apply State.wr_ok
    | with_reducible apply copyDump_ok
    | with_reducible apply foldl_ok
    | with_reducible apply foldl_snd_ok
    | with_reducible apply foldl_fst_ok
    | with_reducible apply ite_ok
    | with_reducible apply storeWf_filter
    | with_reducible exact storeWf_nil
    | with_reducible apply Memory.wf_memWrite
    | with_reducible exact Memory.wf_nil
    | split

theorem handOver_ok {Q : List Instr} {r : ℕ} {s : State} (hok : Ok Q s) :
    Ok Q (handOver r s) := by
  unfold handOver
  try dsimp only
  repeat' first
    | with_reducible assumption
    | (intro _)
    | with_reducible apply fillSlot_ok
    | with_reducible apply State.upTel_ok
    | with_reducible apply slotToHost_ok
    | with_reducible apply foldl_ok
    | with_reducible apply foldl_snd_ok
    | with_reducible apply foldl_fst_ok
    | with_reducible apply ite_ok

theorem execTelemetrySlotHandover_ok {Q : List Instr} {row : Fin 9} {s : State} (hok : Ok Q s) :
    OutOk Q (execTelemetrySlotHandover row s) := by
  unfold execTelemetrySlotHandover
  try dsimp only
  repeat' first
    | with_reducible assumption
    | with_reducible apply outOk_next
    | (intro _)
    | with_reducible apply handOver_ok
    | with_reducible apply foldl_ok
    | with_reducible apply foldl_snd_ok
    | with_reducible apply foldl_fst_ok
    | with_reducible apply ite_ok
    | with_reducible apply storeWf_filter
    | with_reducible exact storeWf_nil
    | with_reducible apply Memory.wf_memWrite
    | with_reducible exact Memory.wf_nil
    | split

theorem execTelemetryFlush_ok {Q : List Instr} {row : Fin 9} {s : State} (hok : Ok Q s) :
    OutOk Q (execTelemetryFlush row s) := by
  unfold execTelemetryFlush
  try dsimp only
  repeat' first
    | with_reducible assumption
    | with_reducible apply outOk_next
    | (intro _)
    | with_reducible apply handOver_ok
    | with_reducible apply foldl_ok
    | with_reducible apply foldl_snd_ok
    | with_reducible apply foldl_fst_ok
    | with_reducible apply ite_ok
    | with_reducible apply storeWf_filter
    | with_reducible exact storeWf_nil
    | with_reducible apply Memory.wf_memWrite
    | with_reducible exact Memory.wf_nil
    | split

theorem clearPairs_ok {Q : List Instr} {first : ℕ} {last : ℕ} {s : State} (hok : Ok Q s) :
    Ok Q (clearPairs first last s) := by
  unfold clearPairs
  try dsimp only
  repeat' first
    | with_reducible assumption
    | with_reducible apply Ok.buffers
    | with_reducible apply Ok.host
    | (intro _)
    | with_reducible apply foldl_ok
    | with_reducible apply foldl_snd_ok
    | with_reducible apply foldl_fst_ok
    | with_reducible apply ite_ok
    | with_reducible apply storeWf_filter
    | with_reducible exact storeWf_nil
    | with_reducible apply Memory.wf_memWrite
    | with_reducible exact Memory.wf_nil
    | split
    | dsimp only
    | (with_reducible refine ok_snd ‹_ = (_, _)› ?_)
    | rfl
    | (rw [ok_mk]; refine ⟨?_, ?_, ?_, ?_, ?_, ?_, ?_, ?_, ?_⟩)
    | with_reducible apply Ok.store
    | with_reducible apply Ok.home
    | with_reducible apply Ok.staging
    | with_reducible apply Ok.msix
    | with_reducible apply Ok.region
    | with_reducible apply Ok.buffers
    | with_reducible apply Ok.slots
    | with_reducible apply Ok.host
    | with_reducible apply Ok.queue

/-! ### Commit -/


theorem commandRefused_ok {Q : List Instr} {a : Actor} {c : WCell} {st : Status} {s : State} (hok : Ok Q s) :
    Ok Q (commandRefused a c st s) := by
  unfold commandRefused
  try dsimp only
  repeat' first
    | with_reducible assumption
    | (intro _; with_reducible rfl)
    | (intro _)
    | with_reducible apply freqResult_ok
    | with_reducible apply lifeRefused_ok
    | with_reducible apply setLoad_ok
    | with_reducible apply auditEntry_ok
    | with_reducible apply State.updSess_ok
    | with_reducible apply foldl_ok
    | with_reducible apply foldl_snd_ok
    | with_reducible apply foldl_fst_ok
    | with_reducible apply ite_ok
    | with_reducible apply storeWf_filter
    | with_reducible exact storeWf_nil
    | with_reducible apply Memory.wf_memWrite
    | with_reducible exact Memory.wf_nil
    | split

theorem rowWritten_ok {Q : List Instr} {obj : ℕ} {row : ℕ} {s : State} (hok : Ok Q s) :
    Ok Q (rowWritten obj row s) := by
  unfold rowWritten
  try dsimp only
  repeat' first
    | with_reducible assumption
    | (intro _)
    | with_reducible apply State.upRepair_ok

theorem storeCell_ok {Q : List Instr} {s : State} {c : WCell} (hok : Ok Q s) :
    Ok Q (storeCell s c) := by
  unfold storeCell
  try dsimp only
  repeat' first
    | with_reducible assumption
    | (intro _)
    | with_reducible apply State.keepOld_ok
    | with_reducible apply State.wr_ok
    | with_reducible apply rowWritten_ok
    | with_reducible apply foldl_ok
    | with_reducible apply foldl_snd_ok
    | with_reducible apply foldl_fst_ok
    | with_reducible apply ite_ok
    | with_reducible apply storeWf_filter
    | with_reducible exact storeWf_nil
    | with_reducible apply Memory.wf_memWrite
    | with_reducible exact Memory.wf_nil
    | split

theorem clearGraph_ok {Q : List Instr} {s : State} (hok : Ok Q s) :
    Ok Q (clearGraph s) := by
  unfold clearGraph
  try dsimp only
  repeat' first
    | with_reducible assumption
    | (intro _)
    | with_reducible apply State.wr_ok
    | with_reducible apply State.keepOld_ok
    | with_reducible apply foldl_ok

theorem swapBank_ok {Q : List Instr} {cs : List WCell} {s : State} (hok : Ok Q s) :
    Ok Q (swapBank cs s) := by
  unfold swapBank
  try dsimp only
  repeat' first
    | with_reducible assumption
    | (intro _)
    | with_reducible apply clearGraph_ok
    | with_reducible apply State.upGen_ok
    | with_reducible apply State.ws_ok
    | with_reducible apply foldl_ok
    | with_reducible apply foldl_snd_ok
    | with_reducible apply foldl_fst_ok
    | with_reducible apply ite_ok

theorem noteSnapshots_ok {Q : List Instr} {us : List CUnit} {s : State} (hok : Ok Q s) : Ok Q (noteSnapshots us s) := by
  unfold noteSnapshots
  exact sessions_ok hok _ (by simp [List.map_map, Function.comp_def])

theorem journalCommit_ok {Q : List Instr} {cs : List WCell} {s : State} (hok : Ok Q s) :
    Ok Q (journalCommit cs s) := by
  unfold journalCommit
  try dsimp only
  repeat' first
    | with_reducible assumption
    | (intro _)
    | with_reducible apply State.journal_ok
    | with_reducible apply foldl_ok
    | with_reducible apply foldl_snd_ok
    | with_reducible apply foldl_fst_ok
    | with_reducible apply ite_ok

theorem timeEffect_ok {Q : List Instr} {c : WCell} {s : State} (hok : Ok Q s) :
    Ok Q (timeEffect c s) := by
  unfold timeEffect
  try dsimp only
  repeat' first
    | with_reducible assumption
    | (intro _)
    | with_reducible apply State.updDom_ok
    | with_reducible apply gridSourceWritten_ok
    | with_reducible apply relockGrid_ok
    | with_reducible apply State.upTime_ok
    | with_reducible apply setQualified_ok
    | with_reducible apply triggerWritten_ok
    | with_reducible apply tcPortWritten_ok
    | with_reducible apply foldl_ok
    | with_reducible apply foldl_snd_ok
    | with_reducible apply foldl_fst_ok
    | with_reducible apply ite_ok

theorem feEffect_ok {Q : List Instr} {a : Actor} {c : WCell} {s : State} (hok : Ok Q s) :
    Ok Q (feEffect a c s) := by
  unfold feEffect
  try dsimp only
  repeat' first
    | with_reducible assumption
    | (intro _; with_reducible rfl)
    | (intro _)
    | with_reducible apply State.updSess_ok
    | with_reducible apply rangeDirect_ok
    | with_reducible apply State.wr_ok
    | with_reducible apply State.upFe_ok
    | with_reducible apply foldl_ok
    | with_reducible apply foldl_snd_ok
    | with_reducible apply foldl_fst_ok
    | with_reducible apply ite_ok
    | with_reducible apply storeWf_filter
    | with_reducible exact storeWf_nil
    | with_reducible apply Memory.wf_memWrite
    | with_reducible exact Memory.wf_nil
    | split

theorem tmEffect_ok {Q : List Instr} {old : Blocks} {c : WCell} {s : State} (hok : Ok Q s) :
    Ok Q (tmEffect old c s) := by
  unfold tmEffect
  try dsimp only
  repeat' first
    | with_reducible assumption
    | (intro _)
    | with_reducible apply flushQueue_ok
    | with_reducible apply askReturn_ok
    | with_reducible apply State.upSched_ok
    | with_reducible apply gateChange_ok
    | with_reducible apply State.upMesh_ok
    | with_reducible apply groupConfigWritten_ok
    | with_reducible apply leaveWritten_ok
    | with_reducible apply portConfigApplied_ok
    | with_reducible apply portRetrain_ok
    | with_reducible apply foldl_ok
    | with_reducible apply foldl_snd_ok
    | with_reducible apply foldl_fst_ok
    | with_reducible apply ite_ok

theorem nodeQueried_ok {Q : List Instr} {a : Actor} {c : WCell} {s : State} (hok : Ok Q s) :
    Ok Q (nodeQueried a c s) := by
  unfold nodeQueried
  try dsimp only
  repeat' first
    | with_reducible assumption
    | (intro _; with_reducible rfl)
    | (intro _)
    | with_reducible apply State.updSess_ok
    | with_reducible apply foldl_ok
    | with_reducible apply foldl_snd_ok
    | with_reducible apply foldl_fst_ok
    | with_reducible apply ite_ok
    | with_reducible apply storeWf_filter
    | with_reducible exact storeWf_nil
    | with_reducible apply Memory.wf_memWrite
    | with_reducible exact Memory.wf_nil
    | split

theorem enableActs_ok {Q : List Instr} {old : Blocks} {bank : ℕ} {s : State} (hok : Ok Q s) :
    Ok Q (enableActs old bank s) := by
  unfold enableActs
  try dsimp only
  repeat' first
    | with_reducible assumption
    | (intro _)
    | with_reducible apply routeAct_ok
    | with_reducible apply foldl_ok
    | with_reducible apply foldl_snd_ok
    | with_reducible apply foldl_fst_ok
    | with_reducible apply ite_ok

theorem hostEffect_ok {Q : List Instr} {old : Blocks} {a : Actor} {c : WCell} {s : State} (hok : Ok Q s) :
    Ok Q (hostEffect old a c s) := by
  unfold hostEffect
  try dsimp only
  repeat' first
    | with_reducible assumption
    | (intro _)
    | with_reducible apply freqWritten_ok
    | with_reducible apply serviceWritten_ok
    | with_reducible apply patternStart_ok
    | with_reducible apply delayWritten_ok
    | with_reducible apply ringWritten_ok
    | with_reducible apply trolleyGo_ok
    | with_reducible apply trolleyStop_ok
    | with_reducible apply enableActs_ok
    | with_reducible apply State.wr_ok
    | with_reducible apply clearPairs_ok
    | with_reducible apply dumpWritten_ok
    | with_reducible apply fillSlot_ok
    | with_reducible apply foldl_ok
    | with_reducible apply foldl_snd_ok
    | with_reducible apply foldl_fst_ok
    | with_reducible apply ite_ok

theorem loadAsked_ok {Q : List Instr} {a : Actor} {chain : Bool} {s : State} (hok : Ok Q s) :
    Ok Q (loadAsked a chain s) := by
  unfold loadAsked
  try dsimp only
  repeat' first
    | with_reducible assumption
    | (intro _)
    | with_reducible apply loadBegin_ok
    | with_reducible apply foldl_ok
    | with_reducible apply foldl_snd_ok
    | with_reducible apply foldl_fst_ok
    | with_reducible apply ite_ok
    | with_reducible apply storeWf_filter
    | with_reducible exact storeWf_nil
    | with_reducible apply Memory.wf_memWrite
    | with_reducible exact Memory.wf_nil
    | split

theorem controlEffect_ok {Q : List Instr} {a : Actor} {c : WCell} {s : State} (hok : Ok Q s) :
    Ok Q (controlEffect a c s) := by
  unfold controlEffect
  try dsimp only
  repeat' first
    | with_reducible assumption
    | (intro _)
    | with_reducible apply lifeAccepted_ok
    | with_reducible apply blockReset_ok
    | with_reducible apply trafficStarted_ok
    | with_reducible apply loadAbort_ok
    | with_reducible apply loadAsked_ok
    | with_reducible apply chunkWritten_ok
    | with_reducible apply stagedWritten_ok
    | with_reducible apply activateWritten_ok
    | with_reducible apply cancelWritten_ok
    | with_reducible apply confirmWritten_ok
    | with_reducible apply atResetWritten_ok
    | with_reducible apply sideStart_ok
    | with_reducible apply fanWritten_ok
    | with_reducible apply foldl_ok
    | with_reducible apply foldl_snd_ok
    | with_reducible apply foldl_fst_ok
    | with_reducible apply ite_ok
    | with_reducible apply storeWf_filter
    | with_reducible exact storeWf_nil
    | with_reducible apply Memory.wf_memWrite
    | with_reducible exact Memory.wf_nil
    | split

theorem cellEffect_ok {Q : List Instr} {old : Blocks} {a : Actor} {s : State} {c : WCell} (hok : Ok Q s) :
    Ok Q (cellEffect old a s c) := by
  unfold cellEffect
  try dsimp only
  repeat' first
    | with_reducible assumption
    | (intro _)
    | with_reducible apply controlEffect_ok
    | with_reducible apply timeEffect_ok
    | with_reducible apply feEffect_ok
    | with_reducible apply nodeQueried_ok
    | with_reducible apply tmEffect_ok
    | with_reducible apply hostEffect_ok
    | with_reducible apply foldl_ok
    | with_reducible apply foldl_snd_ok
    | with_reducible apply foldl_fst_ok
    | with_reducible apply ite_ok

theorem State.booked_ok {Q : List Instr} {s : State} {us : List CUnit} (hok : Ok Q s) :
    Ok Q (State.booked s us) := by
  unfold State.booked
  try dsimp only
  repeat' first
    | with_reducible assumption
    | with_reducible apply Ok.buffers
    | with_reducible apply Ok.host
    | (intro _)
    | with_reducible apply noteSnapshots_ok
    | with_reducible apply foldl_ok
    | with_reducible apply foldl_snd_ok
    | with_reducible apply foldl_fst_ok
    | with_reducible apply ite_ok
    | with_reducible apply storeWf_filter
    | with_reducible exact storeWf_nil
    | with_reducible apply Memory.wf_memWrite
    | with_reducible exact Memory.wf_nil
    | split
    | dsimp only
    | (with_reducible refine ok_snd ‹_ = (_, _)› ?_)
    | rfl
    | (rw [ok_mk]; refine ⟨?_, ?_, ?_, ?_, ?_, ?_, ?_, ?_, ?_⟩)
    | with_reducible apply Ok.store
    | with_reducible apply Ok.home
    | with_reducible apply Ok.staging
    | with_reducible apply Ok.msix
    | with_reducible apply Ok.region
    | with_reducible apply Ok.buffers
    | with_reducible apply Ok.slots
    | with_reducible apply Ok.host
    | with_reducible apply Ok.queue

theorem applyCells_ok {Q : List Instr} {a : Actor} {cs : List WCell} {s : State} (hok : Ok Q s) :
    Ok Q (applyCells a cs s) := by
  unfold applyCells
  try dsimp only
  repeat' first
    | with_reducible assumption
    | (intro _)
    | with_reducible apply State.booked_ok
    | with_reducible apply State.openGen_ok
    | with_reducible apply storeCell_ok
    | with_reducible apply swapBank_ok
    | with_reducible apply routeCommit_ok
    | with_reducible apply exactCommit_ok
    | with_reducible apply rangeCommit_ok
    | with_reducible apply besideValues_ok
    | with_reducible apply cellEffect_ok
    | with_reducible apply journalCommit_ok
    | with_reducible apply foldl_ok
    | with_reducible apply foldl_snd_ok
    | with_reducible apply foldl_fst_ok
    | with_reducible apply ite_ok

theorem lateEffects_ok {Q : List Instr} {a : Actor} {cs : List WCell} {before : Blocks} {s : State} (hok : Ok Q s) :
    Ok Q (lateEffects a cs before s) := by
  unfold lateEffects
  try dsimp only
  repeat' first
    | with_reducible assumption
    | (intro _)
    | with_reducible apply securityApplied_ok
    | with_reducible apply closeWhere_ok
    | with_reducible apply rollbackAsked_ok
    | with_reducible apply recoveryLoaded_ok
    | with_reducible apply foldl_ok
    | with_reducible apply foldl_snd_ok
    | with_reducible apply foldl_fst_ok
    | with_reducible apply ite_ok

/-! ### Txn -/


theorem touchUnit_ok {Q : List Instr} {id : SessId} {u : CUnit} {s : State} (hok : Ok Q s) :
    Ok Q (touchUnit id u s) := by
  unfold touchUnit
  try dsimp only
  repeat' first
    | with_reducible assumption
    | (intro _; with_reducible rfl)
    | (intro _)
    | with_reducible apply State.updSess_ok

theorem stageWrite_ok {Q : List Instr} {id : SessId} {w : SW} {s : State} (hok : Ok Q s) :
    Ok Q (stageWrite id w s).2 := by
  unfold stageWrite
  try dsimp only
  repeat' first
    | with_reducible assumption
    | (intro _; with_reducible rfl)
    | (intro _)
    | with_reducible apply shelfAlloc_ok
    | with_reducible apply State.updSess_ok
    | with_reducible apply touchUnit_ok
    | with_reducible apply foldl_ok
    | with_reducible apply foldl_snd_ok
    | with_reducible apply foldl_fst_ok
    | with_reducible apply ite_ok
    | with_reducible apply storeWf_filter
    | with_reducible exact storeWf_nil
    | with_reducible apply Memory.wf_memWrite
    | with_reducible exact Memory.wf_nil
    | split

theorem updTxn_ok {Q : List Instr} {id : SessId} {f : Txn → Txn} {s : State} (hok : Ok Q s) :
    Ok Q (updTxn id f s) := by
  unfold updTxn
  try dsimp only
  repeat' first
    | with_reducible assumption
    | (intro _; with_reducible rfl)
    | (intro _)
    | with_reducible apply State.updSess_ok

theorem refuseCommit_ok {Q : List Instr} {w : Wait} {st : Status} {obj : ℕ} {row : ℕ} {s : State} (hok : Ok Q s) :
    Ok Q (refuseCommit w st obj row s) := by
  unfold refuseCommit
  try dsimp only
  repeat' first
    | with_reducible assumption
    | (intro _)
    | with_reducible apply replyWait_ok
    | with_reducible apply updTxn_ok
    | with_reducible apply foldl_ok
    | with_reducible apply foldl_snd_ok
    | with_reducible apply foldl_fst_ok
    | with_reducible apply ite_ok

theorem countWait_ok {Q : List Instr} {f : WaitFor} {s : State} (hok : Ok Q s) :
    Ok Q (countWait f s) := by
  unfold countWait
  try dsimp only
  repeat' first
    | with_reducible assumption
    | (intro _)
    | with_reducible apply raise_ok
    | with_reducible apply State.sat32_ok
    | with_reducible apply foldl_ok
    | with_reducible apply foldl_snd_ok
    | with_reducible apply foldl_fst_ok
    | with_reducible apply ite_ok
    | with_reducible apply storeWf_filter
    | with_reducible exact storeWf_nil
    | with_reducible apply Memory.wf_memWrite
    | with_reducible exact Memory.wf_nil
    | split

theorem waitCommit_ok {Q : List Instr} {first : Bool} {f : WaitFor} {w : Wait} {s : State} (hok : Ok Q s) :
    Ok Q (waitCommit first f w s) := by
  unfold waitCommit
  try dsimp only
  repeat' first
    | with_reducible assumption
    | with_reducible apply Ok.buffers
    | with_reducible apply Ok.host
    | (intro _; with_reducible rfl)
    | (intro _)
    | with_reducible apply countWait_ok
    | with_reducible apply updTxn_ok
    | with_reducible apply State.updSess_ok
    | with_reducible apply foldl_ok
    | with_reducible apply foldl_snd_ok
    | with_reducible apply foldl_fst_ok
    | with_reducible apply ite_ok
    | with_reducible apply storeWf_filter
    | with_reducible exact storeWf_nil
    | with_reducible apply Memory.wf_memWrite
    | with_reducible exact Memory.wf_nil
    | split
    | dsimp only
    | (with_reducible refine ok_snd ‹_ = (_, _)› ?_)
    | rfl
    | (rw [ok_mk]; refine ⟨?_, ?_, ?_, ?_, ?_, ?_, ?_, ?_, ?_⟩)
    | with_reducible apply Ok.store
    | with_reducible apply Ok.home
    | with_reducible apply Ok.staging
    | with_reducible apply Ok.msix
    | with_reducible apply Ok.region
    | with_reducible apply Ok.buffers
    | with_reducible apply Ok.slots
    | with_reducible apply Ok.host
    | with_reducible apply Ok.queue

theorem acceptTimed_ok {Q : List Instr} {w : Wait} {cs : List WCell} {q : ℕ} {s : State} (hok : Ok Q s) :
    Ok Q (acceptTimed w cs q s) := by
  unfold acceptTimed
  try dsimp only
  repeat' first
    | with_reducible assumption
    | with_reducible apply Ok.buffers
    | with_reducible apply Ok.host
    | (intro _)
    | with_reducible apply updTxn_ok
    | with_reducible apply replyWait_ok
    | with_reducible apply pageSwapWritten_ok
    | with_reducible apply foldl_ok
    | with_reducible apply foldl_snd_ok
    | with_reducible apply foldl_fst_ok
    | with_reducible apply ite_ok
    | with_reducible apply storeWf_filter
    | with_reducible exact storeWf_nil
    | with_reducible apply Memory.wf_memWrite
    | with_reducible exact Memory.wf_nil
    | split
    | dsimp only
    | (with_reducible refine ok_snd ‹_ = (_, _)› ?_)
    | rfl
    | (rw [ok_mk]; refine ⟨?_, ?_, ?_, ?_, ?_, ?_, ?_, ?_, ?_⟩)
    | with_reducible apply Ok.store
    | with_reducible apply Ok.home
    | with_reducible apply Ok.staging
    | with_reducible apply Ok.msix
    | with_reducible apply Ok.region
    | with_reducible apply Ok.buffers
    | with_reducible apply Ok.slots
    | with_reducible apply Ok.host
    | with_reducible apply Ok.queue

theorem finishCommit_ok {Q : List Instr} {w : Wait} {a : Actor} {cs : List WCell} {s : State} (hok : Ok Q s) :
    Ok Q (finishCommit w a cs s) := by
  unfold finishCommit
  try dsimp only
  repeat' first
    | with_reducible assumption
    | (intro _)
    | with_reducible apply applyCells_ok
    | with_reducible apply endTxn_ok
    | with_reducible apply lateEffects_ok
    | with_reducible apply replyWait_ok
    | with_reducible apply foldl_ok
    | with_reducible apply foldl_snd_ok
    | with_reducible apply foldl_fst_ok
    | with_reducible apply ite_ok

theorem journalCheck_keeps {q : List Instr} (cs : List WCell) (s : State) : (journalCheck cs s).Keeps q := by
  unfold journalCheck
  split
  · trivial
  · exact need_keeps _ _ _ _

theorem placement_keeps {q : List Instr} (b : Blocks) (cs : List WCell) : (placement b cs).Keeps q := by
  unfold placement
  refine Verdict.Keeps.and (Verdict.Keeps.and ?_ ?_) (Verdict.Keeps.and ?_ ?_)
  · split
    · trivial
    · exact fun _ h => routeRefused_ok h
  · split
    · trivial
    · exact fun _ h => exactRefused_ok h
  · split
    · trivial
    · exact fun _ h => rangeRefused_ok h
  · split
    · trivial
    · exact fun _ h => h

theorem commitFe_keeps {q : List Instr} (b : Blocks) (cs : List WCell) : (commitFe b cs).Keeps q := by
  unfold commitFe
  refine Verdict.Keeps.and (Verdict.Keeps.and (Verdict.Keeps.and ?_ (needRows_keeps _ _ _))
    (Verdict.Keeps.and (needRows_keeps _ _ _) (needRows_keeps _ _ _))) ?_
  · split
    · split
      · exact fun _ h => h
      · trivial
    · trivial
  · have step : ∀ (l : List WCell) (v : Verdict), v.Keeps q →
        (l.foldl (fun v c => v.and (match gateChangeFault (overlay b cs) c.row with
          | some obj => .refuse .range obj c.row id
          | none => .go)) v).Keeps q := by
      intro l
      induction l with
      | nil => exact fun _ h => h
      | cons c l ih =>
        refine fun v h => ih _ (h.and ?_)
        split
        · exact fun _ h => h
        · trivial
    exact step _ _ trivial

theorem commitRest_keeps {q : List Instr} (b : Blocks) (cs : List WCell) : (commitRest b cs).Keeps q := by
  unfold commitRest
  exact ((needRows_keeps _ _ _).and ((need_keeps _ _ _ _).and (needRows_keeps _ _ _))).and (((needRows_keeps _ _ _).and (need_keeps _ _ _ _)).and
    (((needRows_keeps _ _ _).and (need_keeps _ _ _ _)).and ((need_keeps _ _ _ _).and (need_keeps _ _ _ _))))

/-- A refused commit leaves behind only what `Ok` allows. -/
theorem commitCheck_keeps {q : List Instr} (a : Actor) (touched : List (CUnit × Nat)) (at_ : Option Nat) (cs : List WCell)
    (s : State) : (commitCheck a touched at_ cs s).Keeps q := by
  unfold commitCheck
  refine Verdict.Keeps.and (Verdict.Keeps.and (Verdict.Keeps.and ?_ ?_) (Verdict.Keeps.and (needRows_keeps _ _ _) ?_))
    (Verdict.Keeps.and (Verdict.Keeps.and (commitFe_keeps _ _) (commitRest_keeps _ _))
      (Verdict.Keeps.and (journalCheck_keeps _ _) (placement_keeps _ _)))
  · split
    · exact fun _ h => h
    · exact need_keeps _ _ _ _
    · trivial
  · split
    · exact fun _ h => h
    · trivial
  · split
    · exact fun _ h => commandRefused_ok h
    · trivial

theorem side_ok {q : List Instr} {v : Verdict} (hv : v.Keeps q) {st : Status} {obj row : Nat} {side : State → State}
    (e : v = .refuse st obj row side) {s : State} (h : Ok q s) : Ok q (side s) := by
  subst e
  exact hv s h

theorem attempt_ok {Q : List Instr} {first : Bool} {lost : ℕ} {w : Wait} {s : State} (hok : Ok Q s) :
    Ok Q (attempt first lost w s) := by
  unfold attempt
  try dsimp only
  repeat' first
    | with_reducible assumption
    | (with_reducible refine side_ok (commitCheck_keeps _ _ _ _ _) ‹_› ?_)
    | (intro _)
    | with_reducible apply refuseCommit_ok
    | with_reducible apply waitCommit_ok
    | with_reducible apply acceptTimed_ok
    | with_reducible apply finishCommit_ok
    | with_reducible apply foldl_ok
    | with_reducible apply foldl_snd_ok
    | with_reducible apply foldl_fst_ok
    | with_reducible apply ite_ok
    | with_reducible apply storeWf_filter
    | with_reducible exact storeWf_nil
    | with_reducible apply Memory.wf_memWrite
    | with_reducible exact Memory.wf_nil
    | split

theorem retryWait_ok {Q : List Instr} {w : Wait} {s : State} (hok : Ok Q s) :
    Ok Q (retryWait w s) := by
  unfold retryWait
  try dsimp only
  repeat' first
    | with_reducible assumption
    | with_reducible apply Ok.buffers
    | with_reducible apply Ok.host
    | (intro _)
    | with_reducible apply attempt_ok
    | with_reducible apply foldl_ok
    | with_reducible apply foldl_snd_ok
    | with_reducible apply foldl_fst_ok
    | with_reducible apply ite_ok
    | with_reducible apply storeWf_filter
    | with_reducible exact storeWf_nil
    | with_reducible apply Memory.wf_memWrite
    | with_reducible exact Memory.wf_nil
    | split
    | dsimp only
    | (with_reducible refine ok_snd ‹_ = (_, _)› ?_)
    | rfl
    | (rw [ok_mk]; refine ⟨?_, ?_, ?_, ?_, ?_, ?_, ?_, ?_, ?_⟩)
    | with_reducible apply Ok.store
    | with_reducible apply Ok.home
    | with_reducible apply Ok.staging
    | with_reducible apply Ok.msix
    | with_reducible apply Ok.region
    | with_reducible apply Ok.buffers
    | with_reducible apply Ok.slots
    | with_reducible apply Ok.host
    | with_reducible apply Ok.queue

theorem openTxn_ok {Q : List Instr} {id : SessId} {s : State} (hok : Ok Q s) :
    Ok Q (openTxn id s).2.2 := by
  unfold openTxn
  try dsimp only
  repeat' first
    | with_reducible assumption
    | with_reducible apply Ok.buffers
    | with_reducible apply Ok.host
    | (intro _; with_reducible rfl)
    | (intro _)
    | with_reducible apply State.updSess_ok
    | with_reducible apply foldl_ok
    | with_reducible apply foldl_snd_ok
    | with_reducible apply foldl_fst_ok
    | with_reducible apply ite_ok
    | with_reducible apply storeWf_filter
    | with_reducible exact storeWf_nil
    | with_reducible apply Memory.wf_memWrite
    | with_reducible exact Memory.wf_nil
    | split
    | dsimp only
    | (with_reducible refine ok_snd ‹_ = (_, _)› ?_)
    | rfl
    | (rw [ok_mk]; refine ⟨?_, ?_, ?_, ?_, ?_, ?_, ?_, ?_, ?_⟩)
    | with_reducible apply Ok.store
    | with_reducible apply Ok.home
    | with_reducible apply Ok.staging
    | with_reducible apply Ok.msix
    | with_reducible apply Ok.region
    | with_reducible apply Ok.buffers
    | with_reducible apply Ok.slots
    | with_reducible apply Ok.host
    | with_reducible apply Ok.queue

theorem commitTxn_ok {Q : List Instr} {w : Wait} {q : ℕ} {s : State} (hok : Ok Q s) :
    Ok Q (commitTxn w q s) := by
  unfold commitTxn
  try dsimp only
  repeat' first
    | with_reducible assumption
    | (intro _)
    | with_reducible apply replyWait_ok
    | with_reducible apply attempt_ok
    | with_reducible apply foldl_ok
    | with_reducible apply foldl_snd_ok
    | with_reducible apply foldl_fst_ok
    | with_reducible apply ite_ok
    | with_reducible apply storeWf_filter
    | with_reducible exact storeWf_nil
    | with_reducible apply Memory.wf_memWrite
    | with_reducible exact Memory.wf_nil
    | split

theorem txnAbort_ok {Q : List Instr} {id : SessId} {s : State} (hok : Ok Q s) :
    Ok Q (txnAbort id s).2 := by
  unfold txnAbort
  try dsimp only
  repeat' first
    | with_reducible assumption
    | (intro _)
    | with_reducible apply updTxn_ok
    | with_reducible apply abortTxn_ok
    | with_reducible apply foldl_ok
    | with_reducible apply foldl_snd_ok
    | with_reducible apply foldl_fst_ok
    | with_reducible apply ite_ok
    | with_reducible apply storeWf_filter
    | with_reducible exact storeWf_nil
    | with_reducible apply Memory.wf_memWrite
    | with_reducible exact Memory.wf_nil
    | split

theorem auditSilent_ok {Q : List Instr} {f : From} {x : Sess} {i : RItem} {s : State} (hok : Ok Q s) :
    Ok Q (auditSilent f x i s) := by
  unfold auditSilent
  try dsimp only
  repeat' first
    | with_reducible assumption
    | (intro _)
    | with_reducible apply silentAccess_ok

theorem answerWrite_ok {Q : List Instr} {f : From} {items : List RItem} {sts : List Status} {s : State} (hok : Ok Q s) :
    Ok Q (answerWrite f items sts s) := by
  unfold answerWrite
  try dsimp only
  repeat' first
    | with_reducible assumption
    | (intro _)
    | with_reducible apply barDone_ok
    | with_reducible apply respond_ok
    | with_reducible apply foldl_ok
    | with_reducible apply foldl_snd_ok
    | with_reducible apply foldl_fst_ok
    | with_reducible apply ite_ok

theorem runControl_ok {Q : List Instr} {f : From} (l : List (Nat × SW)) {s : State} (hok : Ok Q s) : Ok Q (runControl f l s).2 := by
  induction l generalizing s with
  | nil => exact hok
  | cons e l ih =>
    unfold runControl
    try dsimp only
    repeat' first
      | with_reducible assumption
      | with_reducible apply ih
      | (intro _)
      | with_reducible apply openTxn_ok
      | with_reducible apply commitTxn_ok
      | with_reducible apply txnAbort_ok
      | with_reducible apply foldl_ok
      | with_reducible apply foldl_snd_ok
      | with_reducible apply foldl_fst_ok
      | with_reducible apply ite_ok
      | with_reducible apply storeWf_filter
      | with_reducible exact storeWf_nil
      | with_reducible apply Memory.wf_memWrite
      | with_reducible exact Memory.wf_nil
      | split

theorem finishWrite_ok {Q : List Instr} {f : From} {items : List RItem} {rs : List Checked} {s : State} (hok : Ok Q s) :
    Ok Q (finishWrite f items rs s) := by
  unfold finishWrite
  try dsimp only
  repeat' first
    | with_reducible assumption
    | (intro _)
    | with_reducible apply answerWrite_ok
    | with_reducible apply commitTxn_ok
    | with_reducible apply runControl_ok
    | with_reducible apply attempt_ok
    | with_reducible apply foldl_ok
    | with_reducible apply foldl_snd_ok
    | with_reducible apply foldl_fst_ok
    | with_reducible apply ite_ok

theorem stageAll_ok {Q : List Instr} {f : From} (l : List (RItem × (State → Sess → Checked))) {s : State} (hok : Ok Q s) : Ok Q (stageAll f l s).2 := by
  induction l generalizing s with
  | nil => exact hok
  | cons e l ih =>
    unfold stageAll
    try dsimp only
    repeat' first
      | with_reducible assumption
      | with_reducible apply ih
      | (intro _)
      | with_reducible apply stageWrite_ok
      | with_reducible apply auditSilent_ok
      | with_reducible apply foldl_ok
      | with_reducible apply foldl_snd_ok
      | with_reducible apply foldl_fst_ok
      | with_reducible apply ite_ok
      | with_reducible apply storeWf_filter
      | with_reducible exact storeWf_nil
      | with_reducible apply Memory.wf_memWrite
      | with_reducible exact Memory.wf_nil
      | split

theorem writeItems_ok {Q : List Instr} {f : From} {cs : List (RItem × (State → Sess → Bool → List SW → Checked))} {s : State} (hok : Ok Q s) :
    Ok Q (writeItems f cs s) := by
  unfold writeItems
  try dsimp only
  repeat' first
    | with_reducible assumption
    | (intro _)
    | with_reducible apply finishWrite_ok
    | with_reducible apply answerWrite_ok
    | with_reducible apply auditSilent_ok
    | with_reducible apply stageAll_ok
    | with_reducible apply foldl_ok
    | with_reducible apply foldl_snd_ok
    | with_reducible apply foldl_fst_ok
    | with_reducible apply ite_ok
    | with_reducible apply storeWf_filter
    | with_reducible exact storeWf_nil
    | with_reducible apply Memory.wf_memWrite
    | with_reducible exact Memory.wf_nil
    | split

theorem barApply_ok {Q : List Instr} {obj : ℕ} {value : ObjInfo → Option ℕ} {lost : ℕ} {s : State} (hok : Ok Q s) :
    Ok Q (barApply obj value lost s) := by
  unfold barApply
  try dsimp only
  repeat' first
    | with_reducible assumption
    | (intro _)
    | with_reducible apply barDone_ok
    | with_reducible apply writeItems_ok
    | with_reducible apply foldl_ok
    | with_reducible apply foldl_snd_ok
    | with_reducible apply foldl_fst_ok
    | with_reducible apply ite_ok

theorem drainList_ok {Q : List Instr} (l : List BarWrite) {s : State} (hok : Ok Q s) : Ok Q (drainList l s) := by
  induction l generalizing s with
  | nil => exact hok
  | cons w l ih =>
    unfold drainList
    split
    · exact ok_of hok rfl rfl rfl rfl rfl rfl rfl rfl
    · exact ih (barApply_ok hok)

theorem drainBar_ok {Q : List Instr} {s : State} (hok : Ok Q s) : Ok Q (drainBar s) := by
  unfold drainBar
  split
  · exact hok
  · exact drainList_ok _ (ok_of hok rfl rfl rfl rfl rfl rfl rfl rfl)

theorem execTxnIdleTimeout_ok {Q : List Instr} {sess : SessId} {s : State} (hok : Ok Q s) :
    OutOk Q (execTxnIdleTimeout sess s) := by
  unfold execTxnIdleTimeout
  try dsimp only
  repeat' first
    | with_reducible assumption
    | with_reducible apply outOk_next
    | (intro _)
    | with_reducible apply abortTxn_ok
    | with_reducible apply foldl_ok
    | with_reducible apply foldl_snd_ok
    | with_reducible apply foldl_fst_ok
    | with_reducible apply ite_ok
    | with_reducible apply storeWf_filter
    | with_reducible exact storeWf_nil
    | with_reducible apply Memory.wf_memWrite
    | with_reducible exact Memory.wf_nil
    | split

theorem settleTimed_ok {Q : List Instr} {t : Timed} {fail : Option (Status × ℕ)} {s : State} (hok : Ok Q s) :
    Ok Q (settleTimed t fail s) := by
  unfold settleTimed
  try dsimp only
  repeat' first
    | with_reducible assumption
    | with_reducible apply Ok.buffers
    | with_reducible apply Ok.host
    | (intro _)
    | with_reducible apply endTxn_ok
    | with_reducible apply updTxn_ok
    | with_reducible apply foldl_ok
    | with_reducible apply foldl_snd_ok
    | with_reducible apply foldl_fst_ok
    | with_reducible apply ite_ok
    | with_reducible apply storeWf_filter
    | with_reducible exact storeWf_nil
    | with_reducible apply Memory.wf_memWrite
    | with_reducible exact Memory.wf_nil
    | split
    | dsimp only
    | (with_reducible refine ok_snd ‹_ = (_, _)› ?_)
    | rfl
    | (rw [ok_mk]; refine ⟨?_, ?_, ?_, ?_, ?_, ?_, ?_, ?_, ?_⟩)
    | with_reducible apply Ok.store
    | with_reducible apply Ok.home
    | with_reducible apply Ok.staging
    | with_reducible apply Ok.msix
    | with_reducible apply Ok.region
    | with_reducible apply Ok.buffers
    | with_reducible apply Ok.slots
    | with_reducible apply Ok.host
    | with_reducible apply Ok.queue

theorem withdrawSwap_ok {Q : List Instr} {cs : List WCell} {s : State} (hok : Ok Q s) :
    Ok Q (withdrawSwap cs s) := by
  unfold withdrawSwap
  try dsimp only
  repeat' first
    | with_reducible assumption
    | (intro _)
    | with_reducible apply State.upMesh_ok
    | with_reducible apply foldl_ok
    | with_reducible apply foldl_snd_ok
    | with_reducible apply foldl_fst_ok
    | with_reducible apply ite_ok

theorem runTimed_ok {Q : List Instr} {t : Timed} {s : State} (hok : Ok Q s) :
    Ok Q (runTimed t s) := by
  unfold runTimed
  try dsimp only
  repeat' first
    | with_reducible assumption
    | (with_reducible refine side_ok ((journalCheck_keeps _ _).and (placement_keeps _ _)) ‹_› ?_)
    | with_reducible apply Ok.buffers
    | with_reducible apply Ok.host
    | (intro _)
    | with_reducible apply withdrawSwap_ok
    | with_reducible apply settleTimed_ok
    | with_reducible apply countWait_ok
    | with_reducible apply updTxn_ok
    | with_reducible apply lateEffects_ok
    | with_reducible apply applyCells_ok
    | with_reducible apply foldl_ok
    | with_reducible apply foldl_snd_ok
    | with_reducible apply foldl_fst_ok
    | with_reducible apply ite_ok
    | with_reducible apply storeWf_filter
    | with_reducible exact storeWf_nil
    | with_reducible apply Memory.wf_memWrite
    | with_reducible exact Memory.wf_nil
    | split
    | dsimp only
    | (with_reducible refine ok_snd ‹_ = (_, _)› ?_)
    | rfl
    | (rw [ok_mk]; refine ⟨?_, ?_, ?_, ?_, ?_, ?_, ?_, ?_, ?_⟩)
    | with_reducible apply Ok.store
    | with_reducible apply Ok.home
    | with_reducible apply Ok.staging
    | with_reducible apply Ok.msix
    | with_reducible apply Ok.region
    | with_reducible apply Ok.buffers
    | with_reducible apply Ok.slots
    | with_reducible apply Ok.host
    | with_reducible apply Ok.queue

theorem execTimedCommitApply_ok {Q : List Instr} {s : State} (hok : Ok Q s) :
    OutOk Q (execTimedCommitApply s) := by
  unfold execTimedCommitApply
  try dsimp only
  repeat' first
    | with_reducible assumption
    | with_reducible apply outOk_next
    | (intro _)
    | with_reducible apply runTimed_ok
    | with_reducible apply foldl_ok
    | with_reducible apply foldl_snd_ok
    | with_reducible apply foldl_fst_ok
    | with_reducible apply ite_ok
    | with_reducible apply storeWf_filter
    | with_reducible exact storeWf_nil
    | with_reducible apply Memory.wf_memWrite
    | with_reducible exact Memory.wf_nil
    | split

theorem execTxnCommitTimeout_ok {Q : List Instr} {s : State} (hok : Ok Q s) :
    OutOk Q (execTxnCommitTimeout s) := by
  unfold execTxnCommitTimeout
  try dsimp only
  repeat' first
    | with_reducible assumption
    | with_reducible apply outOk_next
    | with_reducible apply Ok.buffers
    | with_reducible apply Ok.host
    | (intro _)
    | with_reducible apply refuseCommit_ok
    | with_reducible apply drainBar_ok
    | with_reducible apply settleTimed_ok
    | with_reducible apply foldl_ok
    | with_reducible apply foldl_snd_ok
    | with_reducible apply foldl_fst_ok
    | with_reducible apply ite_ok
    | with_reducible apply storeWf_filter
    | with_reducible exact storeWf_nil
    | with_reducible apply Memory.wf_memWrite
    | with_reducible exact Memory.wf_nil
    | split
    | dsimp only
    | (with_reducible refine ok_snd ‹_ = (_, _)› ?_)
    | rfl
    | (rw [ok_mk]; refine ⟨?_, ?_, ?_, ?_, ?_, ?_, ?_, ?_, ?_⟩)
    | with_reducible apply Ok.store
    | with_reducible apply Ok.home
    | with_reducible apply Ok.staging
    | with_reducible apply Ok.msix
    | with_reducible apply Ok.region
    | with_reducible apply Ok.buffers
    | with_reducible apply Ok.slots
    | with_reducible apply Ok.host
    | with_reducible apply Ok.queue

theorem execWaitingCommitApply_ok {Q : List Instr} {s : State} (hok : Ok Q s) :
    OutOk Q (execWaitingCommitApply s) := by
  unfold execWaitingCommitApply
  try dsimp only
  repeat' first
    | with_reducible assumption
    | with_reducible apply outOk_next
    | (intro _)
    | with_reducible apply ageCommit_ok
    | with_reducible apply drainBar_ok
    | with_reducible apply retryWait_ok
    | with_reducible apply foldl_ok
    | with_reducible apply foldl_snd_ok
    | with_reducible apply foldl_fst_ok
    | with_reducible apply ite_ok
    | with_reducible apply storeWf_filter
    | with_reducible exact storeWf_nil
    | with_reducible apply Memory.wf_memWrite
    | with_reducible exact Memory.wf_nil
    | split

theorem execParseBankFree_ok {Q : List Instr} {s : State} (hok : Ok Q s) :
    OutOk Q (execParseBankFree s) := by
  unfold execParseBankFree
  try dsimp only
  repeat' first
    | with_reducible assumption
    | with_reducible apply outOk_next
    | (intro _)
    | with_reducible apply runTimed_ok
    | with_reducible apply drainBar_ok
    | with_reducible apply retryWait_ok
    | with_reducible apply foldl_ok
    | with_reducible apply foldl_snd_ok
    | with_reducible apply foldl_fst_ok
    | with_reducible apply ite_ok
    | with_reducible apply storeWf_filter
    | with_reducible exact storeWf_nil
    | with_reducible apply Memory.wf_memWrite
    | with_reducible exact Memory.wf_nil
    | split

/-! ### Zoa -/


theorem noteRead_ok {Q : List Instr} {x : Sess} {ctx : ℕ} {o : ObjInfo} {row : ℕ} {v : ℕ} {s : State} (hok : Ok Q s) :
    Ok Q (noteRead x ctx o row v s) := by
  unfold noteRead
  try dsimp only
  repeat' first
    | with_reducible assumption
    | (intro _)
    | with_reducible apply touchUnit_ok
    | with_reducible apply foldl_ok
    | with_reducible apply foldl_snd_ok
    | with_reducible apply foldl_fst_ok
    | with_reducible apply ite_ok
    | with_reducible apply storeWf_filter
    | with_reducible exact storeWf_nil
    | with_reducible apply Memory.wf_memWrite
    | with_reducible exact Memory.wf_nil
    | split

theorem noteCapture_ok {Q : List Instr} {ctx : ℕ} {o : ObjInfo} {row : ℕ} {s : State} (hok : Ok Q s) :
    Ok Q (noteCapture ctx o row s) := by
  unfold noteCapture
  try dsimp only
  repeat' first
    | with_reducible assumption
    | (intro _)
    | with_reducible apply State.upTime_ok
    | with_reducible apply foldl_ok
    | with_reducible apply foldl_snd_ok
    | with_reducible apply foldl_fst_ok
    | with_reducible apply ite_ok

theorem readItem_ok {Q : List Instr} {f : From} {x : Sess} {i : Item} {s : State} (hok : Ok Q s) :
    Ok Q (readItem f x i s).2 := by
  unfold readItem
  try dsimp only
  repeat' first
    | with_reducible assumption
    | (intro _)
    | with_reducible apply auditSilent_ok
    | with_reducible apply noteCapture_ok
    | with_reducible apply noteRead_ok
    | with_reducible apply foldl_ok
    | with_reducible apply foldl_snd_ok
    | with_reducible apply foldl_fst_ok
    | with_reducible apply ite_ok
    | with_reducible apply storeWf_filter
    | with_reducible exact storeWf_nil
    | with_reducible apply Memory.wf_memWrite
    | with_reducible exact Memory.wf_nil
    | split

theorem readItems_ok {Q : List Instr} {f : From} {x : Sess} (l : List Item) {s : State} (hok : Ok Q s) : Ok Q (readItems f x l s).2 := by
  induction l generalizing s with
  | nil => exact hok
  | cons e l ih =>
    unfold readItems
    try dsimp only
    repeat' first
      | with_reducible assumption
      | with_reducible apply ih
      | (intro _)
      | with_reducible apply readItem_ok

theorem answer_ok {Q : List Instr} {f : From} {ctx : ℕ} {st : Status} {items : List RItem} {s : State} (hok : Ok Q s) :
    Ok Q (answer f ctx st items s) := by
  unfold answer
  try dsimp only
  repeat' first
    | with_reducible assumption
    | (intro _)
    | with_reducible apply respond_ok

theorem opRead_ok {Q : List Instr} {f : From} {items : List Item} {x : Sess} {s : State} (hok : Ok Q s) :
    Ok Q (opRead f items x s) := by
  unfold opRead
  try dsimp only
  repeat' first
    | with_reducible assumption
    | (intro _)
    | with_reducible apply readItems_ok
    | with_reducible apply answer_ok

theorem opTableRead_ok {Q : List Instr} {f : From} {items : List Item} {x : Sess} {s : State} (hok : Ok Q s) :
    Ok Q (opTableRead f items x s) := by
  unfold opTableRead
  try dsimp only
  repeat' first
    | with_reducible assumption
    | (intro _)
    | with_reducible apply answer_ok
    | with_reducible apply auditSilent_ok
    | with_reducible apply readItems_ok
    | with_reducible apply foldl_ok
    | with_reducible apply foldl_snd_ok
    | with_reducible apply foldl_fst_ok
    | with_reducible apply ite_ok
    | with_reducible apply storeWf_filter
    | with_reducible exact storeWf_nil
    | with_reducible apply Memory.wf_memWrite
    | with_reducible exact Memory.wf_nil
    | split

theorem opWrite_ok {Q : List Instr} {f : From} {items : List Item} {_x : Sess} {s : State} (hok : Ok Q s) :
    Ok Q (opWrite f items _x s) := by
  unfold opWrite
  try dsimp only
  repeat' first
    | with_reducible assumption
    | (intro _)
    | with_reducible apply writeItems_ok

theorem opTxnOpen_ok {Q : List Instr} {f : From} {items : List Item} {x : Sess} {s : State} (hok : Ok Q s) :
    Ok Q (opTxnOpen f items x s) := by
  unfold opTxnOpen
  try dsimp only
  repeat' first
    | with_reducible assumption
    | (intro _)
    | with_reducible apply answer_ok
    | with_reducible apply auditSilent_ok
    | with_reducible apply openTxn_ok
    | with_reducible apply foldl_ok
    | with_reducible apply foldl_snd_ok
    | with_reducible apply foldl_fst_ok
    | with_reducible apply ite_ok

theorem opTxnCommit_ok {Q : List Instr} {f : From} {items : List Item} {x : Sess} {s : State} (hok : Ok Q s) :
    Ok Q (opTxnCommit f items x s) := by
  unfold opTxnCommit
  try dsimp only
  repeat' first
    | with_reducible assumption
    | (intro _)
    | with_reducible apply answer_ok
    | with_reducible apply auditSilent_ok
    | with_reducible apply commitTxn_ok
    | with_reducible apply foldl_ok
    | with_reducible apply foldl_snd_ok
    | with_reducible apply foldl_fst_ok
    | with_reducible apply ite_ok
    | with_reducible apply storeWf_filter
    | with_reducible exact storeWf_nil
    | with_reducible apply Memory.wf_memWrite
    | with_reducible exact Memory.wf_nil
    | split

theorem opTxnAbort_ok {Q : List Instr} {f : From} {items : List Item} {x : Sess} {s : State} (hok : Ok Q s) :
    Ok Q (opTxnAbort f items x s) := by
  unfold opTxnAbort
  try dsimp only
  repeat' first
    | with_reducible assumption
    | (intro _)
    | with_reducible apply answer_ok
    | with_reducible apply auditSilent_ok
    | with_reducible apply txnAbort_ok
    | with_reducible apply foldl_ok
    | with_reducible apply foldl_snd_ok
    | with_reducible apply foldl_fst_ok
    | with_reducible apply ite_ok

theorem opSnapshotOpen_ok {Q : List Instr} {f : From} {items : List Item} {x : Sess} {s : State} (hok : Ok Q s) :
    Ok Q (opSnapshotOpen f items x s) := by
  unfold opSnapshotOpen
  try dsimp only
  repeat' first
    | with_reducible assumption
    | with_reducible apply Ok.buffers
    | with_reducible apply Ok.host
    | (intro _; with_reducible rfl)
    | (intro _)
    | with_reducible apply answer_ok
    | with_reducible apply auditSilent_ok
    | with_reducible apply State.updSess_ok
    | with_reducible apply foldl_ok
    | with_reducible apply foldl_snd_ok
    | with_reducible apply foldl_fst_ok
    | with_reducible apply ite_ok
    | with_reducible apply storeWf_filter
    | with_reducible exact storeWf_nil
    | with_reducible apply Memory.wf_memWrite
    | with_reducible exact Memory.wf_nil
    | split
    | dsimp only
    | (with_reducible refine ok_snd ‹_ = (_, _)› ?_)
    | rfl
    | (rw [ok_mk]; refine ⟨?_, ?_, ?_, ?_, ?_, ?_, ?_, ?_, ?_⟩)
    | with_reducible apply Ok.store
    | with_reducible apply Ok.home
    | with_reducible apply Ok.staging
    | with_reducible apply Ok.msix
    | with_reducible apply Ok.region
    | with_reducible apply Ok.buffers
    | with_reducible apply Ok.slots
    | with_reducible apply Ok.host
    | with_reducible apply Ok.queue

theorem opSnapshotClose_ok {Q : List Instr} {f : From} {items : List Item} {x : Sess} {s : State} (hok : Ok Q s) :
    Ok Q (opSnapshotClose f items x s) := by
  unfold opSnapshotClose
  try dsimp only
  repeat' first
    | with_reducible assumption
    | (intro _)
    | with_reducible apply answer_ok
    | with_reducible apply endSnap_ok
    | with_reducible apply foldl_ok
    | with_reducible apply foldl_snd_ok
    | with_reducible apply foldl_fst_ok
    | with_reducible apply ite_ok

theorem execSnapshotExpire_ok {Q : List Instr} {sess : SessId} {s : State} (hok : Ok Q s) :
    OutOk Q (execSnapshotExpire sess s) := by
  unfold execSnapshotExpire
  try dsimp only
  repeat' first
    | with_reducible assumption
    | with_reducible apply outOk_next
    | (intro _)
    | with_reducible apply endSnap_ok
    | with_reducible apply foldl_ok
    | with_reducible apply foldl_snd_ok
    | with_reducible apply foldl_fst_ok
    | with_reducible apply ite_ok
    | with_reducible apply storeWf_filter
    | with_reducible exact storeWf_nil
    | with_reducible apply Memory.wf_memWrite
    | with_reducible exact Memory.wf_nil
    | split

theorem subscribeItem_ok {Q : List Instr} {f : From} {x : Sess} {a : List RItem × State} {i : Item} (hok : Ok Q a.2) :
    Ok Q (subscribeItem f x a i).2 := by
  unfold subscribeItem
  try dsimp only
  repeat' first
    | with_reducible assumption
    | (intro _; with_reducible rfl)
    | (intro _)
    | with_reducible apply auditSilent_ok
    | with_reducible apply State.updSess_ok
    | with_reducible apply foldl_ok
    | with_reducible apply foldl_snd_ok
    | with_reducible apply foldl_fst_ok
    | with_reducible apply ite_ok
    | with_reducible apply storeWf_filter
    | with_reducible exact storeWf_nil
    | with_reducible apply Memory.wf_memWrite
    | with_reducible exact Memory.wf_nil
    | split

theorem opSubscribe_ok {Q : List Instr} {f : From} {items : List Item} {x : Sess} {s : State} (hok : Ok Q s) :
    Ok Q (opSubscribe f items x s) := by
  unfold opSubscribe
  try dsimp only
  repeat' first
    | with_reducible assumption
    | (intro _)
    | with_reducible apply answer_ok
    | with_reducible apply subscribeItem_ok
    | with_reducible apply foldl_ok
    | with_reducible apply foldl_snd_ok
    | with_reducible apply foldl_fst_ok
    | with_reducible apply ite_ok

theorem unsubscribeItem_ok {Q : List Instr} {f : From} {x : Sess} {s : State} {i : Item} (hok : Ok Q s) :
    Ok Q (unsubscribeItem f x s i) := by
  unfold unsubscribeItem
  try dsimp only
  repeat' first
    | with_reducible assumption
    | (intro _; with_reducible rfl)
    | (intro _)
    | with_reducible apply State.updSess_ok
    | with_reducible apply auditSilent_ok
    | with_reducible apply foldl_ok
    | with_reducible apply foldl_snd_ok
    | with_reducible apply foldl_fst_ok
    | with_reducible apply ite_ok

theorem opUnsubscribe_ok {Q : List Instr} {f : From} {items : List Item} {x : Sess} {s : State} (hok : Ok Q s) :
    Ok Q (opUnsubscribe f items x s) := by
  unfold opUnsubscribe
  try dsimp only
  repeat' first
    | with_reducible assumption
    | (intro _)
    | with_reducible apply answer_ok
    | with_reducible apply unsubscribeItem_ok
    | with_reducible apply foldl_ok
    | with_reducible apply foldl_snd_ok
    | with_reducible apply foldl_fst_ok
    | with_reducible apply ite_ok

theorem makeNote_ok {Q : List Instr} {x : Sess} {s : State} (hok : Ok Q s) :
    Ok Q (makeNote x s) := by
  unfold makeNote
  try dsimp only
  repeat' first
    | with_reducible assumption
    | (intro _; with_reducible rfl)
    | (intro _)
    | with_reducible apply notify_ok
    | with_reducible apply State.updSess_ok
    | with_reducible apply foldl_ok
    | with_reducible apply foldl_snd_ok
    | with_reducible apply foldl_fst_ok
    | with_reducible apply ite_ok
    | with_reducible apply storeWf_filter
    | with_reducible exact storeWf_nil
    | with_reducible apply Memory.wf_memWrite
    | with_reducible exact Memory.wf_nil
    | split

theorem execNotify_ok {Q : List Instr} {turn : NotifyTurn} {s : State} (hok : Ok Q s) :
    OutOk Q (execNotify turn s) := by
  unfold execNotify
  try dsimp only
  repeat' first
    | with_reducible assumption
    | with_reducible apply outOk_next
    | (intro _)
    | with_reducible apply sendNotes_ok
    | with_reducible apply makeNote_ok
    | with_reducible apply foldl_ok
    | with_reducible apply foldl_snd_ok
    | with_reducible apply foldl_fst_ok
    | with_reducible apply ite_ok
    | with_reducible apply storeWf_filter
    | with_reducible exact storeWf_nil
    | with_reducible apply Memory.wf_memWrite
    | with_reducible exact Memory.wf_nil
    | split

theorem runOp_ok {Q : List Instr} {op : ℕ} {act : From → List Item → Sess → State → State} {q : Req} {items : List Item} {s : State} (hok : Ok Q s) (ha : ∀ f l x s, Ok Q s → Ok Q (act f l x s)) :
    Ok Q (runOp op act q items s) := by
  unfold runOp
  try dsimp only
  repeat' first
    | with_reducible assumption
    | with_reducible apply ha
    | (intro _)
    | with_reducible apply request_ok

theorem execWrite_ok {Q : List Instr} {q : Req} {items : List Item} {s : State} (hok : Ok Q s) :
    OutOk Q (execWrite q items s) := by
  unfold execWrite
  try dsimp only
  repeat' first
    | with_reducible assumption
    | with_reducible apply outOk_next
    | (intro _)
    | with_reducible apply runOp_ok
    | with_reducible apply opWrite_ok

theorem execTableRead_ok {Q : List Instr} {q : Req} {items : List Item} {s : State} (hok : Ok Q s) :
    OutOk Q (execTableRead q items s) := by
  unfold execTableRead
  try dsimp only
  repeat' first
    | with_reducible assumption
    | with_reducible apply outOk_next
    | (intro _)
    | with_reducible apply runOp_ok
    | with_reducible apply opTableRead_ok

theorem execTableWrite_ok {Q : List Instr} {q : Req} {items : List Item} {s : State} (hok : Ok Q s) :
    OutOk Q (execTableWrite q items s) := by
  unfold execTableWrite
  try dsimp only
  repeat' first
    | with_reducible assumption
    | with_reducible apply outOk_next
    | (intro _)
    | with_reducible apply runOp_ok
    | with_reducible apply opWrite_ok

theorem execTxnOpen_ok {Q : List Instr} {q : Req} {items : List Item} {s : State} (hok : Ok Q s) :
    OutOk Q (execTxnOpen q items s) := by
  unfold execTxnOpen
  try dsimp only
  repeat' first
    | with_reducible assumption
    | with_reducible apply outOk_next
    | (intro _)
    | with_reducible apply runOp_ok
    | with_reducible apply opTxnOpen_ok

theorem execTxnCommit_ok {Q : List Instr} {q : Req} {items : List Item} {s : State} (hok : Ok Q s) :
    OutOk Q (execTxnCommit q items s) := by
  unfold execTxnCommit
  try dsimp only
  repeat' first
    | with_reducible assumption
    | with_reducible apply outOk_next
    | (intro _)
    | with_reducible apply runOp_ok
    | with_reducible apply opTxnCommit_ok

theorem execTxnAbort_ok {Q : List Instr} {q : Req} {items : List Item} {s : State} (hok : Ok Q s) :
    OutOk Q (execTxnAbort q items s) := by
  unfold execTxnAbort
  try dsimp only
  repeat' first
    | with_reducible assumption
    | with_reducible apply outOk_next
    | (intro _)
    | with_reducible apply runOp_ok
    | with_reducible apply opTxnAbort_ok

theorem execSnapshotOpen_ok {Q : List Instr} {q : Req} {items : List Item} {s : State} (hok : Ok Q s) :
    OutOk Q (execSnapshotOpen q items s) := by
  unfold execSnapshotOpen
  try dsimp only
  repeat' first
    | with_reducible assumption
    | with_reducible apply outOk_next
    | (intro _)
    | with_reducible apply runOp_ok
    | with_reducible apply opSnapshotOpen_ok

theorem execSnapshotClose_ok {Q : List Instr} {q : Req} {items : List Item} {s : State} (hok : Ok Q s) :
    OutOk Q (execSnapshotClose q items s) := by
  unfold execSnapshotClose
  try dsimp only
  repeat' first
    | with_reducible assumption
    | with_reducible apply outOk_next
    | (intro _)
    | with_reducible apply runOp_ok
    | with_reducible apply opSnapshotClose_ok

theorem execSubscribe_ok {Q : List Instr} {q : Req} {items : List Item} {s : State} (hok : Ok Q s) :
    OutOk Q (execSubscribe q items s) := by
  unfold execSubscribe
  try dsimp only
  repeat' first
    | with_reducible assumption
    | with_reducible apply outOk_next
    | (intro _)
    | with_reducible apply runOp_ok
    | with_reducible apply opSubscribe_ok

theorem execUnsubscribe_ok {Q : List Instr} {q : Req} {items : List Item} {s : State} (hok : Ok Q s) :
    OutOk Q (execUnsubscribe q items s) := by
  unfold execUnsubscribe
  try dsimp only
  repeat' first
    | with_reducible assumption
    | with_reducible apply outOk_next
    | (intro _)
    | with_reducible apply runOp_ok
    | with_reducible apply opUnsubscribe_ok

theorem runMessage_ok {Q : List Instr} {sess : SessId} {m : Message} {s : State} (hok : Ok Q s) :
    Ok Q (runMessage sess m s) := by
  unfold runMessage
  dsimp only
  split
  · exact runOp_ok hok fun _ _ _ _ h => opRead_ok h
  · exact runOp_ok hok fun _ _ _ _ h => opTableRead_ok h
  · exact runOp_ok hok fun _ _ _ _ h => opTxnOpen_ok h
  · exact runOp_ok hok fun _ _ _ _ h => opTxnCommit_ok h
  · exact runOp_ok hok fun _ _ _ _ h => opTxnAbort_ok h
  · split
    · exact runOp_ok hok fun _ _ _ _ h => opSnapshotClose_ok h
    · exact runOp_ok hok fun _ _ _ _ h => opSnapshotOpen_ok h
  · split
    · exact runOp_ok hok fun _ _ _ _ h => opUnsubscribe_ok h
    · exact runOp_ok hok fun _ _ _ _ h => opSubscribe_ok h
  · exact runOp_ok hok fun _ _ _ _ h => opWrite_ok h

theorem discardMessage_ok {Q : List Instr} {s : State} (hok : Ok Q s) :
    Ok Q (discardMessage s) := by
  unfold discardMessage
  try dsimp only
  repeat' first
    | with_reducible assumption
    | (intro _)
    | with_reducible apply State.add64_ok

theorem execZoaMessageDiscard_ok {Q : List Instr} {sess : SessId} {msg : Bytes} {s : State} (hok : Ok Q s) :
    OutOk Q (execZoaMessageDiscard sess msg s) := by
  unfold execZoaMessageDiscard
  try dsimp only
  repeat' first
    | with_reducible assumption
    | with_reducible apply outOk_next
    | (intro _)
    | with_reducible apply discardMessage_ok
    | with_reducible apply foldl_ok
    | with_reducible apply foldl_snd_ok
    | with_reducible apply foldl_fst_ok
    | with_reducible apply ite_ok
    | with_reducible apply storeWf_filter
    | with_reducible exact storeWf_nil
    | with_reducible apply Memory.wf_memWrite
    | with_reducible exact Memory.wf_nil
    | split

theorem Memory.wf_windowWrite {m : List Host.Cell} (h : Memory.wf m = true) (base size offset : Nat) (data : Bytes) :
    Memory.wf (windowWrite base size offset data m) = true :=
  Memory.wf_memWrite _ _ _ h

theorem bar4Write_ok {Q : List Instr} {offset : Nat} {data : Bytes} {s : State} (hok : Ok Q s) :
    Ok Q (bar4Write offset data s) := by
  unfold bar4Write
  extract_lets slots
  apply State.upHost_ok
  · apply mbox_ok hok
    · simp [slots]
    · intro m hm
      obtain ⟨e, he, rfl⟩ := List.mem_map.1 hm
      have w := hok.buffers e.1 (List.of_mem_zip (List.zipIdx_eq_zip_range' (l := s.mbox) ▸ he)).1
      with_reducible exact Memory.wf_windowWrite w _ _ _ _
  · intro x hx
    constructor
    · with_reducible exact Memory.wf_windowWrite hx.1 _ _ _ _
    · with_reducible exact Memory.wf_windowWrite hx.2 _ _ _ _

theorem bar4Writes_ok {Q : List Instr} {l : List (ℕ × Bytes)} {s : State} (hok : Ok Q s) :
    Ok Q (bar4Writes l s) := by
  unfold bar4Writes
  try dsimp only
  repeat' first
    | with_reducible assumption
    | (intro _)
    | with_reducible apply bar4Write_ok
    | with_reducible apply foldl_ok

theorem execMailboxGo_ok {Q : List Instr} {slot : Fin 4} {go : BitVec 32} {length : BitVec 32} {writes : List (ℕ × Bytes)} {s : State} (hok : Ok Q s) :
    OutOk Q (execMailboxGo slot go length writes s) := by
  unfold execMailboxGo
  try dsimp only
  repeat' first
    | with_reducible assumption
    | with_reducible apply outOk_next
    | (intro _)
    | with_reducible apply bar4Writes_ok
    | with_reducible apply discardMessage_ok
    | with_reducible apply State.updMbox_ok
    | with_reducible apply placeInSlot_ok
    | with_reducible apply runMessage_ok
    | with_reducible apply foldl_ok
    | with_reducible apply foldl_snd_ok
    | with_reducible apply foldl_fst_ok
    | with_reducible apply ite_ok
    | with_reducible apply storeWf_filter
    | with_reducible exact storeWf_nil
    | with_reducible apply Memory.wf_memWrite
    | with_reducible exact Memory.wf_nil
    | split

theorem execMailboxAck_ok {Q : List Instr} {slot : Fin 4} {s : State} (hok : Ok Q s) :
    OutOk Q (execMailboxAck slot s) := by
  unfold execMailboxAck
  try dsimp only
  repeat' first
    | with_reducible assumption
    | with_reducible apply outOk_next
    | (intro _)
    | with_reducible apply State.updMbox_ok

theorem execMailboxNotifyPlace_ok {Q : List Instr} {slot : Fin 4} {s : State} (hok : Ok Q s) :
    OutOk Q (execMailboxNotifyPlace slot s) := by
  unfold execMailboxNotifyPlace
  try dsimp only
  repeat' first
    | with_reducible assumption
    | with_reducible apply outOk_next
    | (intro _; with_reducible rfl)
    | (intro _)
    | with_reducible apply State.emit_ok
    | with_reducible apply State.updSess_ok
    | with_reducible apply State.heard_ok
    | with_reducible apply placeInSlot_ok
    | with_reducible apply foldl_ok
    | with_reducible apply foldl_snd_ok
    | with_reducible apply foldl_fst_ok
    | with_reducible apply ite_ok
    | with_reducible apply storeWf_filter
    | with_reducible exact storeWf_nil
    | with_reducible apply Memory.wf_memWrite
    | with_reducible exact Memory.wf_nil
    | split

theorem countBarWrite_ok {Q : List Instr} {s : State} (hok : Ok Q s) :
    Ok Q (countBarWrite s) := by
  unfold countBarWrite
  try dsimp only
  repeat' first
    | with_reducible assumption
    | (intro _)
    | with_reducible apply State.wr_ok

theorem barWrite_ok {Q : List Instr} {obj : ℕ} {value : ObjInfo → Option ℕ} {lost : ℕ} {s : State} (hok : Ok Q s) :
    Ok Q (barWrite obj value lost s) := by
  unfold barWrite
  try dsimp only
  repeat' first
    | with_reducible assumption
    | with_reducible apply Ok.buffers
    | with_reducible apply Ok.host
    | (intro _)
    | with_reducible apply countBarWrite_ok
    | with_reducible apply barApply_ok
    | with_reducible apply foldl_ok
    | with_reducible apply foldl_snd_ok
    | with_reducible apply foldl_fst_ok
    | with_reducible apply ite_ok
    | with_reducible apply storeWf_filter
    | with_reducible exact storeWf_nil
    | with_reducible apply Memory.wf_memWrite
    | with_reducible exact Memory.wf_nil
    | split
    | dsimp only
    | (with_reducible refine ok_snd ‹_ = (_, _)› ?_)
    | rfl
    | (rw [ok_mk]; refine ⟨?_, ?_, ?_, ?_, ?_, ?_, ?_, ?_, ?_⟩)
    | with_reducible apply Ok.store
    | with_reducible apply Ok.home
    | with_reducible apply Ok.staging
    | with_reducible apply Ok.msix
    | with_reducible apply Ok.region
    | with_reducible apply Ok.buffers
    | with_reducible apply Ok.slots
    | with_reducible apply Ok.host
    | with_reducible apply Ok.queue

theorem execBar0Write_ok {Q : List Instr} {offset : ℕ} {data : Bytes} {s : State} (hok : Ok Q s) :
    OutOk Q (execBar0Write offset data s) := by
  unfold execBar0Write
  try dsimp only
  repeat' first
    | with_reducible assumption
    | with_reducible apply outOk_next
    | (intro _)
    | with_reducible apply State.sat32_ok
    | with_reducible apply countBarWrite_ok
    | with_reducible apply barWrite_ok
    | with_reducible apply foldl_ok
    | with_reducible apply foldl_snd_ok
    | with_reducible apply foldl_fst_ok
    | with_reducible apply ite_ok
    | with_reducible apply storeWf_filter
    | with_reducible exact storeWf_nil
    | with_reducible apply Memory.wf_memWrite
    | with_reducible exact Memory.wf_nil
    | split

theorem barRead_ok {Q : List Instr} {offset : ℕ} {size : ℕ} {s : State} (hok : Ok Q s) :
    Ok Q (barRead offset size s) := by
  unfold barRead
  try dsimp only
  repeat' first
    | with_reducible assumption
    | (intro _)
    | with_reducible apply auditSilent_ok
    | with_reducible apply noteRead_ok
    | with_reducible apply State.emit_ok
    | with_reducible apply foldl_ok
    | with_reducible apply foldl_snd_ok
    | with_reducible apply foldl_fst_ok
    | with_reducible apply ite_ok
    | with_reducible apply storeWf_filter
    | with_reducible exact storeWf_nil
    | with_reducible apply Memory.wf_memWrite
    | with_reducible exact Memory.wf_nil
    | split

theorem execRead_ok {Q : List Instr} {r : ReadReq} {s : State} (hok : Ok Q s) :
    OutOk Q (execRead r s) := by
  unfold execRead
  try dsimp only
  repeat' first
    | with_reducible assumption
    | with_reducible apply outOk_next
    | (intro _)
    | with_reducible apply runOp_ok
    | with_reducible apply opRead_ok
    | with_reducible apply barRead_ok
    | with_reducible apply foldl_ok
    | with_reducible apply foldl_snd_ok
    | with_reducible apply foldl_fst_ok
    | with_reducible apply ite_ok
    | with_reducible apply storeWf_filter
    | with_reducible exact storeWf_nil
    | with_reducible apply Memory.wf_memWrite
    | with_reducible exact Memory.wf_nil
    | split

theorem viaWrite_ok {Q : List Instr} {v : Via} {obj : ℕ} {row : ℕ} {fld : ℕ} {lost : ℕ} {val : Option ℕ} {s : State} (hok : Ok Q s) :
    Ok Q (viaWrite v obj row fld lost val s) := by
  unfold viaWrite
  try dsimp only
  repeat' first
    | with_reducible assumption
    | (intro _)
    | with_reducible apply barWrite_ok
    | with_reducible apply barDone_ok
    | with_reducible apply countBarWrite_ok
    | with_reducible apply request_ok
    | with_reducible apply writeItems_ok
    | with_reducible apply foldl_ok
    | with_reducible apply foldl_snd_ok
    | with_reducible apply foldl_fst_ok
    | with_reducible apply ite_ok

/-! ### Restore -/


theorem scanJournal_ok {Q : List Instr} {s : State} (hok : Ok Q s) :
    Ok Q (scanJournal s) := by
  unfold scanJournal
  try dsimp only
  repeat' first
    | with_reducible assumption
    | with_reducible apply Ok.buffers
    | with_reducible apply Ok.host
    | (intro _)
    | with_reducible apply State.wr_ok
    | with_reducible apply foldl_ok
    | with_reducible apply foldl_snd_ok
    | with_reducible apply foldl_fst_ok
    | with_reducible apply ite_ok
    | with_reducible apply storeWf_filter
    | with_reducible exact storeWf_nil
    | with_reducible apply Memory.wf_memWrite
    | with_reducible exact Memory.wf_nil
    | split
    | dsimp only
    | (with_reducible refine ok_snd ‹_ = (_, _)› ?_)
    | rfl
    | (rw [ok_mk]; refine ⟨?_, ?_, ?_, ?_, ?_, ?_, ?_, ?_, ?_⟩)
    | with_reducible apply Ok.store
    | with_reducible apply Ok.home
    | with_reducible apply Ok.staging
    | with_reducible apply Ok.msix
    | with_reducible apply Ok.region
    | with_reducible apply Ok.buffers
    | with_reducible apply Ok.slots
    | with_reducible apply Ok.host
    | with_reducible apply Ok.queue

theorem putCells_ok {Q : List Instr} {cs : List WCell} {s : State} (hok : Ok Q s) :
    Ok Q (putCells cs s) := by
  unfold putCells
  try dsimp only
  repeat' first
    | with_reducible assumption
    | (intro _)
    | with_reducible apply State.wr_ok
    | with_reducible apply foldl_ok

theorem defaulted_ok {Q : List Instr} {obj : ℕ} {s : State} (hok : Ok Q s) :
    Ok Q (defaulted obj s) := by
  unfold defaulted
  try dsimp only
  repeat' first
    | with_reducible assumption
    | (intro _)
    | with_reducible apply State.ws_ok
    | with_reducible apply State.sat32_ok

theorem settleRestore_ok {Q : List Instr}  (n : Nat) {cs : List WCell} {s : State} (hok : Ok Q s) : Ok Q (settleRestore n cs s).2 := by
  induction n generalizing cs s with
  | zero => exact hok
  | succ n ih =>
    unfold settleRestore
    try dsimp only
    repeat' first
      | with_reducible assumption
      | with_reducible apply ih
      | (intro _)
      | with_reducible apply defaulted_ok
      | with_reducible apply foldl_ok
      | with_reducible apply foldl_snd_ok
      | with_reducible apply foldl_fst_ok
      | with_reducible apply ite_ok
      | with_reducible apply storeWf_filter
      | with_reducible exact storeWf_nil
      | with_reducible apply Memory.wf_memWrite
      | with_reducible exact Memory.wf_nil
      | split

theorem restoreValues_ok {Q : List Instr} {bad : List ℕ} {s : State} (hok : Ok Q s) :
    Ok Q (restoreValues bad s) := by
  unfold restoreValues
  try dsimp only
  repeat' first
    | with_reducible assumption
    | with_reducible apply Ok.buffers
    | with_reducible apply Ok.host
    | (intro _)
    | with_reducible apply defaulted_ok
    | with_reducible apply settleRestore_ok
    | with_reducible apply putCells_ok
    | with_reducible apply State.openGen_ok
    | with_reducible apply State.upGen_ok
    | with_reducible apply State.ws_ok
    | with_reducible apply State.upMesh_ok
    | with_reducible apply cellEffect_ok
    | with_reducible apply foldl_ok
    | with_reducible apply foldl_snd_ok
    | with_reducible apply foldl_fst_ok
    | with_reducible apply ite_ok
    | with_reducible apply storeWf_filter
    | with_reducible exact storeWf_nil
    | with_reducible apply Memory.wf_memWrite
    | with_reducible exact Memory.wf_nil
    | split
    | dsimp only
    | (with_reducible refine ok_snd ‹_ = (_, _)› ?_)
    | rfl
    | (rw [ok_mk]; refine ⟨?_, ?_, ?_, ?_, ?_, ?_, ?_, ?_, ?_⟩)
    | with_reducible apply Ok.store
    | with_reducible apply Ok.home
    | with_reducible apply Ok.staging
    | with_reducible apply Ok.msix
    | with_reducible apply Ok.region
    | with_reducible apply Ok.buffers
    | with_reducible apply Ok.slots
    | with_reducible apply Ok.host
    | with_reducible apply Ok.queue

theorem enterReady_ok {Q : List Instr} {s : State} (hok : Ok Q s) :
    Ok Q (enterReady s) := by
  unfold enterReady
  try dsimp only
  repeat' first
    | with_reducible assumption
    | (intro _)
    | with_reducible apply State.upBoot_ok
    | with_reducible apply enterPhase_ok
    | with_reducible apply restartPort_ok
    | with_reducible apply State.upFw_ok
    | with_reducible apply foldl_ok
    | with_reducible apply foldl_snd_ok
    | with_reducible apply foldl_fst_ok
    | with_reducible apply ite_ok

theorem bootDone_ok {Q : List Instr} {s : State} (hok : Ok Q s) :
    Ok Q (bootDone s) := by
  unfold bootDone
  try dsimp only
  repeat' first
    | with_reducible assumption
    | (intro _)
    | with_reducible apply State.wrHome_ok
    | with_reducible apply State.upBoot_ok
    | with_reducible apply foldl_ok
    | with_reducible apply foldl_snd_ok
    | with_reducible apply foldl_fst_ok
    | with_reducible apply ite_ok

theorem execRestore_ok {Q : List Instr} {bad : List (BitVec 20)} {s : State} (hok : Ok Q s) :
    OutOk Q (execRestore bad s) := by
  unfold execRestore
  try dsimp only
  repeat' first
    | with_reducible assumption
    | with_reducible apply outOk_next
    | (intro _)
    | with_reducible apply scanJournal_ok
    | with_reducible apply lifeFinish_ok
    | with_reducible apply State.openGen_ok
    | with_reducible apply restoreValues_ok
    | with_reducible apply enterReady_ok
    | with_reducible apply bootDone_ok
    | with_reducible apply foldl_ok
    | with_reducible apply foldl_snd_ok
    | with_reducible apply foldl_fst_ok
    | with_reducible apply ite_ok
    | with_reducible apply storeWf_filter
    | with_reducible exact storeWf_nil
    | with_reducible apply Memory.wf_memWrite
    | with_reducible exact Memory.wf_nil
    | split

/-! ### TimeCmds -/


theorem stepGrid_ok {Q : List Instr} {size : ℤ} {s : State} (hok : Ok Q s) :
    Ok Q (stepGrid size s) := by
  unfold stepGrid
  try dsimp only
  repeat' first
    | with_reducible assumption
    | (intro _)
    | with_reducible apply State.openGen_ok
    | with_reducible apply State.upTime_ok
    | with_reducible apply State.ws_ok
    | with_reducible apply State.sat32_ok
    | with_reducible apply dumpsAfterStep_ok
    | with_reducible apply triggersAfterStep_ok
    | with_reducible apply meshStepped_ok

theorem execGridStep_ok {Q : List Instr} {s : State} (hok : Ok Q s) :
    OutOk Q (execGridStep s) := by
  unfold execGridStep
  try dsimp only
  repeat' first
    | with_reducible assumption
    | with_reducible apply outOk_next
    | (intro _)
    | with_reducible apply stepGrid_ok
    | with_reducible apply State.upTime_ok
    | with_reducible apply foldl_ok
    | with_reducible apply foldl_snd_ok
    | with_reducible apply foldl_fst_ok
    | with_reducible apply ite_ok
    | with_reducible apply storeWf_filter
    | with_reducible exact storeWf_nil
    | with_reducible apply Memory.wf_memWrite
    | with_reducible exact Memory.wf_nil
    | split

theorem execDomainSourceLoss_ok {Q : List Instr} {d : Dom} {s : State} (hok : Ok Q s) :
    OutOk Q (execDomainSourceLoss d s) := by
  unfold execDomainSourceLoss
  try dsimp only
  repeat' first
    | with_reducible assumption
    | with_reducible apply outOk_next
    | (intro _)
    | with_reducible apply loseDomain_ok
    | with_reducible apply foldl_ok
    | with_reducible apply foldl_snd_ok
    | with_reducible apply foldl_fst_ok
    | with_reducible apply ite_ok
    | with_reducible apply storeWf_filter
    | with_reducible exact storeWf_nil
    | with_reducible apply Memory.wf_memWrite
    | with_reducible exact Memory.wf_nil
    | split

theorem execTriggerPulse_ok {Q : List Instr} {row : Fin 12} {s : State} (hok : Ok Q s) :
    OutOk Q (execTriggerPulse row s) := by
  unfold execTriggerPulse
  try dsimp only
  repeat' first
    | with_reducible assumption
    | with_reducible apply outOk_next
    | (intro _)
    | with_reducible apply triggerAdvance_ok
    | with_reducible apply sideTrigger_ok
    | with_reducible apply State.emit_ok
    | with_reducible apply foldl_ok
    | with_reducible apply foldl_snd_ok
    | with_reducible apply foldl_fst_ok
    | with_reducible apply ite_ok
    | with_reducible apply storeWf_filter
    | with_reducible exact storeWf_nil
    | with_reducible apply Memory.wf_memWrite
    | with_reducible exact Memory.wf_nil
    | split

/-! ### Objects -/


theorem servoWrite_ok {Q : List Instr} {w : Servo} {obj : ℕ} {val : Bool → Option ℕ} {s : State} (hok : Ok Q s) :
    Ok Q (servoWrite w obj val s) := by
  unfold servoWrite
  try dsimp only
  repeat' first
    | with_reducible assumption
    | (intro _)
    | with_reducible apply viaWrite_ok
    | with_reducible apply timeEffect_ok
    | with_reducible apply storeCell_ok
    | with_reducible apply foldl_ok
    | with_reducible apply foldl_snd_ok
    | with_reducible apply foldl_fst_ok
    | with_reducible apply ite_ok
    | with_reducible apply storeWf_filter
    | with_reducible exact storeWf_nil
    | with_reducible apply Memory.wf_memWrite
    | with_reducible exact Memory.wf_nil
    | split

theorem execQueueFlush_ok {Q : List Instr} {v : Via} {queue : BitVec 32} {s : State} (hok : Ok Q s) :
    OutOk Q (execQueueFlush v queue s) := by
  unfold execQueueFlush
  try dsimp only
  repeat' first
    | with_reducible assumption
    | with_reducible apply outOk_next
    | (intro _)
    | with_reducible apply viaWrite_ok

theorem execGridSet_ok {Q : List Instr} {v : Via} {t : BitVec 80} {s : State} (hok : Ok Q s) :
    OutOk Q (execGridSet v t s) := by
  unfold execGridSet
  try dsimp only
  repeat' first
    | with_reducible assumption
    | with_reducible apply outOk_next
    | (intro _)
    | with_reducible apply viaWrite_ok

theorem execGridRelock_ok {Q : List Instr} {v : Via} {x : BitVec 8} {s : State} (hok : Ok Q s) :
    OutOk Q (execGridRelock v x s) := by
  unfold execGridRelock
  try dsimp only
  repeat' first
    | with_reducible assumption
    | with_reducible apply outOk_next
    | (intro _)
    | with_reducible apply viaWrite_ok

theorem execGridSourceWrite_ok {Q : List Instr} {v : Via} {x : BitVec 8} {s : State} (hok : Ok Q s) :
    OutOk Q (execGridSourceWrite v x s) := by
  unfold execGridSourceWrite
  try dsimp only
  repeat' first
    | with_reducible assumption
    | with_reducible apply outOk_next
    | (intro _)
    | with_reducible apply viaWrite_ok

theorem execDomainQualify_ok {Q : List Instr} {w : Servo} {d : Dom} {x : BitVec 8} {s : State} (hok : Ok Q s) :
    OutOk Q (execDomainQualify w d x s) := by
  unfold execDomainQualify
  try dsimp only
  repeat' first
    | with_reducible assumption
    | with_reducible apply outOk_next
    | (intro _)
    | with_reducible apply servoWrite_ok

theorem execDomainTimeSet_ok {Q : List Instr} {w : Servo} {d : Dom} {t : BitVec 80} {s : State} (hok : Ok Q s) :
    OutOk Q (execDomainTimeSet w d t s) := by
  unfold execDomainTimeSet
  try dsimp only
  repeat' first
    | with_reducible assumption
    | with_reducible apply outOk_next
    | (intro _)
    | with_reducible apply servoWrite_ok

theorem execDomainAdjust_ok {Q : List Instr} {w : Servo} {d : Dom} {x : BitVec 64} {s : State} (hok : Ok Q s) :
    OutOk Q (execDomainAdjust w d x s) := by
  unfold execDomainAdjust
  try dsimp only
  repeat' first
    | with_reducible assumption
    | with_reducible apply outOk_next
    | (intro _)
    | with_reducible apply servoWrite_ok

theorem execDomainIncrementWrite_ok {Q : List Instr} {w : Servo} {d : Dom} {x : BitVec 64} {s : State} (hok : Ok Q s) :
    OutOk Q (execDomainIncrementWrite w d x s) := by
  unfold execDomainIncrementWrite
  try dsimp only
  repeat' first
    | with_reducible assumption
    | with_reducible apply outOk_next
    | (intro _)
    | with_reducible apply servoWrite_ok

theorem execTimeTriggerEnable_ok {Q : List Instr} {v : Via} {row : BitVec 32} {x : BitVec 256} {s : State} (hok : Ok Q s) :
    OutOk Q (execTimeTriggerEnable v row x s) := by
  unfold execTimeTriggerEnable
  try dsimp only
  repeat' first
    | with_reducible assumption
    | with_reducible apply outOk_next
    | (intro _)
    | with_reducible apply viaWrite_ok

theorem execRouteQuery_ok {Q : List Instr} {v : Via} {x : BitVec 288} {s : State} (hok : Ok Q s) :
    OutOk Q (execRouteQuery v x s) := by
  unfold execRouteQuery
  try dsimp only
  repeat' first
    | with_reducible assumption
    | with_reducible apply outOk_next
    | (intro _)
    | with_reducible apply viaWrite_ok

theorem execExactQuery_ok {Q : List Instr} {v : Via} {x : BitVec 544} {s : State} (hok : Ok Q s) :
    OutOk Q (execExactQuery v x s) := by
  unfold execExactQuery
  try dsimp only
  repeat' first
    | with_reducible assumption
    | with_reducible apply outOk_next
    | (intro _)
    | with_reducible apply viaWrite_ok

theorem execRangeSearch_ok {Q : List Instr} {v : Via} {x : BitVec 512} {s : State} (hok : Ok Q s) :
    OutOk Q (execRangeSearch v x s) := by
  unfold execRangeSearch
  try dsimp only
  repeat' first
    | with_reducible assumption
    | with_reducible apply outOk_next
    | (intro _)
    | with_reducible apply viaWrite_ok

theorem execRangeSearchNext_ok {Q : List Instr} {v : Via} {x : BitVec 8} {s : State} (hok : Ok Q s) :
    OutOk Q (execRangeSearchNext v x s) := by
  unfold execRangeSearchNext
  try dsimp only
  repeat' first
    | with_reducible assumption
    | with_reducible apply outOk_next
    | (intro _)
    | with_reducible apply viaWrite_ok

theorem execRangeDirectInvalidate_ok {Q : List Instr} {v : Via} {row : BitVec 32} {x : BitVec 960} {s : State} (hok : Ok Q s) :
    OutOk Q (execRangeDirectInvalidate v row x s) := by
  unfold execRangeDirectInvalidate
  try dsimp only
  repeat' first
    | with_reducible assumption
    | with_reducible apply outOk_next
    | (intro _)
    | with_reducible apply viaWrite_ok

theorem execRangeDirectWrite_ok {Q : List Instr} {v : Via} {row : BitVec 32} {x : BitVec 960} {s : State} (hok : Ok Q s) :
    OutOk Q (execRangeDirectWrite v row x s) := by
  unfold execRangeDirectWrite
  try dsimp only
  repeat' first
    | with_reducible assumption
    | with_reducible apply outOk_next
    | (intro _)
    | with_reducible apply viaWrite_ok

theorem execRangeDirectValidate_ok {Q : List Instr} {v : Via} {row : BitVec 32} {x : BitVec 960} {s : State} (hok : Ok Q s) :
    OutOk Q (execRangeDirectValidate v row x s) := by
  unfold execRangeDirectValidate
  try dsimp only
  repeat' first
    | with_reducible assumption
    | with_reducible apply outOk_next
    | (intro _)
    | with_reducible apply viaWrite_ok

theorem execMeshLeaveRequest_ok {Q : List Instr} {v : Via} {x : BitVec 8} {s : State} (hok : Ok Q s) :
    OutOk Q (execMeshLeaveRequest v x s) := by
  unfold execMeshLeaveRequest
  try dsimp only
  repeat' first
    | with_reducible assumption
    | with_reducible apply outOk_next
    | (intro _)
    | with_reducible apply viaWrite_ok

theorem execPortRetrain_ok {Q : List Instr} {v : Via} {row : BitVec 32} {x : BitVec 8} {s : State} (hok : Ok Q s) :
    OutOk Q (execPortRetrain v row x s) := by
  unfold execPortRetrain
  try dsimp only
  repeat' first
    | with_reducible assumption
    | with_reducible apply outOk_next
    | (intro _)
    | with_reducible apply viaWrite_ok

theorem execHbmFreqRequest_ok {Q : List Instr} {v : Via} {x : BitVec 8} {s : State} (hok : Ok Q s) :
    OutOk Q (execHbmFreqRequest v x s) := by
  unfold execHbmFreqRequest
  try dsimp only
  repeat' first
    | with_reducible assumption
    | with_reducible apply outOk_next
    | (intro _)
    | with_reducible apply viaWrite_ok

theorem execHbmServiceMode_ok {Q : List Instr} {v : Via} {x : BitVec 8} {s : State} (hok : Ok Q s) :
    OutOk Q (execHbmServiceMode v x s) := by
  unfold execHbmServiceMode
  try dsimp only
  repeat' first
    | with_reducible assumption
    | with_reducible apply outOk_next
    | (intro _)
    | with_reducible apply viaWrite_ok

theorem execHbmPatternWrite_ok {Q : List Instr} {v : Via} {p : Pattern} {s : State} (hok : Ok Q s) :
    OutOk Q (execHbmPatternWrite v p s) := by
  unfold execHbmPatternWrite
  try dsimp only
  repeat' first
    | with_reducible assumption
    | with_reducible apply outOk_next
    | (intro _)
    | with_reducible apply viaWrite_ok

theorem execHbmPatternReadCompare_ok {Q : List Instr} {v : Via} {p : Pattern} {s : State} (hok : Ok Q s) :
    OutOk Q (execHbmPatternReadCompare v p s) := by
  unfold execHbmPatternReadCompare
  try dsimp only
  repeat' first
    | with_reducible assumption
    | with_reducible apply outOk_next
    | (intro _)
    | with_reducible apply viaWrite_ok

theorem execHbmPatternWriteReadCompare_ok {Q : List Instr} {v : Via} {p : Pattern} {s : State} (hok : Ok Q s) :
    OutOk Q (execHbmPatternWriteReadCompare v p s) := by
  unfold execHbmPatternWriteReadCompare
  try dsimp only
  repeat' first
    | with_reducible assumption
    | with_reducible apply outOk_next
    | (intro _)
    | with_reducible apply viaWrite_ok

theorem execHbmPatternLoopback_ok {Q : List Instr} {v : Via} {p : Pattern} {s : State} (hok : Ok Q s) :
    OutOk Q (execHbmPatternLoopback v p s) := by
  unfold execHbmPatternLoopback
  try dsimp only
  repeat' first
    | with_reducible assumption
    | with_reducible apply outOk_next
    | (intro _)
    | with_reducible apply viaWrite_ok

theorem execTrolleyGo_ok {Q : List Instr} {v : Via} {channel : Fin 32} {x : BitVec 64} {s : State} (hok : Ok Q s) :
    OutOk Q (execTrolleyGo v channel x s) := by
  unfold execTrolleyGo
  try dsimp only
  repeat' first
    | with_reducible assumption
    | with_reducible apply outOk_next
    | (intro _)
    | with_reducible apply viaWrite_ok

theorem execTrolleyStop_ok {Q : List Instr} {v : Via} {x : BitVec 8} {s : State} (hok : Ok Q s) :
    OutOk Q (execTrolleyStop v x s) := by
  unfold execTrolleyStop
  try dsimp only
  repeat' first
    | with_reducible assumption
    | with_reducible apply outOk_next
    | (intro _)
    | with_reducible apply viaWrite_ok

theorem execEventFlagClear_ok {Q : List Instr} {v : Via} {bank : BitVec 32} {flags : BitVec 32} {s : State} (hok : Ok Q s) :
    OutOk Q (execEventFlagClear v bank flags s) := by
  unfold execEventFlagClear
  try dsimp only
  repeat' first
    | with_reducible assumption
    | with_reducible apply outOk_next
    | (intro _)
    | with_reducible apply viaWrite_ok

theorem execEventCountClear_ok {Q : List Instr} {v : Via} {source : BitVec 32} {s : State} (hok : Ok Q s) :
    OutOk Q (execEventCountClear v source s) := by
  unfold execEventCountClear
  try dsimp only
  repeat' first
    | with_reducible assumption
    | with_reducible apply outOk_next
    | (intro _)
    | with_reducible apply viaWrite_ok

theorem execEventBankClaim_ok {Q : List Instr} {v : Via} {bank : BitVec 32} {s : State} (hok : Ok Q s) :
    OutOk Q (execEventBankClaim v bank s) := by
  unfold execEventBankClaim
  try dsimp only
  repeat' first
    | with_reducible assumption
    | with_reducible apply outOk_next
    | (intro _)
    | with_reducible apply viaWrite_ok

theorem execEventBankRelease_ok {Q : List Instr} {v : Via} {bank : BitVec 32} {s : State} (hok : Ok Q s) :
    OutOk Q (execEventBankRelease v bank s) := by
  unfold execEventBankRelease
  try dsimp only
  repeat' first
    | with_reducible assumption
    | with_reducible apply outOk_next
    | (intro _)
    | with_reducible apply viaWrite_ok

theorem execCounterClear_ok {Q : List Instr} {v : Via} {first : BitVec 21} {last : BitVec 21} {s : State} (hok : Ok Q s) :
    OutOk Q (execCounterClear v first last s) := by
  unfold execCounterClear
  try dsimp only
  repeat' first
    | with_reducible assumption
    | with_reducible apply outOk_next
    | (intro _)
    | with_reducible apply viaWrite_ok

theorem execLifecycleRequest_ok {Q : List Instr} {v : Via} {x : BitVec 8} {s : State} (hok : Ok Q s) :
    OutOk Q (execLifecycleRequest v x s) := by
  unfold execLifecycleRequest
  try dsimp only
  repeat' first
    | with_reducible assumption
    | with_reducible apply outOk_next
    | (intro _)
    | with_reducible apply viaWrite_ok

theorem execJtagDebugEnable_ok {Q : List Instr} {v : Via} {x : BitVec 8} {s : State} (hok : Ok Q s) :
    OutOk Q (execJtagDebugEnable v x s) := by
  unfold execJtagDebugEnable
  try dsimp only
  repeat' first
    | with_reducible assumption
    | with_reducible apply outOk_next
    | (intro _)
    | with_reducible apply viaWrite_ok

theorem execFwLoadBegin_ok {Q : List Instr} {v : Via} {s : State} (hok : Ok Q s) :
    OutOk Q (execFwLoadBegin v s) := by
  unfold execFwLoadBegin
  try dsimp only
  repeat' first
    | with_reducible assumption
    | with_reducible apply outOk_next
    | (intro _)
    | with_reducible apply viaWrite_ok

theorem execFwLoadBeginChain_ok {Q : List Instr} {v : Via} {s : State} (hok : Ok Q s) :
    OutOk Q (execFwLoadBeginChain v s) := by
  unfold execFwLoadBeginChain
  try dsimp only
  repeat' first
    | with_reducible assumption
    | with_reducible apply outOk_next
    | (intro _)
    | with_reducible apply viaWrite_ok

theorem execFwLoadAbort_ok {Q : List Instr} {v : Via} {s : State} (hok : Ok Q s) :
    OutOk Q (execFwLoadAbort v s) := by
  unfold execFwLoadAbort
  try dsimp only
  repeat' first
    | with_reducible assumption
    | with_reducible apply outOk_next
    | (intro _)
    | with_reducible apply viaWrite_ok

theorem execFwChunk_ok {Q : List Instr} {v : Via} {row : BitVec 32} {data : Bytes} {s : State} (hok : Ok Q s) :
    OutOk Q (execFwChunk v row data s) := by
  unfold execFwChunk
  try dsimp only
  repeat' first
    | with_reducible assumption
    | with_reducible apply outOk_next
    | (intro _)
    | with_reducible apply viaWrite_ok

theorem execFwStagedLoad_ok {Q : List Instr} {v : Via} {length : BitVec 32} {chain : Bool} {s : State} (hok : Ok Q s) :
    OutOk Q (execFwStagedLoad v length chain s) := by
  unfold execFwStagedLoad
  try dsimp only
  repeat' first
    | with_reducible assumption
    | with_reducible apply outOk_next
    | (intro _)
    | with_reducible apply viaWrite_ok

theorem execFwActivate_ok {Q : List Instr} {v : Via} {t : BitVec 80} {s : State} (hok : Ok Q s) :
    OutOk Q (execFwActivate v t s) := by
  unfold execFwActivate
  try dsimp only
  repeat' first
    | with_reducible assumption
    | with_reducible apply outOk_next
    | (intro _)
    | with_reducible apply viaWrite_ok

theorem execFwActivateCancel_ok {Q : List Instr} {v : Via} {s : State} (hok : Ok Q s) :
    OutOk Q (execFwActivateCancel v s) := by
  unfold execFwActivateCancel
  try dsimp only
  repeat' first
    | with_reducible assumption
    | with_reducible apply outOk_next
    | (intro _)
    | with_reducible apply viaWrite_ok

theorem execFwConfirm_ok {Q : List Instr} {v : Via} {s : State} (hok : Ok Q s) :
    OutOk Q (execFwConfirm v s) := by
  unfold execFwConfirm
  try dsimp only
  repeat' first
    | with_reducible assumption
    | with_reducible apply outOk_next
    | (intro _)
    | with_reducible apply viaWrite_ok

theorem execFwRollback_ok {Q : List Instr} {v : Via} {s : State} (hok : Ok Q s) :
    OutOk Q (execFwRollback v s) := by
  unfold execFwRollback
  try dsimp only
  repeat' first
    | with_reducible assumption
    | with_reducible apply outOk_next
    | (intro _)
    | with_reducible apply viaWrite_ok

theorem execFwActivateAtResetMark_ok {Q : List Instr} {v : Via} {s : State} (hok : Ok Q s) :
    OutOk Q (execFwActivateAtResetMark v s) := by
  unfold execFwActivateAtResetMark
  try dsimp only
  repeat' first
    | with_reducible assumption
    | with_reducible apply outOk_next
    | (intro _)
    | with_reducible apply viaWrite_ok

theorem execFwActivateAtResetUnmark_ok {Q : List Instr} {v : Via} {s : State} (hok : Ok Q s) :
    OutOk Q (execFwActivateAtResetUnmark v s) := by
  unfold execFwActivateAtResetUnmark
  try dsimp only
  repeat' first
    | with_reducible assumption
    | with_reducible apply outOk_next
    | (intro _)
    | with_reducible apply viaWrite_ok

theorem execSideboardStart_ok {Q : List Instr} {v : Via} {x : BitVec 8} {s : State} (hok : Ok Q s) :
    OutOk Q (execSideboardStart v x s) := by
  unfold execSideboardStart
  try dsimp only
  repeat' first
    | with_reducible assumption
    | with_reducible apply outOk_next
    | (intro _)
    | with_reducible apply viaWrite_ok

theorem execBlockReset_ok {Q : List Instr} {v : Via} {row : BitVec 32} {x : BitVec 8} {lost : BitVec 16} {s : State} (hok : Ok Q s) :
    OutOk Q (execBlockReset v row x lost s) := by
  unfold execBlockReset
  try dsimp only
  repeat' first
    | with_reducible assumption
    | with_reducible apply outOk_next
    | (intro _)
    | with_reducible apply viaWrite_ok

theorem execTrafficStart_ok {Q : List Instr} {v : Via} {x : BitVec 8} {s : State} (hok : Ok Q s) :
    OutOk Q (execTrafficStart v x s) := by
  unfold execTrafficStart
  try dsimp only
  repeat' first
    | with_reducible assumption
    | with_reducible apply outOk_next
    | (intro _)
    | with_reducible apply viaWrite_ok

end Sys2Proof.Machine
end

