-- ==== Sys2Proof/Laws/Requests.lean ====
section
/-! SUPPORT. How a request, and the direct write of one object, runs: the way from a command to its effect, which the
proofs about write commands cite instead of unfolding it. -/
set_option maxRecDepth 4000
namespace Sys2Proof.Machine

/-- The session that a request came from, once it has come. -/
theorem heard_sess {s : State} {i : SessId} {x : Sess} (h : s.sess? i = some x) :
    (s.heard i).sess? i = some { x with last := s.time.ticks } := by
  have e : ∀ l : List Sess, l.find? (fun y => y.id == i) = some x →
      (l.map fun y => if y.id == i then { y with last := s.time.ticks } else y).find? (fun y => y.id == i) =
        some { x with last := s.time.ticks } := by
    intro l
    induction l with
    | nil => simp
    | cons a t ih =>
      intro h
      by_cases c : a.id == i
      · have c1 : (a.id == i) = true := c
        simp only [List.find?_cons, c1] at h
        obtain rfl : a = x := by simpa using h
        rw [List.map_cons, if_pos c1]
        exact List.find?_cons_of_pos c1
      · have c' : (a.id == i) = false := by simpa using c
        simp only [List.find?_cons, c'] at h
        simp only [List.map_cons, c', List.find?_cons]
        simpa [c'] using ih h
  exact e _ h

/-- A request that repeats none runs. -/
theorem request_run {q : Req} {s : State} {x : Sess} (run : Sess → State → State) (h : Asks q.sess q.rid.toNat s x) :
    request q run s = run { x with last := s.time.ticks } (s.heard q.sess) := by
  obtain ⟨h1, h2, h3, h4, h5⟩ := h
  have hk : x.kept.find? (fun e => e.1 == q.rid.toNat) = none := by
    simp only [List.find?_eq_none, beq_iff_eq]
    exact fun e he => h4 e he
  have hr : x.running.any (fun e => e.1 == q.rid.toNat) = false := by
    simp only [List.any_eq_false, beq_iff_eq]
    exact fun e he => h5 e he
  simp only [request, h1, h3, hk, hr]
  simp [h2, State.heard]

/-- One direct write, checked, becomes an attempt of its commit. -/
theorem writeItems_one {f : From} {s : State} {x : Sess} {item : RItem} {c : State → Sess → Bool → List SW → Checked} {w : SW}
    (here : s.sess? f.sess = some x) (place : placeOf f x = .direct) (good : c s x false [] = .good w)
    (data : controls w.obj = false) :
    writeItems f [(item, c)] s = attempt true f.lost (f.wait true [w] [item]) s := by
  simp [writeItems, here, place, checkDirect, good, finishWrite, firstBad, data, runControl]

/-- A commit that nothing stands against applies at once. -/
theorem attempt_go {first : Bool} {lost : Nat} {w : Wait} {s : State} {x : Sess} (here : s.sess? w.sess = some x)
    (direct : w.direct = true) (now : w.at_ = none) (op : w.op ≠ 0xFF)
    (checks : commitCheck (actorOf s.toBlocks x w.op lost) [] none (cellsOf w.writes) s = .go)
    (wait : waitNeeded (cellsOf w.writes) none (if first then none else some w.order) s = none) :
    attempt first lost w s = finishCommit w (actorOf s.toBlocks x w.op lost) (cellsOf w.writes) s := by
  simp only [attempt, here, direct, now, op, if_true, if_false, Option.map_none, Option.getD_none, checks, wait]

/-- Without writes the dictionary stands as its base shows it. -/
theorem overlayOn_nil (base : Nat → Nat → Nat → Nat) : overlayOn base [] = base := by
  funext obj row fld
  simp [overlayOn, writes]

/-- A BAR0 write of a window object has no wrong row or length. -/
theorem window_form {b : Blocks} {obj : Nat} {o : ObjInfo} (info : objInfo? obj = some o) (win : hasWindow o = true)
    (val : Option Nat) : writeForm b obj 0 0 val o = .ok := by
  have hr : inRange o 0 0 = true := by
    simp only [hasWindow] at win
    simp only [inRange]
    simp at win ⊢
    omega
  have hc : (obj == O.FwChunk) = false := by
    rw [beq_eq_false_iff_ne]
    rintro rfl
    have : (objInfo? O.FwChunk).all (fun o => !hasWindow o) = true := by decide
    rw [info] at this
    simp [win] at this
  simp [writeForm, hr, hc]

/-- A granted direct write becomes the commit of its one write, which applies at once. -/
theorem viaWrite_granted {v : Via} {w : SW} {lost : Nat} {s : State} {x : Sess} (h : Granted v w lost s x) :
    viaWrite v w.obj w.row w.fld lost (some w.val) s =
      finishCommit (oneWait v w) (actorOf (s.came v.sess).toBlocks x 0x02 lost) (cellsOf [w]) (s.came v.sess) := by
  obtain ⟨hh, hz, hb, hd, hi, hm, hw⟩ := h
  by_cases hv : v.sess = .bar0
  · obtain ⟨h1, h2, h3, h4, h5, h6⟩ := hb hv
    unfold viaWrite
    rw [if_pos hv]
    have hs : (s.came v.sess).sess? .bar0 = some x := by rw [← hv]; simp only [State.came, if_pos hv]; exact hh
    have hcw : countBarWrite s = s.came v.sess := by simp [State.came, hv]
    cases ho : objInfo? w.obj with
    | none => rw [ho] at h4; simp at h4
    | some o =>
      have ht : hasWindow o = true := by simpa [ho] using h4
      have hi' : barCheck w.obj (fun _ => some w.val) (s.came v.sess) x false [] = .good w := by
        rw [← hi]
        simp only [barCheck, checkWrite, ho, h2, h3, window_form ho ht, show cellsOf [] = [] from rfl, overlayOn_nil]
      have hq : (s.came v.sess).barWaits = false := by rw [← hcw]; exact h6
      simp only [h1, h2, h3, barWrite, hcw, hq, barApply, ho]
      simp only [Option.any_some, ht]
      simp only [Bool.not_true, Bool.false_eq_true, if_false, and_self, if_true]
      rw [writeItems_one (f := barFrom 0x02 lost) (x := x) (w := w) hs ?_ hi' hd]
      · have := attempt_go (first := true) (lost := lost) (w := oneWait v w) (s := s.came v.sess) (x := x)
          (by show (s.came v.sess).sess? v.sess = some x; simp only [State.came, if_pos hv]; exact hh)
          rfl rfl (by simp) hm hw
        rw [← this]
        simp [From.wait, oneWait, hv]
      · simp [placeOf, h5]
  · obtain ⟨ha, hc⟩ := hz hv
    have hs := heard_sess ha.here
    have hcm : s.came v.sess = s.heard v.sess := by simp [State.came, hv]
    rw [hcm] at hi hm hw ⊢
    have hc0 : v.ctx.toNat = 0 := by rw [hc]; rfl
    have hid : x.id ≠ .bar0 := by
      have := List.find?_some ha.here
      rw [show x.id = v.sess by simpa using this]
      exact ha.host
    unfold viaWrite
    rw [if_neg hv]
    dsimp only
    rw [request_run _ (q := ⟨v.sess, v.rid, v.ctx, false⟩) ha]
    rw [writeItems_one (x := { x with last := s.time.ticks }) (w := w) hs ?_
      (by simp only [show cellsOf [] = [] from rfl, overlayOn_nil]; exact hi) hd]
    · rw [attempt_go (x := { x with last := s.time.ticks }) hs rfl rfl (op := ?_) hm hw]
      rotate_left
      · show (0x02 : Nat) ≠ 0xFF
        decide
      simp only [From.wait, fromReq, hc0, oneWait, if_neg hv]
      rfl
    · unfold placeOf
      cases ht : x.txn <;> simp [fromReq, hc0, hid]

/-- A commit without route rows leaves the route table. -/
theorem routeCommit_nil (g : Nat) (s : State) : routeCommit g [] s = s := by
  simp [routeCommit, routeApplyAll]

/-- A commit without exact rows leaves the exact store. -/
theorem exactCommit_nil (g : Nat) (s : State) : exactCommit g [] s = s := by
  simp [exactCommit, exactApplyAll, overflowEvent, raiseIf]

/-- A commit without range rows leaves the range slots. -/
theorem rangeCommit_nil (g : Nat) (s : State) : rangeCommit g [] s = s := by
  simp [rangeCommit, rangeApplyAll, rangePlaceAll, rangeDiscard]

/-- An object whose row a commit stores and acts on alone: no parse graph, no update object, none that a session owns, none
that sets another value beside its own. -/
abbrev Ordinary (obj : Nat) : Prop :=
  isGraphObj obj = false ∧ obj ≠ O.RouteUpdate ∧ obj ≠ O.ExactUpdate ∧ obj ≠ O.RangeUpdate ∧ obj ≠ O.TallboyDump ∧
    obj ≠ O.SampleSession ∧ obj ≠ O.FwChunk ∧ obj ≠ O.HostRole ∧ obj ≠ O.TenantKey ∧ obj ≠ O.OwnerKeyRotate

/-- The commit of one row that is no row of an FE table. -/
theorem applyCells_one {a : Actor} {c : WCell} {s : State} (o : ObjInfo) (info : objInfo? c.obj = some o) (fe : isFe o = false)
    (plain : Ordinary c.obj) :
    applyCells a [c] s =
      cellEffect s.toBlocks a (journalCommit [c] (storeCell (s.booked (unitsOf s.toBlocks [c])) c)) c := by
  obtain ⟨g, n1, n2, n3, n4, n5, n6, n7, n8, n9⟩ := plain
  have own : owned s.toBlocks a.role c = c := by simp [owned, n4, n5, n7]
  have n : ∀ k, c.obj ≠ k → rowsOf [c] k = [] := by
    intro k h
    have : (c.obj == k) = false := by simpa using h
    simp [rowsOf, this]
  have e1 : writesFe [c] = false := by simp [writesFe, info, fe]
  have e2 : writesGraph [c] = false := by simp [writesGraph, g]
  have e3 : ∀ t, besideValues c.obj c.row c.val t = t := by intro t; simp [besideValues, n8, n9]
  simp only [applyCells, List.map_cons, List.map_nil, own, e1, swapBank, e2]
  simp only [n _ n1, n _ n2, n _ n3, List.map_nil, routeCommit_nil, exactCommit_nil, rangeCommit_nil]
  simp only [List.foldl_cons, List.foldl_nil, e3, Bool.not_false, if_true, Bool.false_eq_true, if_false]

/-- The direct write of one object of a session, applied. -/
theorem viaWrite_wrote {v : Via} {w : SW} {lost : Nat} {s : State} {x : Sess} (h : Granted v w lost s x) (o : ObjInfo)
    (info : objInfo? w.obj = some o) (fe : isFe o = false)
    (plain : Ordinary w.obj) :
    viaWrite v w.obj w.row w.fld lost (some w.val) s =
      wrote v w lost x (fun r =>
        cellEffect (s.came v.sess).toBlocks (actorOf (s.came v.sess).toBlocks x 0x02 lost) (r.stored w) w.cell) s := by
  have n6 : w.obj ≠ O.FwChunk := plain.2.2.2.2.2.2.1
  have cs : cellsOf [w] = [⟨w.obj, w.row, parts o w.fld w.val⟩] := by simp [cellsOf, addWrite, info]
  have wc : w.cell = ⟨w.obj, w.row, parts o w.fld w.val⟩ := by simp [SW.cell, cs]
  rw [viaWrite_granted h, cs, ← wc, finishCommit]
  have co : w.cell.obj = w.obj := by rw [wc]
  rw [applyCells_one o (by rw [co]; exact info) fe (by rw [co]; exact plain)]
  have hw : ∀ t, appliedStatus [w.cell] t = .ok := by intro t; simp [appliedStatus, writes, co, n6]
  simp only [hw, if_true]
  simp only [wrote, State.answered, cs, ← wc, State.stored]

/-- The session of a granted write is the one that sent it. -/
theorem granted_id {v : Via} {w : SW} {lost : Nat} {s : State} {x : Sess} (h : Granted v w lost s x) : x.id = v.sess := by
  have := List.find?_some h.here
  simpa using this

/-- The row of a write of an object that exists. -/
theorem cell_eq {w : SW} (o : ObjInfo) (info : objInfo? w.obj = some o) : w.cell = ⟨w.obj, w.row, parts o w.fld w.val⟩ := by
  simp [SW.cell, cellsOf, addWrite, info]

/-- What an ordinary object's commit journals beside its row: nothing. -/
theorem beside_nil {obj row : Nat} {l : List (Nat × Nat)} (plain : Ordinary obj) :
    besideKeys obj row = [] ∧ writes [⟨obj, row, l⟩] O.ParseGraphClear = false := by
  obtain ⟨g, -, -, -, -, -, -, -, n8, n9⟩ := plain
  refine ⟨by simp [besideKeys, n8, n9], ?_⟩
  have : obj ≠ O.ParseGraphClear := by rintro rfl; exact absurd g (by decide)
  simp [writes, this]

/-- A write-only action object stores nothing. -/
theorem stored_transient {w : SW} {o : ObjInfo} (info : objInfo? w.obj = some o) (tr : transient o = true)
    (plain : Ordinary w.obj) (s : State) : s.stored w = s := by
  obtain ⟨k, p⟩ := beside_nil (row := w.row) (l := parts o w.fld w.val) plain
  rw [State.stored, cell_eq o info]
  simp [storeCell, journalCommit, persistent, info, tr, k, p]

/-- A scalar that Chest does not hold is stored. -/
theorem stored_scalar {w : SW} {o : ObjInfo} (info : objInfo? w.obj = some o) (tr : transient o = false) (nf : o.fields = [])
    (np : o.pers ≠ 1) (fe : isFe o = false) (co : clearsOnes w.obj 0 = false) (plain : Ordinary w.obj) (s : State) :
    s.stored w = s.wr w.obj w.row 0 w.val := by
  obtain ⟨k, p⟩ := beside_nil (row := w.row) (l := [(0, w.val)]) plain
  rw [State.stored, cell_eq o info]
  simp [storeCell, journalCommit, persistent, info, tr, parts, nf, np, fe, co, k, p]

/-- A scalar of class P is stored and journalled. -/
theorem stored_kept {w : SW} {o : ObjInfo} (info : objInfo? w.obj = some o) (tr : transient o = false) (nf : o.fields = [])
    (np : o.pers = 1) (fe : isFe o = false) (co : clearsOnes w.obj 0 = false) (plain : Ordinary w.obj) (s : State) :
    s.stored w = (s.wr w.obj w.row 0 w.val).journal [(w.obj, w.row, 0)] (8 + o.width) JRec.plain := by
  obtain ⟨k, p⟩ := beside_nil (row := w.row) (l := [(0, w.val)]) plain
  rw [State.stored, cell_eq o info]
  simp [storeCell, journalCommit, persistent, info, tr, parts, nf, np, fe, co, k, p]

/-- `viaWrite_wrote` for an object without fields. -/
theorem viaWrite_scalar {v : Via} {w : SW} {lost : Nat} {s : State} {x : Sess} (h : Granted v w lost s x) (o : ObjInfo)
    (info : objInfo? w.obj = some o) (nf : o.fields = []) (fe : isFe o = false)
    (plain : Ordinary w.obj) :
    viaWrite v w.obj w.row w.fld lost (some w.val) s =
      wrote v w lost x (fun r => cellEffect (s.came v.sess).toBlocks (actorOf (s.came v.sess).toBlocks x 0x02 lost) (r.stored w)
        ⟨w.obj, w.row, [(0, w.val)]⟩) s := by
  rw [viaWrite_wrote h o info fe plain, cell_eq o info]
  simp [parts, nf]

/-- Which chapter's effect a row has: control and security objects. -/
theorem cell_control {old : Blocks} {a : Actor} {s : State} {c : WCell} (h : c.obj < 0x4000 ∨ 0x44000 ≤ c.obj) :
    cellEffect old a s c = controlEffect a c s := by simp only [cellEffect, if_pos h]

/-- The time objects. -/
theorem cell_time {old : Blocks} {a : Actor} {s : State} {c : WCell} (h : 0x4000 ≤ c.obj ∧ c.obj < 0x8000) :
    cellEffect old a s c = timeEffect c s := by
  simp only [cellEffect, if_neg (show ¬ (c.obj < 0x4000 ∨ 0x44000 ≤ c.obj) by omega), if_pos h.2]

/-- The objects of the forwarding engine. -/
theorem cell_fe {old : Blocks} {a : Actor} {s : State} {c : WCell} (h : 0x8000 ≤ c.obj ∧ c.obj < 0x18000) :
    cellEffect old a s c = feEffect a c s := by
  simp only [cellEffect, if_neg (show ¬ (c.obj < 0x4000 ∨ 0x44000 ≤ c.obj) by omega),
    if_neg (show ¬ c.obj < 0x8000 by omega), if_pos h.2]

/-- The objects of the TM, the mesh, the ports and the HBM. -/
theorem cell_tm {old : Blocks} {a : Actor} {s : State} {c : WCell} (h : 0x18000 ≤ c.obj ∧ c.obj < 0x3C000)
    (n : c.obj ≠ O.SchedNodeQuery) : cellEffect old a s c = tmEffect old c s := by
  simp only [cellEffect, if_neg (show ¬ (c.obj < 0x4000 ∨ 0x44000 ≤ c.obj) by omega),
    if_neg (show ¬ c.obj < 0x8000 by omega), if_neg (show ¬ c.obj < 0x18000 by omega), if_neg n, if_pos h.2]

/-- The host and telemetry objects. -/
theorem cell_host {old : Blocks} {a : Actor} {s : State} {c : WCell} (h : 0x3C000 ≤ c.obj ∧ c.obj < 0x44000) :
    cellEffect old a s c = hostEffect old a c s := by
  simp only [cellEffect, if_neg (show ¬ (c.obj < 0x4000 ∨ 0x44000 ≤ c.obj) by omega),
    if_neg (show ¬ c.obj < 0x8000 by omega), if_neg (show ¬ c.obj < 0x18000 by omega),
    if_neg (show ¬ c.obj = O.SchedNodeQuery by simp only [O.SchedNodeQuery]; omega), if_neg (show ¬ c.obj < 0x3C000 by omega)]

/-- A granted write whose row has the effect `eff`. -/
theorem viaWrite_eff {v : Via} {w : SW} {lost : Nat} {s : State} {x : Sess} {eff : State → State} (h : Granted v w lost s x)
    (o : ObjInfo)
    (info : objInfo? w.obj = some o) (fe : isFe o = false)
    (plain : Ordinary w.obj)
    (he : ∀ r, cellEffect (s.came v.sess).toBlocks (actorOf (s.came v.sess).toBlocks x 0x02 lost) (r.stored w)
      ⟨w.obj, w.row, parts o w.fld w.val⟩ = eff r) :
    viaWrite v w.obj w.row w.fld lost (some w.val) s = wrote v w lost x eff s := by
  rw [viaWrite_wrote h o info fe plain, cell_eq o info]
  exact congrArg (fun f => wrote v w lost x f s) (funext he)

/-- A command that is one write runs it. -/
theorem exec_oneWrite {c : Instr} {v : Via} {w : SW} {lost : Nat} (h : oneWrite c = some (v, w, lost)) (s : State) :
    exec c s = .next (viaWrite v w.obj w.row w.fld lost (some w.val) s) := by
  unfold oneWrite at h
  split at h
  all_goals first
    | (cases h; done)
    | (obtain ⟨rfl, rfl, rfl⟩ : _ ∧ _ ∧ _ := by simpa using h
       rfl)
    | (simp only [Option.map_eq_some_iff, Prod.mk.injEq] at h
       obtain ⟨n, e, rfl, rfl, rfl⟩ := h
       simp only [exec, execGridSet, execDomainTimeSet, execFwActivate, servoWrite, e])

/-- One write, checked, is staged and answered. -/
theorem writeItems_staged {f : From} {s s1 : State} {x : Sess} {item : RItem} {c : State → Sess → Bool → List SW → Checked}
    {w : SW} {st : Status}
    (here : s.sess? f.sess = some x) (place : placeOf f x = .staged)
    (good : c s x true ((x.txn.map (·.staged)).getD []) = .good w) (data : controls w.obj = false)
    (put : stageWrite f.sess w s = (st, s1)) :
    writeItems f [(item, c)] s = answerWrite f [item] [st] s1 := by
  simp only [writeItems, here, place, List.map_cons, List.map_nil, stageAll, good, data, put]
  cases st <;> simp [finishWrite, firstBad, runControl]

end Sys2Proof.Machine
end

