-- ==== Sys2Proof/WellFormed.lean ====
section
/-! DEFINITION. Which commands a sender or the hardware around the block can present: the sizes that the spec gives messages,
frames, cells and lists. `exec` answers every command, these or not. -/
namespace Sys2Proof

/-- The items of a request, each value padded to words, fit a message of 9,000 bytes (R62, R66). -/
def fits (items : List Item) : Bool :=
  items.foldl (fun a i => a + 12 + (i.val.length + 3) / 4 * 4) 16 ≤ 9000

/-- They fit, and each item carries as many value bytes as its ValueLength states (R66). -/
def fitsValues (items : List Item) : Bool :=
  fits items && items.all fun i => i.len.toNat == i.val.length

/-- The command's operands are such as a sender or the hardware around the block can present. -/
def Instr.wf (i : Instr) : Bool :=
  match i with
  | .read r => match r with
    | .zoa _ items => fits items
    | .bar0 offset size => offset < 0x800000 && (size == 1 || size == 2 || size == 4 || size == 8)
  | .write _ items => fitsValues items
  | .tableRead _ items => fitsValues items
  | .tableWrite _ items => fitsValues items
  | .txnOpen _ items => fitsValues items
  | .txnCommit _ items => fitsValues items
  | .txnAbort _ items => fitsValues items
  | .snapshotOpen _ items => fitsValues items
  | .snapshotClose _ items => fitsValues items
  | .subscribe _ items => fits items
  | .unsubscribe _ items => fits items
  | .notify _ => true
  | .zoaMessageDiscard _ _ => true
  | .dtlsHandshake _ => true
  | .sessionClose _ => true
  | .zoaSessionIdleClose _ => true
  | .txnIdleTimeout _ => true
  | .txnCommitTimeout => true
  | .snapshotExpire _ => true
  | .timedCommitApply => true
  | .waitingCommitApply => true
  | .parseBankFree => true
  | .bar0Write offset data => offset < 0x800000 && !data.isEmpty && data.length ≤ 8
  | .mailboxGo _ _ _ writes => writes.all fun w => decide (w.1 + w.2.length ≤ 0x4000000)
  | .mailboxAck _ => true
  | .mailboxNotifyPlace _ => true
  | .dovetailLinkLoss _ => true
  | .frameReceive _ rx _ => !rx.bytes.isEmpty
  | .pfcRepeat _ _ => true
  | .pauseExpire _ _ => true
  | .packetAdmit _ _ _ => true
  | .lineRepairComplete _ _ => true
  | .exactLearnInsert => true
  | .tmEnqueue _ _ => true
  | .spillReturn _ => true
  | .queueFlush _ _ => true
  | .tmIntegrityError cells descs => decide cells.Nodup && decide descs.Nodup
  | .shaperRefill _ => true
  | .calendarSlotRelease => true
  | .schedulerSelect _ => true
  | .egressProcess _ _ => true
  | .streamRecoveryReset _ => true
  | .puntRingWrite _ _ => true
  | .gateEntryChange _ => true
  | .gateListStart _ => true
  | .generationRetire => true
  | .generationAgeLimit => true
  | .lockstepMismatch => true
  | .longcaseTick => true
  | .gridSteerUpdate => true
  | .gridStep => true
  | .gridLock => true
  | .gridSet _ _ => true
  | .gridRelock _ _ => true
  | .gridSourceWrite _ _ => true
  | .domainQualify _ _ _ => true
  | .domainSourceLoss _ => true
  | .domainTimeSet _ _ _ => true
  | .domainAdjust _ _ _ => true
  | .domainIncrementWrite _ _ _ => true
  | .domainOffsetUpdate _ => true
  | .domainDisagreementUpdate => true
  | .ppsInEdge .. => true
  | .timeCaptureEdge .. => true
  | .timeTriggerEnable _ _ _ => true
  | .triggerPulse _ => true
  | .ppsOutPulse => true
  | .routeQuery _ _ => true
  | .exactQuery _ _ => true
  | .exactAgerScan => true
  | .exactAgeTick => true
  | .rangeSearch _ _ => true
  | .rangeSearchNext _ _ => true
  | .rangeDirectInvalidate _ _ _ => true
  | .rangeDirectWrite _ _ _ => true
  | .rangeDirectValidate _ _ _ => true
  | .shelfAllocate _ size => 0 < size && size ≤ 65536
  | .shelfRelease _ _ buffer => buffer < 2 ^ 18
  | .rackCycleStart => true
  | .rackFrameStart => true
  | .headerCellReceive _ rx _ _ => rx.bytes.length == 288
  | .meshStepSearchTimeout _ => true
  | .dataCellReceive _ _ bytes => bytes.length == 288
  | .reseqTimeout _ _ => true
  | .heldSequenceSkip _ _ => true
  | .meshPackTimeout _ _ => true
  | .groupDispatch => true
  | .meshGroupDefectRaise _ _ => true
  | .meshGroupDefectClear _ _ => true
  | .pageSwapDecide => true
  | .pageSwap => true
  | .autoPagePlan => true
  | .meshJoin _ => true
  | .meshLeaveRequest _ _ => true
  | .meshLeaveReady => true
  | .portRetrain _ _ _ => true
  | .autonegComplete _ _ _ => true
  | .autonegTimeout _ _ _ => true
  | .linkTrainingComplete _ losses => losses.length ≤ 8
  | .trainingTimeout _ => true
  | .portLinkUp _ => true
  | .laneLockLoss _ lanes _ => lanes != 0
  | .portDegradeComplete _ _ => true
  | .hbmTemperatureSample _ => true
  | .hbmRefresh _ => true
  | .hbmScrubStep turn => decide (turn.words.map (·.word)).Nodup
  | .hbmFreqRequest _ _ => true
  | .hbmFreqChange => true
  | .hbmRetrain _ _ _ => true
  | .hbmServiceMode _ _ => true
  | .hbmPatternWrite _ _ => true
  | .hbmPatternReadCompare _ _ => true
  | .hbmPatternWriteReadCompare _ _ => true
  | .hbmPatternLoopback _ _ => true
  | .hbmPatternDone _ _ => true
  | .hbmTrain _ => true
  | .hbmWipe _ => true
  | .pcieLinkReset _ _ => true
  | .pcieCompletionTimeout _ => true
  | .ringDoorbell _ _ => true
  | .injectPacket offers => offers.all fun o => !o.descs.isEmpty
  | .injectTimestampComplete => true
  | .injectStampTimeout _ => true
  | .ringInterruptHoldoff _ => true
  | .trolleyGo _ _ _ => true
  | .trolleyRunStart => true
  | .trolleyDescriptorDone _ _ _ => true
  | .trolleyStop _ _ => true
  | .eventFlagClear _ _ _ => true
  | .eventCountClear _ _ => true
  | .eventBankClaim _ _ => true
  | .eventBankRelease _ _ => true
  | .counterClear _ _ _ => true
  | .dumpLatch => true
  | .dumpComplete _ => true
  | .telemetrySlotHandover _ => true
  | .telemetryFlush _ => true
  | .lifecycleRequest _ _ => true
  | .lifecycleChangeComplete _ => true
  | .jtagDebugEnable _ _ => true
  | .fwLoadBegin _ => true
  | .fwLoadBeginChain _ => true
  | .fwLoadAbort _ => true
  | .fwLoadTimeout => true
  | .fwChunk _ _ data => data.length ≤ 8192
  | .fwStagedLoad _ _ _ => true
  | .fwBegin _ _ _ _ _ => true
  | .fwData _ _ _ data => !data.isEmpty && data.length ≤ 120
  | .fwAck _ _ _ _ => true
  | .fwResult _ _ _ => true
  | .fwBeginAckTimeout => true
  | .fwResend => true
  | .fwHopTimeout => true
  | .fwActivate _ _ => true
  | .fwPrepareReady => true
  | .fwSwap => true
  | .fwActivateCancel _ => true
  | .fwConfirm _ => true
  | .fwRollback _ => true
  | .fwConfirmTimeout => true
  | .fwActivateAtResetMark _ => true
  | .fwActivateAtResetUnmark _ => true
  | .nvGuardAssert _ => true
  | .nvGuardRelease => true
  | .overVoltage _ => true
  | .brownOut _ => true
  | .journalRecordWrite _ _ => true
  | .dieTemperatureSample _ _ sense => sense.length ≤ 16
  | .sideboardStart _ _ => true
  | .sideboardSequenceStart => true
  | .sideboardConversion _ => true
  | .fanTachWindow _ _ => true
  | .gpioEdge _ _ => true
  | .referenceClockLoss _ => true
  | .referenceClockRestore _ => true
  | .powerOnReset _ => true
  | .moduleResetPin _ => true
  | .blockReset _ _ _ _ => true
  | .blockResetRelease _ => true
  | .senseComplete => true
  | .romSlotChoose _ => true
  | .bootComplete _ => true
  | .restore _ => true
  | .trafficStart _ _ => true
  | .trafficEnable => true
  | .standbyPairSynchronised => true
  | .selfTestPassed => true
  | .pcieLinkUp _ _ => true
  | .busMasterEnable _ => true
  | .pcieHostError _ => true
  | .lossOfPower => true
  | .dovetailLinkRetrain _ _ => true
  | .routeFilterRecompute _ => true

end Sys2Proof
end

