-- ==== Sys2Proof/Tests/Slice0.lean ====
section
/-! SUPPORT. Tests of the model. What WellFormed refuses, what the words of the opcode table spell, numbers of the spec's
worked examples, and, for every statement of Certificates/Slice0/Obligations.lean that has hypotheses, a state and operands
that meet them (`witness_<the statement>`; a definition that a statement's clause gives a name to is taken as it stands). The witnesses of the statements over sound states
are in witness_SoundStates. A statement of several groups of clauses has a witness for each group:
SessionsAndWindowsServe: SessionsOpenAndClose, HostWindowsServe; LookupsAreKept: LineRepairEnds,
ExactStoreLearnsAndAges, RouteFilterIsRecounted; BuffersServe: SpillReturnsInTurn, FailedBufferLinesDropPackets,
ShelfGivesAndTakes; SchedulerTimersRun: ShapersRefill, CalendarReleasesSlots, GatesFollowGridTime;
FramesAndPausesAreReceived: FramesAreReceived, PausesRepeatAndExpire; PortsBringTheirLinksUp: PortsBringTheirLinksUp,
PortsDegradeOrGoDown; GridIsSteeredAndSteps: SteeringFollowsTheError, GridStepsAndLocks; DomainsAreWatched:
DomainsLoseTheirSource, DomainOffsetsAreMeasured; EdgesAndPulses: EdgesAreCaptured, PulsesAreGiven; GroupsReceive:
AlignmentFollowsTable115, DataCellsAreChecked; CellsAreSpreadAndGivenUp: CellsAreBuiltAndSpread,
MissingCellsAreGivenUp; MeshIsManaged: DefectsAreRaisedAndCleared, PagesSwapByAgreement, DefaultPagesAreMade,
CardsJoinAndLeave; HbmUpkeepRuns: RefreshFollowsTemperature, HbmUpkeepRuns; PcieAndRingEvents: RingsRingAndSignal;
TelemetryAndLifeCycle: TelemetryIsDumped, LifeCycleChangesFinish; FirmwareTravelsTheChain: ImagesArriveOverTheMesh,
HopsTimeOut; ActivationsRun: ActivationsRun, StandbyPairTakesOver; LinksAndSuppliesAreWatched:
DovetailLinksFailAndRetrain, SuppliesAreWatched; ResetsAndReferences: ReferencesComeAndGo, ResetsComeAndGo. -/
namespace Sys2Proof.Tests
open Sys2Proof.Machine

set_option maxRecDepth 20000
set_option Elab.async false

/-- Mailbox 0 speaks, with RequestId 1 and no handle. -/
def v0 : Via := ⟨.mailbox 0, 1#32, 0#16⟩

/-- A module in READY in the given life-cycle state, its host in the given role. -/
def ready (life role : Nat) : State :=
  (({ State.reset with toBlocks := { State.reset.toBlocks with boot := { State.reset.boot with phase := 6 } } } : State).ws
    O.LifeCycleState life).ws O.HostRole role

/-- Whether the write is granted to the session. -/
def grantedB (v : Via) (w : SW) (lost : Nat) (s : State) : Bool :=
  match s.sess? v.sess with
  | none => false
  | some x =>
    v.sess ≠ .bar0 && v.ctx = 0 && x.reached s.toBlocks && x.kept.isEmpty && x.running.isEmpty && !controls w.obj &&
    decide (checkWrite (s.came v.sess) x false (x.base (s.came v.sess).toBlocks) w.obj w.row w.fld
      (writeForm (s.came v.sess).toBlocks w.obj w.row w.fld (some w.val)) (fun _ => some w.val) = .good w) &&
    (match commitCheck (actorOf (s.came v.sess).toBlocks x 0x02 lost) [] none (cellsOf [w]) (s.came v.sess) with
      | .go => true | .refuse .. => false) &&
    decide (waitNeeded (cellsOf [w]) none none (s.came v.sess) = none)

theorem granted_of {v : Via} {w : SW} {lost : Nat} {s : State} (h : grantedB v w lost s = true) :
    ∃ x, Granted v w lost s x := by
  unfold grantedB at h
  split at h
  · cases h
  · rename_i x hx
    simp only [Bool.and_eq_true, decide_eq_true_eq, List.isEmpty_iff, Bool.not_eq_true'] at h
    obtain ⟨⟨⟨⟨⟨⟨⟨⟨hb, hc⟩, hr⟩, hk⟩, hn⟩, hd⟩, hi⟩, hg⟩, hw⟩ := h
    have hg : commitCheck (actorOf (s.came v.sess).toBlocks x 0x02 lost) [] none (cellsOf [w]) (s.came v.sess) = .go := by
      revert hg; split <;> simp_all
    refine ⟨x, hx, fun h => ⟨⟨hx, h, hr, ?_, ?_⟩, hc⟩, fun h => absurd h hb, hd, hi, hg, hw⟩
    · rw [hk]; intro e he; cases he
    · rw [hn]; intro e he; cases he

/-! ### Well-formedness: for each check a term it refuses -/

/-- An item whose value is not of the length it states. -/
def short : Item := ⟨0, 1, 0, 0, 4, [1]⟩

/-- A message of more than 9,000 bytes. -/
def long : List Item := [⟨0, 20, 0, 0, 9000, List.replicate 9000 0⟩]

def q0 : Req := ⟨.mailbox 0, 1, 0, false⟩

theorem test_wf_refuses_long_messages :
    (Instr.read (.zoa q0 long)).wf = false ∧ (Instr.write q0 long).wf = false ∧ (Instr.subscribe q0 long).wf = false ∧
    (Instr.unsubscribe q0 long).wf = false := by
  decide +kernel

theorem test_wf_refuses_wrong_lengths :
    ∀ op ∈ [Instr.write, Instr.tableRead, Instr.tableWrite, Instr.txnOpen, Instr.txnCommit, Instr.txnAbort, Instr.snapshotOpen,
      Instr.snapshotClose], (op q0 [short]).wf = false ∧ (op q0 [{ short with len := 1 }]).wf = true := by
  decide +kernel

theorem test_wf_refuses_windows :
    (Instr.read (.bar0 0x800000 8)).wf = false ∧ (Instr.read (.bar0 0 3)).wf = false ∧ (Instr.bar0Write 0x800000 [0]).wf = false ∧
    (Instr.bar0Write 0 []).wf = false ∧ (Instr.bar0Write 0 (List.replicate 9 0)).wf = false ∧
    (Instr.mailboxGo 0 0 0 [(0x4000000, [0])]).wf = false := by
  decide +kernel

theorem test_wf_refuses_sizes :
    (Instr.frameReceive 0 ⟨[], ⟨0, 0⟩⟩ 0).wf = false ∧ (Instr.tmIntegrityError [1, 1] []).wf = false ∧
    (Instr.tmIntegrityError [] [2, 2]).wf = false ∧ (Instr.shelfAllocate 0 0).wf = false ∧
    (Instr.shelfAllocate 0 65537).wf = false ∧ (Instr.shelfRelease 0 0 (2 ^ 18)).wf = false ∧
    (Instr.headerCellReceive 0 ⟨[], ⟨0, 0⟩⟩ 0 0).wf = false ∧ (Instr.dataCellReceive 0 0 []).wf = false ∧
    (Instr.linkTrainingComplete 0 (List.replicate 9 0)).wf = false ∧ (Instr.laneLockLoss 0 0 false).wf = false ∧
    (Instr.injectPacket [⟨0, [], []⟩]).wf = false ∧ (Instr.fwData 0 0 0 []).wf = false ∧
    (Instr.fwData 0 0 0 (List.replicate 121 0)).wf = false ∧ (Instr.dieTemperatureSample 0 0 (List.replicate 17 0)).wf = false := by
  decide +kernel

/-- No row of the table gives bits, so no word spells a command, and none is put in the queue. -/
theorem test_no_word_spells_a_command :
    decodeTableWord 32 0xFFFFFFFF = none ∧ (State.reset.withFetchWord 32 5).pending = [] := by
  decide +kernel

/-- Whether the state has the sound form. -/
def soundB (s : State) : Bool :=
  Tbl.wf keyDefault s.store && Tbl.wf keyDefault s.chest.home && Memory.wf s.host.staging && Memory.wf s.host.msixTable &&
    Memory.wf s.tel.region && (s.mbox.all fun m => Memory.wf m.reqBuf) && decide (s.mbox.length = 4) && hostIds.all fun i => decide (i ∈ s.sessions.map (·.id))

theorem sound_of {s : State} (h : soundB s = true) : s.Sound := by
  simp only [soundB, Bool.and_eq_true, decide_eq_true_eq, List.all_eq_true] at h
  obtain ⟨⟨⟨⟨⟨⟨⟨h1, h2⟩, h3⟩, h4⟩, h5⟩, h6⟩, h7⟩, h8⟩ := h
  exact ⟨h1, h2, h3, h4, h5, h6, h7, h8⟩

/-- A module that has run a thousand seconds. -/
def aged (s : State) : State := { s with time := { s.time with ticks := 1000 * ticksPerS, grid := 2 ^ 90 } }

/-! ### Writes of one object -/

/-- Whether the write is granted to BAR0. -/
def grantedBar (w : SW) (s : State) : Bool :=
  match s.sess? .bar0 with
  | none => false
  | some x =>
    s.served && w.row = 0 && w.fld = 0 && (objInfo? w.obj).any hasWindow && x.txn.isNone && !s.barWaits && !controls w.obj &&
    decide (checkWrite (s.came .bar0) x false (x.base (s.came .bar0).toBlocks) w.obj w.row w.fld
      (writeForm (s.came .bar0).toBlocks w.obj w.row w.fld (some w.val)) (fun _ => some w.val) = .good w) &&
    (match commitCheck (actorOf (s.came .bar0).toBlocks x 0x02 0) [] none (cellsOf [w]) (s.came .bar0) with
      | .go => true | .refuse .. => false) &&
    decide (waitNeeded (cellsOf [w]) none none (s.came .bar0) = none)

theorem granted_bar {w : SW} {s : State} (h : grantedBar w s = true) : ∃ x, Granted ⟨.bar0, 0#32, 0#16⟩ w 0 s x := by
  unfold grantedBar at h
  split at h
  · cases h
  · rename_i x hx
    simp only [Bool.and_eq_true, decide_eq_true_eq, Option.isNone_iff_eq_none, Bool.not_eq_true'] at h
    obtain ⟨⟨⟨⟨⟨⟨⟨⟨⟨hs, hr⟩, hf⟩, hwin⟩, ht⟩, hb⟩, hd⟩, hi⟩, hg⟩, hw⟩ := h
    have hg : commitCheck (actorOf (s.came .bar0).toBlocks x 0x02 0) [] none (cellsOf [w]) (s.came .bar0) = .go := by
      revert hg; split <;> simp_all
    exact ⟨x, hx, fun h => absurd rfl h, fun _ => ⟨hs, hr, hf, hwin, ht, hb⟩, hd, hi, hg, hw⟩

/-- The grid locked to domain A. -/
def lockedGrid : State := { ready 0 0 with time := { (ready 0 0).time with st := .locked } }

/-- The host owns the servo. -/
def hostServo : State := (ready 0 0).ws O.ServoOwner 1

/-- MAINTENANCE, the host a SEC, the HBM stack in the given state. -/
def maintain (hbm : Nat) : State :=
  let s := setHbmState hbm (ready 3 4)
  if hbm = 5 then s.ws O.HbmServiceMode 1 else s

/-- MAINTENANCE, the host a DBG. -/
def debugger : State := ready 3 3

/-- Range row 0 written and not valid. -/
def halfWritten : State := { debugger with range := ⟨[⟨0, 0, 0, 0, 0, [], 0, 0, 0, 0, none, true, false, true⟩], []⟩ }

/-- A range search of mailbox 0 runs. -/
def searching : State := (ready 0 0).updSess (.mailbox 0) fun x => { x with range := { x.range with st := 1 } }

/-- A load of mailbox 0 awaits its first chunk. -/
def loading : State := loadBegin (some (.mailbox 0)) false (ready 0 0)

/-- The other slot is VALID, and the standby pair ready. -/
def slotReady : State := ((ready 0 0).setFwMeta fun m => { m with stA := 3, stB := 2 }).ws O.BureauStandbyReady 1

/-- The running image is in TRIAL and has passed its self-test. -/
def onTrial : State := setAct F.FwActivationStatus_SelfTestPassed 1 ((ready 0 0).setFwMeta fun m => { m with stA := 4, stB := 2 })

theorem witness_GridWritesTakeEffect :
    timeVal (v0.sess == .bar0) (0#80).toNat = some 0 ∧ (∃ x, Granted v0 ⟨O.GridSet, 0, 0, 0⟩ 0 (ready 0 0) x) ∧
    timeVal true (5#80).toNat = some 5 ∧ (∃ x, Granted ⟨.bar0, 0#32, 0#16⟩ ⟨O.GridSet, 0, 0, 5⟩ 0 (ready 0 0) x) ∧
    (∃ x, Granted v0 ⟨O.GridRelock, 0, 0, (1#8).toNat⟩ 0 lockedGrid x) ∧
    (∃ x, Granted v0 ⟨O.GridSource, 0, 0, (1#8).toNat⟩ 0 (ready 0 0) x) ∧
    ∃ x, Granted v0 ⟨O.TimeTrigger, (11#32).toNat, 0, 2 ^ 255 + 10 * 65536 * 2 ^ 32⟩ 0 (ready 0 0) x :=
  ⟨rfl, granted_of (by decide +kernel), rfl, granted_bar (by decide +kernel), granted_of (by decide +kernel),
    granted_of (by decide +kernel), granted_of (by decide +kernel)⟩

theorem witness_DomainWritesTakeEffect :
    (∃ x, Granted v0 ⟨domObj .b O.DomainAQualified, 0, 0, (1#8).toNat⟩ 0 hostServo x) ∧
    timeVal (v0.sess == .bar0) (0#80).toNat = some 0 ∧ (∃ x, Granted v0 ⟨domObj .a O.DomainATime, 0, 0, 0⟩ 0 hostServo x) ∧
    (∃ x, Granted v0 ⟨domObj .a O.DomainAAdjust, 0, 0, 65536⟩ 0 hostServo x) ∧
    ∃ x, Granted v0 ⟨domObj .b O.DomainAIncrement, 0, 0, nominalInc⟩ 0 hostServo x :=
  ⟨granted_of (by decide +kernel), rfl, granted_of (by decide +kernel), granted_of (by decide +kernel),
    granted_of (by decide +kernel)⟩

/-- The servo of the firmware runs in READY, and its bounds hold at their ends. -/
theorem witness_ServoWritesTakeEffect :
    3 ≤ (ready 0 0).boot.phase ∧ (ready 0 0).boot.phase ≠ 9 ∧ (ready 0 0).sc O.ServoOwner = 0 ∧ (1#8).toNat ≤ 1 ∧
    time80Ok (999999999#80).toNat ∧ (BitVec.ofInt 64 (-(1000000000 * 65536))).toInt.natAbs ≤ 1000000000 * 65536 ∧
    (((BitVec.ofNat 64 nominalInc).toNat : Int) - nominalInc).natAbs * 1000 ≤ nominalInc := by decide +kernel

theorem witness_QueryWritesTakeEffect :
    (∃ x, Granted v0 ⟨O.RouteQuery, 0, 0, 4 * 2 ^ 256⟩ 0 (ready 0 0) x) ∧
    (∃ x, Granted v0 ⟨O.ExactQuery, 0, 0, 0⟩ 0 (ready 0 0) x) ∧ (∃ x, Granted v0 ⟨O.RangeSearch, 0, 0, 5⟩ 0 (ready 0 0) x) ∧
    (∃ x, Granted v0 ⟨O.RangeSearchNext, 0, 0, 1⟩ 0 searching x) ∧
    (∃ x, Granted v0 ⟨O.RangeDirect, 131071, 0, rangeDirectRecord 1 0⟩ 0 debugger x) ∧
    (∃ x, Granted v0 ⟨O.RangeDirect, 0, 0, rangeDirectRecord 2 0⟩ 0 debugger x) ∧
    ∃ x, Granted v0 ⟨O.RangeDirect, 0, 0, rangeDirectRecord 3 0⟩ 0 halfWritten x :=
  ⟨granted_of (by decide +kernel), granted_of (by decide +kernel), granted_of (by decide +kernel),
    granted_of (by decide +kernel), granted_of (by decide +kernel), granted_of (by decide +kernel),
    granted_of (by decide +kernel)⟩

theorem witness_FabricWritesTakeEffect :
    (∃ x, Granted v0 ⟨O.QueueFlush, 0, 0, 262143⟩ 0 (ready 0 0) x) ∧
    (∃ x, Granted v0 ⟨O.MeshLeaveRequest, 0, 0, 1⟩ 0 (ready 0 0) x) ∧
    ∃ x, Granted v0 ⟨O.PortRetrain, 127, 0, 1⟩ 0 (ready 0 0) x :=
  ⟨granted_of (by decide +kernel), granted_of (by decide +kernel), granted_of (by decide +kernel)⟩

theorem witness_HbmWritesTakeEffect :
    (∃ x, Granted v0 ⟨O.HbmFreqRequest, 0, 0, 1⟩ 0 (maintain 3) x) ∧
    (∃ x, Granted v0 ⟨O.HbmServiceMode, 0, 0, 1⟩ 0 (maintain 3) x) ∧ (maintain 5).Sound ∧
    (∃ x, Granted v0 ⟨O.HbmPatternGen, 0, 0, patternRecord 0 ⟨0, 0, 1, 0⟩⟩ 0 (maintain 5) x) ∧
    ∃ x, Granted v0 ⟨O.HbmPatternGen, 0, 0, patternRecord 3 ⟨15, 4, 16383, 0⟩⟩ 0 (maintain 5) x :=
  ⟨granted_of (by decide +kernel), granted_of (by decide +kernel), sound_of (by decide +kernel),
    granted_of (by decide +kernel), granted_of (by decide +kernel)⟩

theorem witness_TrolleyWritesTakeEffect :
    (∃ x, Granted v0 ⟨O.TrolleyGo0 + 5, 0, 0, 64⟩ 0 (ready 0 0) x) ∧ ∃ x, Granted v0 ⟨O.TrolleyStop, 0, 0, 31⟩ 0 (ready 0 0) x :=
  ⟨granted_of (by decide +kernel), granted_of (by decide +kernel)⟩

theorem witness_EventWritesTakeEffect :
    (ready 0 0).Sound ∧ (∃ x, Granted v0 ⟨O.EventBanks, 9, F.EventBanks_Flags, 2 ^ 32 - 1⟩ 0 (ready 0 0) x) ∧
    (∃ x, Granted v0 ⟨O.EventSource, 319, F.EventSource_ClearCount, 1⟩ 0 (ready 0 0) x) ∧
    (∃ x, Granted v0 ⟨O.EventBankClaim, 9, 0, 1⟩ 0 (ready 0 0) x) ∧ (∃ x, Granted v0 ⟨O.EventBankClaim, 0, 0, 0⟩ 0 (ready 0 0) x) ∧
    ∃ x, Granted v0 ⟨O.CounterClear, 0, 0, (0#21).toNat * 2 ^ 43 + (7#21).toNat * 2 ^ 22⟩ 0 (ready 0 0) x :=
  ⟨sound_of (by decide +kernel), granted_of (by decide +kernel), granted_of (by decide +kernel),
    granted_of (by decide +kernel), granted_of (by decide +kernel), granted_of (by decide +kernel)⟩

theorem witness_ControlWritesTakeEffect :
    (∃ x, Granted v0 ⟨O.LifeCycleRequest, 0, 0, 1⟩ 0 (ready 1 4) x) ∧ (∃ x, Granted v0 ⟨O.JtagDebugEnable, 0, 0, 1⟩ 0 (ready 3 5) x) ∧
    (∃ x, Granted v0 ⟨O.SideboardStart, 0, 0, 3⟩ 0 (ready 0 0) x) ∧
    (∃ x, Granted v0 ⟨O.BlockReset, 128, 0, 1⟩ 0 (ready 0 0) x) ∧ ∃ x, Granted v0 ⟨O.TrafficStart, 0, 0, 1⟩ 0 (ready 0 0) x :=
  ⟨granted_of (by decide +kernel), granted_of (by decide +kernel), granted_of (by decide +kernel),
    granted_of (by decide +kernel), granted_of (by decide +kernel)⟩

theorem witness_FirmwareWritesTakeEffect :
    (∃ x, Granted v0 ⟨O.FwLoadControl, 0, 0, 1⟩ 0 (ready 0 0) x) ∧ (∃ x, Granted v0 ⟨O.FwLoadControl, 0, 0, 2⟩ 0 (ready 0 0) x) ∧
    (∃ x, Granted v0 ⟨O.FwLoadControl, 0, 0, 3⟩ 0 loading x) ∧
    (∃ x, Granted v0 ⟨O.FwStagedLoad, 0, 0, 66846720 * 2 ^ 32 + 2 ^ 31⟩ 0 (ready 0 0) x) ∧
    timeVal (v0.sess == .bar0) (0#80).toNat = some 0 ∧ (∃ x, Granted v0 ⟨O.FwActivate, 0, 0, 0⟩ 0 slotReady x) ∧
    (∃ x, Granted v0 ⟨O.FwActivateCancel, 0, 0, 1⟩ 0 (ready 0 0) x) ∧ (∃ x, Granted v0 ⟨O.FwConfirm, 0, 0, 1⟩ 0 onTrial x) ∧
    (∃ x, Granted v0 ⟨O.FwRollback, 0, 0, 1⟩ 0 onTrial x) ∧ (∃ x, Granted v0 ⟨O.FwActivateAtReset, 0, 0, 1⟩ 0 slotReady x) ∧
    ∃ x, Granted v0 ⟨O.FwActivateAtReset, 0, 0, 0⟩ 0 (ready 0 0) x :=
  ⟨granted_of (by decide +kernel), granted_of (by decide +kernel), granted_of (by decide +kernel),
    granted_of (by decide +kernel), rfl, granted_of (by decide +kernel), granted_of (by decide +kernel),
    granted_of (by decide +kernel), granted_of (by decide +kernel), granted_of (by decide +kernel),
    granted_of (by decide +kernel)⟩

/-- A load of 20,000 bytes whose first row has come. -/
def halfway : State := setLoad F.FwLoadStatus_BytesReceived 8192 (updLoad (fun l => { l with row := 1, len := some 20000 }) loading)

/-- Row 1 of that load, all zeros, is taken, and the load goes on. -/
theorem witness_fwChunk : (List.replicate 8192 (0 : Byte)).length ≤ 8192 ∧
    (∃ x, Granted v0 ⟨O.FwChunk, 1, 0, 8192 * 2 ^ 65536⟩ 0 halfway x) ∧
    ((halfway.sess? (.mailbox 0)).all fun x => (chunkWritten x.client (roleOf (halfway.came (.mailbox 0)).toBlocks x) 0x02
      (List.replicate 8192 0) ((halfway.came (.mailbox 0)).booked [⟨O.FwChunk, 1⟩])).2.rd O.FwLoadStatus 0
        F.FwLoadStatus_State != 4) = true :=
  ⟨List.length_replicate.le, granted_of (by decide +kernel), by decide +kernel⟩

/-! ### Sessions, reads, writes and transactions -/

/-- An empty transaction of mailbox 0, its commit without an instant or accepted for one. -/
def txn0 (st : TxnSt) (at_ : Option Nat) : Txn :=
  { handle := 1, st := st, staged := [], touched := [], bytes := 0, lastWrite := 0, at_ := at_, order := 0, lastStatus := 0
    failedObj := 0, genKept := false }

/-- A snapshot of mailbox 0, taken at tick 0. -/
def snap0 : Snap :=
  { handle := 0x8001, openedAt := 0, blocks := Blocks.start, chest := Chest.blank, txns := 0, snaps := 1, zoas := 0
    status := 0, refs := 63, asked := (newSess (.mailbox 0) .mailbox 0 0x4001 0 none).asked, copied := [] }

/-- Session mailbox 0 of a module in READY, changed. -/
def speaking (f : Sess → Sess) : State := (ready 0 0).updSess (.mailbox 0) f

/-- Mailbox 0's session, changed, as it stands in `speaking`. -/
def mb (f : Sess → Sess) : Sess := f (newSess (.mailbox 0) .mailbox 0 0x4001 0 none)

/-- Request 7 of mailbox 0, under a handle. -/
def q7 (ctx : BitVec 16) : Req := ⟨.mailbox 0, 7#32, ctx, false⟩

theorem asks_of {s : State} {x : Sess}
    (h : (decide (s.sess? (.mailbox 0) = some x) && x.reached s.toBlocks && x.kept.isEmpty && x.running.isEmpty) = true) :
    Asks (.mailbox 0) 7 s x := by
  simp only [Bool.and_eq_true, decide_eq_true_eq, List.isEmpty_iff] at h
  obtain ⟨⟨⟨hy, hr⟩, hk⟩, hn⟩ := h
  exact ⟨hy, by decide, hr, (by rw [hk]; intro e he; cases he), (by rw [hn]; intro e he; cases he)⟩

/-- GridSource, one byte. -/
def srcItem (len : BitVec 16) (val : Bytes) : Item := ⟨BitVec.ofNat 20 O.GridSource, 8, 0, 0, len, val⟩

/-- EventBanks row 9 and on. -/
def bankItem (len : BitVec 16) (val : Bytes) : Item := ⟨BitVec.ofNat 20 O.EventBanks, 19, 9, 0, len, val⟩

/-- An object of no number of the catalogue. -/
def strange : Item := ⟨0xFFFFF, 1, 0, 0, 2, []⟩

/-- A commit check that passes. -/
def goes : Verdict → Bool
  | .go => true
  | .refuse .. => false

theorem go_of {v : Verdict} (h : goes v = true) : v = .go := by cases v <;> simp_all [goes]

theorem witness_ReadsAnswer :
    Asks (.mailbox 0) 7 (speaking id) (mb id) ∧ (mb id).txn = none ∧
    ((objInfo? (srcItem 1 []).obj.toNat).any fun o => canRead (speaking id).toBlocks (mb id) o && o.num != O.TimeCaptureLog &&
      checkForm o (srcItem 1 []).typ.toNat 0 0 1 == .ok) = true ∧
    objInfo? strange.obj.toNat = none ∧
    (speaking id).served = true ∧ (((speaking id).sess? .bar0).any fun x => x.txn.isNone &&
      (objInfo? (O.GridTime * 8 / 8)).any fun o => hasWindow o && canRead (speaking id).toBlocks x o) = true ∧
    (speaking id).barWaits = false ∧ (speaking id).barq = [] :=
  ⟨asks_of (by decide +kernel), rfl, by decide +kernel, by decide +kernel, by decide +kernel, by decide +kernel,
    by decide +kernel, rfl⟩

/-- Two rows from the last of EventBanks: one item. -/
theorem witness_TableReadsAnswer :
    Asks (.mailbox 0) 7 (speaking id) (mb id) ∧ (mb id).txn = none ∧ (bankItem 4 [0, 0, 0, 2]).val.length = 4 ∧
    ((objInfo? (bankItem 4 [0, 0, 0, 2]).obj.toNat).any fun o => canRead (speaking id).toBlocks (mb id) o &&
      o.num != O.TimeCaptureLog && checkForm o 19 9 0 (accLen o 0) == .ok &&
      (tableItems o (bankItem 4 [0, 0, 0, 2]) 2 9000).length == 1) = true :=
  ⟨asks_of (by decide +kernel), rfl, rfl, by decide +kernel⟩

theorem witness_WritesApplyTogether :
    Asks (.mailbox 0) 7 (speaking id) (mb id) ∧
    checkDirect ((speaking id).heard (.mailbox 0)) ((mb id).met (speaking id)) []
      ([srcItem 1 [1]].map fun i => itemCheck i ((speaking id).heard (.mailbox 0)) ((mb id).met (speaking id)) false) =
        [⟨O.GridSource, 0, 0, 1⟩].map Checked.good ∧ (∀ e ∈ [(⟨O.GridSource, 0, 0, 1⟩ : SW)], controls e.obj = false) ∧
    commitCheck (actorOf (speaking id).toBlocks (mb id) 0x04 0) [] none (cellsOf [⟨O.GridSource, 0, 0, 1⟩])
      ((speaking id).heard (.mailbox 0)) = .go ∧
    waitNeeded (cellsOf [⟨O.GridSource, 0, 0, 1⟩]) none none ((speaking id).heard (.mailbox 0)) = none :=
  ⟨asks_of (by decide +kernel), by decide +kernel, by decide +kernel, go_of (by decide +kernel), by decide +kernel⟩

theorem witness_SnapshotHandleRefusesWrites :
    Asks (.mailbox 0) 7 (speaking id) (mb id) ∧ 0x8000 ≤ (q7 0x8000).ctx.toNat ∧
    (∀ t, (mb id).txn = some t → t.handle < 0x8000) ∧ [srcItem 1 [1]] ≠ [] :=
  ⟨asks_of (by decide +kernel), by decide, fun _ h => (nomatch h), by simp⟩

/-- The open transaction of mailbox 0 commits at once or for an instant in its window; pending, it ends until 100 µs before. -/
theorem witness_TransactionsAreDriven :
    Asks (.mailbox 0) 7 (speaking id) (mb id) ∧ (speaking id).txnsOpen < 16 ∧ mayControl (speaking id) (mb id) O.TxnOpen = true ∧
    (∀ n : Fin 2, let f : Sess → Sess := fun x => { x with txn := some (txn0 .open_ none) };
      let at_ : Option Nat := if n.val = 0 then none else some (2 * 10 ^ 6);
      Asks (.mailbox 0) 7 (speaking f) (mb f) ∧ mayControl (speaking f) (mb f) O.TxnCommit = true ∧
      time80Ok (500000 * n.val) = true ∧ (beBytes 10 (500000 * n.val)).length = 10 ∧
      (if qOfTime80 (500000 * n.val) = 0 then none else some (qOfTime80 (500000 * n.val))) = at_ ∧
      commitCheck (actorOf (speaking f).toBlocks (mb f) 0x11 0) [] at_ [] ((speaking f).heard (.mailbox 0)) = .go ∧
      waitNeeded [] at_ none ((speaking f).heard (.mailbox 0)) = none) ∧
    (let f : Sess → Sess := fun x => { x with txn := some (txn0 .pending (some 400001)) };
      Asks (.mailbox 0) 7 (speaking f) (mb f) ∧ (q7 1).ctx.toNat = 1 ∧ mayControl (speaking f) (mb f) O.TxnAbort = true ∧
      (speaking f).gridQ + 400000 < 400001) := by
  refine ⟨asks_of (by decide +kernel), by decide +kernel, by decide +kernel, ?_, asks_of (by decide +kernel), rfl,
    by decide +kernel, by decide +kernel⟩
  intro n
  fin_cases n
  · exact ⟨asks_of (by decide +kernel), by decide +kernel, by decide +kernel, by decide +kernel, by decide +kernel,
      go_of (by decide +kernel), by decide +kernel⟩
  · exact ⟨asks_of (by decide +kernel), by decide +kernel, by decide +kernel, by decide +kernel, by decide +kernel,
      go_of (by decide +kernel), by decide +kernel⟩

theorem witness_SnapshotsAreServed :
    Asks (.mailbox 0) 7 (speaking id) (mb id) ∧ roleOf (speaking id).toBlocks (mb id) ≠ 0 ∧ (mb id).snap = none ∧ (speaking id).snapsOpen < 4 ∧
    Asks (.mailbox 0) 7 (speaking fun x => { x with snap := some snap0 }) (mb fun x => { x with snap := some snap0 }) ∧
    snap0.fits (speaking id).toBlocks = true ∧ snap0.handle = (q7 0x8001).ctx.toNat ∧
    snap0.openedAt + (aged (speaking id)).sc O.SnapshotLifetime * ticksPerMs ≤ (aged (speaking id)).time.ticks :=
  ⟨asks_of (by decide +kernel), by decide +kernel, rfl, by decide +kernel, asks_of (by decide +kernel), by decide +kernel,
    by decide +kernel, by decide +kernel⟩

/-- A subscription of GridSource, its value changed since it was last sent. -/
def subbed (x : Sess) : Sess := { x with subs := [⟨O.GridSource, 1, none⟩] }

theorem witness_SubscriptionsNotify :
    Asks (.mailbox 0) 7 (speaking id) (mb id) ∧ (∀ u ∈ (mb id).subs, u.obj ≠ (srcItem 1 []).obj.toNat) ∧
    ((objInfo? (srcItem 1 []).obj.toNat).any fun o => canRead (speaking id).toBlocks (mb id) o && o.typ != 20 && o.typ != 21 &&
      checkForm o 8 0 0 1 == .ok) = true ∧
    (let f : Sess → Sess := fun x => { x with eventDue := [9, 3], sendq := [⟨1, []⟩] };
      (mb f).eventDue.find? (bankDue (mb f) (speaking f)) = some 9) ∧ (objInfo? O.EventBanks).isSome = true ∧
    (mb subbed).eventDue.find? (bankDue (mb subbed) (speaking subbed)) = none ∧
    (speaking subbed).sess? (.mailbox 0) = some (mb subbed) ∧ (mb subbed).subs.find? (subDue (mb subbed) (speaking subbed)) = some ⟨O.GridSource, 1, none⟩ :=
  ⟨asks_of (by decide +kernel), by decide +kernel, by decide +kernel, by decide +kernel,
    by decide +kernel, rfl, by decide +kernel, by decide +kernel⟩

/-- A ZOA session opened at tick 0. -/
def zoaSess : Sess := newSess (.zoa 5) .dtls 1 0x4005 0 none

/-- A module whose management port 0 has an address. -/
def addressed (life : Nat) : State := (ready life 1).wr O.NetAddress 0 F.NetAddress_Ipv4Len 24

/-- Datagrams to MGMT_A's IPv4 address, at the default port. -/
def viaMgmtA : Arrival := ⟨.mgmtA, 46301, false⟩

/-- A credential that VENDOR_SERVICE admits in MAINTENANCE (R372). -/
theorem witness_SessionsOpenAndClose :
    (zoaServed ((addressed 3).ws O.VendorServiceAllow 1).toBlocks viaMgmtA = true ∧ (addressed 3).zoaSessions.length < 32 ∧
      admitCred ((addressed 3).ws O.VendorServiceAllow 1).toBlocks (.vendor true) = .ok (5, none)) ∧
    (zoaServed ((addressed 1).ws O.ZoaCleartextEnable 1).toBlocks viaMgmtA = true ∧ isInband viaMgmtA = false ∧
      ((addressed 1).ws O.ZoaCleartextEnable 1).life ≠ 2 ∧ ((addressed 1).ws O.ZoaCleartextEnable 1).sc O.ZoaCleartextEnable = 1) ∧
    (aged { ready 0 0 with sessions := [zoaSess] }).sess? (.zoa 5) = some zoaSess ∧
    zoaSess.last + 600 * ticksPerS ≤ (aged (ready 0 0)).time.ticks ∧
    ((speaking id).sess? (.mailbox 0) = some (mb id) ∧ (mb id).reached (speaking id).toBlocks = true ∧
      readMessage [] = none ∧ (speaking id).rd O.ZoaMalformed 0 0 < 2 ^ 64 - 1) := by
  refine ⟨⟨by decide +kernel, by decide +kernel, rfl⟩, ⟨by decide +kernel, rfl, by decide +kernel, by decide +kernel⟩,
    by decide +kernel, by decide +kernel, by decide +kernel, by decide +kernel, rfl, by decide +kernel⟩

/-- A commit that waits. -/
def wait0 (for_ : WaitFor) (order : Nat) : Wait :=
  { sess := .mailbox 0, direct := true, writes := [], items := [], op := 0x02, rid := 7, ctx := 0, small := false, due := 5
    waitFor := for_, order := order, at_ := none }

/-- Two commits wait for a generation, two for the parse bank. -/
def queued : State := { ready 0 0 with waits := [wait0 .gen 3, wait0 .gen 1, wait0 .bank 2, wait0 .bank 4] }

/-- A transaction accepted for an instant that has come. -/
def dueTxn (x : Sess) : Sess := { x with txn := some (txn0 .pending (some 5)) }

theorem witness_CommitsRunWhenDue :
    ((txn0 .open_ none).lastWrite + (aged (ready 0 0)).sc O.TxnIdleTimeout * ticksPerS ≤ (aged (ready 0 0)).time.ticks ∧
      (aged (speaking fun x => { x with txn := some (txn0 .open_ none) })).sess? (.mailbox 0) =
        some (mb fun x => { x with txn := some (txn0 .open_ none) })) ∧
    ((wait0 .gen 3).due ≤ (aged (ready 0 0)).time.ticks ∧ (ready 0 0).orphans = [] ∧
      ((ready 0 0).sessions.all fun y => y.txn.isNone) = true) ∧
    (firstTimed ((aged (speaking dueTxn)).timed.filter fun t => t.txn.st == .pending && match t.txn.at_ with
      | some q => decide (q ≤ (aged (speaking dueTxn)).gridQ) | none => false)).isSome = true ∧
    (queued.gensLive < 63 ∧ queued.time.stepReq = none ∧ queued.exact.ageWait = none ∧ wait0 .gen 1 ∈ queued.waits ∧
      ∀ u ∈ queued.waits, u ≠ wait0 .gen 1 → u.waitFor = .gen → (wait0 .gen 1).order < u.order) ∧
    (bankFree queued.toBlocks = true ∧ (firstTimed (queued.timed.filter fun t => t.txn.st == .waiting)).isNone = true ∧
      wait0 .bank 2 ∈ queued.waits ∧ ∀ u ∈ queued.waits, u ≠ wait0 .bank 2 → u.waitFor = .bank → (wait0 .bank 2).order < u.order) :=
  ⟨⟨by decide +kernel, by decide +kernel⟩, ⟨by decide +kernel, rfl, by decide +kernel⟩, by decide +kernel,
    ⟨by decide +kernel, rfl, rfl, by decide +kernel, by decide +kernel⟩,
    ⟨by decide +kernel, by decide +kernel, by decide +kernel, by decide +kernel⟩⟩

/-- A READ of no item: 16 bytes. -/
def emptyRead : Bytes := [1, 1, 0, 0, 0, 0, 0, 7, 0, 0, 0, 0, 0, 0, 0, 0]

/-- Slot 3's request buffer lies at 30100h of BAR4. -/
def asked3 : State := bar4Writes [(0x30100, emptyRead)] (ready 0 0)

theorem witness_HostWindowsServe :
    (ready 0 0).served = true ∧ (8 * O.GridTime < 0x800000 ∧ 8 * O.GridTime % 8 = 0) ∧ (3 < 8 ∧ 0 < 3) ∧ (8 * 5 + 4) % 8 ≠ 0 ∧
    (2 ^ 31 ≤ (0x80000001#32).toNat ∧ (0x80000001#32).toNat % 65536 ≠ 0) ∧
    ((asked3.mbox[(3 : Fin 4).val]?).any fun m => m.busy.isNone && (readMessage (memRead m.reqBuf 0 16)).isSome) = true ∧
    (let s := { ready 0 0 with mbox := [Mbox.start] }.updSess (.mailbox 0) fun x => { x with sendq := [⟨0, []⟩] };
      (s.mbox[0]?).any (fun m => !m.hostOwns && m.busy.isNone) = true ∧
        ((s.sess? (.mailbox 0)).any fun x => !x.sendq.isEmpty) = true) := by
  decide +kernel

/-! ### The block -/

theorem witness_StepTakesTheFrontCommand :
    ({ ready 0 0 with pending := [.longcaseTick, .gridStep] } : State).pending = [.longcaseTick, .gridStep] ∧
    (ready 0 0).pending = [] := by
  decide +kernel

/-- A sound state; a sound state that steps; one that a module reset returns to defaults. -/
theorem witness_SoundStates :
    (ready 3 4).Sound ∧ ({ ready 3 4 with pending := [.longcaseTick] } : State).Sound ∧
    (step { ready 3 4 with pending := [.longcaseTick] } matches .next _) ∧ (ready 3 4).boot.held = false ∧
    (moduleKept O.GridSource = false ∨ moduleKept O.GridTime = false) ∧
    O.GridTime ∉ [O.ResetCause, O.ModuleResetCount, O.PowerSequence, O.PowerNvGuard] ∧ 2 ^ 32 - 1 < 2 ^ 32 ∧ 255 < 256 :=
  ⟨sound_of (by decide +kernel), sound_of (by decide +kernel), by decide +kernel, by decide +kernel, by decide +kernel,
    by decide +kernel, by decide, by decide⟩

theorem witness_StoresReadWhatWasWritten :
    storeWf (ready 0 0).store ∧ (O.GridSource, 0, 1) ≠ (O.GridSource, 0, 0) ∧ Memory.wf (memWrite [] 5 [1, 0, 2]) = true ∧
    (4 < 5 ∨ 5 + 3 ≤ 4) ∧ 5 + 3 ≤ 8 := by
  decide +kernel

/-- Mailbox 0 with an open transaction stages a write; through BAR0 too. -/
theorem witness_WriteCommandsAreStaged :
    (let f : Sess → Sess := fun x => { x with txn := some (txn0 .open_ none) };
      Stageable ⟨.mailbox 0, 7#32, 1#16⟩ ⟨O.GridSource, 0, 0, 1⟩ (speaking f) (mb f) (txn0 .open_ none)) ∧
    oneWrite (.gridSourceWrite ⟨.mailbox 0, 7#32, 1#16⟩ 1) = some (⟨.mailbox 0, 7#32, 1#16⟩, ⟨O.GridSource, 0, 0, 1⟩, 0) ∧
    (oneWrite (.portRetrain ⟨.bar0, 0#32, 0#16⟩ 5 1)).any (fun e => e.2.1.row != 0) = true ∧ (ready 0 0).served = true := by
  refine ⟨⟨by decide +kernel, rfl, .inl rfl, fun _ => ⟨asks_of (by decide +kernel), rfl, by decide⟩, fun h => (nomatch h),
    by decide +kernel, by decide +kernel⟩, rfl, by decide +kernel, by decide +kernel⟩

/-- Bank 9 with its source 319 enabled, its flag set or clear, routed to a vector. -/
def banked (flag enable route : Nat) : State :=
  (((ready 0 0).wr O.EventBanks 9 F.EventBanks_Flags (flag * 2 ^ 31)).wr O.EventBanks 9 F.EventBanks_Enable
    (enable * 2 ^ 31)).wr O.EventSource 319 F.EventSource_Route route

theorem witness_EventsAreRaised :
    ((banked 1 1 1).rd O.EventBanks (319 / 32) F.EventBanks_Flags).testBit (319 % 32) = true ∧
    ((banked 0 0 1).rd O.EventBanks 9 F.EventBanks_Enable).testBit 31 = false ∧
    (((banked 0 1 1).rd O.EventBanks 9 F.EventBanks_Flags).testBit 31 = false ∧
      ((banked 0 1 1).rd O.EventBanks 9 F.EventBanks_Enable).testBit 31 = true ∧
      (banked 0 1 1).rd O.EventSource 319 F.EventSource_Route = 1 ∧ (banked 0 1 0).rd O.EventSource 319 F.EventSource_Route = 0 ∧
      (banked 0 1 1).busMaster = false ∧ ((banked 0 1 1).wr O.PcieLinkStatus 0 F.PcieLinkStatus_BusMasterEnable 1).busMaster = true) := by
  decide +kernel

/-! ### The forwarding engine -/

/-- The packet of the tests: 64 bytes of zeros to queue 0 of port 0. -/
def hdr0 : Hdr := ⟨0, 0, 0, 0, 0, 0, 0, false, false, 0, false, false, 0, 64, 0, 0, 0⟩
def pkt0 : Pkt := ⟨hdr0, 0, none, List.replicate 64 0, 0, false, none, none, 0, [], [], none⟩

/-- TRAFFIC with both Dovetail links up. -/
def running : State :=
  ((ready 0 0).upBoot fun b => { b with phase := 7 }).ws O.DovetailLinkState 3

/-- A packet that recirculates and one that the host injects, for a graph of no node or of one end node; an exact profile. -/
def atTheDoor (graph exact : Nat) : State :=
  (((running.wr O.ParseNode 0 F.ParseNode_Valid graph).wr O.ParseNode 0 F.ParseNode_End graph).wr O.LookupProfile 0
    F.LookupProfile_ExactAEnable exact).wr O.ExactKeyProfile 0 F.ExactKeyProfile_Valid exact |>.upFe fun f =>
      { f with recirc := [pkt0], inject := [⟨List.replicate 64 0, 0x4000, none, true, 0, 0, 0, 0, 0, false, 0, (0, 0)⟩] }

/-- What the packet of `a` finds at its lookups: the state, itself, whether it comes from the repair queue, its lookups, and
the lines that it reads. -/
structure Found where
  s : State
  f : Entering
  again : Option Nat
  l : Look
  reads : Line → Bool

/-- Whether the packet of `a` comes to its lookups as `k` says. -/
def comes (a : AdmitSrc) (s : State) (k : Found → Bool) : Bool :=
  match takeFrom a s with
  | none => false
  | some (e, again, s2) =>
    let p := withStamps e.pkt s2
    let l := lookUp p.2.toBlocks { e with pkt := p.1 }
    let f : Entering := ⟨{ p.1 with hdr := { p.1.hdr with flowHash := l.hash } }, e.direct⟩
    k ⟨p.2, f, again, l, linesRead p.2.toBlocks f l
      (if l.fail.isSome || e.direct then Disp.start else evaluate p.2.toBlocks p.1.gen p.1.hdr.pass l)⟩

/-- No line that the packet reads is under repair, and its flow is not parked. -/
def Found.passes (x : Found) : Bool :=
  !(x.s.repair.lines.any x.reads) && !flowParked x.s.toBlocks x.again x.l.hash

/-- The line of lookup profile 0. -/
def profileLine : Line := .row O.LookupProfile 0

/-- A Pdelay request on a port whose transparent clock measures peer delay. -/
def pdelayAtTheDoor : State :=
  ((atTheDoor 1 0).wr O.TcPort 0 F.TcPort_Mode 2).upFe fun f =>
    { f with recirc := [{ pkt0 with data := List.replicate 12 0 ++ [0x88, 0xF7, 2] ++ List.replicate 49 0 }] }

theorem witness_PacketsAreAdmitted :
    popCount 2 (running.sc O.DovetailLinkState) = 2 ∧ running.traffic = true ∧
    comes .recirc (atTheDoor 0 0) (fun x => x.passes && x.l.fail.isSome) = true ∧
    comes .recirc pdelayAtTheDoor (fun x => x.passes && x.l.fail.isNone && pdelayHeard x.s.toBlocks x.f.pkt) = true ∧
    comes .inject (atTheDoor 1 0) (fun x => x.passes && x.l.fail.isNone && !pdelayHeard x.s.toBlocks x.f.pkt && x.f.direct) = true ∧
    comes .recirc (atTheDoor 1 1) (fun x =>
      x.passes && x.l.fail.isNone && !pdelayHeard x.s.toBlocks x.f.pkt && !x.f.direct) = true ∧
    comes .recirc (atTheDoor 1 1) (fun x => x.reads profileLine && x.s.repair.queue.isEmpty && x.s.repair.lines.isEmpty) = true ∧
    comes .recirc ((atTheDoor 1 1).upRepair fun r => { r with lines := (List.range 16).map .routeBucket })
      (fun x => x.reads profileLine && !x.s.repair.lines.contains profileLine && x.s.repair.lines.length == 16) = true := by
  decide +kernel

theorem witness_LineRepairEnds :
    Line.row O.ActionSet 3 ∈ (running.upRepair fun r => { r with lines := [.row O.ActionSet 3] }).repair.lines := by
  decide +kernel

/-- A learned key at the head of the learn queue, and an entry found and one that is not. -/
def learning : State := running.upExact fun x => { x with
  learnQ := [⟨0, 0, 5, 9, 0, hdr0⟩]
  entries := [⟨0, 0, 6, 9, true, false, 0, 0, 0, none, false, false⟩] }

theorem witness_ExactStoreLearnsAndAges :
    (learning.exact.lastInsert = none ∧ (∀ e ∈ learning.exact.entries, e.dead = none → e.keyIs 0 0 5 = false) ∧
      (exactPlace learning.toBlocks learning.exact.entries 0 0 5).isSome = true) ∧
    (running.ws O.ExactAgerEnable 1).flag O.ExactAgerEnable 0 0 = true ∧
    (∀ e ∈ learning.exact.entries, e.found = true → e.dead ≠ none) ∧
    (let s := learning.upExact fun x => { x with entries := x.entries.map fun e => { e with found := true } };
      (s.exact.entries.any fun e => e.found && e.dead.isNone) = true ∧ s.gensLive < 63) := by
  decide +kernel

theorem witness_RouteFilterIsRecounted :
    (16777215 : Nat) ∈ (List.range 16).map ((1048575 : Fin 1048576).val * 16 + ·) ∧
    Tbl.get 0 (running.upRoute fun r => { r with filter := Tbl.put 0 16777215 15 r.filter }).route.filter 16777215 = 15 := by
  decide +kernel

theorem witness_EgressEditsAndSends :
    running.traffic = true ∧ (running.upFe fun f => { f with toFe1 := [⟨pkt0, 0, 0, 0, []⟩] }).fe.toFe1 = [⟨pkt0, 0, 0, 0, []⟩] := by
  decide +kernel

/-- A stream that accepted its last packet at tick 1. -/
def streaming : State := aged ((ready 0 0).wr O.StreamRecovery 16383 F.StreamRecovery_Valid 1 |>.upFe fun f =>
  { f with streams := Tbl.put StreamRT.start 16383 { StreamRT.start with armed := false, acceptedAt := 1 } f.streams })

/-- Generation 0 closed at tick 0, and no packet of it, or one in recirculation. -/
def closing (held : Bool) : State :=
  { aged ((ready 0 0).upFe fun f => { f with recirc := if held then [pkt0] else [] }) with
    gen := { cur := 1, closed := [⟨0, 0⟩], hist := [], bankGen := 0 } }

theorem witness_StreamsAndGenerationsEnd :
    ((Tbl.get StreamRT.start streaming.fe.streams 16383).armed = false ∧
      streaming.rd O.StreamRecovery 16383 F.StreamRecovery_Valid ≠ 0 ∧
      (Tbl.get StreamRT.start streaming.fe.streams 16383).acceptedAt +
        streaming.rd O.StreamRecovery 16383 F.StreamRecovery_ResetMs * ticksPerMs ≤ streaming.time.ticks) ∧
    drained (closing false).toBlocks 0 = true ∧ drained (closing true).toBlocks 0 = false ∧
    0 + ageLimitUs (closing true).toBlocks * ticksPerUs < (closing true).time.ticks := by
  decide +kernel

/-- The live generations 8 to 70 and their tags: the oldest, the newest, and a tag above the current one's. -/
theorem witness_TagsNameGenerations :
    let b : Blocks := { Blocks.start with gen := ⟨70, [], [], 0⟩ };
    ((63 : Nat) < 64 ∧ 63 ≤ b.gen.cur) ∧ (8 ≤ b.gen.cur ∧ b.gen.cur < 8 + 63) ∧ b.genOfTag (8 % 64) = 8 ∧
      b.genOfTag 63 = 63 ∧ b.genOfTag 6 = 70 := by
  decide +kernel

/-! ### Numbers of the spec's worked examples -/

/-- Example 1-1: bytes 0 to 15 of a carriage header. -/
theorem test_example_1_1 :
    (hdrBytes ⟨5, 0x3A7C, 9, 40, 41459, 5, 0, false, false, 0, false, false, 17, 1000, 6700, 0, 0⟩).take 16 =
      [0x14, 0xE9, 0xF2, 0x4A, 0x05, 0x0F, 0x9D, 0x00, 0x01, 0x10, 0xFA, 0x00, 0x06, 0x8B, 0x00, 0x00] := by
  decide +kernel

/-- Example 0-1: both dies of revision A1, family 0xCA12, part 0x0128. -/
theorem test_example_0_1 : fieldDefault O.PartIdentity 0 F.PartIdentity_Family = 0xCA12 ∧
    fieldDefault O.PartIdentity 0 F.PartIdentity_FeRevision = 0x11 := by
  decide +kernel

/-- Example 9-1: 128 bytes and a literal block of 96 take one cell. -/
theorem test_example_9_1 :
    ({ pkt0 with hdr := { hdr0 with length := 128 }, literal := some (List.replicate 5 0) } : Pkt).cellCount = 1 := by
  decide +kernel

/-- Example 15-1: bit 2 of bank 7 is source 226. -/
theorem test_example_15_1 : src 7 2 = 226 := by decide +kernel

/-- R81 and Example 3-1: the nominal increment is for a tick of 1.25 ns. -/
theorem test_nominal_increment : nominalInc = 1374389534720 ∧ ticksPerUs = 800 := by decide +kernel

/-! ### The traffic manager and the scheduler -/

/-- Queue 0 enabled under port 0, which carries. -/
def served0 : State :=
  ((running.wr O.QueueBuffer 0 F.QueueBuffer_Enable 1).wr O.PortStatus 0 F.PortStatus_State 5).upSched fun c =>
    { c with eff := [(skey O.SchedPort 0 F.SchedQueue_Valid, 1), (skey (O.SchedPort + 1) 0 F.SchedQueue_Parent, 0)] }

/-- The queue holds the packet on chip. -/
def holding : State := served0.setQueue 0 [.chip pkt0 1 [1]]

/-- The lanes all empty, or all full. -/
def lanes (full : Bool) : State := running.upTm fun m => { m with
  fromMesh := [pkt0], lanes := if full then (List.range 10).map fun k => (k, List.replicate 4096 pkt0) else [] }

theorem witness_TmTakesAndLanesServe :
    (running.upFe fun f => { f with toTm1 := [[pkt0]] }).fe.toTm1 = [[pkt0]] ∧ pkt0.mcast = false ∧
    pkt0.hdr.destCard = running.card ∧ { pkt0 with hdr := { hdr0 with destCard := 15 } }.hdr.destCard ≠ running.card ∧
    (lanes true).tm.fromMesh = [pkt0] ∧ 4096 ≤ (Tbl.get [] (lanes true).tm.lanes (laneOf pkt0)).length ∧
    Tbl.get [] (lanes false).tm.lanes (laneOf pkt0) = [] ∧
    Tbl.get [] (lanes true).tm.lanes (9 : Fin 10).val = pkt0 :: List.replicate 4095 pkt0 := by
  have full : ∀ k : Fin 10, 4096 ≤ (Tbl.get [] (lanes true).tm.lanes k.val).length := by decide +kernel
  exact ⟨by decide +kernel, rfl, by decide +kernel, by decide +kernel, rfl,
    full ⟨laneOf pkt0, Nat.mod_lt _ (by decide)⟩, rfl, by decide +kernel⟩

/-- The packet comes to a queue whose limits are at the values that let it pass, or just too low. -/
def tight (maxKiB onChip class_ : Nat) : State :=
  ((served0.wr O.BufferProfile 0 F.BufferProfile_MaxKiB maxKiB).wr O.BufferProfile 0 F.BufferProfile_OnChipLimit onChip).wr
    O.PortClassLimit 0 0 class_

/-- No cell free beside the reserve, or so many. -/
def spent (cells : Nat) : State := served0.ws O.ReturnReserveCells (524288 - cells)

/-- Another queue holds `n` descriptors, and no cell. -/
def descsUsed (n : Nat) : State := served0.upTm fun m => { m with queues := [(1, List.replicate n (.chip pkt0 0 []))] }

/-- With all 2,097,152 in use none is free, and every cell is. -/
theorem descsUsed_free (n : Nat) : (descsUsed n).freeDescs = 2097152 - n ∧ (descsUsed n).freeCells = 524288 := by
  have hi : (descsUsed n).items = List.replicate n (.chip pkt0 0 []) := by
    show ([(1, List.replicate n (QItem.chip pkt0 0 []))].map (·.2)).flatten = _
    simp only [List.map_cons, List.map_nil, List.flatten_cons, List.flatten_nil, List.append_nil]
  have hc : (descsUsed n).crossing = [] := rfl
  constructor
  · simp only [Blocks.freeDescs, Blocks.usedDescs, hi, hc, List.length_append, List.length_map, List.length_replicate,
      List.map_nil, List.length_nil, Nat.add_zero]
  · simp only [Blocks.freeCells, Blocks.usedCells, hi, hc, List.map_replicate, QItem.cells, List.flatten_replicate_nil,
      List.map_nil, List.flatten_nil, List.append_nil, List.length_nil, Nat.sub_zero]

theorem witness_AdmissionFollowsR208 :
    (∀ s ∈ [tight 0 1 1, tight 1 0 1, tight 1 1 0, tight 1 1 1], s.rd O.QueueBuffer 0 F.QueueBuffer_Enable = 1 ∧
      s.path? 0 = some (0, 0, 0, pkt0.hdr.destPort) ∧ s.profile 0 F.BufferProfile_SpillEnable = 0) ∧
    (tight 0 1 1).profile 0 F.BufferProfile_MaxKiB * 1024 < totalBytes ((tight 0 1 1).queue 0) + pkt0.hdr.length ∧
    ∀ s ∈ [tight 1 0 1, tight 1 1 0, tight 1 1 1],
      totalBytes (s.queue 0) + pkt0.hdr.length ≤ s.profile 0 F.BufferProfile_MaxKiB * 1024 := by decide +kernel

theorem witness_AdmissionGoesOn :
    ((tight 1 0 1).profile 0 F.BufferProfile_OnChipLimit < onChip ((tight 1 0 1).queue 0) + pkt0.cellCount) ∧
    (tight 1 1 0).rd O.PortClassLimit 0 0 < (tight 1 1 0).portClass 0 0 + pkt0.cellCount ∧
    ((tight 1 1 1).portClass 0 0 + pkt0.cellCount ≤ (tight 1 1 1).rd O.PortClassLimit 0 0 ∧
      onChip ((tight 1 1 1).queue 0) + pkt0.cellCount ≤ (tight 1 1 1).profile 0 F.BufferProfile_OnChipLimit) ∧
    (spent 0).freeCells < pkt0.cellCount + (spent 0).sc O.ReturnReserveCells ∧
    (spent 1).freeCells = pkt0.cellCount + (spent 1).sc O.ReturnReserveCells ∧ (spent 1).freeDescs ≠ 0 ∧
    firstFree (spent 1).usedDescs 1 = [0] := by
  decide +kernel

/-- A queue in spill with a record to return, and a flushed one. -/
def spilled : State :=
  (served0.setQueue 0 [.seg 3 [0, 1] 64 [(0, pkt0)]]).upTm fun m => { m with asks := [0] }
def flushed : State := (spilled.ws O.SpillPause 1).upTm fun m => { m with flushing := [(5, [2]), (6, [3, 4])] }

/-- The spill bucket of the queue has no token left. -/
def drained0 : State := spilled.upTm fun m => { m with spillR := m.spillR.take spilled.spillTick 0 (2 ^ 60) }

theorem witness_SpillReturnsInTurn :
    (spilled.tm.flushing = [] ∧ spilled.sc O.SpillPause ≠ 1 ∧ spilled.tm.asks = [0]) ∧
    (running.tm.flushing = [] ∧ running.tm.asks = []) ∧
    (flushed.tm.flushing = [(5, [2]), (6, [3, 4])] ∧ flushed.sc O.SpillPause = 1) ∧
    (let s := spilled.upTm fun m => { m with flushing := [(5, [2])] };
      s.tm.flushing = [(5, [2])] ∧ s.sc O.SpillPause ≠ 1 ∧ s.tm.asks = [0]) ∧
    needsReturn running.toBlocks 0 = false ∧ needsReturn spilled.toBlocks 0 = true ∧
    (returnPage 0 64 0 spilled).queue 0 ≠ spilled.queue 0 ∧
    (needsReturn drained0.toBlocks 0 = true ∧ (returnPage 0 64 0 drained0).queue 0 = drained0.queue 0) ∧
    splitSeg (spilled.queue 0) = ([], [.seg 3 [0, 1] 64 [(0, pkt0)]]) ∧
    spilled.tm.spillR.allows spilled.spillTick spillBurst spilled.time.ticks (pkt0.recordBytes * meterScale) = true ∧
    pkt0.cellCount ≤ spilled.freeCells ∧ 1 ≤ spilled.freeDescs := by
  decide +kernel

/-- A packet whose cell is lost, on chip and crossing. -/
theorem witness_FailedBufferLinesDropPackets :
    (holding.queue 0).any (·.hit [1] []) = true ∧
    ((holding.upFe fun f => { f with toFe0 := [⟨pkt0, 0, 0, 0, [1]⟩] }).crossing.any fun c => c.cells.contains 1) = true := by
  decide +kernel

/-- Pool 3 with `n` of its buffers given. -/
def given (n : Nat) : State :=
  running.upShelf fun h => { h with owned := (List.range n).map fun k => (poolFor 65536, k, 1) }

theorem witness_ShelfGivesAndTakes :
    (0 < 65536 ∧ 64 < running.shelfFree (poolFor 65536)) ∧ (given 4096).shelfFree (poolFor 65536) = 0 ∧
    ((given 4032).shelfFree (poolFor 65536) = 64 ∧ (0x4000#16).toNat / 4096 ≠ 0 ∧ (0x0001#16).toNat / 4096 = 0) ∧
    (3, 7, 0x4000) ∈ (running.upShelf fun h => { h with owned := [(3, 7, 0x4000)] }).shelf.owned ∧
    (3, 7, 0x4001) ∉ (running.upShelf fun h => { h with owned := [(3, 7, 0x4000)] }).shelf.owned := by
  decide +kernel

theorem witness_ShapersRefill :
    let s := served0.upSched fun c => { c with eff := [(skey (levelObj 4) 0 F.SchedQueue_CommittedEnable, 1)] };
    s.node 4 0 F.SchedQueue_CommittedEnable = 1 ∧ s.node 4 0 F.SchedQueue_PeakEnable = 0 := by
  decide +kernel

/-- `n` nodes whose slot has started. -/
def calendar (n : Nat) : State :=
  served0.upSched fun c => { c with nodes := (List.range n).map fun k => (k, ⟨0, 0, 0, 0, false⟩) }

/-- The nodes that the wheel would release. -/
def dueNodes (s : State) : List (Nat × NodeRT) :=
  (s.sched.nodes.filter fun e => !e.2.released && decide (e.2.ne / 65536 ≤ s.slotTime / 65536)).insertionSort
    fun a b => a.2.ne / 65536 ≤ b.2.ne / 65536

theorem witness_CalendarReleasesSlots :
    (dueNodes (calendar 64)).length ≤ 64 ∧ ((dueNodes (calendar 65)).drop 64).length = 1 := by
  decide +kernel

/-- The queues of port 0 that no head test turns away, and the queue chosen. -/
def chosen (s : State) : Option Child :=
  pickPort (settleRounds s).toBlocks 0 ((backlogged (settleRounds s).toBlocks 0).filter fun c =>
    headEligible (settleRounds s).toBlocks c)

theorem witness_SchedulerSendsTheChosenHead :
    holding.traffic = true ∧ ((backlogged holding.toBlocks 0).all fun c => !(headTests c holding).1) = true ∧
    (chosen holding).any (fun c => (linkFor holding.toBlocks c.cand.head.hdr.flowHash).isSome) = true := by
  decide +kernel

/-- Port 5 gated, its list two entries long, and one pending; port 7 gated with none. -/
def gates : State :=
  ((running.wr O.GateConfig 5 F.GateConfig_Enable 1).wr O.GateConfig 7 F.GateConfig_Enable 1).updGate 5 fun g =>
    { g with oper := some ⟨0, 1000, [(1, 400), (2, 600)]⟩, pend := some (⟨0, 1000, []⟩, 0) }

theorem witness_GatesFollowGridTime :
    (gates.gated 5 = true ∧ gates.gated 6 = false ∧ gates.gated 7 = true ∧ gates.runningList 7 = none) ∧
    (let s : State := { gates with time := { gates.time with st := .locked } };
      s.gated 5 = true ∧ (s.runningList 5).isSome = true) ∧
    ((gates.gate 5).pend.any fun e => decide (e.2 ≤ gates.gridQ)) = true := by
  decide +kernel

/-! ### The ports -/

/-- A frame of 64 bytes with the given bytes from 12 on. -/
def frame (b : Bytes) : Bytes :=
  let d := (List.replicate 12 0 ++ b ++ List.replicate 48 0).take 60
  d ++ fcsBytes d

/-- Port 127 carries in mode 1, its receive buffer empty or with the given room left. -/
def carrying (room : Nat) : State :=
  ((((ready 0 0).wr O.PortConfig 127 F.PortConfig_Enable 1).wr O.PortConfig 127 F.PortConfig_Mode 1).wr O.PortFlowControl 127
    F.PortFlowControl_Mode 1 |> setLink 127 5).updPort 127 fun r =>
      { r with rx := if room = 65536 then [] else [⟨List.replicate (65536 - room) 0, 0, none, 0, 0⟩] }

/-- The state after the counters of a good frame. -/
def counted (data : Bytes) (s : State) : State :=
  ptpHeard 127 data ((s.add64 O.PortCounters 127 F.PortCounters_RxFrames 1).add64 O.PortCounters 127 F.PortCounters_RxBytes
    data.length)

theorem witness_FramesAreReceived :
    (carrying 65536).carrying 127 = true ∧ (receiveFault (carrying 65536).toBlocks 127 []).isSome = true ∧
    (∀ b ∈ [[], [0x88, 0x08, 0, 1, 0, 5], [0x88, 0x08, 0, 9]], receiveFault (carrying 65536).toBlocks 127 (frame b) = none) ∧
    (beAt (frame [0x88, 0x08, 0, 1, 0, 5]) 12 2 = 0x8808 ∧ (pausesOf 1 0 (frame [0x88, 0x08, 0, 1, 0, 5])).isSome = true) ∧
    (beAt (frame [0x88, 0x08, 0, 9]) 12 2 = 0x8808 ∧ pausesOf 1 0 (frame [0x88, 0x08, 0, 9]) = none) ∧
    beAt (frame []) 12 2 ≠ 0x8808 ∧
    (let s := (ready 0 0).updPort 5 fun r => { r with left := some (0, 100) };
      s.carrying 5 = false ∧ wasReceiving 64 s.time.ticks (s.port 5).left = true) := by
  decide +kernel

theorem witness_FramesFitOrNot :
    ((counted (frame []) (carrying 64)).port 127).level 8 + 64 ≤ (counted (frame []) (carrying 64)).rxSize 127 ∧
    (counted (frame []) (carrying 63)).rxSize 127 < ((counted (frame []) (carrying 63)).port 127).level 8 + 64 ∧
    (let t := counted (frame []) (carrying 63); (t.port 127).overRaised = false ∧
      t.rd O.PortFlowControl 127 F.PortFlowControl_XoffKiB * 1024 < (t.port 127).level 8) ∧
    (let t := (counted (frame []) (carrying 63)).wr O.PortFlowControl 127 F.PortFlowControl_XoffKiB 64;
      (t.port 127).level 8 ≤ t.rd O.PortFlowControl 127 F.PortFlowControl_XoffKiB * 1024) := by
  decide +kernel

/-- A paused class and a pause sent, some time ago, by a port that watches its whole buffer. -/
def pausing : State := aged ((carrying 64).updPort 127 fun r => { r with paused := [(7, 5)], holding := [(8, 0)] })

theorem witness_PausesRepeatAndExpire :
    ((8, 0) ∈ (pausing.port 127).holding ∧ 0 + quantaTicks (pausing.rd O.PortFlowControl 127 F.PortFlowControl_PauseQuanta)
        (pausing.portRate 127) / 2 ≤ pausing.time.ticks ∧ pausing.carrying 127 = true ∧ 8 ∈ pausing.watched 127 ∧
      pausing.rd O.PortFlowControl 127 F.PortFlowControl_XonKiB * 1024 < (pausing.port 127).level 8) ∧
    (7, 5) ∈ (pausing.port 127).paused ∧ 5 ≤ pausing.time.ticks := by
  decide +kernel

/-- Port 0 enabled in mode 3, negotiating and training or not, in a link state. -/
def coming (an train st : Nat) : State :=
  ((((ready 0 0).wr O.PortConfig 0 F.PortConfig_Enable 1).wr O.PortConfig 0 F.PortConfig_Mode 3).wr O.PortConfig 0
    F.PortConfig_AnEnable an).wr O.PortConfig 0 F.PortConfig_TrainEnable train |> setLink 0 st

theorem witness_PortsBringTheirLinksUp :
    (∀ s ∈ [coming 1 1 1, coming 1 0 2, coming 1 1 3, coming 0 1 1, coming 1 1 4], s.portUsable 0 = true) ∧
    ((coming 1 1 1).link 0 = 1 ∧ (coming 1 1 1).portCfg 0 F.PortConfig_AnEnable = 1) ∧ (coming 1 0 2).link 0 = 2 ∧
    ((coming 1 1 3).link 0 = 3 ∧ (coming 1 1 3).portCfg 0 F.PortConfig_TrainEnable = 1) ∧
    ((coming 0 1 1).link 0 = 1 ∧ (coming 0 1 1).portCfg 0 F.PortConfig_AnEnable = 0) ∧ (coming 1 1 4).link 0 = 4 ∧
    ((aged (coming 1 1 1)).stateFor 0 500 = true ∧ (aged (coming 1 1 3)).stateFor 0 (trainingMs 3) = true) := by
  decide +kernel

/-- The partner's ability is the port's own, or its FEC is another. -/
theorem witness_AbilitiesMatchOrNot :
    let ability := Config.modeAbility 3
    let fec := Config.fecAbility (fecOf 3 ((coming 1 1 1).portCfg 0 F.PortConfig_FecRequest))
    abilityMatches (coming 1 1 1).toBlocks 0 ability fec = true ∧
      abilityMatches (coming 1 1 1).toBlocks 0 ability (fec + 1) = false := by
  have h : (coming 1 1 1).portCfg 0 F.PortConfig_Mode = 3 := by decide +kernel
  have n : ∀ x : BitVec 2, (x + 1 == x) = false := by decide
  exact ⟨by simp [abilityMatches, h], by simp [abilityMatches, h]⟩

/-- Port 0 carries in the mode, lanes lost or not, and degrades or may. -/
def laned (mode enable : Nat) : State :=
  ((coming 1 1 5).wr O.PortConfig 0 F.PortConfig_Mode mode).wr O.PortConfig 0 F.PortConfig_DegradeEnable enable

/-- The first mode with a degraded mode. -/
def splitMode : Nat := ((List.range 12).find? fun m => modeDegraded m != 0).getD 0

theorem witness_PortsDegradeOrGoDown :
    ((laned splitMode 1).carrying 0 = true ∧ (laned splitMode 1).link 0 = 5 ∧ ((laned splitMode 1).port 0).degrading = none ∧
      (halfOf (modeLanes splitMode) 1).isSome = true ∧ (laned splitMode 1).portCfg 0 F.PortConfig_DegradeEnable = 1 ∧
      modeDegraded splitMode ≠ 0 ∧ (1#8).toNat % 2 ^ modeLanes splitMode = 1) ∧
    (laned splitMode 0).portCfg 0 F.PortConfig_DegradeEnable = 0 ∧ (laned splitMode 0).carrying 0 = true ∧
    (let s := (laned splitMode 1).updPort 0 fun r => { r with degrading := some 1 };
      s.link 0 = 5 ∧ (s.port 0).degrading = some 1) := by
  decide +kernel

/-! ### Longcase -/

/-- READY with the given time. -/
def timed (f : TimeRT → TimeRT) : State := { ready 0 0 with time := f (ready 0 0).time }

/-- Domain A qualified or not, the grid in a state. -/
def domainOn (a b : Nat) (st : GridSt) : State :=
  ((timed fun t => { t with st := st }).ws O.DomainAQualified a).ws O.DomainBQualified b

theorem witness_TicksAdvanceTheCounters :
    (ready 0 0).boot.held = false ∧ (domainOn 1 0 .locked).qualified (domainOn 1 0 .locked).selected = true ∧
    (domainOn 0 1 .holdover).qualified (domainOn 0 1 .holdover).selected = false := by
  decide +kernel

/-- The error of a microsecond, beyond the slew limit or not, and beyond the step threshold or below the lock threshold. -/
def erring (st : GridSt) (ahead : Nat) : State :=
  (timed fun t => { t with st := st, domA := { t.domA with time := ahead } }).ws O.DomainAQualified 1

theorem witness_SteeringFollowsTheError :
    ((erring .acquire 0).gridErr.natAbs * 10 ^ 9 ≤
      (erring .acquire 0).sc O.GridSlewLimit * ((erring .acquire 0).sc O.GridSteerTimeConstant * 10 ^ 6 * 2 ^ 42)) ∧
    ((erring .acquire (2 ^ 80)).sc O.GridSlewLimit * ((erring .acquire (2 ^ 80)).sc O.GridSteerTimeConstant * 10 ^ 6 * 2 ^ 42) <
      (erring .acquire (2 ^ 80)).gridErr.natAbs * 10 ^ 9) ∧
    nsUnits ((erring .acquire (2 ^ 80)).sc O.GridStepThreshold) < (erring .acquire (2 ^ 80)).gridErr.natAbs ∧
    ((erring .acquire 0).qualified (erring .acquire 0).selected = true ∧ (erring .acquire 0).gridErr.natAbs < nsUnits ((erring .acquire 0).sc O.GridLockThreshold) ∧
      (erring .acquire 0).time.below = none) ∧ (erring .locked 0).time.st ≠ .acquire ∧
    (domainOn 0 1 .acquire).qualified (domainOn 0 1 .acquire).selected = false := by
  decide +kernel

theorem witness_GridStepsAndLocks :
    (let s := timed fun t => { t with st := .acquire, stepReq := some .err };
      s.time.stepReq = some .err ∧ s.gensLive < 63 ∧ s.time.st = .acquire) ∧
    (let s := timed fun t => { t with stepReq := some (.set 7) }; s.time.stepReq = some (.set 7) ∧ s.time.st = .free) ∧
    (let s := timed fun t => { t with st := .holdover, stepReq := some .err };
      s.time.stepReq = some .err ∧ (exec .gridStep s matches .next _)) ∧
    (let s := aged ((timed fun t => { t with st := .acquire, below := some 0 }).ws O.DomainAQualified 1);
      s.qualified s.selected = true ∧
      s.time.st = .acquire ∧ s.time.below = some 0 ∧ 0 + s.sc O.GridLockHold * ticksPerMs ≤ s.time.ticks) := by
  decide +kernel

/-- What is left when a domain has been lost. -/
def lostA (s : State) : State := raise (src 1 1) ((s.ws O.DomainAQualified 0).sat32 O.DomainASourceLoss 0 0 1)

theorem witness_DomainsLoseTheirSource :
    (let s := aged ((domainOn 1 0 .locked).ws O.DomainASource 1);
      s.qualified .a = true ∧ lossHolds s.toBlocks .a (meshSource s.toBlocks .a) = true) ∧
    (Dom.a ≠ (lostA ((domainOn 1 1 .locked).ws O.GridSource 1)).selected ∧ Dom.a = (lostA (domainOn 1 1 .locked)).selected) ∧
    ((lostA ((domainOn 1 1 .locked).ws O.GridAutoSwitch 1)).qualified .b = true ∧
      (lostA ((domainOn 1 1 .locked).ws O.GridAutoSwitch 1)).flag O.GridAutoSwitch 0 0 = true) ∧
    ((lostA (domainOn 1 0 .locked)).qualified .b = false ∧ (lostA (domainOn 1 0 .locked)).time.st = .locked) ∧
    (lostA (domainOn 1 0 .acquire)).time.st = .acquire := by
  decide +kernel

/-- Domain B ahead of A. -/
def apart (ahead : Nat) : State :=
  { domainOn 1 1 .locked with time := { (domainOn 1 1 .locked).time with domB := { DomRT.start with time := ahead } } }

theorem witness_DomainOffsetsAreMeasured :
    (let s := { (ready 0 0).ws O.DomainASource 2 with time := { (ready 0 0).time with domA := { DomRT.start with meshCount := 1 } } };
      s.sc (domObj .a O.DomainASource) = 2 ∧ 0 < (s.dom .a).meshCount) ∧
    ((apart 0).qualified .a = true ∧ (apart 0).qualified .b = true) ∧
    (((apart 0).time.domB.time : Int) - (apart 0).time.domA.time).natAbs ≤ nsUnits ((apart 0).sc O.DomainDisagreeLimit) ∧
    nsUnits ((apart (2 ^ 80)).sc O.DomainDisagreeLimit) <
      (((apart (2 ^ 80)).time.domB.time : Int) - (apart (2 ^ 80)).time.domA.time).natAbs := by
  decide +kernel

/-- Row 7 captures rising edges; entries unread, or an edge of a moment ago. -/
def capturing (seq : Nat) (last : List (Nat × Nat)) : State :=
  let s := timed fun t => { t with capSeq := seq, capLast := last }
  (s.wr O.TimeCaptureConfig 7 F.TimeCaptureConfig_Enable 1).wr O.TimeCaptureConfig 7 F.TimeCaptureConfig_Edge 3

theorem witness_EdgesAreCaptured :
    (∀ s ∈ [capturing 4095 [], capturing 4096 [], capturing 0 [(7, 0)]], s.flag O.TimeCaptureConfig 7 F.TimeCaptureConfig_Enable ∧
      s.rd O.TimeCaptureConfig 7 F.TimeCaptureConfig_Edge % 2 = 1 ∧ s.rd O.TimeCaptureConfig 7 F.TimeCaptureConfig_Edge / 2 = 1) ∧
    edgeLogged (ready 0 0).toBlocks 7 true = false ∧ edgeSoon (capturing 4095 []).time 7 = false ∧
    (capturing 4095 []).time.capSeq < (capturing 4095 []).time.capRead + 4096 ∧
    (edgeSoon (capturing 4096 []).time 7 = false ∧ (capturing 4096 []).time.capRead + 4096 ≤ (capturing 4096 []).time.capSeq) ∧
    ((capturing 0 [(7, 0)]).time.capLast.find? fun e => e.1 == 7) = some (7, 0) ∧
    (capturing 0 [(7, 0)]).time.ticks < 0 + ticksPerUs := by
  decide +kernel

/-- Row 8 logs falling edges only: a rising one feeds the domains. -/
theorem witness_PpsEdgesAreCaptured :
    let s := ((ready 0 0).wr O.TimeCaptureConfig 8 F.TimeCaptureConfig_Enable 1).wr O.TimeCaptureConfig 8
      F.TimeCaptureConfig_Edge 2
    edgeLogged (ready 0 0).toBlocks 8 false = false ∧ edgeLogged s.toBlocks 8 false = true ∧
    edgeLogged s.toBlocks 8 true = false ∧ edgeSoon s.time 8 = false ∧
    edgeSoon (timed fun t => { t with capLast := [(8, 0)] }).time 8 = true := by
  decide +kernel

/-- A trigger row whose instant has come, the grid in a state. -/
def pulsing (row : Nat) (st : GridSt) (need_ : Nat) : State :=
  (timed fun t => { t with st := st, trig := [⟨row, 0, none⟩] }).wr O.TimeTrigger row F.TimeTrigger_RequireLock need_

/-- PPS_OUT of the grid, FreeRunEnable 1, at the given grid time and tick. -/
def secondsAt (grid ticks : Nat) (last : Option Nat) : State :=
  ((timed fun t => { t with grid := grid, ticks := ticks, ppsLast := last }).wr O.PpsOutConfig 0 F.PpsOutConfig_Enable 1).wr
    O.PpsOutConfig 0 F.PpsOutConfig_FreeRunEnable 1

/-- The whole second that PPS_OUT has reached. -/
def secondOf (s : State) : Option Nat :=
  let n := scaleNow s.toBlocks (s.rd O.PpsOutConfig 0 F.PpsOutConfig_Timescale)
  wholeSecond n.1 n.2 (toSigned 64 (s.sc O.PpsOutOffset))

theorem witness_PulsesAreGiven :
    (∀ s ∈ [pulsing 7 .locked 1, pulsing 8 .free 0, pulsing 11 .free 1], s.time.trig.any fun t => decide (edgeAt t.next ≤ s.gridQ)) ∧
    (timed fun t => { t with trig := [⟨7, 2 ^ 70, none⟩] }).gridQ < edgeAt (2 ^ 70) ∧
    (pulsing 7 .locked 1).gridRuns = true ∧ (pulsing 8 .free 0).rd O.TimeTrigger 8 F.TimeTrigger_RequireLock = 0 ∧
    ((pulsing 11 .free 1).gridRuns = false ∧ (pulsing 11 .free 1).rd O.TimeTrigger 11 F.TimeTrigger_RequireLock ≠ 0) ∧
    ((pulsing 7 .locked 1).time.trig.find? fun t => t.row == 6) = none ∧
    (let s := secondsAt (4 * 10 ^ 9 * unitsPerQuarter) 5 none;
      s.flag O.PpsOutConfig 0 F.PpsOutConfig_Enable = true ∧ s.flag O.PpsOutConfig 0 F.PpsOutConfig_FreeRunEnable = true ∧
      secondOf s = some 1 ∧ 0 < s.time.ticks ∧ s.time.ppsLast ≠ some 5) ∧
    secondOf (secondsAt (6 * 10 ^ 9 * unitsPerQuarter) 5 none) = none ∧ ppsLit (ready 0 0).toBlocks = false ∧
    (secondsAt 0 5 (some 5)).time.ppsLast = some 5 := by
  decide +kernel

/-! ### Rack -/

/-- A header cell of card 3, frame 79. -/
def hdrCell : PeerHdr :=
  { frame := 79, cycle := 5, card := 3, group := 0, width := 12, mode := 2, fill := 0, grid := 3, pdi := false, align := 2
    leaving := false, swapValid := false, step := false, version := 0, txMap := 0, active := 0, xoff := 0, page := 0
    standby := 0, swapCycle := 0, agree := 0, relay := 0, echoFrame := 0, echoStamp := 0, request := 0, grant := 0
    accept := 0, lanes := 4095, mgmt := List.replicate 128 0 }

/-- A data cell at the greatest value of each field. -/
def topCell : Cell :=
  { kind := 15, relayed := true, src := 15, dst := 15, via := 15, cls := 7, seq := 2 ^ 24 - 1, index := 15, size := 15, first := 511
    valid := 511, mc := true, mcId := 65535, stamp := 2 ^ 32 - 1, payload := List.replicate 256 255, starts := 0 }

/-- Group 0 enabled in mesh mode 2, with the given running state. -/
def meshed (f : GroupRT → GroupRT) : State :=
  ((running.wr O.MeshGroupConfig 0 F.MeshGroupConfig_Enable 1).upMesh fun m => { m with mode := 2 }).updGroup 0 f

theorem witness_MeshBytesReadBack :
    (topCell.kind < 16 ∧ topCell.seq < 2 ^ 24 ∧ topCell.valid < 512 ∧ topCell.payload.length = 256 ∧ topCell.starts = 0) ∧
    (hdrCell.frame < 128 ∧ hdrCell.lanes < 4096 ∧ hdrCell.mgmt.length = 128) ∧
    (hdr0.genTag < 64 ∧ hdr0.editPtr < 2 ^ 24 ∧ hdr0.launch < 2 ^ 64) := by
  decide +kernel

/-- Framing stands at a frame already begun; or the grid has stepped, by one step or two, before or after its frame. -/
def stepping (steps : List Int) (stepEnd : Option Nat) : State := (meshed id).upMesh fun m => { m with steps := steps, stepEnd := stepEnd }

theorem witness_FramesAndCyclesBegin :
    (let s := (meshed id).upMesh fun m => { m with lastFrame := some ((meshed id).framingQ [] / frameQ) };
      s.mesh.steps = [] ∧ s.mesh.lastFrame = some (s.framingQ [] / frameQ)) ∧
    ((meshed id).mesh.steps = [] ∧ (meshed id).mesh.lastFrame ≠ some ((meshed id).framingQ [] / frameQ)) ∧
    (let s := stepping [5] none; s.mesh.steps = [5] ∧ s.mesh.stepEnd = none ∧ s.mesh.lastFrame ≠ some (s.framingQ [5] / frameQ)) ∧
    (let s := stepping [5] (some 9); s.mesh.stepEnd = some 9 ∧ s.quarters < 9 + frameQ + s.framingQ [] % frameQ) ∧
    (∀ l ∈ [[], [7]], let s := aged (stepping (5 :: l) (some 9)); s.mesh.steps = 5 :: l ∧
      9 + frameQ + s.framingQ l % frameQ ≤ s.quarters) ∧
    (meshed id).groupTx 0 = false ∧
    (let s := meshed fun r => { r with align := 2, hdr := some hdrCell }; s.groupRuns 0 = true ∧ s.groupTx 0 = true) ∧
    (meshed id).mesh.lastCycle ≠ some ((meshed id).gridQ / cycleQ) ∧ (meshed id).fw.rollback = none ∧
    ((meshed id).upFw fun w => { w with rollback := some 4 }).fw.rollback = some 4 := by
  decide +kernel

/-- The bytes of the header cell, and with a wrong HeaderCrc. -/
def goodHdr : Bytes := headerOnWire (headerBytes hdrCell)
def badHdr : Bytes := goodHdr.take 286 ++ (goodHdr.drop 286).map (255 - ·)

theorem witness_AlignmentFollowsTable115 :
    readHeader (headerOnWire goodHdr) = some hdrCell ∧ readHeader (headerOnWire badHdr) = none ∧ alignsAt badHdr = true ∧ (meshed id).groupRuns 0 = true ∧
    ((meshed id).group 0).align = 0 ∧ followsHdr { hdrCell with frame := 78 } hdrCell = true ∧
    followsHdr hdrCell hdrCell = false ∧
    (let s := meshed fun r => { r with align := 1, good := 1, hdr := some { hdrCell with frame := 78 } };
      (s.group 0).align = 1 ∧ (s.group 0).good + 1 < s.sc O.MeshSyncConfirm) ∧
    (let s := meshed fun r => { r with align := 1, good := 255, hdr := some { hdrCell with frame := 78 } };
      s.sc O.MeshSyncConfirm ≤ (s.group 0).good + 1) ∧
    (let s := meshed fun r => { r with align := 2 }; (s.group 0).align = 2 ∧ (s.group 0).stepAt = none ∧
      (s.group 0).bad + 1 < s.sc O.MeshSyncLoss) ∧
    (let s := meshed fun r => { r with align := 2, bad := 255 }; s.sc O.MeshSyncLoss ≤ (s.group 0).bad + 1) := by
  decide +kernel

theorem witness_DataCellsAreChecked :
    (let s := meshed fun r => { r with align := 2 }; s.groupRuns 0 = true ∧ (s.group 0).mismatch = false) ∧
    readCell (slotOnWire 0 []) = none ∧ (readCell (slotOnWire 0 (slotOnWire 0 (cellBytes topCell)))).isSome = true ∧
    (let s := aged (meshed fun r => { r with stepAt := some 0 }); (s.group 0).stepAt = some 0 ∧ 0 + nsTicks 625 ≤ s.time.ticks) := by
  decide +kernel

/-- Source 1, class 7: a group and a held cell that have waited, each after one that is missing. -/
def waiting : State := aged (((meshed id).setReseq 15
    { next := some 4, groups := [⟨5, [], 0, false⟩], lost := [], owed := [], stream := ⟨[], true, none, none⟩ }).setHeldRx 15
    { next := some (2 ^ 24 - 1), wait := [({ topCell with seq := 1 }, 0)], skipped := [], stream := ⟨[], true, none, none⟩ })

theorem witness_MissingCellsAreGivenUp :
    ((waiting.reseqOf 15).next = some 4 ∧ ((waiting.reseqOf 15).groups.map (·.since)).min? = some 0 ∧
      0 + nsTicks (max (waiting.sc O.MeshReseqTimeout) (waiting.sc O.MeshReseqTimeoutMin)) ≤ waiting.time.ticks ∧
      (waiting.reseqOf 15).groups.find? (fun g => g.seq == 4) = none) ∧
    (waiting.heldRx 15).next = some (2 ^ 24 - 1) ∧
    ((((waiting.heldRx 15).wait.filter fun e => decide (e.2 + nsTicks 425 ≤ waiting.time.ticks)).map fun e =>
      (e.1.seq + 2 ^ 24 - (2 ^ 24 - 1)) % 2 ^ 24).min? = some 2) := by
  decide +kernel

theorem witness_CellsAreBuiltAndSpread :
    (let s := aged ((meshed id).setBuilder 15 7 ⟨[([0], none)], 0, [], [], 0, 0⟩); (s.builder 15 7).recs ≠ [] ∧
      s.holdsGroups 15 7 = false ∧ (s.builder 15 7).closed.length < 4 ∧
      (s.builder 15 7).lastAdd + nsTicks (s.sc O.MeshPackTimeout) ≤ s.time.ticks) ∧
    ((meshed id).sc O.DovetailLinkState ≠ 0 ∧ (ready 0 0).sc O.DovetailLinkState = 0) ∧
    (∀ c < 8, dispatchHead c (meshed id) = none) ∧
    (let s := (meshed id).upMesh fun m => { m with spread := [(6, [(3, [topCell])])] };
      (dispatchHead 7 s).isNone = true ∧ (dispatchHead 6 s).isSome = true) := by
  decide +kernel

theorem witness_DefectsAreRaisedAndCleared :
    (meshed id).groupOn 0 = true ∧ defectSeen (meshed id).toBlocks 0 1 ≠ some false ∧ (meshed id).groupHeld 0 = false ∧
    defectSeen (meshed id).toBlocks 0 6 ≠ some true ∧ (meshed id).crcClean 0 = true ∧
    3 ≤ ((meshed fun r => { r with deg := { r.deg with within := 3 } }).degNow 0).within ∧
    (let s := meshed fun r => { r with align := 2, locGood := 16, pdiGood := 16 };
      16 ≤ (s.group 0).locGood ∧ 16 ≤ (s.group 0).pdiGood ∧ (s.group 0).defects.testBit 8 = false ∧ (s.group 0).defect = 0) ∧
    (let s := meshed fun r => { r with defects := 2 ^ 2 }; (s.group 0).defects.testBit 1 = false ∧ 1 < (s.group 0).defect) := by
  decide +kernel

/-- A swap announced for cycle `c`, this card alone, or with one that is silent. -/
def swapping (c : Nat) (agreed : Bool) (st : GridSt) : State :=
  let s := { meshed id with time := { (meshed id).time with st := st } }
  s.upMesh fun m => { m with swap := some (c, agreed) }

theorem witness_PagesSwapByAgreement :
    ((swapping 1 false .locked).mesh.swap = some (1, false) ∧ ((swapping 1 false .locked).cycle + 1) % 2 ^ 32 = 1 ∧
      (swapping 1 false .locked).gridRuns = true ∧ swapAgreed (swapping 1 false .locked).toBlocks 1 = true) ∧
    (let s := (swapping 1 false .locked).updGroup 0 fun r => { r with align := 2, joined := true, hdr := some hdrCell };
      s.gridRuns = true ∧ swapAgreed s.toBlocks 1 = false) ∧ (swapping 1 false .free).gridRuns = false ∧
    (swapping 0 true .locked).mesh.swap = some (0, true) ∧ (swapping 0 true .locked).cycle = 0 := by
  decide +kernel

theorem witness_DefaultPagesAreMade :
    let s0 := (swapping 1 false .locked).ws O.MeshAutoPage 1
    let s := aged (s0.upMesh fun m => { m with activeCards := s0.activeSet, planDue := true })
    s.flag O.MeshAutoPage 0 0 = true ∧ s.mesh.mode ≠ 0 ∧ s.time.st = .locked ∧ s.mesh.planDue = true ∧
      s.activeSet = s.mesh.activeCards ∧ s.mesh.activeSince + 5 * ticksPerMs ≤ s.time.ticks := by
  decide +kernel

theorem witness_CardsJoinAndLeave :
    (let s := aged (meshed fun r => { r with align := 2, hdr := some hdrCell, okSince := some 0 });
      (s.group 0).okSince = some 0 ∧ s.groupActive 0 = true ∧ (s.group 0).joined = false ∧
      0 + s.sc O.MeshJoinHold * ticksPerUs ≤ s.time.ticks) ∧
    (let s := aged ((meshed id).upMesh fun m => { m with leaving := true, relayEmptySince := some 0 });
      s.mesh.relay = [] ∧ s.mesh.heldRelay = [] ∧ s.mesh.relayEmptySince = some 0 ∧ s.sc O.MeshLeaveReady = 0 ∧
      0 + ticksPerMs ≤ s.time.ticks) := by
  decide +kernel

/-- R259, by hand: after 31 ones, 28 bits are 1 XOR 1, three are 1 XOR 0, and the next is 0 XOR 0. -/
theorem test_scrambling_starts : scramble prbsStart [0, 0, 0, 0] = [0, 0, 0, 0x0E] := by decide +kernel

/-! ### HBM, the host, telemetry and the life cycle -/

/-- The HBM stack READY, heating up or cooling down. -/
def stacked (f : HbmRT → HbmRT) : State := (setHbmState 3 (ready 0 0)).upHbm f

theorem witness_RefreshFollowsTemperature :
    (stacked fun h => { h with rateNext := 1 }).hbm.rateNext < refreshRate (96#8).toNat ∧ (96#8).toNat ≤ 105 ∧
    (let s := stacked fun h => { h with rateNext := 4, coolSince := some 0 };
      refreshRate (93#8).toNat ≤ s.hbm.rateNext ∧ 1 < s.hbm.rateNext ∧ (93#8).toNat + 2 ≤ lowerThreshold s.hbm.rateNext ∧
      0 + ticksPerS ≤ (aged s).time.ticks) ∧ (stacked fun h => { h with rateNext := 2, coolSince := none }).hbm.coolSince = none ∧
    (105 < (106#8).toNat ∧ (stacked fun h => { h with rateNext := 4 }).hbm.rateNext = 4 ∧ refreshRate (106#8).toNat = 4) := by
  decide +kernel

theorem witness_HbmUpkeepRuns :
    (let s := (stacked id).ws O.HbmScrubEnable 1; s.flag O.HbmScrubEnable 0 0 = true ∧ s.hbmState = 3 ∧ s.hbm.change = none ∧
      hbmServes s.toBlocks 6 [5] = false ∧ hbmServes s.toBlocks 6 [] = true ∧ s.hbm.scrubStart ≤ s.time.ticks ∧
      s.hbm.scrubUnit + 1 < 2 ^ 29) ∧ 2 ^ 29 ≤ (stacked fun h => { h with scrubUnit := 2 ^ 29 - 1 }).hbm.scrubUnit + 1 ∧
    (stacked fun h => { h with change := some (0, 1) }).hbm.change = some (0, 1) ∧
    Tbl.get 0 (aged (stacked id)).hbm.retrained 15 + (aged (stacked id)).sc O.HbmRetrainPeriod * ticksPerMs ≤
      (aged (stacked id)).time.ticks ∧ (stacked fun h => { h with op := some (3, 15) }).hbm.op = some (3, 15) := by
  decide +kernel

/-- Bring-up trains the stack: at a step, at HIGH or at LOW, a step failed so often. -/
def training (step : Nat) (low : Bool) (tries : Nat) : State :=
  (((setHbmState 1 (ready 0 0)).upBoot fun b => { b with phase := 3 }).wr O.HbmTrainStatus 0 F.HbmTrainStatus_Step step).upHbm
    fun h => { h with trainLow := low, trainTries := tries }

/-- Windows of `n` taps of every bit, and every strobe. -/
def windowsOf (n : Nat) : List TapWindow := (List.range 1152).map fun j =>
  ⟨Fin.ofNat 16 (j / 72), Fin.ofNat 72 (j % 72), 10#7, BitVec.ofNat 7 (9 + n), 10#7, BitVec.ofNat 7 (9 + n)⟩
def strobesOf : List StrobeTaps := (List.range 32).map fun j => ⟨Fin.ofNat 16 (j / 2), Fin.ofNat 2 (j % 2), 0#8, 0#8⟩

theorem witness_HbmIsTrainedAndWiped :
    ((training 7 false 0).hbmState = 1 ∧ (training 7 false 0).rd O.HbmTrainStatus 0 F.HbmTrainStatus_Step = 7) ∧
    ((training 8 false 0).hbm.trainLow = false ∧ (training 8 true 0).hbm.trainLow = true ∧ (training 8 true 0).hbmState = 1 ∧
      (training 8 true 0).boot.phase = 3 ∧ (training 8 true 0).rd O.HbmTrainStatus 0 F.HbmTrainStatus_Step = 8) ∧
    trainFault (windowsOf 20) (windowsOf 20) strobesOf strobesOf = none ∧
    trainFault (windowsOf 20) (windowsOf 19) strobesOf strobesOf = some (5, 0) ∧
    ((training 5 false 1).hbm.trainTries < 2 ∧ 2 ≤ (training 5 false 2).hbm.trainTries) ∧
    (let s := (setHbmState 2 (ready 0 0)).upBoot fun b => { b with phase := 4 }; s.hbmState = 2 ∧ s.boot.phase = 4) := by
  decide +kernel

/-- A ring in a state with its Producer; bus mastering and traffic. -/
def ringed (r st prod : Nat) : State :=
  (running.wr O.PcieLinkStatus 0 F.PcieLinkStatus_BusMasterEnable 1).updRing r fun x => { x with st := st, prod := prod }

theorem witness_RingsRingAndSignal :
    ((ringed 8191 0 0).ring 8191).st = 0 ∧
    (((ringed 8191 1 0).ring 8191).st = 1 ∧ ((1#32).toNat + 2 ^ 32 - 0) % 2 ^ 32 < 2 ^ 31 ∧
      ((1#32).toNat + 2 ^ 32 - ((ringed 8191 1 0).ring 8191).cons) % 2 ^ 32 ≤ ringSize (ringed 8191 1 0).toBlocks 8191) ∧
    (2 ^ 31 ≤ ((0#32).toNat + 2 ^ 32 - ((ringed 8191 1 1).ring 8191).prod) % 2 ^ 32) ∧
    ringSize (ringed 0 1 0).toBlocks 0 < ((0x7FFFFFFF#32).toNat + 2 ^ 32 - 0) % 2 ^ 32 ∧
    (let s := aged ((ringed 5 1 0).updRing 5 fun x => { x with oldest := some 0 }); (s.ring 5).oldest = some 0 ∧
      (s.ring 5).st ≠ 0 ∧ s.busMaster = true ∧ 0 + ringField s.toBlocks 5 F.PuntRing_HoldoffUs F.InjectRing_HoldoffUs * ticksPerUs ≤ s.time.ticks) := by
  decide +kernel

/-- Punt ring 0 ready with one buffer, a packet for its queue. -/
def punting : State := (ringed 0 1 1).upHost fun h => { h with punts := [⟨pkt0, 0, (3, 0)⟩] }

/-- The queue of punt ring 4095. -/
def puntQueue : State := (ringed 4095 1 1).wr O.PuntRing 4095 F.PuntRing_Queue 9 |>.wr O.PuntRing 4095 F.PuntRing_Enable 1

/-- The last and only descriptor of an offer: its length, FIRST and LAST, and the flags asked for. -/
def desc1 (len flags : Nat) : BitVec 256 := BitVec.ofNat 256 (len * 2 ^ 176 + 3 * 2 ^ 174 + flags)

/-- Inject ring 0 offers a packet. -/
def offers (len flags : Nat) : List Offer := [⟨0, [desc1 len flags], []⟩]

theorem witness_RingsMovePackets :
    ((punting.ring 0).st = 1 ∧ punting.busMaster = true ∧ punting.traffic = true ∧
      ([((64 : BitVec 64), (2048 : BitVec 16))].take (punting.ring 0).posted).map (fun e => (e.1.toNat, e.2.toNat)) = [(64, 2048)] ∧
      punting.hbm.change = none ∧ (takePunt 0 punting.host.punts).isSome = true) ∧
    (puntQueue.puntRingOf 9 = some 4095 ∧ (shelfAlloc (0x1000 + 4095) 64 puntQueue).1.isSome = true) ∧
    ((pickOffer (ringed 4096 1 1).toBlocks (offers 60 0)).isSome = true ∧
      offerBad (ringed 4096 1 1).toBlocks 0 60 [(desc1 60 0).toNat] = false ∧
      (shelfAlloc (ringClient 4096) 64 (ringed 4096 1 1)).1.isSome = true) ∧
    offerBad (ringed 4096 1 1).toBlocks 0 0 [(desc1 0 0).toNat] = true ∧ (desc1 60 (2 ^ 172)).toNat.testBit 172 = true ∧
    (running.upHost fun h => { h with departed := [(4096, 0, some 5)] }).host.departed = [(4096, 0, some 5)] ∧
    (let s := aged ((ringed 4096 1 0).updRing 4096 fun x => { x with comps := [⟨0, [], none, 0, 0, true⟩] });
      ∃ c ∈ (s.ring 4096).comps, c.wants = true ∧ c.status = none ∧ c.since + 25 * ticksPerMs ≤ s.time.ticks) := by
  decide +kernel

/-- `n` buffers of pool 2 in use, as a packet of 9,000 bytes needs one. -/
def shelfUsed (n : Nat) : State := running.upShelf fun h => { h with owned := List.replicate n (2, 0, 1) }

theorem shelfUsed_free (n : Nat) : (shelfUsed n).shelfFree 2 = poolBuffers 2 - n := by
  have h : (shelfUsed n).shelf.owned = List.replicate n (2, 0, 1) := rfl
  simp [Blocks.shelfFree, h]

theorem witness_NoShelf : poolFor 9000 = 2 ∧ (shelfAlloc (ringClient 0) 9000 (shelfUsed (poolBuffers 2))).1 = none := by
  have h : poolFor 9000 = 2 := by decide +kernel
  refine ⟨h, ?_⟩
  simp [shelfAlloc, h, shelfUsed_free]

/-- Channels 4 and 9 ready, in that order, or 9 running. -/
def trolleys (st : Nat) : State :=
  ((ringed 0 0 0).updChan 4 fun x => { x with st := if st = 1 then 1 else 0, order := 0 }).updChan 9 fun x => { x with st := st, order := 1 }

/-- A descriptor of one pair of `n` pairs, in mode and to the next one. -/
def tdesc (mode n next : Nat) : BitVec 512 := BitVec.ofNat 512 (next * 2 ^ 448 + n * 2 ^ 368 + mode * 2 ^ 366)

theorem witness_TrolleyRunsChannels :
    ((trolleys 1).runningChan = none ∧ (trolleys 1).busMaster = true ∧ ((trolleys 1).chan 4).st = 1 ∧
      ∀ k < 32, ((trolleys 1).chan k).st = 1 → k ≠ 4 → ((trolleys 1).chan 4).order < ((trolleys 1).chan k).order) ∧
    ((trolleys 2).runningChan = some 9 ∧ (trolleys 2).busMaster = true) ∧
    (let d := (tdesc 3 1 0).toNat; trolleyBad 9 d (trolleySegs d []).1 (trolleySegs d []).2 = true) ∧
    (∀ next ∈ [0, 64], let d := (tdesc 0 1 next).toNat;
      trolleyBad 9 d (trolleySegs d [(0, 0)]).1 (trolleySegs d [(0, 0)]).2 = false ∧ bitsOf 511 448 d = next) ∧
    ((trolleys 2).chan 9).hops + 1 < (trolleys 2).sc O.TrolleyHopLimit ∧
    ((trolleys 2).ws O.TrolleyHopLimit 1).sc O.TrolleyHopLimit ≤ ((trolleys 2).chan 9).hops + 1 := by
  decide +kernel

/-- Schedule 3 due, `n` contexts latched. -/
def dumping (n : Nat) : State := (ready 0 0).upTel fun t => { t with
  scheds := [(3, ⟨some 0, 0, false⟩)]
  contexts := (List.range n).map fun _ => ⟨[⟨3, 0, false, 1, false, 0, 64, 1, []⟩], 0, 0, 0, []⟩ }

theorem witness_TelemetryIsDumped :
    dumpsDue (dumping 0).toBlocks = [3] ∧ (dumping 0).tel.contexts.length < 2 ∧ 2 ≤ (dumping 2).tel.contexts.length ∧
    ((dumping 1).tel.contexts = [⟨[⟨3, 0, false, 1, false, 0, 64, 1, []⟩], 0, 0, 0, []⟩] ∧ (dumping 1).hbm.change = none) ∧
    (let s := (ready 0 0).upTel fun t => { t with slots := [(8, (List.range 4096).map fun _ => (0, []))] };
      slotRoom (s.wr O.TelemetryHostRing 8 F.TelemetryHostRing_SlotSizeLog2 16).toBlocks 8 ≤ (Tbl.get [] s.tel.slots 8).length) ∧
    (let s := aged (((ready 0 0).upTel fun t => { t with slots := [(8, [(0, [])])] }).wr O.TelemetryHostRing 8
        F.TelemetryHostRing_FlushUs 1);
      Tbl.get [] s.tel.slots 8 = [(0, [])] ∧ telRing s.toBlocks 8 F.TelemetryHostRing_FlushUs ≠ 0 ∧
      0 + telRing s.toBlocks 8 F.TelemetryHostRing_FlushUs * ticksPerUs ≤ s.time.ticks) := by
  decide +kernel

theorem witness_LifeCycleChangesFinish :
    let s := (ready 2 1).wr O.LifeCycleStatus 0 F.LifeCycleStatus_InProgress 1;
    lifeBusy s.toBlocks = true ∧ ∀ t ∈ [3, 4], ({ s with chest := { s.chest with intent := some (2, t) } } : State).chest.intent =
      some (2, t) := by
  decide +kernel

/-! ### Firmware, the board and bring-up -/

/-- Group 0 hears card 3, and a load from it, or through a hop to it, runs. -/
def linked (f : FwRT → FwRT) : State :=
  aged ((meshed fun r => { r with align := 2, hdr := some hdrCell }).upFw f)

/-- A load as FW_BEGIN starts it from card 3, and one that hands on to card 3. -/
def inLoad : FwLoad :=
  { owner := none, via := some (3, 0), chain := true, tid := 7, entry := 3, map := 8, row := 0, len := some 20000, last := 0
    code := none, hop := none, left := [], codes := [], back := false, sent := false }
def outHop (acked : Option Nat) : FwHop := ⟨3, 0, 0, acked, 0, 0, 0⟩
def outLoad (acked : Option Nat) : FwLoad := { inLoad with owner := some .bar0, via := none, hop := some (outHop acked) }

theorem witness_ImagesArriveOverTheMesh :
    (inLoad.code = none ∧ inLoad.last + 60 * ticksPerS ≤ (linked id).time.ticks) ∧
    (hears (linked id).toBlocks 0 = true ∧ (linked id).fw.load = none ∧ (linked id).served = true ∧
      (linked id).boot.phase ≠ 9 ∧ loadBusy (linked id) = false) ∧
    loadBusy (linked fun w => { w with act := some ⟨none, false⟩ }) = true ∧
    (let s := linked fun w => { w with load := some inLoad }; s.peerOf 0 = some 3 ∧ (0#32).toNat = loadBytes s.toBlocks ∧
      s.fw.load = some inLoad) ∧
    (∀ a : Option (Fin 2), let h := outHop (a.map (·.val)); (linked id).peerOf 0 = some h.card ∧
      (a = some 1 → 1 < (2#32).toNat) ∧ (a = none → h.acked = none) ∧ (outLoad none).back = false) := by
  decide +kernel

theorem witness_HopsTimeOut :
    ((outHop none).acked = none ∧ (outHop none).began + ticksPerMs ≤ (linked id).time.ticks) ∧
    hopOpen (outLoad (some 9)) (outHop (some 9)) = true ∧
    max (outHop (some 9)).moved (outHop (some 9)).resent + 100 * ticksPerUs ≤ (linked id).time.ticks ∧
    (outHop (some 9)).moved + 100 * ticksPerMs ≤ (linked id).time.ticks := by
  decide +kernel

theorem witness_ActivationsRun :
    (slotReady.upFw fun w => { w with act := some ⟨none, false⟩ }).fw.act = some ⟨none, false⟩ ∧
    swapDue slotReady.toBlocks ⟨some 0, false⟩ = true ∧ swapDue slotReady.toBlocks ⟨some 0, true⟩ = true ∧ inTrial onTrial = true ∧
    0 + (aged onTrial).sc O.FwConfirmTimeout * ticksPerS ≤ (aged onTrial).time.ticks := by
  decide +kernel

theorem witness_StandbyPairTakesOver :
    (standbyReady slotReady.toBlocks = true ∧ inTrial slotReady = false) ∧
    (let s := onTrial.ws O.BureauStandbyReady 1; standbyReady s.toBlocks = true ∧ inTrial s = true ∧ s.fw.trialCold = false ∧
      (s.upFw fun w => { w with trialCold := true }).fw.trialCold = true) ∧
    (slotReady.served = true ∧ slotReady.boot.phase ≠ 9 ∧ slotReady.fw.act = none ∧
      slotReady.inReset (standbyRow slotReady.toBlocks) = false ∧ (slotReady.upBoot fun b => { b with failed := true }).boot.failed = true) := by
  decide +kernel

theorem witness_DovetailLinksFailAndRetrain :
    (running.sc O.DovetailLinkState).testBit 1 = true ∧
    (((running.ws O.DovetailLinkState 1).sc O.DovetailLinkState).testBit 1 = false ∧ 3 ≤ running.boot.phase ∧
      (running.ws O.DovetailLinkState 1).sc O.DovetailLinkState ≠ 0) := by
  decide +kernel

theorem witness_SuppliesAreWatched : running.pins.guard = false ∧ (7 : Fin 10).val ≠ 8 ∧ (8 : Fin 10).val = 8 := by decide +kernel

/-- A Sideboard sequence of two entries at entry `k`, or waiting. -/
def converting (k : Nat) : State :=
  aged (((ready 0 0).wr O.SideboardSequence 3 F.SideboardSequence_CountMinusOne 1).upBoard fun b => { b with seqRun := some (3, 0, k) })

/-- Fan 7 with its tachometer at pin 15, its slow windows so many. -/
def fan7 (low : Nat) : State :=
  (((ready 0 0).wr O.FanConfig 7 F.FanConfig_TachPin 15).wr O.FanConfig 7 F.FanConfig_MinRpm 60).upBoard fun b =>
    { b with fanLow := Tbl.put 0 7 low b.fanLow }

theorem witness_BoardServicesRun :
    ((100#16).toInt ≤ 10 * ((ready 0 0).sc O.DieTempWarn : Int) ∧ (100#16).toInt ≤ 1080) ∧
    (10 * ((ready 0 0).sc O.DieTempWarn : Int) < (1081#16).toInt ∧ 1080 < (1081#16).toInt) ∧
    (let s := aged ((ready 0 0).upBoard fun b => { b with seqWait := [(0, 3)] });
      s.board.seqRun = none ∧ s.board.seqWait = [(0, 3)] ∧ max 0 s.board.seqFree ≤ s.gridQ) ∧
    ((converting 0).board.seqRun = some (3, 0, 0) ∧ 0 + 800 + 0 * 4000 ≤ (converting 0).gridQ ∧
      0 < (converting 0).rd O.SideboardSequence 3 F.SideboardSequence_CountMinusOne ∧
      1 = (converting 1).rd O.SideboardSequence 3 F.SideboardSequence_CountMinusOne) ∧
    ((fan7 0).rd O.FanConfig 7 F.FanConfig_TachPin < 16 ∧ (fan7 0).rd O.FanStatus 7 F.FanStatus_Fault = 0 ∧
      (fan7 0).rd O.FanConfig 7 F.FanConfig_MinRpm ≤ 2 * 60 / ((fan7 0).rd O.FanConfig 7 F.FanConfig_PulsesPerRevMinusOne + 1) ∧
      0 * 60 / ((fan7 2).rd O.FanConfig 7 F.FanConfig_PulsesPerRevMinusOne + 1) < (fan7 2).rd O.FanConfig 7 F.FanConfig_MinRpm ∧
      2 ≤ Tbl.get 0 (fan7 2).board.fanLow 7) := by
  decide +kernel

/-- Pin 15 an input that selects the edges given. -/
def pin15 (edge : Nat) : State := (ready 0 0).wr O.GpioConfig 15 F.GpioConfig_Edge edge

theorem witness_PinsRaiseEdges :
    (((pin15 3).sc O.GpioInput).testBit 15 = false ∧ (pin15 3).rd O.GpioConfig 15 F.GpioConfig_Mode = 0 ∧
      (pin15 3).rd O.GpioConfig 15 F.GpioConfig_Edge % 2 = 1) ∧ (pin15 2).rd O.GpioConfig 15 F.GpioConfig_Edge % 2 = 0 := by
  decide +kernel

theorem witness_ReferencesComeAndGo :
    (∀ n : Fin 6, running.pins.refs.testBit n.val = true) ∧
    ({ running with pins := { running.pins with refs := 0 } } : State).pins.refs.testBit 5 = false := by
  decide +kernel

theorem witness_ResetsComeAndGo :
    State.reset.pins.porLow = false ∧ (1000 : Nat) ≤ 1000 ∧ (999 : Nat) < 1000 ∧
    (let s := aged ((ready 0 0).upBoot fun b => { b with blocks := [(146, 0), (127, 0)] });
      (146, 0) ∈ s.boot.blocks ∧ (127, 0) ∈ s.boot.blocks ∧ s.boot.failed = false ∧ 146 ≠ standbyRow s.toBlocks ∧ 0 + ticksPerUs ≤ s.time.ticks) := by
  decide +kernel

/-- Bring-up in a phase. -/
def phased (n : Nat) : State := State.reset.upBoot fun b => { b with phase := n }

theorem witness_BringUpGoesByPhases :
    ((phased 0).boot.phase = 0 ∧ (phased 0).boot.held = false) ∧ (phased 1).boot.phase = 1 ∧ (phased 2).boot.phase = 2 ∧
    ((phased 5).boot.phase = 5 ∧ (scanJournal (phased 5)).chest.intent = none ∧ (scanJournal (phased 5)).life ≠ 4) ∧
    (let s := (phased 6).ws O.TrafficAutoEnable 1; s.boot.phase = 6 ∧ blockStart s.toBlocks = false ∧
      blockMesh s.toBlocks = false ∧ s.retired = false ∧ blockSample s = false) := by
  decide +kernel

end Sys2Proof.Tests
end

section
/-! SUPPORT. The statements of the architecture's family: how a packet enters the forwarding engine, how a port's scheduler
sends a head, how the mesh spreads and gives up cells, and how links, supplies and the journal are watched. Each event
command has its equations here, one per case of its condition; the statements are assembled from them. -/
namespace Sys2Proof.Machine

/-! ### A packet at the door (R116 to R118, R187, R344) -/

/-- The packet with the flow hash of its own parse. -/
def withFlowHash (b : Blocks) (e : Entering) : Entering :=
  { e with pkt := { e.pkt with hdr := { e.pkt.hdr with flowHash := (lookUp b e).hash } } }

/-- What the rules say of an entering packet; they say nothing of one that is not parsed or decides for itself. -/
def ruledBy (b : Blocks) (e : Entering) : Disp :=
  if (lookUp b e).fail.isSome || e.direct then Disp.start else evaluate b e.pkt.gen e.pkt.hdr.pass (lookUp b e)

/-- The lines that an entering packet reads. -/
def readsLine (b : Blocks) (e : Entering) : Line → Bool := linesRead b (withFlowHash b e) (lookUp b e) (ruledBy b e)

/-- Of the lines in error, those that an entering packet reads and that are not yet under repair. -/
def newErrors (b : Blocks) (e : Entering) (errs : List Line) : List Line :=
  errs.dedup.filter fun x => readsLine b e x && !b.repair.lines.contains x

/-- A line that an entering packet reads is in error or under repair (R116). -/
def awaitsRepair (b : Blocks) (e : Entering) (errs : List Line) : Bool :=
  !(newErrors b e errs).isEmpty || b.repair.lines.any (readsLine b e)

/-- The packet is held back: by a line that it reads, or behind its own flow (R116, R117). -/
def heldBack (b : Blocks) (e : Entering) (again : Option Nat) (errs : List Line) : Prop :=
  awaitsRepair b e errs = true ∨ flowParked b again (lookUp b e).hash = true

/-- The state after the failure of a packet's parse, if it failed, is on record. -/
def parseNoted (l : Look) (srcPort : Nat) (s : State) : State :=
  match l.fail with
  | some why => parseFailed l.walk why srcPort s
  | none => s

section Enter
variable {e : Entering} {again : Option Nat} {errs : List Line} {s : State}

theorem enter_of_not_heldBack (h : ¬ heldBack s.toBlocks e again errs) :
    enter e again errs s = passOn (withFlowHash s.toBlocks e) (lookUp s.toBlocks e) (ruledBy s.toBlocks e) s := by
  obtain ⟨hline, hflow⟩ := not_or.mp h
  have hgo : (!awaitsRepair s.toBlocks e errs && !flowParked s.toBlocks again (lookUp s.toBlocks e).hash) = true := by
    simp [hline, hflow]
  exact if_pos hgo

theorem enter_of_heldBack (h : heldBack s.toBlocks e again errs) :
    enter e again errs s =
      if 8192 ≤ s.repair.queue.length ∨ 16 < s.repair.lines.length + (newErrors s.toBlocks e errs).length then
        crossToTm (lookUp s.toBlocks e).hash
          [(withFlowHash s.toBlocks e).pkt.punted (parseNoted (lookUp s.toBlocks e) e.pkt.hdr.srcPort s).toBlocks 10]
          ((parseNoted (lookUp s.toBlocks e) e.pkt.hdr.srcPort s).add64 O.RepairOverflowDrops 0 0 1)
      else park (withFlowHash s.toBlocks e) again (newErrors s.toBlocks e errs) (awaitsRepair s.toBlocks e errs) s := by
  have hstay : ¬ (!awaitsRepair s.toBlocks e errs && !flowParked s.toBlocks again (lookUp s.toBlocks e).hash) = true := by
    rcases h with h | h <;> simp [h]
  exact if_neg hstay

theorem enter_parks (h : heldBack s.toBlocks e again errs) (hqueue : s.repair.queue.length < 8192)
    (hlines : s.repair.lines.length + (newErrors s.toBlocks e errs).length ≤ 16) :
    enter e again errs s =
      park (withFlowHash s.toBlocks e) again (newErrors s.toBlocks e errs) (awaitsRepair s.toBlocks e errs) s := by
  rw [enter_of_heldBack h, if_neg (by omega)]

theorem enter_overflows (h : heldBack s.toBlocks e again errs)
    (hfull : 8192 ≤ s.repair.queue.length ∨ 16 < s.repair.lines.length + (newErrors s.toBlocks e errs).length) :
    enter e again errs s = crossToTm (lookUp s.toBlocks e).hash
      [(withFlowHash s.toBlocks e).pkt.punted (parseNoted (lookUp s.toBlocks e) e.pkt.hdr.srcPort s).toBlocks 10]
      ((parseNoted (lookUp s.toBlocks e) e.pkt.hdr.srcPort s).add64 O.RepairOverflowDrops 0 0 1) := by
  rw [enter_of_heldBack h, if_pos hfull]

end Enter

section PassOn
variable {e : Entering} {l : Look} {d : Disp} {s : State}

theorem passOn_of_parse_failed {why : ParseFail} (h : l.fail = some why) :
    passOn e l d s = crossToTm e.pkt.hdr.flowHash
      [e.pkt.punted (parseFailed l.walk why e.pkt.hdr.srcPort s).toBlocks 3] (parseFailed l.walk why e.pkt.hdr.srcPort s) := by
  simp only [passOn, h]

theorem passOn_of_pdelay (hparse : l.fail = none) (hpd : pdelayHeard s.toBlocks e.pkt = true) :
    passOn e l d s =
      if s.sc O.ServoOwner = 0 then s else crossToTm e.pkt.hdr.flowHash [e.pkt.punted s.toBlocks 11] s := by
  simp only [passOn, hparse, if_pos hpd]

theorem passOn_of_direct (hparse : l.fail = none) (hpd : pdelayHeard s.toBlocks e.pkt = false) (hdir : e.direct = true) :
    let sent := forwardPacket ⟨e.pkt.hdr.destCard, e.pkt.hdr.destPort, e.pkt.hdr.destQueue, false⟩
      e.pkt.hdr.editPtr l.walk.marks e.pkt s
    passOn e l d s = crossToTm e.pkt.hdr.flowHash [sent.1] sent.2 := by
  simp only [passOn, hparse, hpd, hdir, Bool.false_eq_true, if_false, if_true]

theorem passOn_of_ruled (hparse : l.fail = none) (hpd : pdelayHeard s.toBlocks e.pkt = false) (hdir : e.direct = false) :
    passOn e l d s = ruleStage d l.walk.marks e.pkt (learnFrom 1 l.b e.pkt.gen e.pkt
      (learnFrom 0 l.a e.pkt.gen e.pkt (touchHit l.b (touchHit l.a (countLookups l s))))) := by
  simp only [passOn, hparse, hpd, hdir, Bool.false_eq_true, if_false]

end PassOn

/-- With both links up no admission is held, and what the source gives enters. -/
theorem exec_packetAdmit {a : AdmitSrc} {held fixed : Nat} {errs : List Line} {s s2 s3 : State} {e : Entering}
    {again : Option Nat} {p : Pkt} (hup : popCount 2 (s.sc O.DovetailLinkState) = 2) (htraffic : s.traffic = true)
    (htake : takeFrom a s = some (e, again, s2)) (hstamp : withStamps e.pkt s2 = (p, s3)) :
    exec (.packetAdmit a held ⟨errs, fixed⟩) s = .next (enter { e with pkt := p } again errs (raiseN fixed (src 8 2) s3)) := by
  change execPacketAdmit a held ⟨errs, fixed⟩ s = _
  simp [execPacketAdmit, hup, htraffic, htake, hstamp]

/-! ### The scheduler's choice (R229 to R231) -/

/-- The tests of a head, and the queues that take no further part. -/
def testHead (a : List Nat × State) (c : Cand) : List Nat × State :=
  ((if (headTests c a.2).1 then c.q :: a.1 else a.1), (headTests c a.2).2)

/-- The queues that a decision of a port may choose from. -/
def eligibleHeads (port : Nat) (blocked : List Nat) (b : Blocks) : List Cand :=
  (backlogged b port).filter fun c => !blocked.contains c.q && headEligible b c

theorem exec_schedulerSelect {s s1 : State} {port : Fin 160} {blocked : List Nat} {c : Child} {link : Nat}
    (htraffic : s.traffic = true) (htests : (backlogged s.toBlocks port.val).foldl testHead ([], s) = (blocked, s1))
    (hpick : pickPort (settleRounds s1).toBlocks port.val
      (eligibleHeads port.val blocked (settleRounds s1).toBlocks) = some c)
    (hlink : linkFor (settleRounds s1).toBlocks c.cand.head.hdr.flowHash = some link) :
    exec (.schedulerSelect port) s = .next (sendHead c link (countLaunch c.cand (settleRounds s1))) := by
  change execSchedulerSelect port s = _
  unfold testHead at htests
  unfold eligibleHeads at hpick
  simp only [execSchedulerSelect, htraffic, htests, hpick, hlink, Bool.not_true, Bool.false_eq_true, if_false]

/-! ### Spreading, and cells given up (R275 to R278, R281, R283) -/

theorem forwards_iff {b : Blocks} : b.forwards = true ↔ b.sc O.DovetailLinkState ≠ 0 := by
  simp [Blocks.forwards]

theorem Builder.full_iff {x : Builder} : x.full = true ↔ 4 ≤ x.closed.length := by
  simp [Builder.full]

/-- A search of the classes from the highest on finds the highest that satisfies `p`. -/
theorem find?_classes_eq_some {p : Nat → Bool} {c : Nat} (hc : c < 8) (hp : p c = true)
    (habove : ∀ k, c < k → k < 8 → p k = false) : ((List.range 8).map (7 - ·)).find? p = some c := by
  rw [List.find?_eq_some_iff_getElem]
  refine ⟨hp, 7 - c, by simp; omega, by simp; omega, fun j hj => ?_⟩
  simpa using habove (7 - j) (by omega) (by omega)

theorem exec_meshPackTimeout {s : State} {d : Fin 16} {c : Fin 8}
    (hholds : (s.builder d.val c.val).recs ≠ [] ∨ (s.builder d.val c.val).cells ≠ [])
    (hroom : s.holdsGroups d.val c.val = false ∨ (s.builder d.val c.val).closed.length < 4)
    (hdue : (s.builder d.val c.val).lastAdd + nsTicks (s.sc O.MeshPackTimeout) ≤ s.time.ticks) :
    let x := s.builder d.val c.val
    let y := Builder.cut s.card d.val c.val (groupCells s.toBlocks d.val) true (s.holdsGroups d.val c.val) x.fuel x
    exec (.meshPackTimeout d c) s = .next (release d.val c.val (s.setBuilder d.val c.val
      (if s.holdsGroups d.val c.val = true ∧ 4 ≤ y.closed.length then y else y.close))) := by
  have hsome : ((s.builder d.val c.val).recs.isEmpty && (s.builder d.val c.val).cells.isEmpty) = false := by
    simpa [imp_iff_not_or] using hholds
  have hfree : (s.holdsGroups d.val c.val && (s.builder d.val c.val).full) = false := by
    simpa [← Bool.not_eq_true, Builder.full_iff, imp_iff_not_or] using hroom
  change execMeshPackTimeout d c s = _
  simp only [execMeshPackTimeout, hsome, hfree, Nat.not_lt.mpr hdue, decide_false, Bool.or_self, Bool.false_eq_true,
    if_false, Bool.and_eq_true, Builder.full_iff]

theorem exec_groupDispatch_of_links_down {s : State} (h : s.sc O.DovetailLinkState = 0) :
    exec .groupDispatch s = .next s := by
  change execGroupDispatch s = _
  have hdown : s.forwards = false := Bool.eq_false_iff.mpr fun hup => forwards_iff.mp hup h
  simp only [execGroupDispatch, hdown, Bool.not_false, if_true]

/-- The state when every builder has released what it may. -/
def releaseAll (s : State) : State :=
  (s.mesh.builders.map (·.1)).foldl (fun a k => release (k / 8) (k % 8) a) s

theorem exec_groupDispatch_of_none {s : State} (hup : s.sc O.DovetailLinkState ≠ 0)
    (hnone : ∀ c < 8, dispatchHead c (releaseAll s) = none) : exec .groupDispatch s = .next (releaseAll s) := by
  have hfind : ((List.range 8).map (7 - ·)).find? (fun c => (dispatchHead c (releaseAll s)).isSome) = none := by
    simp only [List.find?_eq_none, List.mem_map, List.mem_range]
    rintro _ ⟨k, _, rfl⟩
    simp [hnone (7 - k) (by omega)]
  change execGroupDispatch s = _
  unfold releaseAll at hfind ⊢
  simp only [execGroupDispatch, forwards_iff.mpr hup, hfind, Bool.not_true, Bool.false_eq_true, if_false]

theorem exec_groupDispatch_of_some {s u : State} {c : Nat} (hup : s.sc O.DovetailLinkState ≠ 0) (hc : c < 8)
    (habove : ∀ k, c < k → k < 8 → dispatchHead k (releaseAll s) = none) (hhead : dispatchHead c (releaseAll s) = some u) :
    exec .groupDispatch s = .next u := by
  have hfind : ((List.range 8).map (7 - ·)).find? (fun c => (dispatchHead c (releaseAll s)).isSome) = some c :=
    find?_classes_eq_some hc (by simp [hhead]) fun k hk hk8 => by simp [habove k hk hk8]
  change execGroupDispatch s = _
  unfold releaseAll at hfind hhead
  simp only [execGroupDispatch, forwards_iff.mpr hup, hfind, hhead, Bool.not_true, Bool.false_eq_true, if_false,
    Option.getD_some]

theorem exec_reseqTimeout_of_nothing_received {s : State} {source : Fin 16} {cls : Fin 8} {q : Reseq} {n since : Nat}
    (hq : q = s.reseqOf (source.val * 8 + cls.val)) (hnext : q.next = some n)
    (hsince : (q.groups.map (·.since)).min? = some since)
    (hdue : since + nsTicks (max (s.sc O.MeshReseqTimeout) (s.sc O.MeshReseqTimeoutMin)) ≤ s.time.ticks)
    (hnone : q.groups.find? (fun g => g.seq == n) = none) :
    let key := source.val * 8 + cls.val
    let g := gapStream source.val none q.stream
      (raise (src 6 18) (s.add64 O.MeshReseqCounters source.val F.MeshReseqCounters_GroupsLost 1))
    exec (.reseqTimeout source cls) s = .next (deliverReady key ((q.groups.filter fun y => y.seq != n).length + 1)
      (g.2.setReseq key { next := some ((n + 1) % 2 ^ 24), groups := q.groups.filter fun y => y.seq != n
                          lost := n :: recent n q.lost, owed := q.owed, stream := g.1 })) := by
  subst hq
  change execReseqTimeout source cls s = _
  simp only [execReseqTimeout, hnext, hsince, hnone, if_neg (Nat.not_lt.mpr hdue)]

/-- The numbers missing before the first ripe cell of a held stream, which lies `k` numbers on from `n`. -/
def skippedNumbers (q : HeldRx) (n k : Nat) : List Nat :=
  (seqSpan n ((n + k) % 2 ^ 24)).filter fun e => !q.wait.any fun x => x.1.seq == e

theorem exec_heldSequenceSkip {s : State} {source : Fin 16} {cls : Fin 8} {q : HeldRx} {n k : Nat}
    (hq : q = s.heldRx (source.val * 8 + cls.val)) (hnext : q.next = some n)
    (hripe : ((q.wait.filter fun e => decide (e.2 + nsTicks 425 ≤ s.time.ticks)).map fun e =>
      (e.1.seq + 2 ^ 24 - n) % 2 ^ 24).min? = some k) :
    let key := source.val * 8 + cls.val
    let gone := skippedNumbers q n k
    let g := gapStream source.val (some (256 * gone.length)) q.stream s
    exec (.heldSequenceSkip source cls) s = .next (deliverHeld key (q.wait.length + 1)
      ((raiseN gone.length (src 6 25) (g.2.add64 O.MeshHeldCounters source.val F.MeshHeldCounters_Skipped gone.length)).setHeldRx
        key { q with next := some ((n + k) % 2 ^ 24), skipped := gone ++ q.skipped, stream := g.1 })) := by
  subst hq
  change execHeldSequenceSkip source cls s = _
  simp only [execHeldSequenceSkip, hnext, hripe, skippedNumbers]

/-! ### Links, supplies and the journal (R18, R19, R411 to R416, R438) -/

section Watch
variable {s : State}

theorem exec_dovetailLinkLoss {link : Fin 2} {lost : BitVec 16}
    (hup : (s.sc O.DovetailLinkState).testBit link.val = true) :
    exec (.dovetailLinkLoss ⟨link, lost⟩) s = .next (raise (src 0 0) (dropLink link.val (crossingLoss (148 + link.val)
      lost.toNat (s.ws O.DovetailLinkState (s.sc O.DovetailLinkState - 2 ^ link.val))))) := by
  change execDovetailLinkLoss ⟨link, lost⟩ s = _
  simp [execDovetailLinkLoss, hup]

/-- An attempt on a lost link is counted; the link that trains is up again unless both were lost. -/
theorem exec_dovetailLinkRetrain {link : Fin 2} {trained : Bool}
    (hdown : (s.sc O.DovetailLinkState).testBit link.val = false) (hphase : 3 ≤ s.boot.phase) :
    exec (.dovetailLinkRetrain link trained) s =
      .next (if trained = true ∧ s.sc O.DovetailLinkState ≠ 0 then
        (s.sat32 O.DovetailRetrainCount 0 0 1).ws O.DovetailLinkState (s.sc O.DovetailLinkState + 2 ^ link.val)
      else s.sat32 O.DovetailRetrainCount 0 0 1) := by
  change execDovetailLinkRetrain link trained s = _
  simp only [execDovetailLinkRetrain, hdown, Nat.not_lt.mpr hphase, decide_false, Bool.or_self, Bool.false_eq_true,
    if_false, Bool.and_eq_true, bne_iff_ne]
  split <;> rfl

theorem exec_nvGuardAssert {c : GuardCause} (h : s.pins.guard = false) :
    exec (.nvGuardAssert c) s = .next (guardCause c (raise (src 0 3)
      ((({ s with pins := { s.pins with guard := true } } : State).wr O.PowerNvGuard 0 F.PowerNvGuard_Asserted 1).sat32
        O.PowerNvGuard 0 F.PowerNvGuard_AssertCount 1))) := by
  change execNvGuardAssert c s = _
  simp [execNvGuardAssert, h]

theorem exec_lossOfPower : exec .lossOfPower s = .next (powerLost s) := rfl

theorem exec_brownOut_of_vaux {rail : Fin 10} (h : rail.val = 8) : exec (.brownOut rail) s = .next (powerLost s) :=
  if_pos h

theorem exec_brownOut_of_ne_vaux {rail : Fin 10} (h : rail.val ≠ 8) :
    let t := moduleReset 3 { s with ao := { s.ao with brownRail := some rail.val } }
    exec (.brownOut rail) s = .next ((t.wrHome O.PowerBrownout 0 F.PowerBrownout_Count
      (satInc 32 (t.homeRd O.PowerBrownout 0 F.PowerBrownout_Count))).wrHome O.PowerBrownout 0 F.PowerBrownout_LastRail
        rail.val) :=
  if_neg h

theorem exec_journalRecordWrite {inFlight copied : Bool} (h : s.pins.guard = false ∨ inFlight = true) :
    exec (.journalRecordWrite inFlight copied) s =
      .next { s with chest := { s.chest with
        journal := markFirst copied (s.chest.journal.filter fun r => r.waits || r.found) } } := by
  have hgo : ¬ (s.pins.guard && !inFlight) = true := by
    rcases h with h | h <;> simp [h]
  exact if_neg hgo

end Watch

end Sys2Proof.Machine

namespace Sys2Proof
open Sys2Proof.Machine

/-- Settles O29: with both links up what the source gives enters, and whether it is held back says which of the ways of
`enter` and `passOn` it takes. -/
theorem packetsAreAdmitted : Obligations.PacketsAreAdmitted := by
  unfold Obligations.PacketsAreAdmitted
  rintro a held errs fixed s e again s2 p s3 t _ _ _ _ _ _ hup htraffic htake hstamp ht rfl rfl rfl rfl rfl rfl
  have hadmit : exec (.packetAdmit a held ⟨errs, fixed⟩) s = .next (enter { e with pkt := p } again errs t) := by
    rw [exec_packetAdmit hup htraffic htake hstamp, ht]
  rw [hadmit]
  refine ⟨fun hline hflow => ?_, fun hback => ⟨?_, ?_⟩⟩
  · have hfree : ¬ heldBack t.toBlocks { e with pkt := p } again errs :=
      not_or.mpr ⟨Bool.eq_false_iff.mp hline, Bool.eq_false_iff.mp hflow⟩
    rw [enter_of_not_heldBack hfree]
    refine ⟨fun why hwhy => ?_, fun hparse hpd => ?_, fun hparse hpd hdir => ?_, fun hparse hpd hdir => ?_⟩
    · exact congrArg _ (passOn_of_parse_failed hwhy)
    · exact congrArg _ (passOn_of_pdelay hparse hpd)
    · exact congrArg _ (passOn_of_direct hparse hpd hdir)
    · exact congrArg _ (passOn_of_ruled hparse hpd hdir)
  · rintro ⟨hqueue, hlines⟩
    exact congrArg _ (enter_parks hback hqueue hlines)
  · rintro hfull _ rfl
    exact congrArg _ (enter_overflows hback hfull)

/-- Settles O38: the tests, the choice and the link of its hypotheses are those of the decision. -/
theorem schedulerSendsTheChosenHead : Obligations.SchedulerSendsTheChosenHead := by
  unfold Obligations.SchedulerSendsTheChosenHead
  intro s port blocked s1 c link htraffic htests hpick hlink
  exact exec_schedulerSelect htraffic htests hpick hlink

/-- Settles O47: clause by clause, the equations of the four timed commands of the mesh. -/
theorem cellsAreSpreadAndGivenUp : Obligations.CellsAreSpreadAndGivenUp := by
  unfold Obligations.CellsAreSpreadAndGivenUp
  refine ⟨⟨?pack, fun s hdown => exec_groupDispatch_of_links_down hdown, ?spread⟩, ?lost, ?skip⟩
  case pack =>
    rintro s d c _ _ _ rfl rfl rfl hholds hroom hdue
    exact exec_meshPackTimeout hholds hroom hdue
  case spread =>
    rintro s _ hup rfl
    exact ⟨fun hnone => exec_groupDispatch_of_none hup hnone,
      fun c u hc habove hhead => exec_groupDispatch_of_some hup hc habove hhead⟩
  case lost =>
    rintro s source cls _ q n since _ rfl hq hnext hsince hdue rfl _ hnone rfl
    exact exec_reseqTimeout_of_nothing_received hq hnext hsince hdue hnone
  case skip =>
    rintro s source cls _ q n k _ _ rfl hq hnext hripe rfl rfl
    exact exec_heldSequenceSkip hq hnext hripe

/-- Settles O57: the equations of the links' commands, then those of the supplies and of the journal. -/
theorem linksAndSuppliesAreWatched : Obligations.LinksAndSuppliesAreWatched := by
  unfold Obligations.LinksAndSuppliesAreWatched
  refine ⟨fun s link lost => ⟨exec_dovetailLinkLoss, fun hdown hphase => ⟨?failed, fun hother => ?trained⟩⟩,
    ?guard, fun s => rfl, fun s rail => rfl, ?brownOut, fun s => exec_lossOfPower, fun s _ _ => exec_journalRecordWrite⟩
  case failed => simpa using exec_dovetailLinkRetrain (trained := false) hdown hphase
  case trained => simpa [hother] using exec_dovetailLinkRetrain (trained := true) hdown hphase
  case guard =>
    rintro s c _ hguard rfl
    exact exec_nvGuardAssert hguard
  case brownOut =>
    rintro s rail _ rfl
    exact ⟨exec_brownOut_of_ne_vaux, fun hvaux => (exec_brownOut_of_vaux hvaux).trans exec_lossOfPower.symm⟩

end Sys2Proof
end

section
/-! SUPPORT. The block's own statements: every command keeps the sound form and the queue, and what a module reset leaves to
read. -/
namespace Sys2Proof

theorem Tbl.get_of_key_not_listed {β : Type} (d : β) {i : Nat} : ∀ {t : Tbl β}, (∀ e ∈ t, e.1 ≠ i) → Tbl.get d t i = d
  | [], _ => rfl
  | e :: t, h => by
    rw [Tbl.get, if_neg (h e List.mem_cons_self)]
    exact Tbl.get_of_key_not_listed d fun x hx => h x (List.mem_cons_of_mem e hx)

namespace Machine

/-! ### Every command keeps the sound form and the queue -/

/-- Each arm of the dispatch keeps it, by the law of its chapter. -/
theorem exec_ok {q : List Instr} {s : State} (c : Instr) (h : Ok q s) : OutOk q (exec c s) := by
  cases c with
  | read => exact execRead_ok h
  | write => exact execWrite_ok h
  | tableRead => exact execTableRead_ok h
  | tableWrite => exact execTableWrite_ok h
  | txnOpen => exact execTxnOpen_ok h
  | txnCommit => exact execTxnCommit_ok h
  | txnAbort => exact execTxnAbort_ok h
  | snapshotOpen => exact execSnapshotOpen_ok h
  | snapshotClose => exact execSnapshotClose_ok h
  | subscribe => exact execSubscribe_ok h
  | unsubscribe => exact execUnsubscribe_ok h
  | notify => exact execNotify_ok h
  | zoaMessageDiscard => exact execZoaMessageDiscard_ok h
  | dtlsHandshake => exact execDtlsHandshake_ok h
  | sessionClose => exact execSessionClose_ok h
  | zoaSessionIdleClose => exact execZoaSessionIdleClose_ok h
  | txnIdleTimeout => exact execTxnIdleTimeout_ok h
  | txnCommitTimeout => exact execTxnCommitTimeout_ok h
  | snapshotExpire => exact execSnapshotExpire_ok h
  | timedCommitApply => exact execTimedCommitApply_ok h
  | waitingCommitApply => exact execWaitingCommitApply_ok h
  | parseBankFree => exact execParseBankFree_ok h
  | bar0Write => exact execBar0Write_ok h
  | mailboxGo => exact execMailboxGo_ok h
  | mailboxAck => exact execMailboxAck_ok h
  | mailboxNotifyPlace => exact execMailboxNotifyPlace_ok h
  | dovetailLinkLoss => exact execDovetailLinkLoss_ok h
  | frameReceive => exact execFrameReceive_ok h
  | pfcRepeat => exact execPfcRepeat_ok h
  | pauseExpire => exact execPauseExpire_ok h
  | packetAdmit => exact execPacketAdmit_ok h
  | lineRepairComplete => exact execLineRepairComplete_ok h
  | exactLearnInsert => exact execExactLearnInsert_ok h
  | tmEnqueue => exact execTmEnqueue_ok h
  | spillReturn => exact execSpillReturn_ok h
  | queueFlush => exact execQueueFlush_ok h
  | tmIntegrityError => exact execTmIntegrityError_ok h
  | shaperRefill => exact execShaperRefill_ok h
  | calendarSlotRelease => exact execCalendarSlotRelease_ok h
  | schedulerSelect => exact execSchedulerSelect_ok h
  | egressProcess => exact execEgressProcess_ok h
  | streamRecoveryReset => exact execStreamRecoveryReset_ok h
  | puntRingWrite => exact execPuntRingWrite_ok h
  | gateEntryChange => exact execGateEntryChange_ok h
  | gateListStart => exact execGateListStart_ok h
  | generationRetire => exact execGenerationRetire_ok h
  | generationAgeLimit => exact execGenerationAgeLimit_ok h
  | lockstepMismatch => exact execLockstepMismatch_ok h
  | longcaseTick => exact execLongcaseTick_ok h
  | gridSteerUpdate => exact execGridSteerUpdate_ok h
  | gridStep => exact execGridStep_ok h
  | gridLock => exact execGridLock_ok h
  | gridSet => exact execGridSet_ok h
  | gridRelock => exact execGridRelock_ok h
  | gridSourceWrite => exact execGridSourceWrite_ok h
  | domainQualify => exact execDomainQualify_ok h
  | domainSourceLoss => exact execDomainSourceLoss_ok h
  | domainTimeSet => exact execDomainTimeSet_ok h
  | domainAdjust => exact execDomainAdjust_ok h
  | domainIncrementWrite => exact execDomainIncrementWrite_ok h
  | domainOffsetUpdate => exact execDomainOffsetUpdate_ok h
  | domainDisagreementUpdate => exact execDomainDisagreementUpdate_ok h
  | ppsInEdge => exact execPpsInEdge_ok h
  | timeCaptureEdge => exact execTimeCaptureEdge_ok h
  | timeTriggerEnable => exact execTimeTriggerEnable_ok h
  | triggerPulse => exact execTriggerPulse_ok h
  | ppsOutPulse => exact execPpsOutPulse_ok h
  | routeQuery => exact execRouteQuery_ok h
  | exactQuery => exact execExactQuery_ok h
  | exactAgerScan => exact execExactAgerScan_ok h
  | exactAgeTick => exact execExactAgeTick_ok h
  | rangeSearch => exact execRangeSearch_ok h
  | rangeSearchNext => exact execRangeSearchNext_ok h
  | rangeDirectInvalidate => exact execRangeDirectInvalidate_ok h
  | rangeDirectWrite => exact execRangeDirectWrite_ok h
  | rangeDirectValidate => exact execRangeDirectValidate_ok h
  | shelfAllocate => exact execShelfAllocate_ok h
  | shelfRelease => exact execShelfRelease_ok h
  | rackCycleStart => exact execRackCycleStart_ok h
  | rackFrameStart => exact execRackFrameStart_ok h
  | headerCellReceive => exact execHeaderCellReceive_ok h
  | meshStepSearchTimeout => exact execMeshStepSearchTimeout_ok h
  | dataCellReceive => exact execDataCellReceive_ok h
  | reseqTimeout => exact execReseqTimeout_ok h
  | heldSequenceSkip => exact execHeldSequenceSkip_ok h
  | meshPackTimeout => exact execMeshPackTimeout_ok h
  | groupDispatch => exact execGroupDispatch_ok h
  | meshGroupDefectRaise => exact execMeshGroupDefectRaise_ok h
  | meshGroupDefectClear => exact execMeshGroupDefectClear_ok h
  | pageSwapDecide => exact execPageSwapDecide_ok h
  | pageSwap => exact execPageSwap_ok h
  | autoPagePlan => exact execAutoPagePlan_ok h
  | meshJoin => exact execMeshJoin_ok h
  | meshLeaveRequest => exact execMeshLeaveRequest_ok h
  | meshLeaveReady => exact execMeshLeaveReady_ok h
  | portRetrain => exact execPortRetrain_ok h
  | autonegComplete => exact execAutonegComplete_ok h
  | autonegTimeout => exact execAutonegTimeout_ok h
  | linkTrainingComplete => exact execLinkTrainingComplete_ok h
  | trainingTimeout => exact execTrainingTimeout_ok h
  | portLinkUp => exact execPortLinkUp_ok h
  | laneLockLoss => exact execLaneLockLoss_ok h
  | portDegradeComplete => exact execPortDegradeComplete_ok h
  | hbmTemperatureSample => exact execHbmTemperatureSample_ok h
  | hbmRefresh => exact execHbmRefresh_ok h
  | hbmScrubStep => exact execHbmScrubStep_ok h
  | hbmFreqRequest => exact execHbmFreqRequest_ok h
  | hbmFreqChange => exact execHbmFreqChange_ok h
  | hbmRetrain => exact execHbmRetrain_ok h
  | hbmServiceMode => exact execHbmServiceMode_ok h
  | hbmPatternWrite => exact execHbmPatternWrite_ok h
  | hbmPatternReadCompare => exact execHbmPatternReadCompare_ok h
  | hbmPatternWriteReadCompare => exact execHbmPatternWriteReadCompare_ok h
  | hbmPatternLoopback => exact execHbmPatternLoopback_ok h
  | hbmPatternDone => exact execHbmPatternDone_ok h
  | hbmTrain => exact execHbmTrain_ok h
  | hbmWipe => exact execHbmWipe_ok h
  | pcieLinkReset => exact execPcieLinkReset_ok h
  | pcieCompletionTimeout => exact execPcieCompletionTimeout_ok h
  | ringDoorbell => exact execRingDoorbell_ok h
  | injectPacket => exact execInjectPacket_ok h
  | injectTimestampComplete => exact execInjectTimestampComplete_ok h
  | injectStampTimeout => exact execInjectStampTimeout_ok h
  | ringInterruptHoldoff => exact execRingInterruptHoldoff_ok h
  | trolleyGo => exact execTrolleyGo_ok h
  | trolleyRunStart => exact execTrolleyRunStart_ok h
  | trolleyDescriptorDone => exact execTrolleyDescriptorDone_ok h
  | trolleyStop => exact execTrolleyStop_ok h
  | eventFlagClear => exact execEventFlagClear_ok h
  | eventCountClear => exact execEventCountClear_ok h
  | eventBankClaim => exact execEventBankClaim_ok h
  | eventBankRelease => exact execEventBankRelease_ok h
  | counterClear => exact execCounterClear_ok h
  | dumpLatch => exact execDumpLatch_ok h
  | dumpComplete => exact execDumpComplete_ok h
  | telemetrySlotHandover => exact execTelemetrySlotHandover_ok h
  | telemetryFlush => exact execTelemetryFlush_ok h
  | lifecycleRequest => exact execLifecycleRequest_ok h
  | lifecycleChangeComplete => exact execLifecycleChangeComplete_ok h
  | jtagDebugEnable => exact execJtagDebugEnable_ok h
  | fwLoadBegin => exact execFwLoadBegin_ok h
  | fwLoadBeginChain => exact execFwLoadBeginChain_ok h
  | fwLoadAbort => exact execFwLoadAbort_ok h
  | fwLoadTimeout => exact execFwLoadTimeout_ok h
  | fwChunk => exact execFwChunk_ok h
  | fwStagedLoad => exact execFwStagedLoad_ok h
  | fwBegin _ _ _ _ length => exact execFwBegin_ok (_length := length) h
  | fwData => exact execFwData_ok h
  | fwAck => exact execFwAck_ok h
  | fwResult => exact execFwResult_ok h
  | fwBeginAckTimeout => exact execFwBeginAckTimeout_ok h
  | fwResend => exact execFwResend_ok h
  | fwHopTimeout => exact execFwHopTimeout_ok h
  | fwActivate => exact execFwActivate_ok h
  | fwPrepareReady => exact execFwPrepareReady_ok h
  | fwSwap => exact execFwSwap_ok h
  | fwActivateCancel => exact execFwActivateCancel_ok h
  | fwConfirm => exact execFwConfirm_ok h
  | fwRollback => exact execFwRollback_ok h
  | fwConfirmTimeout => exact execFwConfirmTimeout_ok h
  | fwActivateAtResetMark => exact execFwActivateAtResetMark_ok h
  | fwActivateAtResetUnmark => exact execFwActivateAtResetUnmark_ok h
  | nvGuardAssert => exact execNvGuardAssert_ok h
  | nvGuardRelease => exact execNvGuardRelease_ok h
  | overVoltage => exact execOverVoltage_ok h
  | brownOut => exact execBrownOut_ok h
  | journalRecordWrite => exact execJournalRecordWrite_ok h
  | dieTemperatureSample => exact execDieTemperatureSample_ok h
  | sideboardStart => exact execSideboardStart_ok h
  | sideboardSequenceStart => exact execSideboardSequenceStart_ok h
  | sideboardConversion => exact execSideboardConversion_ok h
  | fanTachWindow => exact execFanTachWindow_ok h
  | gpioEdge => exact execGpioEdge_ok h
  | referenceClockLoss => exact execReferenceClockLoss_ok h
  | referenceClockRestore => exact execReferenceClockRestore_ok h
  | powerOnReset => exact execPowerOnReset_ok h
  | moduleResetPin => exact execModuleResetPin_ok h
  | blockReset => exact execBlockReset_ok h
  | blockResetRelease => exact execBlockResetRelease_ok h
  | senseComplete => exact execSenseComplete_ok h
  | romSlotChoose => exact execRomSlotChoose_ok h
  | bootComplete => exact execBootComplete_ok h
  | restore => exact execRestore_ok h
  | trafficStart => exact execTrafficStart_ok h
  | trafficEnable => exact execTrafficEnable_ok h
  | standbyPairSynchronised => exact execStandbyPairSynchronised_ok h
  | selfTestPassed => exact execSelfTestPassed_ok h
  | pcieLinkUp => exact execPcieLinkUp_ok h
  | busMasterEnable => exact execBusMasterEnable_ok h
  | pcieHostError => exact execPcieHostError_ok h
  | lossOfPower => exact execLossOfPower_ok h
  | dovetailLinkRetrain => exact execDovetailLinkRetrain_ok h
  | routeFilterRecompute => exact execRouteFilterRecompute_ok h

/-- The sound form says nothing of the queue. -/
theorem State.Sound.withPending {s : State} (h : s.Sound) (q : List Instr) : Ok q { s with pending := q } :=
  ⟨{ h with }, rfl⟩

/-! ### What a module reset leaves to read (R41, R430, R432) -/

/-- A write of one object leaves every other object. -/
theorem rd_wr_of_obj_ne (s : State) {obj row fld obj' row' fld' : Nat} (v : Nat) (hne : obj' ≠ obj)
    (hrow : row < 2 ^ 32 := by decide) (hfld : fld < 256 := by decide) (hrow' : row' < 2 ^ 32 := by decide)
    (hfld' : fld' < 256 := by decide) : (s.wr obj row fld v).rd obj' row' fld' = s.rd obj' row' fld' :=
  rd_wr_of_ne s v fun h => hne (skey_inj hrow' hrow hfld' hfld h).1

theorem skey_obj {obj row fld : Nat} (hrow : row < 2 ^ 32) (hfld : fld < 256) : skey obj row fld / 2 ^ 40 = obj := by
  unfold skey
  omega

theorem keyDefault_skey {obj row fld : Nat} (hrow : row < 2 ^ 32) (hfld : fld < 256) :
    keyDefault (skey obj row fld) = fieldDefault obj row fld := by
  have hr : skey obj row fld / 256 % 2 ^ 32 = row := by unfold skey; omega
  have hf : skey obj row fld % 256 = fld := by unfold skey; omega
  rw [keyDefault, skey_obj hrow hfld, hr, hf]

/-- The store that a module reset begins with: what Chest holds of the objects that no session writes. -/
def keptStore (c : Chest) : Tbl Nat := (bootChest c).home.filter fun e => moduleKept (e.1 / 2 ^ 40)

theorem storeWf_keptStore {c : Chest} (h : storeWf c.home) : storeWf (keptStore c) := storeWf_filter (bootChest_home h) _

theorem getKey_keptStore_of_not_kept {c : Chest} {obj row fld : Nat} (hrow : row < 2 ^ 32) (hfld : fld < 256)
    (h : moduleKept obj = false) : getKey (keptStore c) (skey obj row fld) = fieldDefault obj row fld := by
  rw [← keyDefault_skey hrow hfld]
  refine Tbl.get_of_key_not_listed _ fun e he hkey => ?_
  rw [keptStore, List.mem_filter, hkey, skey_obj hrow hfld, h] at he
  exact Bool.false_ne_true he.2

/-- Beside its records a module reset writes nothing over what it begins with. -/
theorem moduleReset_rd_of_not_recorded {s : State} {cause obj row fld : Nat} (hrow : row < 2 ^ 32) (hfld : fld < 256)
    (h : obj ∉ [O.ResetCause, O.ModuleResetCount, O.PowerSequence, O.PowerNvGuard]) :
    (moduleReset cause s).rd obj row fld = getKey (keptStore s.chest) (skey obj row fld) := by
  simp only [List.mem_cons, List.not_mem_nil, or_false, not_or] at h
  obtain ⟨hcause, hcount, hseq, hguard⟩ := h
  have other : ∀ (t : State) {o f v}, obj ≠ o → f < 256 → (t.wr o 0 f v).rd obj row fld = t.rd obj row fld :=
    fun t _ _ v hne hf => rd_wr_of_obj_ne t v hne (hfld := hf) (hrow' := hrow) (hfld' := hfld)
  unfold moduleReset
  dsimp only
  rw [other _ hguard (by decide), other _ hseq (by decide), other _ hseq (by decide)]
  split
  · exact other _ hcause (by decide)
  · exact (other _ hcount (by decide)).trans (other _ hcause (by decide))

theorem moduleReset_cause {s : State} {cause : Nat} (h : storeWf s.chest.home) :
    (moduleReset cause s).rd O.ResetCause 0 F.ResetCause_Cause =
      if s.boot.held then min (s.rd O.ResetCause 0 F.ResetCause_Cause) cause else cause := by
  unfold moduleReset
  dsimp only
  rw [rd_wr_of_obj_ne _ _ (by decide), rd_wr_of_obj_ne _ _ (by decide), rd_wr_of_obj_ne _ _ (by decide)]
  split
  · exact rd_wr_self (storeWf_keptStore h) _ _ _ _
  · exact (rd_wr_of_obj_ne _ _ (by decide)).trans (rd_wr_self (storeWf_keptStore h) _ _ _ _)

theorem moduleReset_start (cause : Nat) (s : State) :
    (moduleReset cause s).time = TimeRT.start ∧ (moduleReset cause s).gen = Blocks.start.gen ∧
      (moduleReset cause s).boot.phase = 0 ∧ (moduleReset cause s).ao = s.ao ∧ (moduleReset cause s).pins = s.pins := by
  unfold moduleReset
  dsimp only
  split <;> exact ⟨rfl, rfl, rfl, rfl, rfl⟩

end Machine

open Machine

/-- Settles O4: each arm of the dispatch keeps the sound form and the queue. -/
theorem everyCommandAnswers : Obligations.EveryCommandAnswers := by
  unfold Obligations.EveryCommandAnswers
  intro c s hs
  obtain ⟨t, hexec, ht⟩ := exec_ok c (⟨hs, rfl⟩ : Ok s.pending s)
  exact ⟨t, hexec, ht.sound, ht.queue⟩

/-- Settles O5: a step is idle, or a command on the queue's rest. -/
theorem stepKeepsSound : Obligations.StepKeepsSound := by
  unfold Obligations.StepKeepsSound
  intro s t hs hstep
  unfold step at hstep
  split at hstep
  · cases hstep
    exact hs
  next c rest _ =>
    obtain ⟨u, hexec, hu⟩ := exec_ok c (hs.withPending rest)
    cases hexec.symm.trans hstep
    exact hu.sound

/-- Settles O3: the records are the last writes of a reset, over what Chest keeps for the module. -/
theorem moduleResetRestoresDefaults : Obligations.ModuleResetRestoresDefaults := by
  unfold Obligations.ModuleResetRestoresDefaults
  intro s cause
  obtain ⟨htime, hgen, hphase, hao, hpins⟩ := moduleReset_start cause s
  refine ⟨by rw [htime]; rfl, by rw [htime]; rfl, by rw [hgen]; rfl, hphase, hao, hpins, fun hs => ⟨?_, ?_, ?_⟩⟩
  · exact (moduleReset_ok (cause := cause) (⟨hs, rfl⟩ : Ok s.pending s)).store
  · exact moduleReset_cause hs.home
  · intro obj row fld hrow hfld hkept hobj
    rw [moduleReset_rd_of_not_recorded hrow hfld hobj, getKey_keptStore_of_not_kept hrow hfld hkept]

end Sys2Proof
end

section
/-! SUPPORT. The commands that are the write of one object: a granted one has the effect of its row, and one that the
session's open transaction takes is staged. -/
namespace Sys2Proof.Machine

/-! ### Granted writes of the grid (R34, R89, R90, R92, R99) -/

/-- A command that is a granted write has the effect of its row. -/
theorem exec_granted {c : Instr} {v : Via} {w : SW} {lost : Nat} {s : State} {x : Sess} {eff : State → State} {o : ObjInfo}
    (hwrite : oneWrite c = some (v, w, lost)) (h : Granted v w lost s x) (info : objInfo? w.obj = some o)
    (fe : isFe o = false) (plain : Ordinary w.obj)
    (heff : ∀ r, cellEffect (s.came v.sess).toBlocks (actorOf (s.came v.sess).toBlocks x 0x02 lost) (r.stored w)
      ⟨w.obj, w.row, parts o w.fld w.val⟩ = eff r) :
    exec c s = .next (wrote v w lost x eff s) := by
  rw [exec_oneWrite hwrite, viaWrite_eff h o info fe plain heff]

theorem parts_of_no_fields {o : ObjInfo} (h : o.fields = []) (fld v : Nat) : parts o fld v = [(0, v)] := by
  simp [parts, h]

theorem timeEffect_timeTrigger (row : Nat) (l : List (Nat × Nat)) (s : State) :
    timeEffect ⟨O.TimeTrigger, row, l⟩ s = triggerWritten row s := by
  simp [timeEffect]

section GridWrites
variable {v : Via} {s : State} {x : Sess}

theorem exec_gridSet {t : BitVec 80} {q : Nat} (hval : timeVal (v.sess == .bar0) t.toNat = some q)
    (h : Granted v ⟨O.GridSet, 0, 0, q⟩ 0 s x) :
    exec (.gridSet v t) s = .next (wrote v ⟨O.GridSet, 0, 0, q⟩ 0 x
      (fun r => r.upTime fun m => { m with stepReq := some (.set (q * unitsPerQuarter)) }) s) := by
  obtain ⟨o, info, fe, tr, nf⟩ : ∃ o ∈ objInfo? O.GridSet, isFe o = false ∧ transient o = true ∧ o.fields = [] := by decide
  have plain : Ordinary O.GridSet := by decide
  have htime : 0x4000 ≤ O.GridSet ∧ O.GridSet < 0x8000 := by decide
  refine exec_granted (by simp only [oneWrite, hval, Option.map_some]) h info fe plain fun r => ?_
  rw [stored_transient info tr plain, cell_time htime, parts_of_no_fields nf]
  rfl

theorem exec_gridRelock {y : BitVec 8} (h : Granted v ⟨O.GridRelock, 0, 0, y.toNat⟩ 0 s x) :
    exec (.gridRelock v y) s = .next (wrote v ⟨O.GridRelock, 0, 0, y.toNat⟩ 0 x relockGrid s) := by
  obtain ⟨o, info, fe, tr⟩ : ∃ o ∈ objInfo? O.GridRelock, isFe o = false ∧ transient o = true := by decide
  have plain : Ordinary O.GridRelock := by decide
  have htime : 0x4000 ≤ O.GridRelock ∧ O.GridRelock < 0x8000 := by decide
  refine exec_granted rfl h info fe plain fun r => ?_
  rw [stored_transient info tr plain, cell_time htime]
  rfl

theorem exec_gridSourceWrite {y : BitVec 8} (h : Granted v ⟨O.GridSource, 0, 0, y.toNat⟩ 0 s x) :
    exec (.gridSourceWrite v y) s = .next (wrote v ⟨O.GridSource, 0, 0, y.toNat⟩ 0 x
      (fun r => gridSourceWritten ((r.ws O.GridSource y.toNat).journal [(O.GridSource, 0, 0)] 9 JRec.plain)) s) := by
  obtain ⟨o, info, fe, tr, nf, np, hw⟩ : ∃ o ∈ objInfo? O.GridSource,
    isFe o = false ∧ transient o = false ∧ o.fields = [] ∧ o.pers = 1 ∧ o.width = 1 := by decide
  have plain : Ordinary O.GridSource := by decide
  have htime : 0x4000 ≤ O.GridSource ∧ O.GridSource < 0x8000 := by decide
  have hones : clearsOnes O.GridSource 0 = false := by decide
  refine exec_granted rfl h info fe plain fun r => ?_
  rw [stored_kept info tr nf np fe hones plain, cell_time htime, hw]
  rfl

theorem exec_timeTriggerEnable {row : BitVec 32} {y : BitVec 256} (h : Granted v ⟨O.TimeTrigger, row.toNat, 0, y.toNat⟩ 0 s x) :
    exec (.timeTriggerEnable v row y) s = .next (wrote v ⟨O.TimeTrigger, row.toNat, 0, y.toNat⟩ 0 x
      (fun r => triggerWritten row.toNat (r.stored ⟨O.TimeTrigger, row.toNat, 0, y.toNat⟩)) s) := by
  obtain ⟨o, info, fe⟩ : ∃ o ∈ objInfo? O.TimeTrigger, isFe o = false := by decide
  have htime : 0x4000 ≤ O.TimeTrigger ∧ O.TimeTrigger < 0x8000 := by decide
  have plain : Ordinary O.TimeTrigger := by decide
  refine exec_granted rfl h info fe plain fun r => ?_
  rw [cell_time htime]
  exact timeEffect_timeTrigger _ _ _

end GridWrites

/-! ### Staged writes (R46, R47, R71, R72, R75) -/

theorem firstBad_singleton (st : Status) : firstBad [st] = st := by
  cases st <;> rfl

theorem Sess.id_of_sess? {s : State} {i : SessId} {x : Sess} (h : s.sess? i = some x) : x.id = i := by
  simpa using List.find?_some h

section Staged
variable {v : Via} {w : SW} {s s1 : State} {x : Sess} {t : Txn} {st : Status}

/-- The handle of an open transaction stages, and so does BAR0 while one is open. -/
theorem placeOf_staged {f : From} (hmine : x.txn = some t) (hopen : t.st = .open_ ∨ t.st = .failed)
    (hctx : f.ctx = t.handle ∧ t.handle ≠ 0 ∨ f.ctx = 0 ∧ x.id = .bar0) : placeOf f x = .staged := by
  have hbusy : ¬ (t.st = .pending ∨ t.st = .waiting) := by
    rcases hopen with h | h <;> simp [h]
  rcases hctx with ⟨hctx, hne⟩ | ⟨hctx, hbar⟩
  · simp only [placeOf, hmine, hctx, if_neg hne, if_neg hbusy, if_true]
  · simp only [placeOf, hmine, hctx, hbar, if_neg hbusy, if_true]

theorem viaWrite_staged_zoa {lost : Nat} (h : Stageable v w s x t) (hsess : v.sess ≠ .bar0)
    (hput : stageWrite v.sess w (s.came v.sess) = (st, s1)) :
    viaWrite v w.obj w.row w.fld lost (some w.val) s = respond v.sess 0x02 v.rid.toNat t.handle false st
      [⟨w.obj, ((objInfo? w.obj).map fun o => accType o w.fld).getD 0, w.row, w.fld, st.code, []⟩] s1 := by
  obtain ⟨hasks, hctx, hne⟩ := h.zoa hsess
  have hcame : s.came v.sess = s.heard v.sess := if_neg hsess
  have hitem := h.item
  rw [hcame] at hput hitem
  unfold viaWrite
  rw [if_neg hsess]
  dsimp only
  rw [request_run _ (q := ⟨v.sess, v.rid, v.ctx, false⟩) hasks]
  refine (writeItems_staged (s := s.heard v.sess) (x := { x with last := s.time.ticks }) (heard_sess h.here)
    (placeOf_staged h.mine h.open_ (.inl ⟨hctx, hne⟩)) ?_ h.data hput).trans ?_
  · rw [h.mine]
    exact hitem
  simp only [answerWrite, fromReq, if_neg hsess, hctx, firstBad_singleton, List.zip_cons_cons, List.zip_nil_right,
    List.map_cons, List.map_nil]

theorem viaWrite_staged_bar {lost : Nat} (h : Stageable v w s x t) (hsess : v.sess = .bar0)
    (hput : stageWrite v.sess w (s.came v.sess) = (st, s1)) :
    viaWrite v w.obj w.row w.fld lost (some w.val) s = barDone st w.obj s1 := by
  obtain ⟨hserved, hrow, hfld, hwin, hwaits⟩ := h.bar hsess
  obtain ⟨o, info, hwin⟩ := (Option.any_eq_true _ _).mp hwin
  have hcame : s.came v.sess = countBarWrite s := if_pos hsess
  have hhere : (countBarWrite s).sess? .bar0 = some x := hsess ▸ h.here
  have hitem := h.item
  rw [hcame] at hput hitem
  rw [hsess] at hput
  have hsame : (countBarWrite s).barWaits = false := hwaits
  have hcheck : barCheck w.obj (fun _ => some w.val) (countBarWrite s) x true ((x.txn.map (·.staged)).getD []) = .good w := by
    rw [← hitem, h.mine]
    simp only [barCheck, checkWrite, info, hrow, hfld, window_form info hwin, Option.map_some, Option.getD_some]
  unfold viaWrite
  simp only [hsess, hserved, hrow, hfld, barWrite, hsame, barApply, info, Option.any_some, hwin, Bool.not_true,
    Bool.false_eq_true, if_false, and_self, if_true]
  rw [writeItems_staged (f := barFrom 0x02 lost) (x := x) hhere
    (placeOf_staged h.mine h.open_ (.inr ⟨rfl, hsess ▸ Sess.id_of_sess? h.here⟩)) hcheck h.data hput]
  simp only [answerWrite, firstBad_singleton, List.getLast?_singleton, Option.map_some, Option.getD_some, if_true]

/-- No slot of the window is a row or a field (R72). -/
theorem viaWrite_bar_row_or_field {lost : Nat} {val : Option Nat} {obj row fld : Nat} (hsess : v.sess = .bar0)
    (hserved : s.served = true) (h : row ≠ 0 ∨ fld ≠ 0) :
    viaWrite v obj row fld lost val s = barDone .ok obj (countBarWrite s) := by
  have hslot : ¬ (row = 0 ∧ fld = 0) := by omega
  simp only [viaWrite, hsess, hserved, Bool.not_true, Bool.false_eq_true, if_neg hslot, if_true, if_false]

end Staged

end Sys2Proof.Machine

namespace Sys2Proof
open Machine

/-- Settles O8: the effect of each of the four rows, by the equation of its command. -/
theorem gridWritesTakeEffect : Obligations.GridWritesTakeEffect := by
  unfold Obligations.GridWritesTakeEffect
  exact ⟨fun _ _ _ _ _ hval h => exec_gridSet hval h, fun _ _ _ _ h => exec_gridRelock h,
    fun _ _ _ _ h => exec_gridSourceWrite h, fun _ _ _ _ _ h => exec_timeTriggerEnable h⟩

/-- Settles O18: a write that is staged goes by BAR0 or by a request; one that names a row or a field through BAR0 has no slot. -/
theorem writeCommandsAreStaged : Obligations.WriteCommandsAreStaged := by
  unfold Obligations.WriteCommandsAreStaged
  refine ⟨fun c v w lost s x t st s1 hwrite h hput => ?_, fun c v w lost s hwrite hsess hserved hslot => ?_⟩
  · rw [exec_oneWrite hwrite]
    split
    next hsess => rw [viaWrite_staged_bar h hsess hput]
    next hsess => rw [viaWrite_staged_zoa h hsess hput]
  · rw [exec_oneWrite hwrite, viaWrite_bar_row_or_field hsess hserved hslot]

end Sys2Proof
end

section
/-! SUPPORT. Requests that read: a request that is new runs its operation on the session as it finds it, and an item that
passes its checks answers the live value. -/
namespace Sys2Proof.Machine

/-! ### Requests (R43, R45, R64) -/

section Requests
variable {q : Req} {s : State} {x : Sess}

theorem runOp_of_asks {op : Nat} {act : From → List Item → Sess → State → State} {items : List Item}
    (h : Asks q.sess q.rid.toNat s x) :
    runOp op act q items s = act (fromReq q op) items (x.met s) (s.heard q.sess) :=
  request_run _ h

theorem answer_fromReq (op ctx : Nat) (st : Status) (items : List RItem) (s : State) :
    answer (fromReq q op) ctx st items s = s.reply q op ctx st items := rfl

theorem fromReq_ctx_of_zero {op : Nat} (h : q.ctx = 0) : (fromReq q op).ctx = 0 := by
  rw [fromReq, h]
  rfl

theorem Asks.id_ne_bar0 (h : Asks q.sess q.rid.toNat s x) : (x.met s).id ≠ .bar0 :=
  fun hbar => h.host ((Sess.id_of_sess? h.here).symm.trans hbar)

end Requests

/-! ### Reads (R43, R45, R57, R73) -/

section Reads
variable {f : From} {x : Sess} {i : Item} {o : ObjInfo} {s : State}

theorem readCtx_zero (hid : x.id ≠ .bar0) : readCtx x 0 s = .ok (liveEnv x s, []) := by
  simp only [readCtx, if_true, if_neg hid]

theorem noteRead_of_no_txn {ctx row v : Nat} (h : x.txn = none) : noteRead x ctx o row v s = s := by
  simp only [noteRead, h]

theorem noteCapture_of_ne {ctx row : Nat} (h : o.num ≠ O.TimeCaptureLog) : noteCapture ctx o row s = s :=
  if_neg fun hlog => h hlog.1

/-- The response item of a read of the live dictionary. -/
def liveItem (x : Sess) (s : State) (o : ObjInfo) (i : Item) : RItem :=
  { echoItem i .ok with val := beBytes (accLen o i.fld.toNat) (toWire o i.fld.toNat (fieldOf o i.fld.toNat
    (viewRow (liveEnv x s) o i.row.toNat))) }

theorem readItem_live (hctx : f.ctx = 0) (hid : x.id ≠ .bar0) (htxn : x.txn = none) (info : objInfo? i.obj.toNat = some o)
    (hread : canRead s.toBlocks x o = true) (hlog : o.num ≠ O.TimeCaptureLog)
    (hform : checkForm o i.typ.toNat i.row.toNat i.fld.toNat i.len.toNat = .ok) :
    readItem f x i s = (liveItem x s o i, s) := by
  simp only [readItem, hctx, readCtx_zero hid, info, hread, hform, noteRead_of_no_txn htxn, noteCapture_of_ne hlog,
    Bool.not_true, Bool.false_eq_true, if_false]
  rfl

theorem readItem_silent (hctx : f.ctx = 0) (hid : x.id ≠ .bar0)
    (hread : ∀ o, objInfo? i.obj.toNat = some o → canRead s.toBlocks x o = false) :
    readItem f x i s = ({ echoItem i .ok with val := List.replicate i.len.toNat 0 },
      silentAccess x.client (roleOf s.toBlocks x) f.op i.obj.toNat i.row.toNat i.fld.toNat s) := by
  cases info : objInfo? i.obj.toNat with
  | none =>
    simp only [readItem, hctx, readCtx_zero hid, info]
    rfl
  | some o =>
    simp only [readItem, hctx, readCtx_zero hid, info, hread o info, Bool.not_false, if_true]
    rfl

theorem readItems_live {l : List Item} (h : ∀ k ∈ l, readItem f x k s = (liveItem x s o k, s)) :
    readItems f x l s = (l.map (liveItem x s o), s) := by
  induction l with
  | nil => rfl
  | cons k l ih =>
    simp only [readItems, h k List.mem_cons_self, ih fun j hj => h j (List.mem_cons_of_mem k hj), List.map_cons]

theorem itemsStatus_of_all_ok {l : List RItem} (h : ∀ r ∈ l, r.status = 0) : itemsStatus l = .ok := by
  have hnone : l.find? (fun r => r.status != 0) = none := by
    simpa using h
  rw [itemsStatus, hnone]
  rfl

theorem itemsStatus_liveItems (l : List Item) : itemsStatus (l.map (liveItem x s o)) = .ok := by
  refine itemsStatus_of_all_ok fun r hr => ?_
  obtain ⟨k, _, rfl⟩ := List.mem_map.mp hr
  rfl

end Reads

section ReadRequests
variable {q : Req} {i : Item} {s : State} {x : Sess} {o : ObjInfo}

theorem exec_read_live (h : Asks q.sess q.rid.toNat s x) (hctx : q.ctx = 0) (htxn : x.txn = none)
    (info : objInfo? i.obj.toNat = some o) (hread : canRead s.toBlocks x o = true) (hlog : o.num ≠ O.TimeCaptureLog)
    (hform : checkForm o i.typ.toNat i.row.toNat i.fld.toNat i.len.toNat = .ok) :
    exec (.read (.zoa q [i])) s = .next ((s.heard q.sess).reply q 0x01 0 .ok [liveItem (x.met s) (s.heard q.sess) o i]) := by
  have hctx0 := fromReq_ctx_of_zero (op := 0x01) hctx
  have hitems : readItems (fromReq q 0x01) (x.met s) [i] (s.heard q.sess) =
      ([i].map (liveItem (x.met s) (s.heard q.sess) o), s.heard q.sess) :=
    readItems_live fun k hk => by
      obtain rfl := List.mem_singleton.mp hk
      exact readItem_live hctx0 h.id_ne_bar0 htxn info hread hlog hform
  change Host.Outcome.next (runOp 0x01 opRead q [i] s) = _
  rw [runOp_of_asks h, opRead, hitems, hctx0]
  dsimp only
  rw [itemsStatus_liveItems, answer_fromReq]
  rfl

theorem exec_read_silent (h : Asks q.sess q.rid.toNat s x) (hctx : q.ctx = 0)
    (hread : ∀ o, objInfo? i.obj.toNat = some o → canRead s.toBlocks x o = false) :
    exec (.read (.zoa q [i])) s = .next ((silentAccess x.client (roleOf s.toBlocks x) 0x01 i.obj.toNat i.row.toNat i.fld.toNat
      (s.heard q.sess)).reply q 0x01 0 .ok [{ echoItem i .ok with val := List.replicate i.len.toNat 0 }]) := by
  have hctx0 := fromReq_ctx_of_zero (op := 0x01) hctx
  have hitem := readItem_silent (f := fromReq q 0x01) (x := x.met s) (s := s.heard q.sess) hctx0 h.id_ne_bar0 hread
  change Host.Outcome.next (runOp 0x01 opRead q [i] s) = _
  simp only [runOp_of_asks h, opRead, readItems, hitem, hctx0]
  rfl

/-! ### TABLE_READ (R68, R464) -/

theorem checkForm_eq_ok {typ row fld len : Nat} :
    checkForm o typ row fld len = .ok ↔ inRange o row fld = true ∧ typ = accType o fld ∧ len = accLen o fld := by
  unfold checkForm
  split
  next h => simp_all
  next h =>
    split
    next hne => simp_all; omega
    next heq => simp_all

/-- Every value and every field of the dictionary is shorter than an item's length can state. -/
theorem catalog_lengths : (catalog.all fun o => decide (o.width < 65536) && o.fields.all fun f => decide (f.width ≤ 8 * 65535)) = true := by
  decide +kernel

theorem accLen_lt (info : objInfo? i.obj.toNat = some o) (fld : Nat) : accLen o fld < 65536 := by
  have hall := List.all_eq_true.mp catalog_lengths o (List.mem_of_find?_eq_some info)
  simp only [Bool.and_eq_true, decide_eq_true_eq, List.all_eq_true] at hall
  obtain ⟨hwidth, hfields⟩ := hall
  unfold accLen
  split
  · exact hwidth
  · have hbits : fieldBits o fld ≤ 8 * 65535 := by
      unfold fieldBits
      cases hfld : o.fields[fld - 1]? with
      | none => simp
      | some f => exact hfields f (List.mem_of_getElem? hfld)
    unfold ceilDiv
    omega

/-- The items of a TABLE_READ name rows of the table, in the type and length of their object. -/
theorem of_mem_tableItems {count limit : Nat} {k : Item} (info : objInfo? i.obj.toNat = some o)
    (hform : checkForm o i.typ.toNat i.row.toNat i.fld.toNat (accLen o i.fld.toNat) = .ok) (hk : k ∈ tableItems o i count limit) :
    k.obj = i.obj ∧ k.fld = i.fld ∧ checkForm o k.typ.toNat k.row.toNat k.fld.toNat k.len.toNat = .ok := by
  simp only [tableItems, List.mem_map, List.mem_filter, Bool.and_eq_true, decide_eq_true_eq] at hk
  obtain ⟨r, ⟨_, hr, hin⟩, rfl⟩ := hk
  obtain ⟨_, htyp, _⟩ := checkForm_eq_ok.mp hform
  refine ⟨rfl, rfl, checkForm_eq_ok.mpr ⟨?_, htyp, ?_⟩⟩
  · rwa [BitVec.toNat_ofNat, Nat.mod_eq_of_lt hr]
  · rw [BitVec.toNat_ofNat, Nat.mod_eq_of_lt (accLen_lt info _)]

theorem exec_tableRead (h : Asks q.sess q.rid.toNat s x) (hctx : q.ctx = 0) (htxn : x.txn = none) (hlen : i.len = 4)
    (hval : i.val.length = 4) (info : objInfo? i.obj.toNat = some o) (hread : canRead s.toBlocks x o = true)
    (hlog : o.num ≠ O.TimeCaptureLog)
    (hform : checkForm o i.typ.toNat i.row.toNat i.fld.toNat (accLen o i.fld.toNat) = .ok) :
    exec (.tableRead q [i]) s = .next ((s.heard q.sess).reply q 0x03 0 .ok
      ((tableItems o i (beNat i.val) (if q.small then 1400 else 9000)).map (liveItem (x.met s) (s.heard q.sess) o))) := by
  have hctx0 := fromReq_ctx_of_zero (op := 0x03) hctx
  have hlen4 : ¬ (i.len.toNat ≠ 4 ∨ i.val.length ≠ 4) := by simp [hlen, hval]
  have hmay : canRead (s.heard q.sess).toBlocks (x.met s) o = true := hread
  have hitems : readItems (fromReq q 0x03) (x.met s) (tableItems o i (beNat i.val) (if q.small then 1400 else 9000)) (s.heard q.sess)
      = ((tableItems o i (beNat i.val) (if q.small then 1400 else 9000)).map (liveItem (x.met s) (s.heard q.sess) o),
          s.heard q.sess) :=
    readItems_live fun k hk => by
      obtain ⟨hobj, _, hk⟩ := of_mem_tableItems info hform hk
      exact readItem_live hctx0 h.id_ne_bar0 htxn (hobj ▸ info) hread hlog hk
  change Host.Outcome.next (runOp 0x03 opTableRead q [i] s) = _
  rw [runOp_of_asks h]
  simp only [opTableRead, hctx0, readCtx_zero h.id_ne_bar0, info, Option.bind_some, hmay, if_true, hform, if_neg hlen4]
  have hsmall : (fromReq q 0x03).small = q.small := rfl
  rw [hsmall, hitems]
  dsimp only
  rw [itemsStatus_liveItems, answer_fromReq]

/-! ### The BAR0 window (R73, R75) -/

theorem postedWrites_of_none (hwaits : s.barWaits = false) (hq : s.barq = []) : postedWrites x s = [] := by
  have hnone : s.waits.filter (fun w => w.sess == .bar0 && w.direct) = [] := by
    simpa [State.barWaits] using hwaits
  rw [postedWrites, hnone, hq]
  rfl

theorem readCtx_bar0 (hid : x.id = .bar0) (htxn : x.txn = none) (hwaits : s.barWaits = false) (hq : s.barq = []) :
    readCtx x 0 s = .ok (liveEnv x s, []) := by
  simp only [readCtx, if_true, if_pos hid, htxn, postedWrites_of_none hwaits hq]
  rfl

theorem exec_read_bar0 {offset size : Nat} (hserved : s.served = true) (hoff : offset < 0x800000)
    (hsize : (size = 8 ∧ offset % 8 = 0) ∨ (size = 4 ∧ offset % 4 = 0)) (hsess : s.sess? .bar0 = some x) (htxn : x.txn = none)
    (hwaits : s.barWaits = false) (hq : s.barq = []) (info : objInfo? (offset / 8) = some o) (hwin : hasWindow o = true)
    (hread : canRead s.toBlocks x o = true) :
    exec (.read (.bar0 offset size)) s = .next (s.emit (.resp .bar0 ⟨1, 0, false, false, 0, 0, [⟨offset / 8, 0, 0, 0, 0,
      ((leBytes 8 (toWindow o (fieldOf o 0 (viewRow (liveEnv x s) o 0)))).drop (offset % 8)).take size⟩]⟩)) := by
  have hgo : s.served = true ∧ offset < 0x800000 ∧ ((size = 8 ∧ offset % 8 = 0) ∨ (size = 4 ∧ offset % 4 = 0)) :=
    ⟨hserved, hoff, hsize⟩
  change execRead (.bar0 offset size) s = _
  simp only [execRead, if_pos hgo, barRead, hsess, info, hwin, hread, readCtx_bar0 (Sess.id_of_sess? hsess) htxn hwaits hq,
    noteRead_of_no_txn htxn, Bool.not_true, Bool.false_eq_true, if_false]
  rfl

end ReadRequests

end Sys2Proof.Machine

namespace Sys2Proof
open Machine

/-- Settles O20: a request's read of the live dictionary, one without the right, and a read of the window. -/
theorem readsAnswer : Obligations.ReadsAnswer := by
  unfold Obligations.ReadsAnswer
  exact ⟨fun _ _ _ _ _ h hctx htxn info hread hlog hform => exec_read_live h hctx htxn info hread hlog hform,
    fun _ _ _ _ h hctx hread => exec_read_silent h hctx hread,
    fun _ _ _ _ _ hserved hoff hsize hsess htxn hwaits hq info hwin hread =>
      exec_read_bar0 hserved hoff hsize hsess htxn hwaits hq info hwin hread⟩

/-- Settles O21: every item that stands for a row of the table passes the checks of a read. -/
theorem tableReadsAnswer : Obligations.TableReadsAnswer := by
  unfold Obligations.TableReadsAnswer
  intro q i s x o h hctx htxn hlen hval info hread hlog hform
  rw [exec_tableRead h hctx htxn hlen hval info hread hlog hform]
  refine congrArg (fun l => Host.Outcome.next ((s.heard q.sess).reply q 0x03 0 .ok l)) (List.map_congr_left fun k hk => ?_)
  obtain ⟨_, hfld, _⟩ := of_mem_tableItems info hform hk
  rw [liveItem, hfld]

end Sys2Proof
end

section
/-! SUPPORT. Requests that write, and those that drive transactions and snapshots: where a write goes, the commit that its
items become, and the session's transaction and snapshot from opening to end. -/
namespace Sys2Proof.Machine

/-! ### WRITE and TABLE_WRITE (R48, R54, R59) -/

section Writes
variable {q : Req} {op : Nat} {items : List Item} {s : State} {x : Sess}

theorem exec_write_or_tableWrite {c : Instr} (hc : (op, c) ∈ [(0x02, Instr.write q items), (0x04, .tableWrite q items)])
    (h : Asks q.sess q.rid.toNat s x) :
    exec c s = .next (opWrite (fromReq q op) items (x.met s) (s.heard q.sess)) := by
  rw [← runOp_of_asks (act := opWrite) h]
  simp only [List.mem_cons, List.not_mem_nil, or_false, Prod.mk.injEq] at hc
  rcases hc with ⟨rfl, rfl⟩ | ⟨rfl, rfl⟩ <;> rfl

theorem firstBad_map_ok {α : Type} (l : List α) : firstBad (l.map fun _ => .ok) = .ok := by
  induction l with
  | nil => rfl
  | cons a l ih => exact ih

/-- Writes without control items that all pass their checks commit together (R48). -/
theorem finishWrite_of_all_good {f : From} {ritems : List RItem} {ws : List SW} (hne : ws ≠ [])
    (hdata : ∀ e ∈ ws, controls e.obj = false) :
    finishWrite f ritems (ws.map Checked.good) s = attempt true f.lost (f.wait true ws ritems) s := by
  have hall : ws.filter (fun w => !controls w.obj) = ws := List.filter_eq_self.mpr fun e he => by rw [hdata e he]; rfl
  have hfull : ws.isEmpty = false := by simpa using hne
  have hctl : ws.zipIdx.filterMap (fun e => if controls e.1.obj = true then some (e.2, e.1) else none) = [] :=
    List.filterMap_eq_nil_iff.mpr fun e he => by rw [hdata e.1 (List.fst_mem_of_mem_zipIdx he)]; rfl
  simp only [finishWrite, List.map_map, Function.comp_def, firstBad_map_ok, ne_eq, not_true_eq_false, if_false, List.filterMap_map,
    List.filterMap_some, hall, hfull, List.zipIdx_map, Prod.map_fst, Prod.map_snd, id_eq, hctl, runControl, List.find?_nil,
    Option.map_none, Option.getD_none, Bool.false_and, Bool.false_eq_true, or_self]

/-- Data writes with Context 0 that pass their checks become the attempt of one commit. -/
theorem writeItems_direct {f : From} {cs : List (RItem × (State → Sess → Bool → List SW → Checked))} {ws : List SW}
    (here : s.sess? f.sess = some x) (place : placeOf f x = .direct) (hne : ws ≠ [])
    (hgood : checkDirect s x [] (cs.map fun e => e.2 s x false) = ws.map Checked.good)
    (hdata : ∀ e ∈ ws, controls e.obj = false) :
    writeItems f cs s = attempt true f.lost (f.wait true ws (cs.map (·.1))) s := by
  have hsilent : (((cs.map (·.1)).zip (ws.map Checked.good)).foldl
      (fun a e => if e.2 = .silent then auditSilent f x e.1 a else a) s) = s := by
    refine List.foldlRecOn (motive := fun a => a = s) _ _ rfl fun a ha e he => ?_
    obtain ⟨w, _, hw⟩ := List.mem_map.mp (List.of_mem_zip he).2
    rw [if_neg (by rw [← hw]; exact Checked.noConfusion), ha]
  simp only [writeItems, here, place, hgood, hsilent, finishWrite_of_all_good hne hdata]

/-- A Context that is no handle of the session refuses all items, and nothing is written. -/
theorem writeItems_refused_range {f : From} {cs : List (RItem × (State → Sess → Bool → List SW → Checked))}
    (here : s.sess? f.sess = some x) (place : placeOf f x = .refused .range) (hctx : f.ctx ≠ 0) :
    writeItems f cs s = answerWrite f (cs.map (·.1)) (cs.map fun _ => .range) s := by
  have hquiet : ∀ e ∈ cs, ¬ (Status.range == .busy && e.2 s x false [] == .silent) = true := fun _ _ => by simp
  simp only [writeItems, here, place, if_neg (fun h : _ ∧ f.ctx = 0 => hctx h.2), List.filter_eq_nil_iff.mpr hquiet,
    List.foldl_nil]
  exact congrArg (answerWrite f _ · s) (List.map_congr_left fun e he => if_neg (hquiet e he))

theorem placeOf_direct {f : From} (hctx : f.ctx = 0) (hid : x.id ≠ .bar0) : placeOf f x = .direct := by
  cases htxn : x.txn with
  | none => simp only [placeOf, htxn, if_pos hctx]
  | some t => simp only [placeOf, htxn, if_pos hctx, if_neg hid]

theorem placeOf_refused_range {f : From} (hctx : f.ctx ≠ 0) (hother : ∀ t, x.txn = some t → f.ctx ≠ t.handle) :
    placeOf f x = .refused .range := by
  cases htxn : x.txn with
  | none => simp only [placeOf, htxn, if_neg hctx]
  | some t => simp only [placeOf, htxn, if_neg hctx, if_neg (hother t htxn)]

theorem firstBad_map_const {α : Type} {l : List α} (st : Status) (hne : l ≠ []) : firstBad (l.map fun _ => st) = st := by
  obtain ⟨a, l, rfl⟩ := List.exists_cons_of_ne_nil hne
  by_cases hok : st = .ok
  · rw [hok, firstBad_map_ok]
  · simp [firstBad, hok]

theorem answerWrite_map_const {f : From} {st : Status} (hne : items ≠ []) (hsess : f.sess ≠ .bar0) :
    answerWrite f (items.map fun i => echoItem i .ok) (items.map fun _ => st) s =
      answer f f.ctx st (items.map fun i => echoItem i st) s := by
  simp only [answerWrite, if_neg hsess, firstBad_map_const st hne, List.zip_map', List.map_map]
  rfl

end Writes

/-! ### What the coming of a request leaves as it was -/

theorem length_filter_updWhere {l : List Sess} {p : Sess → Bool} {f : Sess → Sess} (P : Sess → Bool)
    (h : ∀ x, P (f x) = P x) : ((updWhere l p f).filter P).length = (l.filter P).length := by
  have hsame : P ∘ (fun x => if p x then f x else x) = P := by
    funext x
    simp only [Function.comp_apply]
    split
    · exact h x
    · rfl
  rw [updWhere, List.filter_map, hsame, List.length_map]

@[simp] theorem heard_txnsOpen (s : State) (i : SessId) : (s.heard i).txnsOpen = s.txnsOpen :=
  congrArg (· + s.orphans.length) (length_filter_updWhere _ fun _ => rfl)

@[simp] theorem heard_snapsOpen (s : State) (i : SessId) : (s.heard i).snapsOpen = s.snapsOpen :=
  length_filter_updWhere (fun x => (x.liveSnap s.toBlocks).isSome) fun _ => rfl

@[simp] theorem heard_zoaSessions_length (s : State) (i : SessId) : (s.heard i).zoaSessions.length = s.zoaSessions.length :=
  length_filter_updWhere _ fun _ => rfl

/-! ### TXN_OPEN, TXN_COMMIT and TXN_ABORT (R46, R50, R53, R54, R56, R71) -/

section Transactions
variable {q : Req} {i : Item} {s : State} {x : Sess} {t : Txn}

theorem ownCtx_fromReq {op : Nat} (htxn : x.txn = some t) (hctx : q.ctx = 0 ∨ q.ctx.toNat = t.handle) :
    ownCtx (fromReq q op) x = true := by
  rcases hctx with hctx | hctx
  · simp only [ownCtx, fromReq_ctx_of_zero hctx, beq_self_eq_true, Bool.true_or]
  · have hown : (fromReq q op).ctx = t.handle := hctx
    simp only [ownCtx, htxn, hown, Option.any_some, beq_self_eq_true, Bool.or_true]

theorem exec_txnOpen (h : Asks q.sess q.rid.toNat s x) (hctx : q.ctx = 0) (htxn : x.txn = none) (hroom : s.txnsOpen < 16)
    (hmay : mayControl s x O.TxnOpen = true) :
    exec (.txnOpen q []) s = .next (({ s.heard q.sess with nextHandle := s.nextHandle % 0x7FFF + 1 }.updSess q.sess fun y =>
      { y with txn := some { handle := s.nextHandle, st := .open_, staged := [], touched := [], bytes := 0, lastWrite := s.time.ticks
                             at_ := none, order := 0, lastStatus := x.ended.status, failedObj := x.ended.failedObj
                             genKept := false } }).reply q 0x10
      s.nextHandle .ok []) := by
  have hmay' : mayControl (s.heard q.sess) (x.met s) O.TxnOpen = true := hmay
  have hown : ownCtx (fromReq q 0x10) (x.met s) = true := by
    simp only [ownCtx, fromReq_ctx_of_zero hctx, beq_self_eq_true, Bool.true_or]
  have hhere : (s.heard q.sess).sess? (fromReq q 0x10).sess = some (x.met s) := heard_sess h.here
  have hfree : ¬ ((x.met s).txn.isSome = true ∨ 16 ≤ (s.heard q.sess).txnsOpen) := by
    simp [htxn, hroom]
  change Host.Outcome.next (runOp 0x10 opTxnOpen q [] s) = _
  rw [runOp_of_asks h]
  simp only [opTxnOpen, hmay', hown, openTxn, hhere, if_neg hfree, List.isEmpty_nil, Bool.not_true,
    Bool.false_eq_true, if_false, if_true]
  rfl

theorem commitTxn_open {w : Wait} {at_ : Nat} (here : s.sess? w.sess = some x) (htxn : x.txn = some t)
    (hopen : t.st = .open_ ∨ t.st = .failed) :
    commitTxn w at_ s = attempt true 0 { w with at_ := if at_ = 0 then none else some at_ } s := by
  have hbusy : ¬ (t.st = .pending ∨ t.st = .waiting) := by
    rcases hopen with h | h <;> simp [h]
  simp only [commitTxn, here, Option.bind_some, htxn, if_neg hbusy]

theorem exec_txnCommit (h : Asks q.sess q.rid.toNat s x) (htxn : x.txn = some t) (hctx : q.ctx = 0 ∨ q.ctx.toNat = t.handle)
    (hopen : t.st = .open_ ∨ t.st = .failed) (hmay : mayControl s x O.TxnCommit = true) (hobj : i.obj.toNat = O.TxnCommit)
    (htyp : i.typ = 11) (hlen : i.len = 10) (hval : i.val.length = 10) (htime : time80Ok (beNat i.val) = true) :
    exec (.txnCommit q [i]) s = .next (attempt true 0 { (fromReq q 0x11).wait false [] [] with
      at_ := if qOfTime80 (beNat i.val) = 0 then none else some (qOfTime80 (beNat i.val)) } (s.heard q.sess)) := by
  have hmay' : mayControl (s.heard q.sess) (x.met s) O.TxnCommit = true := hmay
  have hown : ownCtx (fromReq q 0x11) (x.met s) = true := ownCtx_fromReq htxn hctx
  have hform : ¬ (i.obj.toNat ≠ O.TxnCommit ∨ i.typ ≠ 11 ∨ i.len ≠ 10 ∨ i.val.length ≠ 10) := by
    simp [hobj, htyp, hlen, hval]
  change Host.Outcome.next (runOp 0x11 opTxnCommit q [i] s) = _
  rw [runOp_of_asks h]
  simp only [opTxnCommit, hmay', hown, if_neg hform, htime, Bool.not_true, Bool.false_eq_true, or_self, if_false]
  exact congrArg _ (commitTxn_open (x := x.met s) (heard_sess h.here) htxn hopen)

/-- The commit of a transaction that nothing stands against and that need not wait. -/
theorem attempt_txn {first : Bool} {lost : Nat} {w : Wait} (here : s.sess? w.sess = some x) (htxn : x.txn = some t)
    (hdirect : w.direct = false) (hop : w.op ≠ 0xFF)
    (hcommit : commitCheck (actorOf s.toBlocks x w.op lost) t.touched w.at_ (cellsOf t.staged) s = .go)
    (hwait : waitNeeded (cellsOf t.staged) w.at_ (if first then none else some w.order) s = none) :
    attempt first lost w s = w.at_.elim (finishCommit w (actorOf s.toBlocks x w.op lost) (cellsOf t.staged) s)
      fun n => acceptTimed w (cellsOf t.staged) n s := by
  simp only [attempt, here, hdirect, htxn, if_neg hop, Bool.false_eq_true, if_false, Option.map_some, Option.getD_some, hcommit,
    hwait]
  cases w.at_ <;> rfl

/-- A commit accepted for an instant more than 100 µs ahead is not bound. -/
theorem txnAbort_of_unbound {id : SessId} (here : s.sess? id = some x) (htxn : x.txn = some t)
    (hfree : t.st = .pending → ∀ n, t.at_ = some n → s.gridQ + 400000 < n) :
    txnAbort id s = (.ok, abortTxn id .ok s) := by
  simp only [txnAbort, here, Option.bind_some, htxn]
  by_cases hst : t.st = .pending
  · cases hat : t.at_ with
    | none => simp
    | some n => simp [hst, Nat.not_le.mpr (hfree hst n hat)]
  · simp [hst]

theorem exec_txnAbort (h : Asks q.sess q.rid.toNat s x) (htxn : x.txn = some t)
    (hctx : q.ctx = 0 ∨ q.ctx.toNat = t.handle) (hmay : mayControl s x O.TxnAbort = true)
    (hfree : t.st = .pending → ∀ n, t.at_ = some n → s.gridQ + 400000 < n) :
    exec (.txnAbort q []) s = .next ((abortTxn q.sess .ok (s.heard q.sess)).reply q 0x12 q.ctx.toNat .ok
      (txnItems q.sess (abortTxn q.sess .ok (s.heard q.sess)))) := by
  have hmay' : mayControl (s.heard q.sess) (x.met s) O.TxnAbort = true := hmay
  have hown : ownCtx (fromReq q 0x12) (x.met s) = true := ownCtx_fromReq htxn hctx
  change Host.Outcome.next (runOp 0x12 opTxnAbort q [] s) = _
  rw [runOp_of_asks h]
  have habort : txnAbort (fromReq q 0x12).sess (s.heard q.sess) = (.ok, abortTxn q.sess .ok (s.heard q.sess)) :=
    txnAbort_of_unbound (x := x.met s) (heard_sess h.here) htxn hfree
  simp only [opTxnAbort, hmay', hown, habort, List.isEmpty_nil, Bool.not_true, Bool.false_eq_true, if_false]
  rfl

end Transactions

/-! ### Snapshots (R57, R58) -/

section Snapshots
variable {q : Req} {s : State} {x : Sess}

theorem ctxStatus_zero {op : Nat} (hctx : q.ctx = 0) (hid : x.id ≠ .bar0) : ctxStatus (fromReq q op) x s = .ok := by
  simp only [ctxStatus, fromReq_ctx_of_zero hctx, readCtx_zero hid]

theorem exec_snapshotOpen (h : Asks q.sess q.rid.toNat s x) (hctx : q.ctx = 0) (hrole : roleOf s.toBlocks x ≠ 0)
    (hsnap : x.snap = none) (hroom : s.snapsOpen < 4) :
    let k := 0x8000 + s.nextSnap % 0x8000
    exec (.snapshotOpen q []) s = .next (({ s.heard q.sess with nextSnap := s.nextSnap + 1 }.updSess q.sess fun y =>
      { y with hadSnaps := k :: y.hadSnaps
               snap := some { handle := k, openedAt := s.time.ticks, blocks := s.toBlocks, chest := s.chest, txns := s.txnsOpen
                              snaps := s.snapsOpen, zoas := s.zoaSessions.length, status := txnStatus (x.met s)
                              refs := s.pins.refs, asked := x.asked, copied := [] } }).reply q 0x20 k .ok (snapItems s)) := by
  have hrole' : ¬ roleOf (s.heard q.sess).toBlocks (x.met s) = 0 := hrole
  have hfree : ¬ (((x.met s).liveSnap (s.heard q.sess).toBlocks).isSome = true ∨ 4 ≤ s.snapsOpen) := by
    simp [Sess.liveSnap, hsnap, hroom]
  change Host.Outcome.next (runOp 0x20 opSnapshotOpen q [] s) = _
  rw [runOp_of_asks h]
  simp only [opSnapshotOpen, ctxStatus_zero hctx h.id_ne_bar0, if_neg hrole', if_neg hfree, List.isEmpty_nil, Bool.not_true,
    Bool.false_eq_true, if_false, ne_eq, not_true_eq_false, heard_txnsOpen, heard_snapsOpen, heard_zoaSessions_length]
  rfl

theorem exec_snapshotClose {n : Snap} (h : Asks q.sess q.rid.toNat s x) (hsnap : x.snap = some n)
    (hfits : n.fits s.toBlocks = true) (hhandle : n.handle = q.ctx.toNat) :
    exec (.snapshotClose q []) s = .next ((endSnap q.sess (s.heard q.sess)).reply q 0x20 q.ctx.toNat .ok []) := by
  have hlive : ((x.met s).liveSnap (s.heard q.sess).toBlocks).any (fun n => n.handle == (fromReq q 0x20).ctx) = true := by
    have hfits' : n.fits (s.heard q.sess).toBlocks = true := hfits
    simp [Sess.liveSnap, hsnap, hfits', fromReq, hhandle]
  change Host.Outcome.next (runOp 0x20 opSnapshotClose q [] s) = _
  rw [runOp_of_asks h]
  simp only [opSnapshotClose, if_pos hlive, List.isEmpty_nil, Bool.not_true, Bool.false_eq_true, if_false]
  rfl

theorem exec_snapshotExpire {sess : SessId} {n : Snap} (hsess : s.sess? sess = some x) (hsnap : x.snap = some n)
    (hdue : n.openedAt + s.sc O.SnapshotLifetime * ticksPerMs ≤ s.time.ticks) :
    exec (.snapshotExpire sess) s = .next (endSnap sess s) := by
  change execSnapshotExpire sess s = _
  simp only [execSnapshotExpire, hsess, Option.bind_some, hsnap, if_pos hdue]

end Snapshots

end Sys2Proof.Machine

namespace Sys2Proof
open Machine

/-- Settles O22: a direct write whose items pass their checks is the attempt of one commit, which goes through. -/
theorem writesApplyTogether : Obligations.WritesApplyTogether := by
  unfold Obligations.WritesApplyTogether
  intro q items s x ws w op c h hctx hne hgood hdata hc hw hcommit hwait
  have hhere := heard_sess h.here
  have hctx0 := fromReq_ctx_of_zero (op := op) hctx
  have hasked : (fromReq q op).wait true ws (items.map fun i => echoItem i .ok) = w := by
    rw [hw, From.wait, hctx0]
    rfl
  have hop : w.op ≠ 0xFF := by
    simp only [List.mem_cons, List.not_mem_nil, or_false, Prod.mk.injEq] at hc
    rw [← hasked]
    change op ≠ 0xFF
    omega
  rw [exec_write_or_tableWrite hc h]
  refine congrArg Host.Outcome.next ((writeItems_direct (s := s.heard q.sess) hhere (placeOf_direct hctx0 h.id_ne_bar0) hne ?_
    hdata).trans ?_)
  · rw [List.map_map]
    exact hgood
  · rw [List.map_map, Function.comp_def, hasked]
    subst hw
    exact attempt_go (first := true) (lost := 0) (x := x.met s) hhere rfl rfl hop hcommit hwait

/-- Settles O23: no transaction has a snapshot's handle, so the write has no place to go. -/
theorem snapshotHandleRefusesWrites : Obligations.SnapshotHandleRefusesWrites := by
  unfold Obligations.SnapshotHandleRefusesWrites
  intro q items s x op c h hctx hhandle hne hc
  have hctx0 : (fromReq q op).ctx ≠ 0 := by
    change q.ctx.toNat ≠ 0
    omega
  have hother : ∀ t, (x.met s).txn = some t → (fromReq q op).ctx ≠ t.handle := fun t ht => by
    have hlt := hhandle t ht
    change q.ctx.toNat ≠ t.handle
    omega
  rw [exec_write_or_tableWrite hc h]
  refine congrArg Host.Outcome.next ((writeItems_refused_range (s := s.heard q.sess) (heard_sess h.here)
    (placeOf_refused_range hctx0 hother) hctx0).trans ?_)
  rw [List.map_map, List.map_map]
  exact answerWrite_map_const hne h.host

/-- Settles O24: the three operations on the session's transaction, the commit by way of its attempt. -/
theorem transactionsAreDriven : Obligations.TransactionsAreDriven := by
  unfold Obligations.TransactionsAreDriven
  refine ⟨fun q s x h hctx htxn hroom hmay => exec_txnOpen h hctx htxn hroom hmay, ?_,
    fun q s x t h htxn hctx hmay hfree => exec_txnAbort h htxn hctx hmay hfree⟩
  rintro q i s x t cs w h htxn hctx hopen hmay hobj htyp hlen hval htime rfl hw hcommit hwait
  have hasked : { (fromReq q 0x11).wait false [] [] with
      at_ := if qOfTime80 (beNat i.val) = 0 then none else some (qOfTime80 (beNat i.val)) } = w := hw.symm
  have hop : w.op = 0x11 := by rw [hw]
  rw [exec_txnCommit h htxn hctx hopen hmay hobj htyp hlen hval htime, hasked,
    attempt_txn (x := x.met s) (t := t) ?_ htxn ?_ ?_ ?_ hwait]
  · rw [hop]
    cases w.at_ <;> rfl
  · rw [hw]
    exact heard_sess h.here
  · rw [hw]
  · rw [hop]
    decide
  · rw [hop]
    exact hcommit

/-- Settles O25: the equations of a snapshot's opening, its close and its expiry. -/
theorem snapshotsAreServed : Obligations.SnapshotsAreServed := by
  unfold Obligations.SnapshotsAreServed
  refine ⟨?_, fun q s x n h hsnap hfits hhandle => exec_snapshotClose h hsnap hfits hhandle,
    fun sess s x n hsess hsnap hdue => exec_snapshotExpire hsess hsnap hdue⟩
  rintro q s x k h hctx hrole hsnap hroom rfl
  exact exec_snapshotOpen h hctx hrole hsnap hroom

end Sys2Proof
end

section
/-! SUPPORT. Subscriptions and notifications: what SUBSCRIBE and UNSUBSCRIBE do to the session's list, and which message a
NOTIFY makes. -/
namespace Sys2Proof.Machine

/-! ### The list of a session (R69) -/

section Subscriptions
variable {q : Req} {i : Item} {s : State} {x : Sess} {o : ObjInfo}

theorem subscribeItem_new {f : From} (hhere : s.sess? f.sess = some x) (info : objInfo? i.obj.toNat = some o)
    (hread : canRead s.toBlocks x o = true) (htable : o.typ ≠ 20) (hlog : o.typ ≠ 21)
    (hform : checkForm o i.typ.toNat i.row.toNat i.fld.toNat i.len.toNat = .ok) (hnew : ∀ u ∈ x.subs, u.obj ≠ i.obj.toNat)
    (hroom : x.subs.length < 256) :
    subscribeItem f x ([], s) i = ([echoItem i .ok], s.updSess f.sess fun y => { y with subs := y.subs ++
      [⟨i.obj.toNat, subValue o x s, none⟩] }) := by
  have hold : ¬ (x.subs.any fun u => u.obj == i.obj.toNat) = true := by
    simpa using hnew
  simp only [subscribeItem, info, hread, htable, hlog, hform, hhere, Option.map_some, Option.getD_some, if_neg hold,
    Nat.not_le.mpr hroom, Bool.not_true, Bool.false_eq_true, or_self, if_false, List.nil_append]

theorem exec_subscribe (h : Asks q.sess q.rid.toNat s x) (hctx : q.ctx = 0) (info : objInfo? i.obj.toNat = some o)
    (hread : canRead s.toBlocks x o = true) (htable : o.typ ≠ 20) (hlog : o.typ ≠ 21)
    (hform : checkForm o i.typ.toNat i.row.toNat i.fld.toNat i.len.toNat = .ok) (hnew : ∀ u ∈ x.subs, u.obj ≠ i.obj.toNat)
    (hroom : x.subs.length < 256) :
    exec (.subscribe q [i]) s = .next (((s.heard q.sess).updSess q.sess fun y => { y with subs := y.subs ++
      [⟨i.obj.toNat, subValue o (x.met s) (s.heard q.sess), none⟩] }).reply q 0x30 0 .ok [echoItem i .ok]) := by
  have hitem := subscribeItem_new (f := fromReq q 0x30) (x := x.met s) (s := s.heard q.sess) (heard_sess h.here) info hread
    htable hlog hform hnew hroom
  change Host.Outcome.next (runOp 0x30 opSubscribe q [i] s) = _
  rw [runOp_of_asks h]
  simp only [opSubscribe, ctxStatus_zero hctx h.id_ne_bar0, List.foldl_cons, List.foldl_nil, hitem, ne_eq, not_true_eq_false,
    if_false, fromReq_ctx_of_zero hctx]
  rfl

theorem updSess_updSess (s : State) (id : SessId) {f g : Sess → Sess} (hf : ∀ y, (f y).id = y.id) :
    (s.updSess id f).updSess id g = s.updSess id (g ∘ f) := by
  have hmap : updWhere (updWhere s.sessions (fun y => y.id == id) f) (fun y => y.id == id) g =
      updWhere s.sessions (fun y => y.id == id) (g ∘ f) := by
    simp only [updWhere, List.map_map]
    refine List.map_congr_left fun y _ => ?_
    by_cases hy : y.id = id <;> simp [hy, hf]
  exact congrArg (fun l => { s with sessions := l }) hmap

theorem updSess_id (s : State) (id : SessId) {f : Sess → Sess} (hf : ∀ y, f y = y) : s.updSess id f = s := by
  have hmap : updWhere s.sessions (fun y => y.id == id) f = s.sessions := by
    simp [updWhere, hf]
  exact congrArg (fun l => { s with sessions := l }) hmap

/-- The session without its subscriptions of some objects. -/
def Sess.withoutSubs (objs : List Nat) (y : Sess) : Sess := { y with subs := y.subs.filter fun u => !objs.contains u.obj }

theorem unsubscribe_fold {f : From} {items : List Item}
    (hread : ∀ i ∈ items, ∃ o, objInfo? i.obj.toNat = some o ∧ canRead s.toBlocks x o = true) :
    items.foldl (unsubscribeItem f x) s = s.updSess f.sess (Sess.withoutSubs (items.map fun i => i.obj.toNat)) := by
  induction items generalizing s with
  | nil => exact (updSess_id s f.sess fun y => by simp [Sess.withoutSubs]).symm
  | cons i items ih =>
    obtain ⟨o, info, hmay⟩ := hread i List.mem_cons_self
    have hone : unsubscribeItem f x s i = s.updSess f.sess (Sess.withoutSubs [i.obj.toNat]) := by
      simp only [unsubscribeItem, info, Option.any_some, hmay, if_true]
      refine congrArg (s.updSess f.sess) (funext fun y => ?_)
      simp only [Sess.withoutSubs, List.contains_cons, List.contains_nil, Bool.or_false]
      rfl
    rw [List.foldl_cons, hone, ih (s := s.updSess f.sess (Sess.withoutSubs [i.obj.toNat]))
      fun j hj => hread j (List.mem_cons_of_mem i hj), updSess_updSess s f.sess (f := Sess.withoutSubs _) fun _ => rfl]
    refine congrArg (s.updSess f.sess) (funext fun y => ?_)
    simp [Sess.withoutSubs, List.filter_filter, Bool.and_comm]

theorem exec_unsubscribe {items : List Item} (h : Asks q.sess q.rid.toNat s x) (hctx : q.ctx = 0)
    (hread : ∀ i ∈ items, ∃ o, objInfo? i.obj.toNat = some o ∧ canRead s.toBlocks x o = true) :
    exec (.unsubscribe q items) s = .next (((s.heard q.sess).updSess q.sess (Sess.withoutSubs (items.map fun i => i.obj.toNat))).reply
      q 0x30 0 .ok (items.map fun i => echoItem i .ok)) := by
  change Host.Outcome.next (runOp 0x30 opUnsubscribe q items s) = _
  rw [runOp_of_asks h]
  simp only [opUnsubscribe, ctxStatus_zero hctx h.id_ne_bar0, ne_eq, not_true_eq_false, if_false, fromReq_ctx_of_zero hctx]
  rw [unsubscribe_fold (s := s.heard q.sess) (x := x.met s) hread]
  rfl

end Subscriptions

/-! ### The message that is due (R69, R70, R358) -/

section Notify
variable {sess : SessId} {busy : Bool} {s t : State} {x : Sess}

theorem exec_notify (ht : t = if busy then s else sendNotes sess s) (hsess : t.sess? sess = some x) :
    exec (.notify ⟨sess, busy⟩) s = .next (if busy then makeNote x t else sendNotes sess (makeNote x t)) := by
  subst ht
  change execNotify ⟨sess, busy⟩ s = _
  simp only [execNotify, hsess]

theorem makeNote_bank {b : Nat} {o : ObjInfo} (hdue : x.eventDue.find? (bankDue x s) = some b)
    (info : objInfo? O.EventBanks = some o) :
    makeNote x s = notify x.id [⟨O.EventBanks, 19, b, 0, 0, beBytes 16 (viewRow (liveEnv x s) o b)⟩] (s.updSess x.id fun y =>
      { y with eventDue := y.eventDue.filter fun k => k != b
               bankSent := (b, s.time.ticks) :: y.bankSent.filter fun e => e.1 != b }) := by
  simp only [makeNote, hdue, info]

theorem makeNote_sub {w : Sub} {o : ObjInfo} (hbank : x.eventDue.find? (bankDue x s) = none)
    (hdue : x.subs.find? (subDue x s) = some w) (info : objInfo? w.obj = some o) :
    makeNote x s = notify x.id [⟨o.num, o.typ, 0, 0, 0, beBytes o.width (toWire o 0 (subValue o x s))⟩] (s.updSess x.id fun y =>
      { y with subs := y.subs.map fun k =>
        if k.obj = w.obj then { k with last := subValue o x s, sentAt := some s.time.ticks } else k }) := by
  simp only [makeNote, hbank, hdue, info]

end Notify

end Sys2Proof.Machine

namespace Sys2Proof
open Machine

/-- Settles O26: the list's two changes, and the two messages that a NOTIFY can make. -/
theorem subscriptionsNotify : Obligations.SubscriptionsNotify := by
  unfold Obligations.SubscriptionsNotify
  refine ⟨fun q i s x o h hctx info hread htable hlog hform hnew hroom =>
      exec_subscribe h hctx info hread htable hlog hform hnew hroom,
    fun q items s x h hctx hread => exec_unsubscribe h hctx hread, ?bank, ?sub⟩
  case bank =>
    rintro sess busy s t x b o v u ht hsess hdue info rfl rfl
    rw [exec_notify ht hsess, makeNote_bank hdue info, Sess.id_of_sess? hsess]
  case sub =>
    rintro sess busy s t x w o u ht hsess hbank hdue info rfl
    rw [exec_notify ht hsess, makeNote_sub hbank hdue info, Sess.id_of_sess? hsess]

end Sys2Proof
end

section
/-! SUPPORT. Sessions and the host's windows: how a session opens and closes, and what a write of BAR0 or of a mailbox's
words does. -/
namespace Sys2Proof.Machine

/-! ### Sessions (R39, R61, R63, R372) -/

section Sessions
variable {a : Handshake} {s : State}

theorem exec_dtlsHandshake_admitted {c : Cred} {role : Nat} {row : Option Nat} (hserved : zoaServed s.toBlocks a.arrival = true)
    (hroom : s.zoaSessions.length < 32) (hcred : a.cred = some c) (hadmit : admitCred s.toBlocks c = .ok (role, row)) :
    exec (.dtlsHandshake a) s =
      .next (openSession (if isInband a.arrival then .inband else .dtls) role row a.arrival s) := by
  change execDtlsHandshake a s = _
  simp only [execDtlsHandshake, hserved, hcred, hadmit, decide_eq_false (Nat.not_le.mpr hroom), Bool.not_true,
    Bool.false_eq_true, if_false]

/-- No way carries ZOA in DECOMMISSIONED. -/
theorem life_of_zoaServed {b : Blocks} {w : Arrival} (h : zoaServed b w = true) : (b.life != 4) = true := by
  simp only [zoaServed, Bool.and_eq_true] at h
  obtain ⟨⟨⟨⟨_, hlife⟩, _⟩, _⟩, _⟩ := h
  exact hlife

theorem exec_dtlsHandshake_cleartext (hserved : zoaServed s.toBlocks a.arrival = true) (hroom : s.zoaSessions.length < 32)
    (hcred : a.cred = none) (hway : isInband a.arrival = false) (hlife : s.life ≠ 2) (henable : s.sc O.ZoaCleartextEnable = 1) :
    exec (.dtlsHandshake a) s = .next (openSession .cleartext 1 none a.arrival s) := by
  have hclear : cleartextOk s.toBlocks a.arrival = true := by
    simp [cleartextOk, hway, hlife, henable, life_of_zoaServed hserved]
  change execDtlsHandshake a s = _
  simp only [execDtlsHandshake, hserved, hcred, hclear, decide_eq_false (Nat.not_le.mpr hroom), Bool.not_true, Bool.or_self,
    Bool.false_eq_true, if_false]

theorem exec_sessionClose {sess : SessId} {x : Sess} (hsess : s.sess? sess = some x) :
    exec (.sessionClose sess) s = .next (closeSession sess s) := by
  change execSessionClose sess s = _
  simp only [execSessionClose, hsess]

theorem exec_zoaSessionIdleClose {n : Nat} {x : Sess} (hsess : s.sess? (.zoa n) = some x)
    (hdue : x.last + 600 * ticksPerS ≤ s.time.ticks) :
    exec (.zoaSessionIdleClose (.zoa n)) s = .next (closeSession (.zoa n) s) := by
  change execZoaSessionIdleClose (.zoa n) s = _
  simp only [execZoaSessionIdleClose, hsess, if_pos hdue]

theorem exec_zoaMessageDiscard {sess : SessId} {x : Sess} {msg : Bytes} (hsess : s.sess? sess = some x)
    (hreached : x.reached s.toBlocks = true) (hmsg : readMessage msg = none) (hcount : s.rd O.ZoaMalformed 0 0 < 2 ^ 64 - 1) :
    exec (.zoaMessageDiscard sess msg) s = .next (s.wr O.ZoaMalformed 0 0 (s.rd O.ZoaMalformed 0 0 + 1)) := by
  have hnext : s.rd O.ZoaMalformed 0 0 + 1 < 2 ^ 64 := by omega
  change execZoaMessageDiscard sess msg s = _
  simp only [execZoaMessageDiscard, hsess, Option.any_some, hreached, hmsg, Option.isNone_none, and_self, if_true,
    discardMessage, State.add64, if_pos hnext]

end Sessions

/-! ### BAR0 and the mailbox (R72 to R77) -/

section Windows
variable {s : State} {offset : Nat} {data : Bytes}

theorem exec_bar0Write_aligned (hserved : s.served = true) (hoff : offset < 0x800000) (hlen : data.length = 8)
    (halign : offset % 8 = 0) :
    exec (.bar0Write offset data) s = .next (barWrite (offset / 8) (fun o => fromWindow o (leNat data)) 0 s) := by
  have hsome : data.isEmpty = false := by
    cases data with
    | nil => cases hlen
    | cons => rfl
  change execBar0Write offset data s = _
  simp [execBar0Write, hserved, hsome, hlen, halign, Nat.not_le.mpr hoff]

theorem exec_bar0Write_partial (hserved : s.served = true) (hoff : offset < 0x800000) (hsome : 0 < data.length)
    (hpart : data.length < 8 ∨ data.length = 8 ∧ offset % 8 ≠ 0) :
    exec (.bar0Write offset data) s = .next ((countBarWrite s).sat32 O.BarPartialWrite 0 0 1) := by
  have hgo : ¬ ((!s.served) = true ∨ 0x800000 ≤ offset ∨ data.isEmpty = true ∨ 8 < data.length) := by
    rw [hserved, List.isEmpty_iff_length_eq_zero]
    simp only [Bool.not_true, Bool.false_eq_true, false_or]
    omega
  have hp : data.length ≠ 8 ∨ offset % 8 ≠ 0 := by omega
  change execBar0Write offset data s = _
  rw [execBar0Write, if_neg hgo, if_pos hp]

theorem updMbox_get? {k : Nat} {m : Mbox} {f : Mbox → Mbox} (h : s.mbox[k]? = some m) :
    (s.updMbox k f).mbox[k]? = some (f m) := by
  simp [State.updMbox, h]

theorem exec_mailboxGo {slot : Fin 4} {go length : BitVec 32} {writes : List (Nat × Bytes)} {m : Mbox} {r : Message}
    (hserved : s.served = true) (hgo : 2 ^ 31 ≤ go.toNat) (hseq : go.toNat % 65536 ≠ 0)
    (hslot : (bar4Writes writes s).mbox[slot.val]? = some m) (hfree : m.busy = none) (hmin : 16 ≤ length.toNat)
    (hmax : length.toNat ≤ 9000) (hread : readMessage (memRead m.reqBuf 0 length.toNat) = some r) :
    exec (.mailboxGo slot go length writes) s = .next (runMessage (.mailbox slot) r ((bar4Writes writes s).updMbox slot.val fun m =>
      { m with lastSeq := go.toNat % 65536, busy := some (go.toNat % 65536), done := false, reqLen := length.toNat
               hostOwns := false })) := by
  have hbusy : ¬ (go.toNat % 65536 = 0 ∨ (((bar4Writes writes s).mbox[slot.val]?).bind (·.busy)).isSome = true) := by
    simp [hslot, hfree, hseq]
  change execMailboxGo slot go length writes s = _
  simp only [execMailboxGo, hserved, Nat.not_lt.mpr hgo, if_neg hbusy, slotRequest, updMbox_get? hslot, hmin, hmax, and_self,
    if_true, Option.map_some, Option.getD_some, hread, Bool.not_true, Bool.false_eq_true, if_false]

theorem exec_mailboxNotifyPlace {slot : Fin 4} {m : Mbox} {x : Sess} {n : Note} {rest : List Note}
    (hslot : s.mbox[slot.val]? = some m) (hown : m.hostOwns = false) (hfree : m.busy = none)
    (hsess : s.sess? (.mailbox slot) = some x) (hqueue : x.sendq = n :: rest) :
    exec (.mailboxNotifyPlace slot) s = .next (placeInSlot slot.val 0 (noteBytes n)
      (((s.heard (.mailbox slot)).updSess (.mailbox slot) fun y => { y with sendq := rest }).emit (.note (.mailbox slot) n))) := by
  change execMailboxNotifyPlace slot s = _
  simp only [execMailboxNotifyPlace, hslot, hsess, Option.map_some, hqueue, hown, hfree, Option.isSome_none, Bool.false_eq_true,
    or_self, if_false]

end Windows

end Sys2Proof.Machine

namespace Sys2Proof
open Machine

/-- Settles O27: each clause is the equation of its command. -/
theorem sessionsAndWindowsServe : Obligations.SessionsAndWindowsServe := by
  unfold Obligations.SessionsAndWindowsServe
  refine ⟨⟨?_, fun s a hserved hroom hcred hway hlife henable =>
        exec_dtlsHandshake_cleartext hserved hroom hcred hway hlife henable,
      fun s sess x hsess => exec_sessionClose hsess, fun s n x hsess hdue => exec_zoaSessionIdleClose hsess hdue,
      fun s sess x msg hsess hreached hmsg hcount => exec_zoaMessageDiscard hsess hreached hmsg hcount⟩,
    fun s offset data hserved hoff hlen halign => exec_bar0Write_aligned hserved hoff hlen halign,
    fun s offset data hserved hoff hsome hpart => exec_bar0Write_partial hserved hoff hsome hpart, ?_, fun s slot => rfl,
    fun s slot m x n rest hslot hown hfree hsess hqueue => exec_mailboxNotifyPlace hslot hown hfree hsess hqueue⟩
  · rintro s a c role row kind hserved hroom hcred hadmit rfl
    exact exec_dtlsHandshake_admitted hserved hroom hcred hadmit
  · rintro s slot go length writes m r t hserved hgo hseq rfl hslot hfree hmin hmax hread
    exact exec_mailboxGo hserved hgo hseq hslot hfree hmin hmax hread

end Sys2Proof
end

section
/-! SUPPORT. Commits in time: an idle transaction, commits that waited too long, the accepted commit whose instant has come,
and the longest-waiting commit. A refusal leaves no accepted commit where there was none (`NoTimed.refuseCommit`). -/
namespace Sys2Proof.Machine

/-! ### No accepted timed commit (R51, R465) -/

/-- The session's transaction, if it has one, is not accepted for an instant. -/
abbrev Sess.NotAccepted (x : Sess) : Prop := ∀ t, x.txn = some t → t.accepted = false

/-- There is no accepted timed commit. -/
structure NoTimed (s : State) : Prop where
  sessions : ∀ y ∈ s.sessions, y.NotAccepted
  orphans : s.orphans = []

namespace NoTimed
variable {s : State}

theorem of_same {t : State} (h : NoTimed s) (hsess : t.sessions = s.sessions) (horph : t.orphans = s.orphans) : NoTimed t :=
  ⟨hsess ▸ h.sessions, horph.trans h.orphans⟩

theorem timed_eq_nil (h : NoTimed s) : s.timed = [] := by
  have hnone : ∀ x ∈ s.sessions, (x.txn.bind fun t =>
      if t.accepted then some (⟨actorOf s.toBlocks x 0x11 0, false, t⟩ : Timed) else none) = none := fun x hx => by
    cases htxn : x.txn with
    | none => rfl
    | some t =>
      rw [Option.bind_some, if_neg (by rw [h.sessions x hx t htxn]; exact Bool.false_ne_true)]
  rw [State.timed, h.orphans, List.filterMap_eq_nil_iff.mpr hnone]
  rfl

theorem updWhere (h : NoTimed s) (p : Sess → Bool) {f : Sess → Sess} (hf : ∀ y, y.NotAccepted → (f y).NotAccepted) :
    NoTimed { s with sessions := updWhere s.sessions p f } := by
  refine ⟨fun y hy => ?_, h.orphans⟩
  obtain ⟨x, hx, rfl⟩ := List.mem_map.mp hy
  split
  · exact hf x (h.sessions x hx)
  · exact h.sessions x hx

theorem updSess (h : NoTimed s) (id : SessId) {f : Sess → Sess} (hf : ∀ y, y.NotAccepted → (f y).NotAccepted) :
    NoTimed (s.updSess id f) :=
  h.updWhere _ hf

theorem heard (h : NoTimed s) (id : SessId) : NoTimed (s.heard id) := h.updSess id fun _ hy => hy

theorem wr (h : NoTimed s) (obj row fld v : Nat) : NoTimed (s.wr obj row fld v) := h.of_same rfl rfl

theorem sendMsix (h : NoTimed s) (v : Nat) : NoTimed (sendMsix v s) := by
  unfold Machine.sendMsix
  split
  · exact h.of_same rfl rfl
  · exact h.of_same rfl rfl

theorem routeAct (h : NoTimed s) (n : Nat) : NoTimed (routeAct n s) := by
  unfold Machine.routeAct
  dsimp only
  split
  · exact h.sendMsix _
  · exact h.updWhere _ fun _ hy => hy
  · exact h

theorem raise (h : NoTimed s) (n : Nat) : NoTimed (raise n s) := by
  unfold Machine.raise
  dsimp only
  have hcounted := (h.wr O.EventBanks (n / 32) F.EventBanks_Flags (s.rd O.EventBanks (n / 32) F.EventBanks_Flags ||| 2 ^ (n % 32))).wr
    O.EventSource n F.EventSource_Count
  split
  · exact (hcounted _).routeAct n
  · exact hcounted _

theorem placeInSlot (h : NoTimed s) (k seq : Nat) (data : Bytes) : NoTimed (placeInSlot k seq data s) :=
  have hplaced : NoTimed (s.updMbox k _) := h.of_same rfl rfl
  hplaced.raise (src 9 0)

theorem deliver (h : NoTimed s) (id : SessId) (r : Resp) : NoTimed (deliver id r s) := by
  have hsent : NoTimed ((s.heard id).emit (.resp id r)) := (h.heard id).of_same rfl rfl
  unfold Machine.deliver
  dsimp only
  split
  · split
    · exact hsent.placeInSlot _ _ _
    · exact hsent
  · exact hsent

theorem deliverN (id : SessId) (r : Resp) (n : Nat) (h : NoTimed s) : NoTimed (deliverN id r n s) := by
  induction n generalizing s with
  | zero => exact h
  | succ n ih => exact ih (h.deliver id r)

theorem respond (h : NoTimed s) (id : SessId) (op rid ctx : Nat) (small : Bool) (st : Status) (items : List RItem) :
    NoTimed (respond id op rid ctx small st items s) := by
  unfold Machine.respond
  dsimp only
  split
  · exact h
  · exact deliverN _ _ _ (h.updSess id fun _ hy => hy)

theorem replyWait (h : NoTimed s) (w : Wait) (st : Status) : NoTimed (replyWait w st s) := by
  unfold Machine.replyWait
  split
  · exact h.of_same rfl rfl
  · split
    · exact h
    · exact h.respond _ _ _ _ _ _ _

theorem refuseCommit (h : NoTimed s) (w : Wait) (st : Status) (obj row : Nat) : NoTimed (refuseCommit w st obj row s) := by
  unfold Machine.refuseCommit
  split
  · exact h.replyWait _ _
  · refine NoTimed.replyWait (h.updSess w.sess fun y _ t ht => ?_) _ _
    obtain ⟨u, _, rfl⟩ := Option.map_eq_some_iff.mp ht
    rfl

end NoTimed

/-! ### The events of commits (R53 to R55, R74, R136, R465) -/

section Events
variable {s : State} {w : Wait}

theorem exec_txnIdleTimeout {sess : SessId} {x : Sess} {t : Txn} (hsess : s.sess? sess = some x) (htxn : x.txn = some t)
    (hopen : t.st = .open_ ∨ t.st = .failed) (hidle : t.lastWrite + s.sc O.TxnIdleTimeout * ticksPerS ≤ s.time.ticks) :
    exec (.txnIdleTimeout sess) s = .next (abortTxn sess .ok s) := by
  change execTxnIdleTimeout sess s = _
  simp only [execTxnIdleTimeout, hsess, Option.bind_some, htxn, if_pos (And.intro hopen hidle)]

/-- The only waiting commit has waited too long. -/
theorem exec_txnCommitTimeout (hwaits : s.waits = [w]) (hdue : w.due ≤ s.time.ticks) (hnone : NoTimed s) :
    exec .txnCommitTimeout s = .next (drainBar (refuseCommit w .busy 0 0 { s with waits := [] })) := by
  have hended : NoTimed { s with waits := [] } := hnone.of_same rfl rfl
  have hlate := (hended.refuseCommit w .busy 0 0).timed_eq_nil
  have hover : s.waits.filter (fun w => decide (w.due ≤ s.time.ticks)) = [w] := by simp [hwaits, hdue]
  have hleft : s.waits.filter (fun v => v.order != w.order) = [] := by simp [hwaits]
  change execTxnCommitTimeout s = _
  simp only [execTxnCommitTimeout, hover, List.foldl_cons, List.foldl_nil, hleft, hlate, List.filter_nil]

theorem exec_timedCommitApply {t : Timed} (hfirst : firstTimed (s.timed.filter fun t => t.txn.st == .pending &&
      match t.txn.at_ with | some q => decide (q ≤ s.gridQ) | none => false) = some t) :
    exec .timedCommitApply s = .next (runTimed t s) := by
  change execTimedCommitApply s = _
  unfold execTimedCommitApply
  dsimp only
  split
  next hnone => cases hnone.symm.trans hfirst
  next u hsome =>
    cases hsome.symm.trans hfirst
    rfl

/-- Of the waits of a kind, `w` is the one with the least order. -/
theorem longest_waiting {k : WaitFor} (hmem : w ∈ s.waits) (hk : w.waitFor = k)
    (hfirst : ∀ u ∈ s.waits, u ≠ w → u.waitFor = k → w.order < u.order) :
    ((s.waits.filter fun u => u.waitFor == k).map (·.order)).min? = some w.order ∧
      (s.waits.filter fun u => u.waitFor == k).find? (fun u => u.order == w.order) = some w := by
  have hw : w ∈ s.waits.filter fun u => u.waitFor == k := List.mem_filter.mpr ⟨hmem, by simp [hk]⟩
  have hle : ∀ u ∈ s.waits.filter fun u => u.waitFor == k, u = w ∨ w.order < u.order := fun u hu => by
    obtain ⟨humem, huk⟩ := List.mem_filter.mp hu
    exact (em (u = w)).imp_right fun hne => hfirst u humem hne (by simpa using huk)
  constructor
  · refine List.min?_eq_some_iff.mpr ⟨List.mem_map_of_mem hw, fun n hn => ?_⟩
    obtain ⟨u, hu, rfl⟩ := List.mem_map.mp hn
    rcases hle u hu with rfl | hlt
    · exact Nat.le_refl _
    · exact Nat.le_of_lt hlt
  · cases hfind : (s.waits.filter fun u => u.waitFor == k).find? (fun u => u.order == w.order) with
    | none => exact absurd (List.find?_eq_none.mp hfind w hw) (by simp)
    | some u =>
      have horder : u.order = w.order := by simpa using List.find?_some hfind
      rcases hle u (List.mem_of_find?_eq_some hfind) with rfl | hlt
      · rfl
      · omega

theorem exec_waitingCommitApply (hfree : s.gensLive < 63) (hstep : s.time.stepReq = none) (hage : s.exact.ageWait = none)
    (hmem : w ∈ s.waits) (hgen : w.waitFor = .gen)
    (hfirst : ∀ u ∈ s.waits, u ≠ w → u.waitFor = .gen → w.order < u.order) :
    exec .waitingCommitApply s = .next (drainBar (retryWait w s)) := by
  obtain ⟨hmin, hfind⟩ := longest_waiting hmem hgen hfirst
  have hgo : ¬ (63 ≤ s.gensLive ∨ s.time.stepReq.isSome = true) := by
    simp [hstep, hfree]
  change execWaitingCommitApply s = _
  simp only [execWaitingCommitApply, if_neg hgo, hmin, hage, hfind, Option.any_none, Bool.false_eq_true, if_false]

theorem exec_parseBankFree (hfree : bankFree s.toBlocks = true)
    (htimed : firstTimed (s.timed.filter fun t => t.txn.st == .waiting) = none) (hmem : w ∈ s.waits) (hbank : w.waitFor = .bank)
    (hfirst : ∀ u ∈ s.waits, u ≠ w → u.waitFor = .bank → w.order < u.order) :
    exec .parseBankFree s = .next (drainBar (retryWait w s)) := by
  obtain ⟨hmin, hfind⟩ := longest_waiting hmem hbank hfirst
  change execParseBankFree s = _
  simp only [execParseBankFree, hfree, htimed, hmin, hfind, Bool.not_true, Bool.false_eq_true, if_false]

end Events

end Sys2Proof.Machine

namespace Sys2Proof
open Machine

/-- Settles O28: the equations of the five events; a refused commit is accepted no more, so none is late after it. -/
theorem commitsRunWhenDue : Obligations.CommitsRunWhenDue := by
  unfold Obligations.CommitsRunWhenDue
  exact ⟨fun s sess x t hsess htxn hopen hidle => exec_txnIdleTimeout hsess htxn hopen hidle,
    fun s w hwaits hdue horph hsess => exec_txnCommitTimeout hwaits hdue ⟨hsess, horph⟩,
    fun s t hfirst => exec_timedCommitApply hfirst,
    fun s w hfree hstep hage hmem hgen hfirst => exec_waitingCommitApply hfree hstep hage hmem hgen hfirst,
    fun s w hfree htimed hmem hbank hfirst => exec_parseBankFree hfree htimed hmem hbank hfirst⟩

end Sys2Proof
end

section
/-! SUPPORT. Longcase: the writes of a domain, by a session and by Bureau's servo. -/
namespace Sys2Proof.Machine

/-! ### Writes of a domain (R81, R85 to R87) -/

/-- What a write of a domain's object does, whoever the servo's owner is: the value stored where the object stores one, and
the object's effect. -/
def servoEffect (d : Dom) (objA n : Nat) (s : State) : State :=
  timeEffect ⟨domObj d objA, 0, [(0, n)]⟩ (storeCell s ⟨domObj d objA, 0, [(0, n)]⟩)

/-- The objects of domain A that the servo's owner writes (R86); those of domain B lie 0x10 above. -/
abbrev servoObjs : List Nat := [O.DomainAQualified, O.DomainATime, O.DomainAAdjust, O.DomainAIncrement]

/-- Each is a scalar outside Chest that a commit stores and acts on alone. -/
theorem servoObj_facts {d : Dom} {objA : Nat} (h : objA ∈ servoObjs) :
    (∃ o ∈ objInfo? (domObj d objA), isFe o = false ∧ o.fields = [] ∧ o.pers = 0) ∧ Ordinary (domObj d objA) ∧
      0x4000 ≤ domObj d objA ∧ domObj d objA < 0x8000 := by
  revert objA
  cases d <;> decide

/-- A row that Chest does not hold is stored without a record. -/
theorem stored_volatile {w : SW} {o : ObjInfo} (info : objInfo? w.obj = some o) (hpers : o.pers = 0)
    (plain : Ordinary w.obj) (s : State) : s.stored w = storeCell s ⟨w.obj, w.row, parts o w.fld w.val⟩ := by
  obtain ⟨hkeys, hclear⟩ := beside_nil (row := w.row) (l := parts o w.fld w.val) plain
  rw [State.stored, cell_eq o info]
  simp [journalCommit, persistent, info, hpers, hkeys, hclear]

/-- A granted write of a domain by a session. -/
theorem exec_domain_granted {c : Instr} {v : Via} {d : Dom} {objA n : Nat} {s : State} {x : Sess} {eff : State → State}
    (hobj : objA ∈ servoObjs) (hwrite : oneWrite c = some (v, ⟨domObj d objA, 0, 0, n⟩, 0))
    (h : Granted v ⟨domObj d objA, 0, 0, n⟩ 0 s x) (heff : ∀ r, servoEffect d objA n r = eff r) :
    exec c s = .next (wrote v ⟨domObj d objA, 0, 0, n⟩ 0 x eff s) := by
  obtain ⟨⟨o, info, fe, nf, hpers⟩, plain, htime⟩ := servoObj_facts (d := d) hobj
  refine exec_granted hwrite h info fe plain fun r => ?_
  rw [stored_volatile info hpers plain, cell_time htime, parts_of_no_fields nf]
  exact heff r

/-- A write of a domain by Bureau's servo while it runs and owns the domains, within the object's bounds (R86). -/
theorem servoWrite_firmware {d : Dom} {objA n : Nat} {val : Bool → Option Nat} {s : State} {o : ObjInfo}
    (hphase : 3 ≤ s.boot.phase) (hrecovery : s.boot.phase ≠ 9) (howner : s.sc O.ServoOwner = 0) (hval : val false = some n)
    (info : objInfo? (domObj d objA) = some o) (hok : valueOk s.toBlocks o 0 0 n (fun _ => 0) = true) :
    servoWrite .firmware (domObj d objA) val s = servoEffect d objA n s := by
  simp [servoWrite, servoEffect, hval, info, hok, hphase, hrecovery, howner]

/-- An object that a write does not store. -/
theorem storeCell_transient {c : WCell} {o : ObjInfo} (info : objInfo? c.obj = some o) (tr : transient o = true) (s : State) :
    storeCell s c = s := by
  simp [storeCell, info, tr]

/-- A scalar outside the forwarding engine. -/
theorem storeCell_scalar {obj n : Nat} {o : ObjInfo} (info : objInfo? obj = some o) (tr : transient o = false)
    (fe : isFe o = false) (hones : clearsOnes obj 0 = false) (s : State) : storeCell s ⟨obj, 0, [(0, n)]⟩ = s.ws obj n := by
  simp [storeCell, info, tr, fe, hones, State.ws]

section ServoEffect
variable (d : Dom) (n : Nat) (s : State)

theorem servoEffect_qualified : servoEffect d O.DomainAQualified n s = setQualified d n s := by
  obtain ⟨o, info, tr⟩ : ∃ o ∈ objInfo? (domObj d O.DomainAQualified), transient o = true := by cases d <;> decide
  rw [servoEffect, storeCell_transient info tr]
  cases d <;> rfl

theorem servoEffect_time : servoEffect d O.DomainATime n s =
    s.updDom d fun m => { m with setReq := some (n * unitsPerQuarter), lastServo := s.time.ticks } := by
  obtain ⟨o, info, tr⟩ : ∃ o ∈ objInfo? (domObj d O.DomainATime), transient o = true := by cases d <;> decide
  rw [servoEffect, storeCell_transient info tr]
  cases d <;> rfl

theorem servoEffect_adjust : servoEffect d O.DomainAAdjust n s =
    s.updDom d fun m => { m with adjReq := m.adjReq + durUnits n, lastServo := s.time.ticks } := by
  obtain ⟨o, info, tr⟩ : ∃ o ∈ objInfo? (domObj d O.DomainAAdjust), transient o = true := by cases d <;> decide
  rw [servoEffect, storeCell_transient info tr]
  cases d <;> rfl

theorem servoEffect_increment : servoEffect d O.DomainAIncrement n s =
    (s.ws (domObj d O.DomainAIncrement) n).updDom d fun m => { m with lastServo := s.time.ticks } := by
  obtain ⟨o, info, tr, fe⟩ : ∃ o ∈ objInfo? (domObj d O.DomainAIncrement), transient o = false ∧ isFe o = false := by
    cases d <;> decide
  have hones : clearsOnes (domObj d O.DomainAIncrement) 0 = false := by cases d <;> decide
  rw [servoEffect, storeCell_scalar info tr fe hones]
  cases d <;> rfl

end ServoEffect

/-- The signed value of a 64-bit word, as the model reads it. -/
theorem toSigned_toNat (y : BitVec 64) : toSigned 64 y.toNat = y.toInt := by
  have hy := y.isLt
  rw [BitVec.toInt_eq_toNat_cond, toSigned, Nat.mod_eq_of_lt hy]
  split <;> split <;> omega

/-! ### Bureau's servo (R86) -/

/-- The 0.25 ns count of a TIME80 value fits the ten bytes of its wire form. -/
theorem qOfTime80_lt {v : Nat} (hv : v < 2 ^ 80) (hok : time80Ok v = true) : qOfTime80 v < 2 ^ 80 := by
  have hns : v % 2 ^ 32 < 1000000000 := by simpa [time80Ok] using hok
  simp only [qOfTime80, quarterPerS]
  omega

section Firmware
variable {s : State} {d : Dom} (hphase : 3 ≤ s.boot.phase) (hrecovery : s.boot.phase ≠ 9) (howner : s.sc O.ServoOwner = 0)
include hphase hrecovery howner

theorem exec_domainQualify_firmware {y : BitVec 8} (hy : y.toNat ≤ 1) :
    exec (.domainQualify .firmware d y) s = .next (setQualified d y.toNat s) := by
  obtain ⟨o, info, nf, hwidth, hbnd, hnum⟩ : ∃ o ∈ objInfo? (domObj d O.DomainAQualified), o.fields = [] ∧ o.width = 1 ∧
    o.bnd = .any ∧ o.num = domObj d O.DomainAQualified := by cases d <;> decide
  have hrow : rowOk s.toBlocks (domObj d O.DomainAQualified) 0 (fun _ => y.toNat) = true := by cases d <;> rfl
  have hok : valueOk s.toBlocks o 0 0 y.toNat (fun _ => 0) = true := by
    simp [valueOk, nf, hwidth, hbnd, bndOk, hnum, hrow, hy, y.isLt]
  refine congrArg Host.Outcome.next ?_
  rw [servoWrite_firmware hphase hrecovery howner rfl info hok, servoEffect_qualified]

theorem exec_domainTimeSet_firmware {t : BitVec 80} (ht : time80Ok t.toNat = true) :
    exec (.domainTimeSet .firmware d t) s = .next (s.updDom d fun m =>
      { m with setReq := some (qOfTime80 t.toNat * unitsPerQuarter), lastServo := s.time.ticks }) := by
  obtain ⟨o, info, nf, hwidth, hbnd, htyp, hnum⟩ : ∃ o ∈ objInfo? (domObj d O.DomainATime), o.fields = [] ∧ o.width = 10 ∧
    o.bnd = .any ∧ o.rowTyp = 11 ∧ o.num = domObj d O.DomainATime := by cases d <;> decide
  have hrow : rowOk s.toBlocks (domObj d O.DomainATime) 0 (fun _ => qOfTime80 t.toNat) = true := by cases d <;> rfl
  have hfits := qOfTime80_lt t.isLt ht
  have hok : valueOk s.toBlocks o 0 0 (qOfTime80 t.toNat) (fun _ => 0) = true := by
    simpa [valueOk, nf, hwidth, hbnd, htyp, bndOk, hnum, hrow] using hfits
  refine congrArg Host.Outcome.next ?_
  rw [servoWrite_firmware hphase hrecovery howner (n := qOfTime80 t.toNat) (by simp [timeVal, ht]) info hok, servoEffect_time]

theorem exec_domainAdjust_firmware {y : BitVec 64} (hy : y.toInt.natAbs ≤ 1000000000 * 65536) :
    exec (.domainAdjust .firmware d y) s = .next (s.updDom d fun m =>
      { m with adjReq := m.adjReq + y.toInt * 2 ^ 26, lastServo := s.time.ticks }) := by
  obtain ⟨o, info, nf, hwidth, hbnd, htyp, hnum⟩ : ∃ o ∈ objInfo? (domObj d O.DomainAAdjust), o.fields = [] ∧ o.width = 8 ∧
    o.bnd = .srng (1000000000 * 65536) 64 ∧ o.rowTyp = 12 ∧ o.num = domObj d O.DomainAAdjust := by cases d <;> decide
  have hrow : rowOk s.toBlocks (domObj d O.DomainAAdjust) 0 (fun _ => y.toNat) = true := by cases d <;> rfl
  have hok : valueOk s.toBlocks o 0 0 y.toNat (fun _ => 0) = true := by
    simp [valueOk, nf, hwidth, hbnd, htyp, bndOk, hnum, hrow, toSigned_toNat, hy, y.isLt]
  refine congrArg Host.Outcome.next ?_
  rw [servoWrite_firmware hphase hrecovery howner rfl info hok, servoEffect_adjust, durUnits, toSigned_toNat]

theorem exec_domainIncrementWrite_firmware {y : BitVec 64} (hy : ((y.toNat : Int) - nominalInc).natAbs * 1000 ≤ nominalInc) :
    exec (.domainIncrementWrite .firmware d y) s = .next ((s.ws (domObj d O.DomainAIncrement) y.toNat).updDom d fun m =>
      { m with lastServo := s.time.ticks }) := by
  obtain ⟨o, info, nf, hwidth, hbnd, htyp, hnum⟩ : ∃ o ∈ objInfo? (domObj d O.DomainAIncrement), o.fields = [] ∧ o.width = 8 ∧
    o.bnd = .any ∧ o.rowTyp = 4 ∧ o.num = domObj d O.DomainAIncrement := by cases d <;> decide
  have hrow : rowOk s.toBlocks (domObj d O.DomainAIncrement) 0 (fun _ => y.toNat) = true := by
    cases d <;> exact decide_eq_true hy
  have hok : valueOk s.toBlocks o 0 0 y.toNat (fun _ => 0) = true := by
    simp [valueOk, nf, hwidth, hbnd, htyp, bndOk, hnum, hrow, y.isLt]
  refine congrArg Host.Outcome.next ?_
  rw [servoWrite_firmware hphase hrecovery howner rfl info hok, servoEffect_increment]

end Firmware

end Sys2Proof.Machine

namespace Sys2Proof
open Machine

/-- Settles O9: the effect of each object, which a session's commit has on the stored row. -/
theorem domainWritesTakeEffect : Obligations.DomainWritesTakeEffect := by
  unfold Obligations.DomainWritesTakeEffect
  refine ⟨fun v d y s x h => ?_, fun v d t q s x hval h => ?_, fun v d y s x h => ?_, fun v d y s x h => ?_⟩
  · exact exec_domain_granted (by decide) rfl h fun r => servoEffect_qualified d _ r
  · exact exec_domain_granted (by decide) (by simp only [oneWrite, hval, Option.map_some]) h fun r => servoEffect_time d _ r
  · refine exec_domain_granted (by decide) rfl h fun r => ?_
    rw [servoEffect_adjust, durUnits, toSigned_toNat]
  · exact exec_domain_granted (by decide) rfl h fun r => servoEffect_increment d _ r

/-- Settles O10: Bureau's servo has the effects of a session's write, for every value within the object's bounds. -/
theorem servoWritesTakeEffect : Obligations.ServoWritesTakeEffect := by
  unfold Obligations.ServoWritesTakeEffect
  intro s d hphase hrecovery howner
  exact ⟨fun y hy => exec_domainQualify_firmware hphase hrecovery howner hy,
    fun t ht => exec_domainTimeSet_firmware hphase hrecovery howner ht,
    fun y hy => exec_domainAdjust_firmware hphase hrecovery howner hy,
    fun y hy => exec_domainIncrementWrite_firmware hphase hrecovery howner hy⟩

end Sys2Proof
end

section
/-! SUPPORT. The block after reset; then Longcase: the tick, steering and steps of the grid, and the watch over the domains. -/
namespace Sys2Proof.Machine

/-! ### After reset (R81, R430, R442) -/

theorem reset_sound : State.reset.Sound where
  store := storeWf_nil
  home := storeWf_nil
  staging := Memory.wf_nil
  msix := Memory.wf_nil
  region := Memory.wf_nil
  buffers := fun m hm => by
    rw [List.eq_of_mem_replicate hm]
    exact Memory.wf_nil
  slots := rfl
  host := by decide

/-- Nothing is stored, so each field reads its default. -/
theorem reset_rd {obj row fld : Nat} (hrow : row < 2 ^ 32) (hfld : fld < 256) :
    State.reset.rd obj row fld = fieldDefault obj row fld :=
  keyDefault_skey hrow hfld

/-! ### The tick (R81, R87, R88) -/

theorem tickDom_time (inc : Nat) (d : DomRT) :
    ((tickDom inc d).time : Int) =
      ((match d.setReq with
        | some v => (v : Int)
        | none => (d.time : Int) + 4 * (inc : Int)) + d.adjReq) % counterMod :=
  Int.toNat_of_nonneg (Int.emod_nonneg _ (by decide))

theorem gridAdvance_of_qualified {b : Blocks} (h : b.qualified b.selected = true) :
    gridAdvance b = (roundDiv (4 * (b.sc (domObj b.selected O.DomainAIncrement) : Int) * (b.time.steerDen + b.time.steerNum))
      b.time.steerDen).toNat :=
  if_pos h

theorem gridAdvance_of_unqualified {b : Blocks} (h : b.qualified b.selected = false) :
    gridAdvance b = if b.time.st = .holdover then b.time.holdInc else 4 * b.sc O.GridFreeIncrement :=
  if_neg (by simp [h])

/-- The state after a tick. -/
def ticked (s : State) : State :=
  s.upTime fun t => { t with
    ticks := t.ticks + 1
    grid := (t.grid + gridAdvance s.toBlocks) % counterMod
    applied := t.applied + gridAdvance s.toBlocks
    domA := tickDom (s.sc O.DomainAIncrement) t.domA
    domB := tickDom (s.sc O.DomainBIncrement) t.domB }

theorem exec_longcaseTick {s : State} (h : s.boot.held = false) : exec .longcaseTick s = .next (ticked s) :=
  if_neg (by simp [h])

theorem ticked_dom (s : State) (d : Dom) :
    (ticked s).dom d = tickDom (s.sc (domObj d O.DomainAIncrement)) (s.dom d) := by
  cases d <;> rfl

/-! ### Steering, steps and the lock (R88 to R92) -/

/-- The divisor of the steering rate: the time constant in units of 2^-42 ns (R88). -/
abbrev steerDiv (b : Blocks) : Nat := b.sc O.GridSteerTimeConstant * 10 ^ 6 * 2 ^ 42

/-- The error asks for a rate beyond the slew limit (R88). -/
abbrev tooFast (b : Blocks) : Prop := b.sc O.GridSlewLimit * steerDiv b < b.gridErr.natAbs * 10 ^ 9

/-- Longcase once the microsecond's error is measured (R88 to R90). -/
def steeredTime (b : Blocks) (t : TimeRT) : TimeRT :=
  { t with
    err := b.gridErr
    steerNum :=
      if tooFast b then (if b.gridErr < 0 then -(b.sc O.GridSlewLimit : Int) else b.sc O.GridSlewLimit) else b.gridErr
    steerDen := if tooFast b then 10 ^ 9 else steerDiv b
    samples := (t.ticks, t.applied) :: lastSamples t.ticks t.samples
    below :=
      if t.st = .acquire ∧ b.qualified b.selected ∧ b.gridErr.natAbs < nsUnits (b.sc O.GridLockThreshold) then
        some (t.below.getD t.ticks)
      else none
    stepReq := if t.st = .acquire ∧ nsUnits (b.sc O.GridStepThreshold) < b.gridErr.natAbs then some .err else t.stepReq }

section Steered
variable {b : Blocks} {t : TimeRT}

theorem steeredTime_measures (b : Blocks) (t : TimeRT) :
    (steeredTime b t).err = b.gridErr ∧ (steeredTime b t).grid = t.grid := by
  rw [steeredTime]
  exact ⟨rfl, rfl⟩

theorem steeredTime_within (h : ¬ tooFast b) :
    (steeredTime b t).steerNum = b.gridErr ∧ (steeredTime b t).steerDen = steerDiv b := by
  rw [steeredTime]
  exact ⟨if_neg h, if_neg h⟩

theorem steeredTime_clamped (h : tooFast b) :
    (steeredTime b t).steerDen = 10 ^ 9 ∧
      (steeredTime b t).steerNum = if b.gridErr < 0 then -(b.sc O.GridSlewLimit : Int) else b.sc O.GridSlewLimit := by
  rw [steeredTime]
  exact ⟨if_pos h, if_pos h⟩

theorem steeredTime_stepReq : (steeredTime b t).stepReq =
    if t.st = .acquire ∧ nsUnits (b.sc O.GridStepThreshold) < b.gridErr.natAbs then some .err else t.stepReq := by
  rw [steeredTime]

theorem steeredTime_below : (steeredTime b t).below =
    if t.st = .acquire ∧ b.qualified b.selected ∧ b.gridErr.natAbs < nsUnits (b.sc O.GridLockThreshold) then
      some (t.below.getD t.ticks)
    else none := by
  rw [steeredTime]

end Steered

theorem exec_gridSteerUpdate (s : State) : exec .gridSteerUpdate s = .next (s.upTime (steeredTime s.toBlocks)) := by
  change execGridSteerUpdate s = _
  rw [execGridSteerUpdate, State.upTime, steeredTime]
  cases s.time.below <;> rfl

section Steering
variable {s : State}

@[simp] theorem markStep_time (s : State) : (markStep s).time = s.time :=
  List.foldlRecOn _ _ (motive := fun t : State => t.time = s.time) rfl fun _ ht _ _ => ht

@[simp] theorem markStep_gen (s : State) : (markStep s).gen = s.gen :=
  List.foldlRecOn _ _ (motive := fun t : State => t.gen = s.gen) rfl fun _ ht _ _ => ht

@[simp] theorem meshStepped_time (d : Int) (s : State) : (meshStepped d s).time = s.time := by
  unfold meshStepped
  split
  · rfl
  · split
    · rfl
    · exact markStep_time _

@[simp] theorem meshStepped_gen (d : Int) (s : State) : (meshStepped d s).gen = s.gen := by
  unfold meshStepped
  split
  · rfl
  · split
    · rfl
    · exact markStep_gen _

@[simp] theorem dumpsAfterStep_time (s : State) : (dumpsAfterStep s).time = s.time :=
  List.foldlRecOn _ _ (motive := fun t : State => t.time = s.time) rfl fun _ ht _ _ => ht

@[simp] theorem dumpsAfterStep_gen (s : State) : (dumpsAfterStep s).gen = s.gen :=
  List.foldlRecOn _ _ (motive := fun t : State => t.gen = s.gen) rfl fun _ ht _ _ => ht

@[simp] theorem triggersAfterStep_grid (s : State) : (triggersAfterStep s).time.grid = s.time.grid := rfl

@[simp] theorem triggersAfterStep_gen (s : State) : (triggersAfterStep s).gen = s.gen := rfl

/-- A step moves the grid by its size. -/
theorem stepGrid_grid (size : Int) (s : State) :
    ((stepGrid size s).time.grid : Int) = (s.time.grid + size) % counterMod := by
  unfold stepGrid
  dsimp only
  rw [dumpsAfterStep_time, triggersAfterStep_grid, meshStepped_time]
  exact Int.toNat_of_nonneg (Int.emod_nonneg _ (by decide))

/-- A step opens a generation (R91). -/
theorem stepGrid_gen (size : Int) (s : State) : (stepGrid size s).gen.cur = s.gen.cur + 1 := by
  unfold stepGrid
  dsimp only
  rw [dumpsAfterStep_gen, triggersAfterStep_gen, meshStepped_gen]
  rfl

theorem exec_gridStep_err (hreq : s.time.stepReq = some .err) (hfree : s.gensLive < 63) (hst : s.time.st = .acquire) :
    exec .gridStep s = .next (stepGrid s.gridErr s) := by
  change execGridStep s = _
  simp only [execGridStep, hreq, if_neg (Nat.not_le.mpr hfree), hst, if_true]

theorem exec_gridStep_set {n : Nat} (hreq : s.time.stepReq = some (.set n)) (hfree : s.gensLive < 63) (hst : s.time.st = .free) :
    exec .gridStep s = .next (stepGrid ((n : Int) - s.time.grid) s) := by
  change execGridStep s = _
  simp only [execGridStep, hreq, if_neg (Nat.not_le.mpr hfree), hst, if_true]

/-- Outside FREE and ACQUIRE the grid does not step (R90). -/
theorem exec_gridStep_grid_same {t : State} (hst : s.time.st = .locked ∨ s.time.st = .holdover)
    (h : exec .gridStep s = .next t) : t.time.grid = s.time.grid := by
  have hfree : s.time.st ≠ .free := by rcases hst with h | h <;> simp [h]
  have hacq : s.time.st ≠ .acquire := by rcases hst with h | h <;> simp [h]
  change execGridStep s = _ at h
  simp only [execGridStep, if_neg hfree, if_neg hacq] at h
  split at h
  · cases h
    rfl
  · split at h
    · cases h
      rfl
    · split at h <;> (cases h; rfl)

theorem exec_gridLock {t0 : Nat} (hst : s.time.st = .acquire) (hbelow : s.time.below = some t0)
    (hqual : s.qualified s.selected = true) (hheld : t0 + s.sc O.GridLockHold * ticksPerMs ≤ s.time.ticks) :
    exec .gridLock s = .next (enterGrid .locked s) := by
  change execGridLock s = _
  simp only [execGridLock, hst, hbelow, hqual, hheld, and_self, if_true]

end Steering

/-! ### The watch over the domains (R83 to R85, R92, R93) -/

section Watched
variable {s : State} {d : Dom}

/-- Domain `d`, the selected one, is lost, and the other takes over. -/
theorem selectedLost_switches (hsel : d = s.selected) (hother : s.qualified (otherDom d) = true)
    (hauto : s.flag O.GridAutoSwitch 0 0 = true) :
    selectedLost s = raise (src 1 3) (s.ws O.GridSource (match otherDom d with | .a => 0 | .b => 1)) := by
  subst hsel
  exact if_pos (by simp [hother, hauto])

theorem selectedLost_falls (hno : s.qualified (otherDom s.selected) = false ∨ s.flag O.GridAutoSwitch 0 0 = false) :
    (s.time.st = .locked → selectedLost s = enterGrid .holdover s) ∧
      (s.time.st = .acquire → selectedLost s = enterGrid .free s) := by
  have hstay : ¬ (s.qualified (otherDom s.selected) && s.flag O.GridAutoSwitch 0 0) = true := by
    rcases hno with h | h <;> simp [h]
  constructor
  all_goals
    intro hst
    simp only [selectedLost, if_neg hstay, hst]

/-- The loss of a domain on record: no longer qualified, counted, raised. -/
def unqualified (d : Dom) (s : State) : State :=
  raise (match d with | .a => src 1 1 | .b => src 1 2)
    ((s.ws (domObj d O.DomainAQualified) 0).sat32 (domObj d O.DomainASourceLoss) 0 0 1)

theorem loseDomain_eq (d : Dom) (s : State) :
    loseDomain d s = if d = (unqualified d s).selected then selectedLost (unqualified d s) else unqualified d s := rfl

theorem exec_domainSourceLoss (hqual : s.qualified d = true)
    (hloss : lossHolds s.toBlocks d (meshSource s.toBlocks d) = true) :
    exec (.domainSourceLoss d) s = .next (loseDomain d s) := by
  change execDomainSourceLoss d s = _
  simp only [execDomainSourceLoss, hqual, hloss, Bool.and_self, if_true]

theorem exec_domainOffsetUpdate (hmesh : s.sc (domObj d O.DomainASource) = 2) (hsome : 0 < (s.dom d).meshCount) :
    exec (.domainOffsetUpdate d) s = .next ((s.ws (domObj d O.DomainAOffset)
      (satDur64 (roundDiv (s.dom d).meshSum ((s.dom d).meshCount * 2 ^ 26) +
        toSigned 64 (s.sc (domObj d O.DomainAAsymmetry))))).updDom d fun r => { r with meshSum := 0, meshCount := 0 }) :=
  if_pos ⟨hmesh, hsome⟩

theorem exec_domainDisagreementUpdate (ha : s.qualified .a = true) (hb : s.qualified .b = true) {n : Int}
    (hn : n = (s.time.domB.time : Int) - s.time.domA.time) :
    exec .domainDisagreementUpdate s = .next (raiseIf (n.natAbs > nsUnits (s.sc O.DomainDisagreeLimit)) (src 1 4)
      (s.ws O.DomainDisagreement (durOfUnits n))) := by
  have hlimit : (s.ws O.DomainDisagreement (durOfUnits n)).sc O.DomainDisagreeLimit = s.sc O.DomainDisagreeLimit :=
    rd_wr_of_obj_ne s _ (by decide)
  change execDomainDisagreementUpdate s = _
  simp only [execDomainDisagreementUpdate, ha, hb, Bool.and_self, if_true, ← hn, hlimit]

end Watched

end Sys2Proof.Machine

namespace Sys2Proof
open Machine

/-- Settles O2: no field is stored, so each reads its default. -/
theorem resetLeavesDefaults : Obligations.ResetLeavesDefaults := by
  unfold Obligations.ResetLeavesDefaults
  exact ⟨reset_sound, rfl, rfl, rfl, rfl, rfl, rfl, rfl, by decide, by decide, fun obj row fld hrow hfld => reset_rd hrow hfld⟩

/-- Settles O41: the counters after a tick. -/
theorem ticksAdvanceTheCounters : Obligations.TicksAdvanceTheCounters := by
  unfold Obligations.TicksAdvanceTheCounters
  intro s hrun
  refine ⟨ticked s, exec_longcaseTick hrun, rfl, rfl, rfl, fun d => ?_, fun hqual => ?_, fun hqual => ?_⟩
  · rw [ticked_dom]
    exact ⟨rfl, rfl, tickDom_time _ _⟩
  · rw [← gridAdvance_of_qualified hqual]
    rfl
  · rw [← gridAdvance_of_unqualified hqual]
    rfl

/-- Settles O42: each field of what steering measures is one choice; a step and the lock are events of their own. -/
theorem gridIsSteeredAndSteps : Obligations.GridIsSteeredAndSteps := by
  unfold Obligations.GridIsSteeredAndSteps
  refine ⟨?steered, ?error, ?set, ?never, ?lock⟩
  case steered =>
    rintro s _ _ _ rfl rfl rfl
    obtain ⟨herr, hgrid⟩ := steeredTime_measures s.toBlocks s.time
    refine ⟨_, exec_gridSteerUpdate s, ?_⟩
    rw [State.upTime_store, State.upTime_time, steeredTime_below, steeredTime_stepReq]
    refine ⟨herr, rfl, hgrid, fun hslow => ?_, fun hfast => ?_, fun hacq hfar => ?_, fun hacq hqual hnear hnone => ?_,
      fun hacq hqual => ?_, fun hacq => ?_⟩
    · exact steeredTime_within (Nat.not_lt.mpr hslow)
    · exact steeredTime_clamped hfast
    · exact if_pos ⟨hacq, hfar⟩
    · rw [if_pos ⟨hacq, hqual, hnear⟩, hnone, Option.getD_none]
    · exact if_neg fun h => Bool.false_ne_true (hqual.symm.trans h.2.1)
    · exact ⟨if_neg fun h => hacq h.1, if_neg fun h => hacq h.1⟩
  case error =>
    intro s hreq hfree hst
    exact ⟨exec_gridStep_err hreq hfree hst, stepGrid_gen _ s, stepGrid_grid _ s⟩
  case set =>
    intro s n hreq hfree hst
    refine ⟨exec_gridStep_set hreq hfree hst, ?_⟩
    rw [stepGrid_grid, add_sub_cancel]
  case never =>
    intro s r t hst _ hexec
    exact exec_gridStep_grid_same hst hexec
  case lock =>
    intro s t0 hst hbelow hqual hheld
    exact exec_gridLock hst hbelow hqual hheld

/-- Settles O43: a loss goes on record and then, for the selected domain, switches the source or lets the grid fall. -/
theorem domainsAreWatched : Obligations.DomainsAreWatched := by
  unfold Obligations.DomainsAreWatched
  refine ⟨⟨fun s d hqual hloss => exec_domainSourceLoss hqual hloss, ?lost⟩, ?offset, ?disagree⟩
  case lost =>
    rintro s d t (rfl : t = unqualified d s)
    refine ⟨fun hd => if_neg hd, fun hd hother hauto => ?_, fun hd hno => ?_⟩
    · exact (if_pos hd).trans (selectedLost_switches hd hother hauto)
    · rw [loseDomain_eq, if_pos hd]
      exact selectedLost_falls (hd ▸ hno)
  case offset =>
    rintro s d _ hmesh hsome rfl
    exact exec_domainOffsetUpdate hmesh hsome
  case disagree =>
    intro s n ha hb hn
    rw [exec_domainDisagreementUpdate ha hb hn]
    exact ⟨fun hle => by simp [raiseIf, hle], fun hgt => by simp [raiseIf, hgt]⟩

end Sys2Proof
end

section
/-! SUPPORT. Longcase: captured edges, and the pulses that are given. -/
namespace Sys2Proof.Machine

/-! ### Captured edges (R82, R83, R101) -/

section Edges
variable {s : State} {rising : Bool} {edge : PulseEdge}

theorem edgeLogged_of_row {b : Blocks} {input : Nat} (hon : b.flag O.TimeCaptureConfig input F.TimeCaptureConfig_Enable = true)
    (hedge : if rising then b.rd O.TimeCaptureConfig input F.TimeCaptureConfig_Edge % 2 = 1
      else b.rd O.TimeCaptureConfig input F.TimeCaptureConfig_Edge / 2 = 1) : edgeLogged b input rising = true := by
  cases rising
  · simpa [edgeLogged, hon] using hedge
  · simpa [edgeLogged, hon] using hedge

theorem edgeSoon_of_last {t : TimeRT} {input : Nat} {e : Nat × Nat} (hlast : (t.capLast.find? fun e => e.1 == input) = some e)
    (hsoon : t.ticks < e.2 + ticksPerUs) : edgeSoon t input = true := by
  rw [edgeSoon, hlast]
  exact decide_eq_true hsoon

theorem logEdge_of_room {input phase : Nat} (h : s.time.capSeq < s.time.capRead + 4096) :
    logEdge input rising phase s = raise (src 1 7) (s.upTime fun t =>
      { t with capLog := (t.capSeq, capEntry s.toBlocks input rising phase) :: t.capLog.take 4095, capSeq := t.capSeq + 1 }) :=
  if_neg (Nat.not_le.mpr h)

theorem logEdge_of_full {input phase : Nat} (h : s.time.capRead + 4096 ≤ s.time.capSeq) :
    logEdge input rising phase s = edgeLost s :=
  if_pos h

/-- What an entry shows does not depend on which edges came before. -/
theorem capEntry_noteEdge (last input phase : Nat) :
    capEntry (noteEdge last s).toBlocks input rising phase = capEntry s.toBlocks input rising phase := rfl

section Tcap
variable {input : Fin 8}

theorem exec_timeCaptureEdge_ignored (h : edge.width < 10 ∨ edgeLogged s.toBlocks input.val rising = false) :
    exec (.timeCaptureEdge input rising edge) s = .next s :=
  if_pos (h.imp_right fun hlog => by rw [hlog]; rfl)

variable (hwidth : 10 ≤ edge.width) (hlog : edgeLogged s.toBlocks input.val rising = true)
include hwidth hlog

theorem exec_timeCaptureEdge_logged :
    exec (.timeCaptureEdge input rising edge) s = .next
      (if edgeSoon s.time input.val then edgeLost s else logEdge input.val rising edge.phase.val (noteEdge input.val s)) := by
  have hseen : ¬ (edge.width < 10 ∨ (!edgeLogged s.toBlocks input.val rising) = true) := by
    simp [hlog, hwidth]
  change execTimeCaptureEdge input rising edge s = _
  rw [execTimeCaptureEdge, if_neg hseen]
  split <;> rfl

end Tcap

theorem exec_ppsInEdge_ignored (h : edge.width < 10 ∨ (rising = false ∧ edgeLogged s.toBlocks 8 false = false)) :
    exec (.ppsInEdge rising edge) s = .next s := by
  refine if_pos (h.imp_right fun hlow => ?_)
  obtain ⟨rfl, hlog⟩ := hlow
  rw [hlog]
  rfl

/-- The domains on PPS once a rising edge has come; a falling one feeds none. -/
def ppsFed (rising : Bool) (phase : Nat) (s : State) : State :=
  if rising then ppsDomain .b phase (ppsDomain .a phase (noteEdge 8 s)) else noteEdge 8 s

theorem exec_ppsInEdge (hwidth : 10 ≤ edge.width) (hseen : rising = true ∨ edgeLogged s.toBlocks 8 rising = true) :
    exec (.ppsInEdge rising edge) s = .next (if edgeSoon s.time 8 then edgeLost s
      else if edgeLogged s.toBlocks 8 rising then logEdge 8 rising edge.phase.val (ppsFed rising edge.phase.val s)
      else ppsFed rising edge.phase.val s) := by
  have hgo : ¬ (edge.width < 10 ∨ (!rising && !edgeLogged s.toBlocks 8 rising) = true) := by
    rcases hseen with h | h <;> simp [h, hwidth]
  change execPpsInEdge rising edge s = _
  simp only [execPpsInEdge, if_neg hgo]
  split <;> rfl

end Edges

/-! ### Triggers and PPS_OUT (R94, R99, R102) -/

section Pulses
variable {s : State} {row : Fin 12} {t : TrigRT}

/-- A row's instant gives a pulse: the grid runs, or the row does not require it. -/
theorem trigger_lit (h : s.gridRuns = true ∨ s.rd O.TimeTrigger row.val F.TimeTrigger_RequireLock = 0) :
    (s.gridRuns || s.rd O.TimeTrigger row.val F.TimeTrigger_RequireLock == 0) = true := by
  simpa using h

theorem exec_triggerPulse_idle (hrow : (s.time.trig.find? fun t => t.row == row.val) = none) :
    exec (.triggerPulse row) s = .next s := by
  change execTriggerPulse row s = _
  simp only [execTriggerPulse, hrow]

variable (hrow : (s.time.trig.find? fun t => t.row == row.val) = some t)
include hrow

theorem exec_triggerPulse_early (hearly : s.gridQ < edgeAt t.next) : exec (.triggerPulse row) s = .next s := by
  change execTriggerPulse row s = _
  simp only [execTriggerPulse, hrow, if_pos hearly]

variable (hcome : edgeAt t.next ≤ s.gridQ)
include hcome

theorem exec_triggerPulse_dark (hstop : s.gridRuns = false)
    (hneed : s.rd O.TimeTrigger row.val F.TimeTrigger_RequireLock ≠ 0) :
    exec (.triggerPulse row) s = .next (triggerAdvance t false s) := by
  have hdark : (s.gridRuns || s.rd O.TimeTrigger row.val F.TimeTrigger_RequireLock == 0) = false := by simp [hstop, hneed]
  change execTriggerPulse row s = _
  simp only [execTriggerPulse, hrow, if_neg (Nat.not_lt.mpr hcome), hdark, Bool.not_false, if_true]

variable (hlit : s.gridRuns = true ∨ s.rd O.TimeTrigger row.val F.TimeTrigger_RequireLock = 0)
include hlit

theorem exec_triggerPulse_pin (hpin : row.val < 8) :
    exec (.triggerPulse row) s = .next ((triggerAdvance t true s).emit (.pulse row.val (edgeAt t.next)
      (edgeAt (t.next + s.rd O.TimeTrigger row.val F.TimeTrigger_Width) - edgeAt t.next)
      (s.rd O.TimeTrigger row.val F.TimeTrigger_Polarity == 0))) := by
  change execTriggerPulse row s = _
  simp only [execTriggerPulse, hrow, if_neg (Nat.not_lt.mpr hcome), trigger_lit hlit, if_neg (Nat.not_le.mpr hpin),
    Bool.not_true, Bool.false_eq_true, if_false]

theorem exec_triggerPulse_sequence (hside : 8 ≤ row.val) :
    exec (.triggerPulse row) s = .next (sideTrigger (row.val - 8) (edgeAt t.next) (triggerAdvance t true s)) := by
  change execTriggerPulse row s = _
  simp only [execTriggerPulse, hrow, if_neg (Nat.not_lt.mpr hcome), trigger_lit hlit, if_pos hside, Bool.not_true,
    Bool.false_eq_true, if_false]

end Pulses

section PpsOut
variable {s : State} {u adv : Nat} {sec? : Option Nat}
  (hscale : scaleNow s.toBlocks (s.rd O.PpsOutConfig 0 F.PpsOutConfig_Timescale) = (u, adv))
  (hsec : sec? = wholeSecond u adv (toSigned 64 (s.sc O.PpsOutOffset)))
include hscale hsec

theorem exec_ppsOutPulse {sec : Nat} (hat : sec? = some sec) (hlit : ppsLit s.toBlocks = true) (hrun : 0 < s.time.ticks)
    (honce : s.time.ppsLast ≠ some s.time.ticks) :
    exec .ppsOutPulse s = .next ((s.upTime fun t => { t with ppsLast := some t.ticks }).emit
      (.pps sec (s.rd O.PpsOutConfig 0 F.PpsOutConfig_Width))) := by
  change execPpsOutPulse s = _
  simp only [execPpsOutPulse, hscale, ← hsec, hat]
  exact if_pos ⟨hlit, hrun, honce⟩

theorem exec_ppsOutPulse_none (h : sec? = none ∨ ppsLit s.toBlocks = false ∨ s.time.ppsLast = some s.time.ticks) :
    exec .ppsOutPulse s = .next s := by
  change execPpsOutPulse s = _
  simp only [execPpsOutPulse, hscale, ← hsec]
  cases sec? with
  | none => rfl
  | some sec =>
    refine if_neg fun hgo => ?_
    obtain ⟨hlit, -, honce⟩ := hgo
    rcases h with h | h | h
    · cases h
    · exact Bool.false_ne_true (h.symm.trans hlit)
    · exact honce h

end PpsOut

end Sys2Proof.Machine

namespace Sys2Proof
open Machine

/-- Settles O44: the equations of the four events, one for each case of their conditions. -/
theorem edgesAndPulses : Obligations.EdgesAndPulses := by
  unfold Obligations.EdgesAndPulses
  refine ⟨⟨?tcap, ?ppsIn⟩, ?trigger, fun s row hrow => exec_triggerPulse_idle hrow, ?ppsOut⟩
  case tcap =>
    refine fun s input rising phase width => ⟨exec_timeCaptureEdge_ignored (edge := ⟨phase, width⟩), fun hwidth hon hedge => ?_⟩
    have hexec := exec_timeCaptureEdge_logged (edge := ⟨phase, width⟩) hwidth (edgeLogged_of_row hon hedge)
    refine ⟨fun hnew hroom => ?_, fun hnew hfull => ?_, fun e hlast hsoon => ?_⟩
    · rw [hexec, hnew, if_neg Bool.false_ne_true, logEdge_of_room (s := noteEdge input.val s) hroom, capEntry_noteEdge]
      rfl
    · rw [hexec, hnew, if_neg Bool.false_ne_true, logEdge_of_full (s := noteEdge input.val s) hfull, edgeLost]
    · rw [hexec, edgeSoon_of_last hlast hsoon, if_pos rfl, edgeLost]
  case ppsIn =>
    rintro s rising phase width u (rfl : u = ppsFed rising phase.val s)
    refine ⟨exec_ppsInEdge_ignored (edge := ⟨phase, width⟩), fun hwidth hseen => ?_⟩
    rw [exec_ppsInEdge (edge := ⟨phase, width⟩) hwidth hseen]
    refine ⟨fun hsoon => ?_, fun hnew hlog => ?_, fun hnew hlog => ?_⟩
    · rw [hsoon, if_pos rfl, edgeLost]
    · rw [hnew, if_neg Bool.false_ne_true, if_pos hlog]
    · rw [hnew, hlog, if_neg Bool.false_ne_true, if_neg Bool.false_ne_true]
  case trigger =>
    intro s row t hrow
    exact ⟨exec_triggerPulse_early hrow, fun hcome hlit => ⟨exec_triggerPulse_pin hrow hcome hlit,
      exec_triggerPulse_sequence hrow hcome hlit⟩, exec_triggerPulse_dark hrow⟩
  case ppsOut =>
    intro s u adv sec? hscale hsec
    refine ⟨fun sec hat hon hgrid hrun honce => ?_, exec_ppsOutPulse_none hscale hsec⟩
    have hlit : ppsLit s.toBlocks = true := by
      rcases hgrid with h | h <;> simp [ppsLit, hon, h]
    exact exec_ppsOutPulse hscale hsec hat hlit hrun honce

end Sys2Proof
end

section
/-! SUPPORT. The egress pipeline: what becomes of the packet first on a link to the forwarding die. -/
namespace Sys2Proof.Machine

/-! ### The packet first on a link (R96, R191, R194 to R199, R206) -/

/-- The packets that cross on a link to the forwarding die. -/
abbrev crossingOn (link : Fin 2) (s : State) : List Sel := if link.val = 0 then s.fe.toFe0 else s.fe.toFe1

/-- The state with the packets left on a link. -/
abbrev leftOn (link : Fin 2) (rest : List Sel) (s : State) : State :=
  s.upFe fun f => if link.val = 0 then { f with toFe0 := rest } else { f with toFe1 := rest }

/-- What the packet's operations know of it, with its departure stamped `stamp` (R96). -/
abbrev editCtx (c : Sel) (marks : List Nat) (stamp : Nat) : EditCtx :=
  ⟨c.pkt.gen, marks, c.pkt.hdr.colour, c.pkt.hdr.srcPort, c.port,
    toSigned 64 ((stamp + 2 ^ 64 - c.pkt.hdr.stamp % 2 ^ 64) % 2 ^ 64) * 2 ^ 14⟩

/-- The packet's bytes without its frame check sequence, before the first operation. -/
abbrev unedited (c : Sel) : Editing := Editing.start (c.pkt.data.take (c.pkt.data.length - 4))

/-- The operations whose anchor the packet misses, counted and raised (R191). -/
abbrev missedNoted (e : Editing) (t : State) : State :=
  raiseN e.missing (src 3 1) (t.add64 O.EditAnchorMissing 0 0 e.missing)

section Egress
variable {s u : State} {link : Fin 2} {phase : Fin 5} {c : Sel} {rest : List Sel}
  (htraffic : s.traffic = true) (hlink : crossingOn link s = c :: rest) (hu : u = leftOn link rest s)
include htraffic hlink hu

theorem exec_egressProcess_pdelay (hkept : pdelayKept u.toBlocks c.port c.pkt = true) :
    exec (.egressProcess link phase) s =
      .next (if u.sc O.ServoOwner = 0 then u else stagePunt (c.pkt.punted u.toBlocks 11) u) := by
  subst hu
  change execEgressProcess link phase s = _
  simp only [execEgressProcess, htraffic, hlink, hkept, Bool.not_true, Bool.false_eq_true, if_false, if_true]

variable (hpass : pdelayKept u.toBlocks c.port c.pkt = false) {ops marks hits : List Nat}
  (hops : egressOps u.toBlocks c.pkt = (ops, marks, hits)) {stamp : Nat}
  (hstamp : stamp = departureStamp u.toBlocks c.port phase.val) {e : Editing} {t : State}
  (hedit : ops.foldl (editStep (editCtx c marks stamp)) (unedited c, u) = (e, t))
include hpass hops hstamp hedit

theorem exec_egressProcess_dropped {code : Nat} (hstop : e.stop = some code) :
    exec (.egressProcess link phase) s = .next (recordDrop code c.pkt (missedNoted e t)) := by
  subst hu hstamp
  change execEgressProcess link phase s = _
  simp only [execEgressProcess, htraffic, hlink, hpass, hops, hedit, hstop, Bool.not_true, Bool.false_eq_true, if_false]

theorem exec_egressProcess_leaves (hstop : e.stop = none) :
    exec (.egressProcess link phase) s = .next (leave c.port stamp (servoStamp u.toBlocks c.port phase.val
      (toSigned 16 (u.rd O.PortMeasure c.port F.PortMeasure_TxAdjust)) e.cur) e.cur hits c.pkt (missedNoted e t)) := by
  subst hu hstamp
  change execEgressProcess link phase s = _
  simp only [execEgressProcess, htraffic, hlink, hpass, hops, hedit, hstop, Bool.not_true, Bool.false_eq_true, if_false]

end Egress

end Sys2Proof.Machine

namespace Sys2Proof
open Machine

/-- Settles O31: a Pdelay message is kept, and any other packet is dropped or leaves, as its operations end. -/
theorem egressEditsAndSends : Obligations.EgressEditsAndSends := by
  unfold Obligations.EgressEditsAndSends
  intro s link phase c rest u htraffic hlink hu
  refine ⟨exec_egressProcess_pdelay htraffic hlink hu, fun hpass ops marks hits stamp e t hops hstamp hedit => ?_⟩
  cases hstop : e.stop with
  | some code => exact exec_egressProcess_dropped htraffic hlink hu hpass hops hstamp hedit hstop
  | none => exact exec_egressProcess_leaves htraffic hlink hu hpass hops hstamp hedit hstop

end Sys2Proof
end

section
/-! SUPPORT. What an occurrence of an event leaves as it was, and what a table reads where a value was written that is no
default. -/
namespace Sys2Proof

theorem Tbl.get_put_of_ne_default {β : Type} [DecidableEq β] {d v : β} (hv : v ≠ d) (i : Nat) :
    ∀ t : Tbl β, Tbl.get d (Tbl.put d i v t) i = v
  | [] => by simp [Tbl.put, Tbl.get, hv]
  | (k, w) :: t => by
    have ih := Tbl.get_put_of_ne_default hv i t
    rcases lt_trichotomy i k with hlt | rfl | hgt
    · simp [Tbl.put, Tbl.get, hlt, hv]
    · simp [Tbl.put, Tbl.get, hv]
    · simp [Tbl.put, Tbl.get, hgt.not_gt, hgt.ne, hgt.ne', ih]

namespace Machine

/-- A part of the state that no occurrence of an event reaches: not the objects, the sessions, the host's held messages, or
what is handed out. -/
structure Unraised {α : Type} (part : State → α) : Prop where
  wr : ∀ s obj row fld v, part (s.wr obj row fld v) = part s
  emit : ∀ s o, part (s.emit o) = part s
  upHost : ∀ s f, part (s.upHost f) = part s
  sessions : ∀ (s : State) l, part { s with sessions := l } = part s

namespace Unraised
variable {α : Type} {part : State → α}

theorem sendMsix (h : Unraised part) (v : Nat) (s : State) : part (sendMsix v s) = part s := by
  unfold Machine.sendMsix
  split
  · exact h.emit s _
  · exact h.upHost s _

theorem routeAct (h : Unraised part) (n : Nat) (s : State) : part (routeAct n s) = part s := by
  unfold Machine.routeAct
  split
  · exact h.sendMsix _ s
  · exact h.sessions s _
  · rfl

theorem raise (h : Unraised part) (n : Nat) (s : State) : part (raise n s) = part s := by
  simp only [Machine.raise]
  split
  · rw [h.routeAct, h.wr, h.wr]
  · rw [h.wr, h.wr]

theorem raiseN (h : Unraised part) (n : Nat) : ∀ k s, part (raiseN k n s) = part s
  | 0, _ => rfl
  | k + 1, s => (h.raiseN n k _).trans (h.raise n s)

end Unraised

@[simp] theorem raiseN_repair (k n : Nat) (s : State) : (raiseN k n s).repair = s.repair :=
  Unraised.raiseN (part := fun s => s.repair)
    ⟨fun _ _ _ _ _ => rfl, fun _ _ => rfl, fun _ _ => rfl, fun _ _ => rfl⟩ n k s

@[simp] theorem raiseN_fe (k n : Nat) (s : State) : (raiseN k n s).fe = s.fe :=
  Unraised.raiseN (part := fun s => s.fe)
    ⟨fun _ _ _ _ _ => rfl, fun _ _ => rfl, fun _ _ => rfl, fun _ _ => rfl⟩ n k s

@[simp] theorem raiseN_tm (k n : Nat) (s : State) : (raiseN k n s).tm = s.tm :=
  Unraised.raiseN (part := fun s => s.tm)
    ⟨fun _ _ _ _ _ => rfl, fun _ _ => rfl, fun _ _ => rfl, fun _ _ => rfl⟩ n k s

end Machine
end Sys2Proof
end

section
/-! SUPPORT. The lookups in time: lines repaired, keys learned and aged out, and filter blocks counted anew. -/
namespace Sys2Proof.Machine

/-! ### Line repair (R117, R119, R120) -/

/-- The state in which a line is no longer under repair and every parked packet may try again. -/
abbrev repaired (l : Line) (s : State) : State := s.upRepair fun r =>
  { r with lines := r.lines.filter fun x => x != l, queue := r.queue.map fun x => { x with ready := true } }

theorem exec_lineRepairComplete {s : State} {l : Line} (hmem : l ∈ s.repair.lines) (fixed : Nat) (readable : Bool) :
    exec (.lineRepairComplete l ⟨readable, fixed⟩) s = .next (
      if readable then (repaired l (raiseN fixed (src 8 4) s)).add64 O.RepairCount 0 0 1
      else raise (src 8 1) (markLost l ((repaired l (raiseN fixed (src 8 4) s)).sat32 O.RepairUnrepairable 0 0 1))) := by
  have hrepairs : (raiseN fixed (src 8 4) s).repair.lines.contains l = true := by simpa using hmem
  change execLineRepairComplete l ⟨readable, fixed⟩ s = _
  simp only [execLineRepairComplete, hrepairs, Bool.not_true, Bool.false_eq_true, if_false]
  cases readable <;> rfl

/-! ### Learned keys and ageing (R164 to R167) -/

/-- The live entry of a learned key at its place. -/
abbrev learnedEntry (k : LearnKey) (loc : Nat) (s : State) : ExactEntry :=
  { prof := k.prof, width := k.width, key := k.key, result := k.result, learned := true, static_ := false
    age := s.sc O.ExactAgeClock, loc := loc, born := s.gen.cur, dead := none, found := false, lost := false }

theorem exec_exactLearnInsert {s : State} {k : LearnKey} {rest : List LearnKey} {loc : Nat} (hqueue : s.exact.learnQ = k :: rest)
    (hrate : ∀ n, s.exact.lastInsert = some n → ticksPerS ≤ (s.time.ticks - n) * s.sc O.ExactLearnRate)
    (hnew : ∀ e ∈ s.exact.entries, e.dead = none → e.keyIs k.prof k.width k.key = false)
    (hplace : exactPlace s.toBlocks s.exact.entries k.prof k.width k.key = some loc) :
    exec .exactLearnInsert s = .next (overflowEvent s.overflowUsed ((s.upExact fun x =>
      { x with learnQ := rest, lastInsert := some s.time.ticks, entries := x.entries ++ [learnedEntry k loc s] }).add64
        O.ExactLearned 0 0 1)) := by
  have hlive : ¬ (s.exact.entries.any fun e => e.keyIs k.prof k.width k.key && e.dead.isNone) = true := by
    simp only [List.any_eq_true, Bool.and_eq_true, Option.isNone_iff_eq_none]
    rintro ⟨e, he, hkey, hdead⟩
    exact Bool.false_ne_true ((hnew e he hdead).symm.trans hkey)
  have hfree (f : ExactRT → ExactRT) :
      exactPlace (s.upExact f).toBlocks s.exact.entries k.prof k.width k.key = some loc := hplace
  change execExactLearnInsert s = _
  simp only [execExactLearnInsert, hqueue, State.upExact_exact, if_neg hlive, hfree]
  refine if_neg ?_
  split
  · next n hlast => simpa using hrate n hlast
  · exact Bool.false_ne_true

theorem exec_exactAgerScan {s : State} (hon : s.flag O.ExactAgerEnable 0 0 = true) :
    exec .exactAgerScan s = .next (s.upExact fun x =>
      { x with entries := x.entries.map fun e => if agedOut s.toBlocks e then { e with found := true } else e }) :=
  if_pos hon

/-- The age clock has counted. -/
abbrev ageClockOn (s : State) : State :=
  (s.upExact fun x => { x with agedAt := s.time.ticks }).ws O.ExactAgeClock ((s.sc O.ExactAgeClock + 1) % 65536)

section AgeTick
variable {s : State} (hdue : s.exact.agedAt + s.sc O.ExactAgeTick * ticksPerMs ≤ s.time.ticks)
include hdue

theorem exec_exactAgeTick_of_none_found (hnone : ∀ e ∈ s.exact.entries, e.found = true → e.dead ≠ none) :
    exec .exactAgeTick s = .next (ageClockOn s) := by
  have hfound : (s.exact.entries.any fun e => e.found && e.dead.isNone) = false := by
    simpa using hnone
  change execExactAgeTick s = _
  simp only [execExactAgeTick, Nat.not_lt.mpr hdue, State.ws_exact, State.upExact_exact, hfound, if_false,
    Bool.not_false, if_true]

theorem exec_exactAgeTick_of_found {e : ExactEntry} (he : e ∈ s.exact.entries) (hfound : e.found = true) (hdead : e.dead = none)
    (hfree : s.genFree = true) : exec .exactAgeTick s = .next (ageCommit (ageClockOn s)) := by
  have hany : (s.exact.entries.any fun e => e.found && e.dead.isNone) = true :=
    List.any_eq_true.mpr ⟨e, he, by simp [hfound, hdead]⟩
  have hgen : (ageClockOn s).genFree = true := hfree
  change execExactAgeTick s = _
  simp only [execExactAgeTick, Nat.not_lt.mpr hdue, State.ws_exact, State.upExact_exact, hany, hgen, if_false, Bool.not_true,
    Bool.false_eq_true, if_true]

end AgeTick

/-! ### The route filter (R148) -/

/-- The filter counters of every unreclaimed entry, each as often as an entry counts in it. -/
abbrev keysInFilter (b : Blocks) : List Nat :=
  (b.route.entries.map fun e => filterKeys b (routeKey e.vrf e.fam e.len e.addr)).flatten

theorem exec_routeFilterRecompute {s : State} {block : Fin 1048576} {c : Nat}
    (hmine : c ∈ (List.range 16).map (block.val * 16 + ·)) (hfull : Tbl.get 0 s.route.filter c = 15) :
    exec (.routeFilterRecompute block) s = .next (s.upRoute fun r =>
      { r with filter := ((List.range 16).map (block.val * 16 + ·)).foldl
                 (fun t c => Tbl.put 0 c (min 15 ((keysInFilter s.toBlocks).count c)) t) r.filter }) := by
  have hsaturated : (((List.range 16).map (block.val * 16 + ·)).any fun c => Tbl.get 0 s.route.filter c == 15) = true :=
    List.any_eq_true.mpr ⟨c, hmine, beq_iff_eq.mpr hfull⟩
  exact if_pos hsaturated

end Sys2Proof.Machine

namespace Sys2Proof
open Machine

/-- Settles O30: the end of a repair, then the events of the exact store, then the recount, each by its equation. -/
theorem lookupsAreKept : Obligations.LookupsAreKept := by
  unfold Obligations.LookupsAreKept
  refine ⟨?repair, ⟨?learn, fun s => exec_exactAgerScan, ?tick⟩, ?filter⟩
  case repair =>
    rintro s l fixed _ hmem rfl
    exact ⟨exec_lineRepairComplete hmem fixed true, exec_lineRepairComplete hmem fixed false⟩
  case learn =>
    rintro s k rest loc _ hqueue hrate hnew hplace rfl
    exact exec_exactLearnInsert hqueue hrate hnew hplace
  case tick =>
    rintro s _ hdue rfl
    exact ⟨exec_exactAgeTick_of_none_found hdue, fun e he hfound hdead => exec_exactAgeTick_of_found hdue he hfound hdead⟩
  case filter =>
    rintro s block c _ hmine hfull rfl
    exact exec_routeFilterRecompute hmine hfull

end Sys2Proof
end

section
/-! SUPPORT. Streams and generations: how a recovery starts anew, how the oldest generation retires, and which generation a
tag names. -/
namespace Sys2Proof.Machine

/-! ### Ends (R112, R113, R115, R199) -/

section Ends
variable {s : State}

theorem exec_streamRecoveryReset {k : Fin 16384} (harmed : (Tbl.get StreamRT.start s.fe.streams k.val).armed = false)
    (hvalid : s.rd O.StreamRecovery k.val F.StreamRecovery_Valid ≠ 0)
    (hidle : (Tbl.get StreamRT.start s.fe.streams k.val).acceptedAt +
      s.rd O.StreamRecovery k.val F.StreamRecovery_ResetMs * ticksPerMs ≤ s.time.ticks) :
    exec (.streamRecoveryReset k) s = .next (raise (src 3 6) ((s.upFe fun f =>
      { f with streams := Tbl.put StreamRT.start k.val StreamRT.start f.streams }).add64
        O.StreamRecoveryCount k.val F.StreamRecoveryCount_Resets 1)) := by
  refine if_neg ?_
  rintro (hrow | hfresh | hearly)
  · exact hvalid hrow
  · exact Bool.false_ne_true (harmed.symm.trans hfresh)
  · exact Nat.not_lt.mpr hidle hearly

variable {g : GenClosed} {rest : List GenClosed} (hclosed : s.gen.closed = g :: rest)
include hclosed

theorem exec_generationRetire_of_drained (h : drained s.toBlocks g.num = true) :
    exec .generationRetire s = .next (retireOldest s) := by
  change execGenerationRetire s = _
  simp only [execGenerationRetire, hclosed, if_pos h]

theorem exec_generationAgeLimit_of_undrained (h : drained s.toBlocks g.num = false)
    (hold : g.closedAt + ageLimitUs s.toBlocks * ticksPerUs < s.time.ticks) :
    exec .generationAgeLimit s = .next (raise (src 2 1) ((retireOldest s).sat32 O.GenerationForcedRetire 0 0 1)) := by
  change execGenerationAgeLimit s = _
  simp only [execGenerationAgeLimit, hclosed, if_pos (⟨hold, Bool.eq_false_iff.mp h⟩ : _ ∧ _)]

end Ends

/-! ### Tags (R110) -/

/-- The model's sum in the naturals is the difference of R110 for a tag that some number up to the current one has. -/
theorem genOfTag_eq_sub {b : Blocks} {tag : Nat} (htag : tag < 64) (hle : tag ≤ b.gen.cur) :
    (b.genOfTag tag : Int) = b.gen.cur - ((b.gen.cur : Int) - tag) % 64 := by
  unfold Blocks.genOfTag
  omega

theorem genOfTag_mod {b : Blocks} {g : Nat} (hle : g ≤ b.gen.cur) (hlive : b.gen.cur < g + 63) : b.genOfTag (g % 64) = g := by
  unfold Blocks.genOfTag
  omega

end Sys2Proof.Machine

namespace Sys2Proof
open Machine

/-- Settles O32: the equations of the three events. -/
theorem streamsAndGenerationsEnd : Obligations.StreamsAndGenerationsEnd := by
  unfold Obligations.StreamsAndGenerationsEnd
  constructor
  · rintro s k _ rfl harmed hvalid hidle
    exact exec_streamRecoveryReset harmed hvalid hidle
  · intro s g rest hclosed
    exact ⟨exec_generationRetire_of_drained hclosed, exec_generationAgeLimit_of_undrained hclosed⟩

/-- Settles O33: a live generation is the one that its tag names, so two that share a tag are one. -/
theorem tagsNameGenerations : Obligations.TagsNameGenerations := by
  unfold Obligations.TagsNameGenerations
  refine fun b => ⟨fun tag => genOfTag_eq_sub, fun g => genOfTag_mod, fun g h hg hglive hh hhlive htag => ?_⟩
  calc g = b.genOfTag (g % 64) := (genOfTag_mod hg hglive).symm
    _ = b.genOfTag (h % 64) := by rw [htag]
    _ = h := genOfTag_mod hh hhlive

end Sys2Proof
end

section
/-! SUPPORT. Arrival at the traffic manager: what a lane does with a packet, and the three sources that TM_ENQUEUE serves. -/
namespace Sys2Proof.Machine

/-! ### Lanes (R207, R208) -/

/-- The packets in the FIFO of a packet's own lane. -/
abbrev laneBefore (p : Pkt) (s : State) : List Pkt := Tbl.get [] s.tm.lanes (laneOf p)

/-- The state with the packets given in a lane's FIFO. -/
abbrev withLane (k : Nat) (l : List Pkt) (s : State) : State := s.upTm fun m => { m with lanes := Tbl.put [] k l m.lanes }

section Lanes
variable {p : Pkt} {s : State}

theorem serveLane_of_head {k : Nat} {rest : List Pkt} (h : Tbl.get [] s.tm.lanes k = p :: rest) :
    serveLane k s = enqueueLocal p (withLane k rest s) := by
  simp only [serveLane, h]

theorem toLane_of_full {busy : Bool} (h : 4096 ≤ (laneBefore p s).length) :
    toLane busy p s = raise (src 4 5) (tmDrop .overrun p s) :=
  if_pos h

theorem toLane_of_busy (h : (laneBefore p s).length < 4096) :
    toLane true p s = withLane (laneOf p) (laneBefore p s ++ [p]) s :=
  if_neg (Nat.not_le.mpr h)

/-- A packet that finds its lane empty and free passes through it. -/
theorem toLane_of_empty (h : laneBefore p s = []) :
    toLane false p s = enqueueLocal p (withLane (laneOf p) [] (withLane (laneOf p) [p] s)) := by
  have hroom : ¬ 4096 ≤ (laneBefore p s).length := by simp [h]
  have hhead : Tbl.get [] (withLane (laneOf p) [p] s).tm.lanes (laneOf p) = [p] :=
    Tbl.get_put_of_ne_default (List.cons_ne_nil p []) (laneOf p) s.tm.lanes
  calc toLane false p s = serveLane (laneOf p) (withLane (laneOf p) (laneBefore p s ++ [p]) s) := if_neg hroom
    _ = serveLane (laneOf p) (withLane (laneOf p) [p] s) := by rw [h, List.nil_append]
    _ = _ := serveLane_of_head hhead

end Lanes

/-! ### A packet that is no multicast copy (R287, R366) -/

theorem tmBundle_singleton {busy : Bool} {p p' : Pkt} {s t : State} (hrec : recordIngress p s = (p', t))
    (hone : p.mcast = false) :
    tmBundle busy [p] s = if p.hdr.destCard = t.card then toLane busy p' t else meshSend p' t := by
  have hkept : p'.mcast = p.mcast ∧ p'.hdr = p.hdr := by
    obtain ⟨rfl, -⟩ := Prod.mk.inj hrec
    exact ⟨rfl, rfl⟩
  obtain ⟨hmcast, hhdr⟩ := hkept
  simp only [tmBundle, tmTake, List.any_cons, List.any_nil, List.foldl_cons, List.foldl_nil, hrec, hmcast, hone, hhdr,
    Bool.or_false, Bool.false_eq_true, if_false]

/-! ### TM_ENQUEUE (R120, R207, R208) -/

/-- The bundles that cross on a link to the traffic manager. -/
abbrev bundlesOn (k : Fin 2) (s : State) : List (List Pkt) := if k.val = 0 then s.fe.toTm0 else s.fe.toTm1

section TmEnqueue
variable {s : State} {busy : Bool} {fixed : Nat}

theorem exec_tmEnqueue_link {k : Fin 2} {l : List Pkt} {rest : List (List Pkt)} (h : bundlesOn k s = l :: rest) :
    exec (.tmEnqueue (.link k) ⟨busy, fixed⟩) s = .next (tmBundle busy l ((raiseN fixed (src 8 3) s).upFe fun f =>
      if k.val = 0 then { f with toTm0 := rest } else { f with toTm1 := rest })) := by
  change execTmEnqueue (.link k) ⟨busy, fixed⟩ s = _
  simp only [execTmEnqueue, raiseN_fe, h]

theorem exec_tmEnqueue_mesh {p : Pkt} {rest : List Pkt} (h : s.tm.fromMesh = p :: rest) :
    exec (.tmEnqueue .mesh ⟨busy, fixed⟩) s =
      .next (toLane busy p ((raiseN fixed (src 8 3) s).upTm fun m => { m with fromMesh := rest })) := by
  change execTmEnqueue .mesh ⟨busy, fixed⟩ s = _
  simp only [execTmEnqueue, raiseN_tm, h]

theorem exec_tmEnqueue_lane {k : Fin 10} {p : Pkt} {rest : List Pkt} (h : Tbl.get [] s.tm.lanes k.val = p :: rest) :
    exec (.tmEnqueue (.lane k) ⟨busy, fixed⟩) s =
      .next (enqueueLocal p (withLane k.val rest (raiseN fixed (src 8 3) s))) := by
  change Host.Outcome.next (serveLane k.val (raiseN fixed (src 8 3) s)) = _
  rw [serveLane_of_head (by rw [raiseN_tm, h])]

end TmEnqueue

end Sys2Proof.Machine

namespace Sys2Proof
open Machine

/-- Settles O34: the three sources of TM_ENQUEUE, where a packet from the mesh finds its lane full, busy or empty. -/
theorem tmTakesAndLanesServe : Obligations.TmTakesAndLanesServe := by
  unfold Obligations.TmTakesAndLanesServe
  refine ⟨fun s k busy fixed l rest => exec_tmEnqueue_link, ?bundle, ?mesh, fun s k busy fixed p rest => exec_tmEnqueue_lane⟩
  case bundle =>
    intro busy p s t p' hrec hone
    rw [tmBundle_singleton hrec hone]
    exact ⟨fun hhere => if_pos hhere, fun hother => if_neg hother⟩
  case mesh =>
    rintro s p rest busy fixed _ _ hmesh rfl rfl
    have hlane : laneBefore p s =
        laneBefore p ((raiseN fixed (src 8 3) s).upTm fun m => { m with fromMesh := rest }) := by simp [State.upTm]
    refine ⟨fun hfull => ?_, fun hroom => ?_, fun hempty => ?_⟩
    · rw [exec_tmEnqueue_mesh hmesh, toLane_of_full (hlane ▸ hfull)]
    · rw [exec_tmEnqueue_mesh hmesh, toLane_of_busy (hlane ▸ hroom), ← hlane]
    · rw [exec_tmEnqueue_mesh hmesh, toLane_of_empty (hlane ▸ hempty)]

end Sys2Proof
end

section
/-! SUPPORT. Firmware activations: their preparation, swap and trial, and the takeover of the standby pair. -/
namespace Sys2Proof.Machine

section Activation
variable {s : State} {a : FwAct}

/-! ### Preparation and swap (R401, R402) -/

theorem exec_fwPrepareReady (hact : s.fw.act = some a) (hready : a.ready = false) :
    exec .fwPrepareReady s = .next (if verifyAgain s (s.chest.slot s.chest.fwMeta.other) then
      (setAct F.FwActivationStatus_State 2 s).upFw fun w => { w with act := some ⟨some (a.at_.getD (s.gridQ + 1)), true⟩ }
    else s) := by
  change execFwPrepareReady s = _
  simp only [execFwPrepareReady, hact, hready, Bool.false_or, Bool.not_eq_true']
  cases verifyAgain s (s.chest.slot s.chest.fwMeta.other) <;> rfl

/-- The metadata after a swap: the slot left is VALID, the new one in TRIAL and active (R390). -/
abbrev FwMeta.swapped (m : FwMeta) : FwMeta := { (m.setSt m.other 4).setSt m.active 2 with active := m.other }

/-- The slots and the status after a swap. -/
abbrev swapShown (s : State) : State :=
  setAct F.FwActivationStatus_SwapTime (time80OfQ (s.gridQ / cycleQ * cycleQ))
    (setAct F.FwActivationStatus_SelfTestPassed 0 (setAct F.FwActivationStatus_State 3 (s.setFwMeta FwMeta.swapped)))

section Swap
variable (hact : s.fw.act = some a) (hdue : swapDue s.toBlocks a = true)
include hact hdue

theorem exec_fwSwap_late (hready : a.ready = false) : exec .fwSwap s = .next (activateFail 1 s) := by
  change execFwSwap s = _
  simp only [execFwSwap, hact, hdue, hready, Bool.not_true, Bool.not_false, Bool.false_eq_true, if_false, if_true]

theorem exec_fwSwap (hready : a.ready = true) :
    exec .fwSwap s = .next (((auditEntry .firmware 0xFFFF 0 0 0 s.chest.fwMeta.other 0 0
      (raise (src 9 7) (swapShown s))).upFw fun w =>
        { w with act := none, trialSince := some s.time.ticks, trialCold := false }).upBoot fun b =>
          { b with pair := 1 - b.pair }) := by
  change execFwSwap s = _
  simp only [execFwSwap, hact, hdue, hready, Bool.not_true, Bool.false_eq_true, if_false]

end Swap

/-! ### Trial (R403, R404) -/

theorem exec_selfTestPassed (htrial : inTrial s = true) :
    exec .selfTestPassed s = .next (setAct F.FwActivationStatus_SelfTestPassed 1 s) :=
  if_pos htrial

theorem exec_fwConfirmTimeout {t0 : Nat} (htrial : inTrial s = true) (hsince : s.fw.trialSince = some t0)
    (hdue : t0 + s.sc O.FwConfirmTimeout * ticksPerS ≤ s.time.ticks) :
    exec .fwConfirmTimeout s = .next (rollbackAsked 3 s) := by
  change execFwConfirmTimeout s = _
  simp only [execFwConfirmTimeout, hsince]
  exact if_pos ⟨htrial, hdue⟩

/-! ### The standby pair (R123, R404) -/

/-- The failover counted and raised, and the requests that the journal does not hold gone. -/
abbrev failoverNoted (s : State) : State := forgetUnheld (raise (src 0 1) (s.sat32 O.BureauFailoverCount 0 0 1))

theorem exec_lockstepMismatch (hstandby : standbyReady s.toBlocks = true) :
    exec .lockstepMismatch s = .next (
      if inTrial s = true ∧ s.fw.trialCold = true then rollbackAsked 5 (failoverNoted s)
      else if inTrial s = true then holdFailed (rollbackNow 5 (failoverNoted s))
      else holdFailed ((standbyLost (failoverNoted s)).upBoot fun b => { b with pair := 1 - b.pair })) := by
  change execLockstepMismatch s = _
  simp only [execLockstepMismatch, hstandby, Bool.not_true, Bool.false_eq_true, if_false, apply_ite Host.Outcome.next]

theorem exec_standbyPairSynchronised (hserved : s.served = true) (hphase : s.boot.phase ≠ 9) (hact : s.fw.act = none)
    (hpair : s.boot.failed = true ∨ s.inReset (standbyRow s.toBlocks) = false) :
    exec .standbyPairSynchronised s = .next ((freeFailed s).ws O.BureauStandbyReady 1) := by
  refine if_neg ?_
  rcases hpair with h | h <;> simp [hserved, hphase, hact, h]

end Activation

end Sys2Proof.Machine

namespace Sys2Proof
open Machine

/-- Settles O56: the equations of the activation's events, then those of the takeover and of the pair's return. -/
theorem activationsRun : Obligations.ActivationsRun := by
  unfold Obligations.ActivationsRun
  refine ⟨⟨fun s a => exec_fwPrepareReady, ?swap, ?trial⟩, ?takeover, fun s => exec_standbyPairSynchronised⟩
  case swap =>
    refine fun s a hact hdue => ⟨exec_fwSwap_late hact hdue, ?_⟩
    rintro _ hready rfl
    exact exec_fwSwap hact hdue hready
  case trial =>
    exact fun s htrial => ⟨exec_selfTestPassed htrial, fun t0 => exec_fwConfirmTimeout htrial⟩
  case takeover =>
    rintro s _ hstandby rfl
    rw [exec_lockstepMismatch hstandby]
    refine ⟨fun htrial hwarm => ?_, fun htrial hcold => ?_, fun htrial => ?_⟩
    · simp only [htrial, hwarm, Bool.false_eq_true, and_false, if_false, if_true]
    · simp only [htrial, hcold, and_self, if_true]
    · simp only [htrial, Bool.false_eq_true, false_and, if_false]

end Sys2Proof
end

section
/-! SUPPORT. Reference clocks, the reset pins, and the release of a block. -/
namespace Sys2Proof.Machine

section Clocks
variable {s : State}

/-! ### Reference clocks (R428, R430) -/

/-- The state with the references given present. -/
abbrev withRefs (refs : Nat) (s : State) : State := { s with pins := { s.pins with refs := refs } }

/-- What the loss of a reference does: the module's reset, half of the ports or of the groups down, or the host link. -/
abbrev refLost : Fin 6 → State → State
  | 0 => moduleReset 4
  | 1 => fun s => portHalf 0 (setLost 0 true s)
  | 2 => fun s => portHalf 1 (setLost 1 true s)
  | 3 => fun s => groupHalf 0 (setLost 2 true s)
  | 4 => fun s => groupHalf 1 (setLost 3 true s)
  | 5 => linkGone

/-- What the return of a reference undoes of its loss. -/
abbrev refBack : Fin 6 → State → State
  | 0 => leaveReset
  | 1 => fun s => portHalf 0 (setLost 0 false s)
  | 2 => fun s => portHalf 1 (setLost 1 false s)
  | 3 => setLost 2 false
  | 4 => setLost 3 false
  | 5 => id

theorem exec_referenceClockLoss {input : Fin 6} (h : s.pins.refs.testBit input.val = true) :
    exec (.referenceClockLoss input) s =
      .next (refLost input ((withRefs (s.pins.refs - 2 ^ input.val) s).sat32 O.ClockLossCount input.val 0 1)) := by
  change execReferenceClockLoss input s = _
  simp only [execReferenceClockLoss, h, Bool.not_true, Bool.false_eq_true, if_false]
  fin_cases input <;> rfl

theorem exec_referenceClockRestore {input : Fin 6} (h : s.pins.refs.testBit input.val = false) :
    exec (.referenceClockRestore input) s = .next (refBack input (withRefs (s.pins.refs + 2 ^ input.val) s)) := by
  change execReferenceClockRestore input s = _
  simp only [execReferenceClockRestore, h, Bool.false_eq_true, if_false]
  fin_cases input <;> rfl

/-! ### Reset pins (R409, R410, R430) -/

theorem exec_powerOnReset_fall (h : s.pins.porLow = false) :
    exec (.powerOnReset .fall) s = .next (moduleReset 1 { s with pins := { s.pins with porLow := true } }) :=
  if_neg (Bool.eq_false_iff.mp h)

theorem exec_powerOnReset_rise (r : Option (Fin 10)) :
    exec (.powerOnReset (.rise r)) s =
      .next (leaveReset (copyOrder (noteOrder r { s with pins := { s.pins with porLow := false, noPower := false } }))) :=
  rfl

theorem exec_moduleResetPin (ns : Nat) :
    exec (.moduleResetPin ns) s = if ns < 1000 then .next s else .next (moduleReset 2 s) :=
  rfl

/-! ### The release of a block (R123, R433) -/

theorem releaseDue_of_mem {row at_ : Nat} (hmem : (row, at_) ∈ s.boot.blocks) (hdue : at_ + ticksPerUs ≤ s.time.ticks)
    (hpair : s.boot.failed = false ∨ row ≠ standbyRow s.toBlocks) : releaseDue s.toBlocks row = true := by
  have hany : (s.boot.blocks.any fun e => e.1 == row && decide (e.2 + ticksPerUs ≤ s.time.ticks)) = true :=
    List.any_eq_true.mpr ⟨(row, at_), hmem, by simpa using hdue⟩
  rcases hpair with h | h <;> simp [releaseDue, hany, h]

theorem exec_blockResetRelease {row : Fin 147} (hdue : releaseDue s.toBlocks row.val = true) :
    let t := (s.upBoot fun b => { b with blocks := b.blocks.filter fun e => e.1 != row.val }).wr O.BlockResetActive row.val 0 0
    exec (.blockResetRelease row) s = .next (if row.val < 128 then restartPort row.val t else t) :=
  if_pos hdue

end Clocks

end Sys2Proof.Machine

namespace Sys2Proof
open Machine

/-- Settles O59: the references, input by input; then the pins, and the release of a port's or of another block. -/
theorem resetsAndReferences : Obligations.ResetsAndReferences := by
  unfold Obligations.ResetsAndReferences
  refine ⟨⟨?loss, ?back⟩, fun s => exec_powerOnReset_fall, fun s => exec_powerOnReset_rise, ?pin, ?release⟩
  case loss =>
    rintro s input _ hpresent rfl
    rw [exec_referenceClockLoss hpresent]
    fin_cases input <;> rfl
  case back =>
    rintro s input _ hlost rfl
    rw [exec_referenceClockRestore hlost]
    fin_cases input <;> rfl
  case pin =>
    intro s ns
    rw [exec_moduleResetPin]
    exact ⟨fun hlong => if_neg (Nat.not_lt.mpr hlong), fun hshort => if_pos hshort⟩
  case release =>
    rintro s row _ at_ hmem hdue hpair rfl
    rw [exec_blockResetRelease (releaseDue_of_mem hmem hdue hpair)]
    exact ⟨fun hblock => congrArg _ (if_neg (Nat.not_lt.mpr hblock)), fun hport => congrArg _ (if_pos hport)⟩

end Sys2Proof
end

section
/-! SUPPORT. The queries that a session owns, and the direct steps of a range row: what a granted write of each does. -/
namespace Sys2Proof.Machine

/-! ### Whole rows: a field that the write carries reads the same over every base -/

theorem merged_of_mem {ps : List (Nat × Nat)} {k : Nat} (h : k ∈ ps.map Prod.fst) (base base' : Nat → Nat) :
    merged base ps k = merged base' ps k := by
  obtain ⟨e, hmem, rfl⟩ := List.mem_map.mp h
  have hfind : (ps.find? fun p => p.1 == e.1).isSome := List.find?_isSome.mpr ⟨e, hmem, beq_self_eq_true _⟩
  obtain ⟨p, hp⟩ := Option.isSome_iff_exists.mp hfind
  simp only [merged, hp, Option.map_some, Option.getD_some]

/-- The fields of a record that a session may write. -/
abbrev writableFields (o : ObjInfo) : List Nat :=
  ((o.fields.zipIdx 1).filter fun e => e.1.acc == .rw || e.1.acc == .w).map Prod.snd

theorem mem_parts_of_writable {o : ObjInfo} {k : Nat} (h : k ∈ writableFields o) (v : Nat) :
    k ∈ (parts o 0 v).map Prod.fst := by
  obtain ⟨⟨f, n⟩, hmem, rfl⟩ := List.mem_map.mp h
  obtain ⟨hin, hacc⟩ := List.mem_filter.mp hmem
  have hne : o.fields.isEmpty = false := by
    cases hf : o.fields with
    | nil => simp [hf] at hin
    | cons g l => rfl
  refine List.mem_map.mpr ⟨(n, bitsOf f.hi f.lo v), ?_, rfl⟩
  simp only [parts, hne, Bool.false_eq_true, if_false, List.mem_filterMap, carried, if_true]
  refine ⟨(n, f, bitsOf f.hi f.lo v), ⟨(f, n), hin, rfl⟩, ?_⟩
  have hwritable : f.acc = .rw ∨ f.acc = .w := by simpa using hacc
  rcases hwritable with h | h <;> simp only [h]

/-! ### The session's own queries (R158, R163, R177) -/

/-- The objects of the forwarding engine that each session has for itself. -/
abbrev queryObjs : List Nat := [O.RouteQuery, O.ExactQuery, O.RangeSearch, O.RangeSearchNext]

theorem queryObj_facts {obj : Nat} (h : obj ∈ queryObjs) :
    (∃ o ∈ objInfo? obj, isFe o = false ∧ transient o = true) ∧ Ordinary obj ∧ 0x8000 ≤ obj ∧ obj < 0x18000 := by
  revert obj
  decide

/-- A granted write of a query stores nothing and has the query's effect on the session that sent it. -/
theorem exec_query_granted {c : Instr} {v : Via} {obj n : Nat} {s : State} {x : Sess} {eff : State → State}
    (hobj : obj ∈ queryObjs) (hwrite : oneWrite c = some (v, ⟨obj, 0, 0, n⟩, 0)) (h : Granted v ⟨obj, 0, 0, n⟩ 0 s x)
    (heff : ∀ (a : Actor) r, a.sess = some v.sess → feEffect a (SW.cell ⟨obj, 0, 0, n⟩) r = eff r) :
    exec c s = .next (wrote v ⟨obj, 0, 0, n⟩ 0 x eff s) := by
  obtain ⟨⟨o, info, fe, tr⟩, plain, hfe⟩ := queryObj_facts hobj
  refine exec_granted hwrite h info fe plain fun r => ?_
  rw [stored_transient info tr plain, cell_fe hfe, ← cell_eq o info]
  exact heff _ r (congrArg some (granted_id h))

/-- The fields that a search starts from. -/
abbrev searchFields : List Nat := [F.RangeSearch_Set, F.RangeSearch_RangeKey, F.RangeSearch_TernaryKey]

section QueryEffects
variable {a : Actor} {id : SessId} (ha : a.sess = some id) (row : Nat) (l : List (Nat × Nat)) (s : State)
include ha

theorem feEffect_routeQuery : feEffect a ⟨O.RouteQuery, row, l⟩ s = s.updSess id fun m =>
    { m with routeQ := WCell.packedOver (m.base s.toBlocks O.RouteQuery 0) ⟨O.RouteQuery, row, l⟩ } := by
  simp only [feEffect, ha, if_true]

theorem feEffect_exactQuery : feEffect a ⟨O.ExactQuery, row, l⟩ s = s.updSess id fun m =>
    { m with exactQ := WCell.packedOver (m.base s.toBlocks O.ExactQuery 0) ⟨O.ExactQuery, row, l⟩ } := by
  simp [feEffect, ha]

theorem feEffect_rangeSearch {g : Nat → Nat} (hg : ∀ base, ∀ k ∈ searchFields, merged base l k = g k) :
    feEffect a ⟨O.RangeSearch, row, l⟩ s = s.updSess id fun m => { m with
      range := curStart s.toBlocks (g F.RangeSearch_Set) (g F.RangeSearch_RangeKey) (g F.RangeSearch_TernaryKey) } := by
  have hset base := hg base F.RangeSearch_Set (by decide)
  have hrange base := hg base F.RangeSearch_RangeKey (by decide)
  have htern base := hg base F.RangeSearch_TernaryKey (by decide)
  simp [feEffect, ha, hset, hrange, htern]

theorem feEffect_rangeSearchNext : feEffect a ⟨O.RangeSearchNext, row, l⟩ s = s.updSess id fun m =>
    { m with range := (curNext s.toBlocks m.range).2 } := by
  simp [feEffect, ha]

end QueryEffects

/-- A write of the whole record carries what a search starts from, so nothing of the search before it is left. -/
theorem merged_rangeSearch {o : ObjInfo} (info : objInfo? O.RangeSearch = some o) (v : Nat) (base base' : Nat → Nat) {k : Nat}
    (hk : k ∈ searchFields) : merged base (parts o 0 v) k = merged base' (parts o 0 v) k := by
  have hall : ∀ o ∈ objInfo? O.RangeSearch, ∀ k ∈ searchFields, k ∈ writableFields o := by decide
  exact merged_of_mem (mem_parts_of_writable (hall o info k hk) v) base base'

section Queries
variable {v : Via} {s : State} {x : Sess} {w : SW}

theorem exec_routeQuery {y : BitVec 288} (hw : w = ⟨O.RouteQuery, 0, 0, y.toNat⟩) (h : Granted v w 0 s x) :
    exec (.routeQuery v y) s = .next (wrote v w 0 x (fun r => r.updSess v.sess fun m =>
      { m with routeQ := w.cell.packedOver (m.base r.toBlocks O.RouteQuery 0) }) s) := by
  subst hw
  exact exec_query_granted (by decide) rfl h fun a r ha => feEffect_routeQuery ha _ _ r

theorem exec_exactQuery {y : BitVec 544} (hw : w = ⟨O.ExactQuery, 0, 0, y.toNat⟩) (h : Granted v w 0 s x) :
    exec (.exactQuery v y) s = .next (wrote v w 0 x (fun r => r.updSess v.sess fun m =>
      { m with exactQ := w.cell.packedOver (m.base r.toBlocks O.ExactQuery 0) }) s) := by
  subst hw
  exact exec_query_granted (by decide) rfl h fun a r ha => feEffect_exactQuery ha _ _ r

theorem exec_rangeSearch {y : BitVec 512} {g : Nat → Nat} (hw : w = ⟨O.RangeSearch, 0, 0, y.toNat⟩)
    (hg : g = merged (fun _ => 0) w.cell.parts) (h : Granted v w 0 s x) :
    exec (.rangeSearch v y) s = .next (wrote v w 0 x (fun r => r.updSess v.sess fun m => { m with
      range := curStart r.toBlocks (g F.RangeSearch_Set) (g F.RangeSearch_RangeKey) (g F.RangeSearch_TernaryKey) }) s) := by
  obtain ⟨⟨o, info, -⟩, -⟩ := queryObj_facts (obj := O.RangeSearch) (by decide)
  subst hw hg
  refine exec_query_granted (by decide) rfl h fun a r ha => ?_
  rw [cell_eq o info]
  exact feEffect_rangeSearch ha _ _ r fun base k => merged_rangeSearch info _ _ _

theorem exec_rangeSearchNext {y : BitVec 8} (h : Granted v ⟨O.RangeSearchNext, 0, 0, y.toNat⟩ 0 s x) :
    exec (.rangeSearchNext v y) s = .next (wrote v ⟨O.RangeSearchNext, 0, 0, y.toNat⟩ 0 x (fun r =>
      r.updSess v.sess fun m => { m with range := (curNext r.toBlocks m.range).2 }) s) :=
  exec_query_granted (by decide) rfl h fun a r ha => feEffect_rangeSearchNext ha _ _ r

end Queries

/-! ### Objects of a generation (R54, R106) -/

/-- The commit of one ordinary row of an FE object: it is stored and acts in the generation that the commit opens. -/
theorem applyCells_one_of_fe {a : Actor} {c : WCell} {s : State} {o : ObjInfo} (info : objInfo? c.obj = some o)
    (fe : isFe o = true) (plain : Ordinary c.obj) :
    applyCells a [c] s =
      cellEffect s.toBlocks a (journalCommit [c] (storeCell (s.booked (unitsOf s.toBlocks [c])).openGen c)) c := by
  obtain ⟨hgraph, hroute, hexact, hrange, hdump, hsample, -, hrole, htenant, hrotate⟩ := plain
  have hown : owned s.toBlocks a.role c = c := by simp [owned, hdump, hsample, hrole]
  have hrows {obj : Nat} (h : c.obj ≠ obj) : rowsOf [c] obj = [] := by
    rw [rowsOf, List.filter_cons_of_neg (by simpa using h), List.filter_nil, List.foldl_nil]
  have hopens : writesFe [c] = true := by simp [writesFe, info, fe]
  have hswap (t : State) : swapBank [c] t = t := by simp [swapBank, writesGraph, hgraph]
  have hbeside (t : State) : besideValues c.obj c.row c.val t = t := by simp [besideValues, htenant, hrotate]
  simp only [applyCells, List.map_cons, List.map_nil, List.foldl_cons, List.foldl_nil, hown, hopens, hswap, hrows hroute,
    hrows hexact, hrows hrange, routeCommit_nil, exactCommit_nil, rangeCommit_nil, hbeside, if_true]

/-- A command that is a granted write of an FE object opens a generation and has the effect of its row there. -/
theorem exec_granted_of_fe {c : Instr} {v : Via} {w : SW} {lost : Nat} {s : State} {x : Sess} {eff : State → State}
    {o : ObjInfo} (hwrite : oneWrite c = some (v, w, lost)) (h : Granted v w lost s x) (info : objInfo? w.obj = some o)
    (fe : isFe o = true) (plain : Ordinary w.obj)
    (heff : ∀ r, cellEffect (s.came v.sess).toBlocks (actorOf (s.came v.sess).toBlocks x 0x02 lost) (r.openGen.stored w)
      w.cell = eff r) :
    exec c s = .next (wrote v w lost x eff s) := by
  have hcells : cellsOf [w] = [w.cell] := by simp [SW.cell, cellsOf, addWrite, info]
  have hobj : w.cell.obj = w.obj := by rw [cell_eq o info]
  have ⟨_, _, _, _, _, _, hchunk, _⟩ := plain
  have hstatus (t : State) : appliedStatus [w.cell] t = .ok := by simp [appliedStatus, writes, hobj, hchunk]
  rw [exec_oneWrite hwrite, viaWrite_granted h, finishCommit, hcells,
    applyCells_one_of_fe (hobj ▸ info) fe (hobj ▸ plain)]
  simp only [hstatus, if_true, wrote, State.answered, hcells, ← heff, State.stored]

/-! ### Direct steps of a range row (R182) -/

theorem feEffect_rangeDirect (a : Actor) (row : Nat) (l : List (Nat × Nat)) (s : State) :
    feEffect a ⟨O.RangeDirect, row, l⟩ s = rangeDirect s.gen.cur (WCell.rangeOp s.toBlocks ⟨O.RangeDirect, row, l⟩) s := by
  simp [feEffect]

/-- A generation's boundary leaves the record that a step is read from. -/
theorem rangeOp_openGen (c : WCell) (s : State) : c.rangeOp s.openGen.toBlocks = c.rangeOp s.toBlocks :=
  rfl

/-- A granted write of a RangeDirect row, whichever step its record states. -/
theorem exec_rangeDirect {c : Instr} {v : Via} {row n : Nat} {s : State} {x : Sess} {w : SW}
    (hw : w = ⟨O.RangeDirect, row, 0, n⟩) (hwrite : oneWrite c = some (v, w, 0)) (h : Granted v w 0 s x) :
    exec c s = .next (wrote v w 0 x (fun r => rangeDirect (r.gen.cur + 1) (w.cell.rangeOp r.toBlocks) r.openGen) s) := by
  obtain ⟨o, info, fe, tr⟩ : ∃ o ∈ objInfo? O.RangeDirect, isFe o = true ∧ transient o = true := by decide
  have plain : Ordinary O.RangeDirect := by decide
  have hfe : 0x8000 ≤ O.RangeDirect ∧ O.RangeDirect < 0x18000 := by decide
  subst hw
  refine exec_granted_of_fe hwrite h info fe plain fun r => ?_
  rw [stored_transient info tr plain, cell_eq o info, cell_fe hfe, feEffect_rangeDirect, rangeOp_openGen]
  rfl

end Sys2Proof.Machine

namespace Sys2Proof
open Machine

/-- Settles O11: the queries act on the session that sent them; each of the direct steps is the write of its record. -/
theorem queryWritesTakeEffect : Obligations.QueryWritesTakeEffect := by
  unfold Obligations.QueryWritesTakeEffect
  refine ⟨fun v y s x w => exec_routeQuery, fun v y s x w => exec_exactQuery, fun v y s x w g => exec_rangeSearch,
    fun v y s x => exec_rangeSearchNext, fun v row y s x op c w hstep hw h => exec_rangeDirect hw ?_ h⟩
  simp only [List.mem_cons, List.not_mem_nil, or_false, Prod.mk.injEq] at hstep
  subst hw
  obtain ⟨rfl, rfl⟩ | ⟨rfl, rfl⟩ | ⟨rfl, rfl⟩ := hstep <;> rfl

end Sys2Proof
end

section
/-! SUPPORT. The egress buffer: the writes that flush a queue, leave the mesh and retrain a port, and the checks that a packet
for this card passes on its way to its queue. -/
namespace Sys2Proof.Machine

/-! ### Granted writes of QueueFlush, MeshLeaveRequest and PortRetrain (R218, R292, R296) -/

/-- The objects of the traffic manager, the mesh and the ports whose write is an action and is not stored. -/
abbrev fabricActions : List Nat := [O.QueueFlush, O.MeshLeaveRequest, O.PortRetrain]

theorem fabricAction_facts {obj : Nat} (h : obj ∈ fabricActions) :
    (∃ o ∈ objInfo? obj, isFe o = false ∧ transient o = true ∧ o.fields = []) ∧ Ordinary obj ∧
      (0x18000 ≤ obj ∧ obj < 0x3C000) ∧ obj ≠ O.SchedNodeQuery := by
  revert obj
  decide

/-- A granted write of such an object has the effect that its chapter gives the row. -/
theorem exec_fabricAction_granted {c : Instr} {v : Via} {obj row n : Nat} {s : State} {x : Sess} {eff : State → State}
    (hobj : obj ∈ fabricActions) (hwrite : oneWrite c = some (v, ⟨obj, row, 0, n⟩, 0)) (h : Granted v ⟨obj, row, 0, n⟩ 0 s x)
    (heff : ∀ old r, tmEffect old ⟨obj, row, [(0, n)]⟩ r = eff r) :
    exec c s = .next (wrote v ⟨obj, row, 0, n⟩ 0 x eff s) := by
  obtain ⟨⟨o, info, fe, tr, nf⟩, plain, htm, hquery⟩ := fabricAction_facts hobj
  refine exec_granted hwrite h info fe plain fun r => ?_
  rw [stored_transient info tr plain, parts_of_no_fields nf, cell_tm htm hquery]
  exact heff _ r

section FabricEffects
variable (old : Blocks) (row n : Nat) (s : State)

theorem tmEffect_queueFlush : tmEffect old ⟨O.QueueFlush, row, [(0, n)]⟩ s = flushQueue n s := by
  simp [tmEffect, WCell.val]

theorem tmEffect_meshLeaveRequest : tmEffect old ⟨O.MeshLeaveRequest, row, [(0, n)]⟩ s = leaveWritten n s := by
  have hnode : isNodeObj O.MeshLeaveRequest = false := by decide
  simp [tmEffect, hnode, WCell.val]

theorem tmEffect_portRetrain : tmEffect old ⟨O.PortRetrain, row, [(0, n)]⟩ s = portRetrain row s := by
  have hnode : isNodeObj O.PortRetrain = false := by decide
  simp [tmEffect, hnode]

end FabricEffects

/-! ### Admission (R208): each check by its own step, those before it passed -/

/-- Step 1 of R208 passes the packet: its queue is enabled and has a path to its port. -/
structure Addressed (p : Pkt) (s : State) : Prop where
  enabled : s.rd O.QueueBuffer p.hdr.destQueue F.QueueBuffer_Enable = 1
  path : ∃ c1 c2 c3, s.path? p.hdr.destQueue = some (c1, c2, c3, p.hdr.destPort)

/-- The packet's cells fit the on-chip limit of its queue's profile (step 4). -/
abbrev FitsOnChip (p : Pkt) (s : State) : Prop :=
  onChip (s.queue p.hdr.destQueue) + p.cellCount ≤ s.profile p.hdr.destQueue F.BufferProfile_OnChipLimit

/-- The packet's cells fit the limit of its port and class (step 5). -/
abbrev FitsPortClass (p : Pkt) (s : State) : Prop :=
  s.portClass p.hdr.destPort p.hdr.cls + p.cellCount ≤ s.rd O.PortClassLimit (p.hdr.destPort * 8 + p.hdr.cls) 0

/-- Free cells hold the packet and leave those kept back for returns (step 6). -/
abbrev FitsFreeCells (p : Pkt) (s : State) : Prop := p.cellCount + s.sc O.ReturnReserveCells ≤ s.freeCells

section Admission
variable {p : Pkt} {s : State}

/-- Step 2: a packet that MaxKiB has no room for. -/
theorem intake_of_above_maxKiB (haddr : Addressed p s)
    (hmax : s.profile p.hdr.destQueue F.BufferProfile_MaxKiB * 1024 < totalBytes (s.queue p.hdr.destQueue) + p.hdr.length) :
    intake p s = tmDrop .queueMax p s := by
  obtain ⟨henabled, c1, c2, c3, hpath⟩ := haddr
  simp [intake, henabled, hpath, hmax]

/-- Step 3: a packet whose queue does not spill goes on chip. -/
theorem intake_of_not_spilling (haddr : Addressed p s)
    (hmax : totalBytes (s.queue p.hdr.destQueue) + p.hdr.length ≤ s.profile p.hdr.destQueue F.BufferProfile_MaxKiB * 1024)
    (hspill : s.profile p.hdr.destQueue F.BufferProfile_SpillEnable = 0) :
    intake p s = admitOnChip p s := by
  obtain ⟨henabled, c1, c2, c3, hpath⟩ := haddr
  simp [intake, henabled, hpath, Nat.not_lt.mpr hmax, hspill]

theorem admitOnChip_of_not_fitsOnChip (hchip : ¬ FitsOnChip p s) : admitOnChip p s = tmDrop .onchipLimit p s :=
  if_pos (Nat.not_le.mp hchip)

theorem admitOnChip_of_not_fitsPortClass (hchip : FitsOnChip p s) (hclass : ¬ FitsPortClass p s) :
    admitOnChip p s = tmDrop .portClass p s := by
  simp only [admitOnChip, if_neg (Nat.not_lt.mpr hchip), if_pos (Nat.not_le.mp hclass)]

theorem admitOnChip_of_not_fitsFreeCells (hchip : FitsOnChip p s) (hclass : FitsPortClass p s) (hfree : ¬ FitsFreeCells p s) :
    admitOnChip p s = tmDrop .bufferFull p s := by
  simp only [admitOnChip, if_neg (Nat.not_lt.mpr hchip), if_neg (Nat.not_lt.mpr hclass), if_pos (Nat.not_le.mp hfree)]

theorem admitOnChip_of_no_descriptor (hchip : FitsOnChip p s) (hclass : FitsPortClass p s) (hfree : FitsFreeCells p s)
    (hdesc : s.freeDescs = 0) : admitOnChip p s = tmDrop .noDescriptor p s := by
  have hnone : firstFree s.usedDescs (min 1 s.freeDescs) = [] := by rw [hdesc]; exact List.take_zero
  simp only [admitOnChip, if_neg (Nat.not_lt.mpr hchip), if_neg (Nat.not_lt.mpr hclass), if_neg (Nat.not_lt.mpr hfree), hnone]

/-- Step 8: the packet is linked at the tail of its queue. -/
theorem admitOnChip_links {d : Nat} (hchip : FitsOnChip p s) (hclass : FitsPortClass p s) (hfree : FitsFreeCells p s)
    (hdesc : s.freeDescs ≠ 0) (hfirst : firstFree s.usedDescs 1 = [d]) :
    admitOnChip p s = lowWater s.freeCells s.freeDescs (linkPacket p (fun p' t => t.setQueue p.hdr.destQueue
      (s.queue p.hdr.destQueue ++ [.chip p' d (firstFree s.usedCells p.cellCount)])) s) := by
  have hone : min 1 s.freeDescs = 1 := Nat.min_eq_left (Nat.one_le_iff_ne_zero.mpr hdesc)
  simp only [admitOnChip, if_neg (Nat.not_lt.mpr hchip), if_neg (Nat.not_lt.mpr hclass), if_neg (Nat.not_lt.mpr hfree), hone,
    hfirst]

end Admission

end Sys2Proof.Machine

namespace Sys2Proof
open Machine

/-- Settles O12: none of the three objects is stored, so a granted write is its row's effect. -/
theorem fabricWritesTakeEffect : Obligations.FabricWritesTakeEffect := by
  unfold Obligations.FabricWritesTakeEffect
  exact ⟨fun _ _ _ _ h => exec_fabricAction_granted (by decide) rfl h fun old => tmEffect_queueFlush old _ _,
    fun _ _ _ _ h => exec_fabricAction_granted (by decide) rfl h fun old => tmEffect_meshLeaveRequest old _ _,
    fun _ _ _ _ _ h => exec_fabricAction_granted (by decide) rfl h fun old => tmEffect_portRetrain old _ _⟩

/-- Settles O35: the checks before the one that fails have passed, which leaves its own equation. -/
theorem admissionFollowsR208 : Obligations.AdmissionFollowsR208 := by
  unfold Obligations.AdmissionFollowsR208
  rintro p s _ _ _ d c1 c2 c3 rfl rfl rfl henabled hpath
  have haddr : Addressed p s := ⟨henabled, c1, c2, c3, hpath⟩
  refine ⟨intake_of_above_maxKiB haddr, fun hmax hspill => ?_⟩
  rw [intake_of_not_spilling haddr hmax hspill]
  exact ⟨fun h => admitOnChip_of_not_fitsOnChip (Nat.not_le.mpr h), fun hchip =>
    ⟨fun h => admitOnChip_of_not_fitsPortClass hchip (Nat.not_le.mpr h), fun hclass =>
      ⟨fun h => admitOnChip_of_not_fitsFreeCells hchip hclass (Nat.not_le.mpr h), fun hfree =>
        ⟨admitOnChip_of_no_descriptor hchip hclass hfree, admitOnChip_links hchip hclass hfree⟩⟩⟩⟩

end Sys2Proof
end

section
/-! SUPPORT. The timers of chapter 10: a level's refill tick, the slots of the calendar's wheel, and the gates of a port. -/
namespace Sys2Proof.Machine

/-! ### Refill ticks (R233, R234) -/

/-- A level at its refill tick, before its shapers are refilled: the rows of the level that wait are in effect and wait no
longer. -/
abbrev withWaitingRows (level : Nat) (s : State) : State :=
  ((s.sched.waiting.filter fun k => k / 2 ^ 20 == level).foldl (fun a k => installRow level (k % 2 ^ 20) a) s).upSched
    fun c => { c with waiting := c.waiting.filter fun k => k / 2 ^ 20 != level }

theorem exec_shaperRefill (level : Fin 5) (s : State) :
    exec (.shaperRefill level) s = .next ((shapedRows (withWaitingRows level.val s).toBlocks level.val).foldl
      (fun a row => refillNode level.val row a) (withWaitingRows level.val s)) :=
  rfl

/-- A node with only its committed shaper on keeps its peak credit. -/
theorem refillNode_of_committed_only {level row : Nat} {s : State} (hon : s.node level row F.SchedQueue_CommittedEnable = 1)
    (hoff : s.node level row F.SchedQueue_PeakEnable = 0) :
    refillNode level row s = s.updNode (nodeKey level row) fun n => { n with
      comm := refillCredit n.comm (s.node level row F.SchedQueue_CommittedBurst)
        (refillAmount (nodeMode s.toBlocks level row).1 (s.node level row F.SchedQueue_CommittedRate) (levelTick level)) } := by
  simp only [refillNode, hon, hoff, if_true, Nat.zero_ne_one, if_false]

/-! ### Slots of the wheel (R236, R237) -/

/-- The nodes that wait for a slot that has started, the oldest slots first. -/
abbrev startedNodes (s : State) : List (Nat × NodeRT) :=
  (s.sched.nodes.filter fun e => !e.2.released && decide (e.2.ne / 65536 ≤ s.slotTime / 65536)).insertionSort
    fun a b => a.2.ne / 65536 ≤ b.2.ne / 65536

/-- The wheel lets the given nodes go. -/
abbrev releaseNodes (l : List (Nat × NodeRT)) (s : State) : State :=
  l.foldl (fun a e => a.updNode e.1 fun n => { n with released := true }) s

/-- A node that must wait for the next slot. -/
abbrev slipNode (s : State) : State := raise (src 5 2) (s.add64 O.CalendarSlip 0 0 1)

/-- Every node above the first 64 slips, however many there are. -/
theorem exec_calendarSlotRelease (s : State) :
    exec .calendarSlotRelease s =
      .next (slipNode^[(startedNodes s).length - 64] (releaseNodes ((startedNodes s).take 64) s)) := by
  change Host.Outcome.next (((startedNodes s).drop 64).foldl (fun a _ => slipNode a)
    (releaseNodes ((startedNodes s).take 64) s)) = _
  rw [List.foldl_const, List.length_drop]

/-! ### Gates (R240 to R242) -/

section Gates
variable {p : Nat}

theorem gateNow_of_running {b : Blocks} {l : GateList} {i st d : Nat} (hgated : b.gated p = true)
    (hrun : b.runningList p = some l) (hnow : l.now b.gridQ = (i, st, d)) : gateNow b p = (i, st) := by
  simp only [gateNow, hgated, Bool.not_true, Bool.false_eq_true, if_false, hrun, hnow]

theorem gateNow_of_no_list {b : Blocks} (hgated : b.gated p = true) (hnone : b.runningList p = none) :
    gateNow b p = (0, b.notRunning p) := by
  simp only [gateNow, hgated, Bool.not_true, Bool.false_eq_true, if_false, hnone]

theorem gateNow_of_not_gated {b : Blocks} (hoff : b.gated p = false) : gateNow b p = (0, 255) := by
  simp only [gateNow, hoff, Bool.not_false, if_true]

end Gates

/-- At a boundary the port latches what its gates are now. -/
theorem exec_gateEntryChange {port : Fin 128} {s : State} {i st : Nat} (hnow : gateNow s.toBlocks port.val = (i, st)) :
    exec (.gateEntryChange port) s = .next (s.updGate port.val fun g => { g with entry := i, states := st }) := by
  change Host.Outcome.next (gateRefresh port.val s) = _
  simp only [gateRefresh, hnow]

theorem exec_gateListStart {port : Fin 128} {s : State} {l : GateList} {start : Nat}
    (hpend : (s.gate port.val).pend = some (l, start)) (hcome : start ≤ s.gridQ) :
    exec (.gateListStart port) s = .next (raise (src 5 6)
      (gateRefresh port.val (s.updGate port.val fun g => { g with oper := some l, pend := none }))) := by
  change execGateListStart port s = _
  simp only [execGateListStart, hpend, hcome, if_true]

end Sys2Proof.Machine

namespace Sys2Proof
open Machine

/-- Settles O37: the refill tick and one node's refill, the slots of the wheel by how many nodes slip, and the gates by what
they are at a boundary or at a list's start. -/
theorem schedulerTimersRun : Obligations.SchedulerTimersRun := by
  unfold Obligations.SchedulerTimersRun
  refine ⟨⟨?tick, ?refill⟩, ?slots, fun s port l i st d hgated hrun hnow => ?running, fun s port hgated hnone => ?suspended,
    fun s port hoff => ?ungated, fun s port l start => exec_gateListStart⟩
  case tick =>
    rintro s level _ _ rfl rfl
    exact exec_shaperRefill level s
  case refill =>
    rintro level row s _ _ _ rfl rfl hon hoff rfl
    exact refillNode_of_committed_only hon hoff
  case slots =>
    rintro s _ _ rfl rfl
    rw [exec_calendarSlotRelease]
    refine ⟨fun hall => ?_, fun e hone => ?_⟩
    · rw [Nat.sub_eq_zero_of_le hall, Function.iterate_zero, id]
    · have hslipped : (startedNodes s).length - 64 = 1 := by rw [← List.length_drop, hone, List.length_singleton]
      rw [hslipped, Function.iterate_one]
  case running => exact exec_gateEntryChange (gateNow_of_running hgated hrun hnow)
  case suspended => exact exec_gateEntryChange (gateNow_of_no_list hgated hnone)
  case ungated => exact exec_gateEntryChange (gateNow_of_not_gated hoff)

end Sys2Proof
end

section
/-! SUPPORT. The mesh on the wire: what a big-endian number and a check sequence leave to read, and how cells, header cells
and carriage headers read back. -/
namespace Sys2Proof.Machine

/-! ### Scrambling (R259) -/

theorem scramble_scramble : ∀ (g : Nat) (b : Bytes), scramble g (scramble g b) = b
  | _, [] => rfl
  | g, x :: t => by
    simp only [scramble, scramble_scramble (prbsNext g) t, BitVec.xor_assoc, BitVec.xor_self, BitVec.xor_zero]

theorem headerOnWire_headerOnWire (b : Bytes) : headerOnWire (headerOnWire b) = b := by
  rcases Nat.le_total b.length 8 with hshort | hlong
  · have hwire : headerOnWire b = b := by
      simp only [headerOnWire, List.take_of_length_le hshort, List.drop_of_length_le hshort, scramble, List.append_nil]
    rw [hwire, hwire]
  · have htake : (b.take 8).length = 8 := List.length_take_of_le hlong
    simp only [headerOnWire, List.take_left' htake, List.drop_left' htake, scramble_scramble, List.take_append_drop]

/-! ### Big-endian numbers (R9) -/

@[simp] theorem length_beBytes : ∀ n v : Nat, (beBytes n v).length = n
  | 0, _ => rfl
  | n + 1, v => by simp only [beBytes, List.length_cons, length_beBytes n v]

theorem beNat_append (a b : Bytes) : beNat (a ++ b) = beNat a * 256 ^ b.length + beNat b := by
  have hfrom : ∀ (b : Bytes) (k : Nat), b.foldl (fun a x => a * 256 + x.toNat) k = k * 256 ^ b.length + beNat b := by
    intro b
    induction b with
    | nil => intro k; simp [beNat]
    | cons x t ih =>
      intro k
      rw [beNat, List.foldl_cons, List.foldl_cons, ih, ih, List.length_cons, pow_succ]
      ring
  rw [beNat, List.foldl_append, hfrom]
  rfl

theorem beNat_beBytes : ∀ n v : Nat, beNat (beBytes n v) = v % 256 ^ n
  | 0, v => (Nat.mod_one v).symm
  | n + 1, v => by
    have hbyte : beNat [BitVec.ofNat 8 (v / 256 ^ n)] = v / 256 ^ n % 256 := Nat.zero_add _
    rw [beBytes, ← List.singleton_append, beNat_append, hbyte, length_beBytes, beNat_beBytes n v, Nat.mod_pow_succ,
      Nat.mul_comm, Nat.add_comm]

/-- `n` bytes hold every number of 8 `n` bits. -/
theorem mod_pow_256_of_lt {n v : Nat} (h : v < 2 ^ (8 * n)) : v % 256 ^ n = v :=
  Nat.mod_eq_of_lt (by rwa [pow_mul] at h)

theorem beAt_append_right {a : Bytes} {i : Nat} (h : a.length ≤ i) (b : Bytes) (n : Nat) :
    beAt (a ++ b) i n = beAt b (i - a.length) n := by
  rw [beAt, beAt, List.drop_append, List.drop_of_length_le h, List.nil_append]

/-- A number is read back at the front of its bytes. -/
theorem beAt_beBytes_front (n v : Nat) (b : Bytes) : beAt (beBytes n v ++ b) 0 n = v % 256 ^ n := by
  rw [beAt, List.drop_zero, List.take_left' (length_beBytes n v), beNat_beBytes]

theorem beAt_beBytes (n v : Nat) : beAt (beBytes n v) 0 n = v % 256 ^ n := by
  rw [← List.append_nil (beBytes n v), beAt_beBytes_front]

/-- What stands behind a number is read without it. -/
theorem beAt_beBytes_skip {m i : Nat} (h : m ≤ i) (v : Nat) (b : Bytes) (n : Nat) :
    beAt (beBytes m v ++ b) i n = beAt b (i - m) n := by
  rw [beAt_append_right (by rwa [length_beBytes]), length_beBytes]

/-! ### Numbers packed of fields (R37) -/

/-- Fields, as (width, value), packed below `a`, each above those that follow it. -/
def packed : Nat → List (Nat × Nat) → Nat
  | a, [] => a
  | a, (w, v) :: t => packed (a * 2 ^ w + v) t

/-- The bits that fields take. -/
def widthOf : List (Nat × Nat) → Nat
  | [] => 0
  | (w, _) :: t => widthOf t + w

/-- Every field is within its width. -/
abbrev Fits (l : List (Nat × Nat)) : Prop := ∀ e ∈ l, e.2 < 2 ^ e.1

/-- Fields within their widths carry nothing into what stands above them. -/
theorem packed_div : ∀ {l : List (Nat × Nat)}, Fits l → ∀ a, packed a l / 2 ^ widthOf l = a
  | [], _, a => Nat.div_one a
  | (w, v) :: t, hfits, a => by
    obtain ⟨hv, ht⟩ := List.forall_mem_cons.mp hfits
    rw [widthOf, pow_add, ← Nat.div_div_eq_div_mul, packed, packed_div ht, Nat.mul_comm, Nat.mul_add_div (Nat.two_pow_pos w),
      Nat.div_eq_of_lt hv, Nat.add_zero]

theorem packed_lt {l : List (Nat × Nat)} {w : Nat} (hfits : Fits l) (hw : widthOf l = w) : packed 0 l < 2 ^ w :=
  hw ▸ (Nat.div_eq_zero_iff_lt (Nat.two_pow_pos _)).mp (packed_div hfits 0)

/-- The field at place `i` stands above the bits that the later ones take. -/
theorem packed_field : ∀ {l : List (Nat × Nat)}, Fits l → ∀ (a i : Nat) {w v : Nat}, l[i]? = some (w, v) →
    packed a l / 2 ^ widthOf (l.drop (i + 1)) % 2 ^ w = v
  | (w, v) :: t, hfits, a, 0, _, _, rfl => by
    obtain ⟨hv, ht⟩ := List.forall_mem_cons.mp hfits
    rw [packed, List.drop_one, List.tail_cons, packed_div ht, Nat.mul_comm, Nat.mul_add_mod, Nat.mod_eq_of_lt hv]
  | _ :: _, hfits, _, i + 1, _, _, hat => packed_field (List.forall_mem_cons.mp hfits).2 _ i hat

theorem bitsOf_packed {l : List (Nat × Nat)} (hfits : Fits l) (i : Nat) {w v hi lo : Nat} (hat : l[i]? = some (w, v) := by rfl)
    (hlo : widthOf (l.drop (i + 1)) = lo := by rfl) (hhi : hi - lo + 1 = w := by rfl) : bitsOf hi lo (packed 0 l) = v := by
  subst hlo hhi
  exact packed_field hfits 0 i hat

theorem bit_lt_two (b : Bool) : bit b < 2 ^ 1 := by cases b <;> decide

theorem testBit_of_div_mod {v i : Nat} {b : Bool} (h : v / 2 ^ i % 2 = bit b) : v.testBit i = b := by
  rw [Nat.testBit_eq_decide_div_mod_eq, h]
  cases b <;> rfl

theorem testBit_packed {l : List (Nat × Nat)} (hfits : Fits l) (i : Nat) {b : Bool} {lo : Nat}
    (hat : l[i]? = some (1, bit b) := by rfl) (hlo : widthOf (l.drop (i + 1)) = lo := by rfl) : (packed 0 l).testBit lo = b :=
  testBit_of_div_mod (hlo ▸ packed_field hfits 0 i hat)

/-! ### Check sequences -/

theorem crcByteRefl_lt {w poly crc : Nat} (hw : 8 ≤ w) (hpoly : poly < 2 ^ w) (hcrc : crc < 2 ^ w) (b : Byte) :
    crcByteRefl poly crc b < 2 ^ w := by
  have hbyte : b.toNat < 2 ^ w := lt_of_lt_of_le b.isLt (Nat.pow_le_pow_right (by decide) hw)
  refine List.foldlRecOn (motive := (· < 2 ^ w)) _ _ (Nat.xor_lt_two_pow hcrc hbyte) fun c hc _ _ => ?_
  have hhalf : c / 2 < 2 ^ w := lt_of_le_of_lt (Nat.div_le_self c 2) hc
  split
  · exact Nat.xor_lt_two_pow hhalf hpoly
  · exact hhalf

theorem crc32c_lt (b : Bytes) : crc32c 0xFFFFFFFF b < 2 ^ 32 :=
  Nat.xor_lt_two_pow (List.foldlRecOn (motive := (· < 2 ^ 32)) b _ (by decide)
    fun _ hcrc x _ => crcByteRefl_lt (by decide) (by decide) hcrc x) (by decide)

theorem crcByteMsb_lt {w poly crc : Nat} (hpoly : poly < 2 ^ w) (hcrc : crc < 2 ^ w) (b : Byte) :
    crcByteMsb w poly crc b < 2 ^ w := by
  refine List.foldlRecOn (motive := (· < 2 ^ w)) _ _ hcrc fun c _ i _ => ?_
  have hshift : c * 2 % 2 ^ w < 2 ^ w := Nat.mod_lt _ (Nat.two_pow_pos w)
  dsimp only
  split
  · exact hshift
  · exact Nat.xor_lt_two_pow hshift hpoly

theorem headerCrc_lt (b : Bytes) : headerCrc b < 2 ^ 16 :=
  List.foldlRecOn (motive := (· < 2 ^ 16)) _ _ (by decide) fun _ hcrc x _ => crcByteMsb_lt (by decide) hcrc x

/-- HeaderCrc does not cover itself. -/
theorem headerCrc_append {a : Bytes} (h : a.length = 286) (b : Bytes) : headerCrc (a ++ b) = headerCrc a := by
  rw [headerCrc, headerCrc, List.drop_append_of_le_length (by omega), List.take_append_of_le_length (by simp [h])]

/-! ### Cells (Table 11-4) -/

@[simp] theorem length_cellHeader (c : Cell) : (cellHeader c).length = 28 := length_beBytes _ _

abbrev cellCrc (c : Cell) : Nat := crc32c 0xFFFFFFFF (cellHeader c ++ c.payload)

theorem length_cellBytes {c : Cell} (h : c.payload.length = 256) : (cellBytes c).length = 288 := by
  simp only [cellBytes, List.length_append, length_cellHeader, length_beBytes, h]

theorem payload_cellBytes {c : Cell} (h : c.payload.length = 256) : ((cellBytes c).drop 32).take 256 = c.payload := by
  rw [cellBytes, List.drop_left' (by simp), List.take_of_length_le (le_of_eq h)]

theorem header_cellBytes (c : Cell) : (cellBytes c).take 28 = cellHeader c := by
  rw [cellBytes, List.append_assoc, List.take_left' (length_cellHeader c)]

theorem crc_cellBytes (c : Cell) : beAt (cellBytes c) 28 4 = cellCrc c := by
  rw [cellBytes, List.append_assoc, beAt_append_right (length_cellHeader c).le, length_cellHeader, Nat.sub_self,
    beAt_beBytes_front, mod_pow_256_of_lt (crc32c_lt _)]

/-- The fields of a cell's header in the order of Table 11-4, without CellCrc. -/
abbrev cellFields (c : Cell) : List (Nat × Nat) :=
  [(4, c.kind), (1, bit c.relayed), (4, c.src), (4, c.dst), (4, c.via), (3, c.cls), (24, c.seq), (4, c.index), (4, c.size),
    (9, c.first), (9, c.valid), (1, bit c.mc), (16, c.mcId), (32, c.stamp), (105, 0)]

theorem cellHeader_eq (c : Cell) : cellHeader c = beBytes 28 (packed 0 (cellFields c)) := by
  refine congrArg (beBytes 28) ?_
  simp only [packed]
  omega

/-- A cell's first 32 bytes are one number. -/
theorem word_cellBytes {c : Cell} (hfits : Fits (cellFields c)) :
    beAt (cellBytes c) 0 32 = packed 0 (cellFields c ++ [(32, cellCrc c)]) := by
  rw [beAt, List.drop_zero, cellBytes, List.take_left' (by simp), beNat_append, cellHeader_eq, beNat_beBytes, beNat_beBytes,
    length_beBytes, mod_pow_256_of_lt (packed_lt hfits rfl), ← cellHeader_eq, mod_pow_256_of_lt (crc32c_lt _)]
  rfl

theorem readCell_cellBytes {c : Cell} (hkind : c.kind < 16) (hsrc : c.src < 16) (hdst : c.dst < 16) (hvia : c.via < 16)
    (hcls : c.cls < 8) (hseq : c.seq < 2 ^ 24) (hindex : c.index < 16) (hsize : c.size < 16) (hfirst : c.first < 512)
    (hvalid : c.valid < 512) (hmcId : c.mcId < 65536) (hstamp : c.stamp < 2 ^ 32) (hpayload : c.payload.length = 256)
    (hstarts : c.starts = 0) : readCell (cellBytes c) = some c := by
  have hfields : Fits (cellFields c) := by
    simp only [Fits, List.forall_mem_cons]
    exact ⟨hkind, bit_lt_two _, hsrc, hdst, hvia, hcls, hseq, hindex, hsize, hfirst, hvalid, bit_lt_two _, hmcId, hstamp,
      by decide, List.forall_mem_nil _⟩
  have hfits : Fits (cellFields c ++ [(32, cellCrc c)]) :=
    List.forall_mem_append.mpr ⟨hfields, List.forall_mem_singleton.mpr (crc32c_lt _)⟩
  simp only [readCell, length_cellBytes hpayload, header_cellBytes, payload_cellBytes hpayload, crc_cellBytes,
    word_cellBytes hfields, ne_eq, not_true_eq_false, or_self, if_false, Option.some.injEq]
  exact (Cell.mk.injEq ..).mpr ⟨bitsOf_packed hfits 0, testBit_packed hfits 1, bitsOf_packed hfits 2, bitsOf_packed hfits 3,
    bitsOf_packed hfits 4, bitsOf_packed hfits 5, bitsOf_packed hfits 6, bitsOf_packed hfits 7, bitsOf_packed hfits 8,
    bitsOf_packed hfits 9, bitsOf_packed hfits 10, testBit_packed hfits 11, bitsOf_packed hfits 12, bitsOf_packed hfits 13, rfl,
    hstarts.symm⟩

/-! ### Carriage headers (Table 1-4) -/

/-- The fields of a carriage header in the order of Table 1-4. -/
abbrev hdrFields (h : Hdr) : List (Nat × Nat) :=
  [(6, h.genTag), (16, h.flowHash), (4, h.destCard), (8, h.destPort), (19, h.destQueue), (3, h.cls), (2, h.colour),
    (1, bit h.sealed), (1, bit h.sample), (6, h.punt), (1, bit h.launchValid), (1, bit h.pass), (8, h.srcPort), (14, h.length),
    (24, h.editPtr), (14, 0), (64, h.stamp), (64, h.launch)]

theorem hdrBytes_eq (h : Hdr) : hdrBytes h = beBytes 32 (packed 0 (hdrFields h)) := by
  refine congrArg (beBytes 32) ?_
  simp only [packed]
  omega

theorem readHdr_hdrBytes {h : Hdr} (hgenTag : h.genTag < 64) (hflowHash : h.flowHash < 65536) (hdestCard : h.destCard < 16)
    (hdestPort : h.destPort < 256) (hdestQueue : h.destQueue < 2 ^ 19) (hcls : h.cls < 8) (hcolour : h.colour < 4)
    (hpunt : h.punt < 64) (hsrcPort : h.srcPort < 256) (hlength : h.length < 2 ^ 14) (heditPtr : h.editPtr < 2 ^ 24)
    (hstamp : h.stamp < 2 ^ 64) (hlaunch : h.launch < 2 ^ 64) : readHdr (hdrBytes h) = h := by
  have hfits : Fits (hdrFields h) := by
    simp only [Fits, List.forall_mem_cons]
    exact ⟨hgenTag, hflowHash, hdestCard, hdestPort, hdestQueue, hcls, hcolour, bit_lt_two _, bit_lt_two _, hpunt, bit_lt_two _,
      bit_lt_two _, hsrcPort, hlength, heditPtr, by decide, hstamp, hlaunch, List.forall_mem_nil _⟩
  simp only [readHdr, hdrBytes_eq, beAt_beBytes, mod_pow_256_of_lt (packed_lt hfits (rfl : _ = 8 * 32))]
  exact (Hdr.mk.injEq ..).mpr ⟨bitsOf_packed hfits 0, bitsOf_packed hfits 1, bitsOf_packed hfits 2, bitsOf_packed hfits 3,
    bitsOf_packed hfits 4, bitsOf_packed hfits 5, bitsOf_packed hfits 6, testBit_packed hfits 7, testBit_packed hfits 8,
    bitsOf_packed hfits 9, testBit_packed hfits 10, testBit_packed hfits 11, bitsOf_packed hfits 12, bitsOf_packed hfits 13,
    bitsOf_packed hfits 14, bitsOf_packed hfits 16, bitsOf_packed hfits 17⟩

/-! ### Header cells (Table 11-3) -/

/-- The 64 bytes of a header cell before its management channel. -/
def headerFront (h : PeerHdr) : Bytes :=
  beBytes 8 alignWord ++ beBytes 1 h.frame ++ beBytes 4 h.cycle ++ beBytes 1 (h.card * 16 + h.group)
    ++ beBytes 1 (h.width * 16 + h.mode) ++ beBytes 1 h.fill
    ++ beBytes 1 (h.grid * 64 + bit h.pdi * 32 + h.align * 8 + bit h.leaving * 4 + bit h.swapValid * 2 + bit h.step)
    ++ beBytes 1 h.version ++ beBytes 2 h.txMap ++ beBytes 2 h.active ++ beBytes 2 h.xoff ++ beBytes 4 h.page
    ++ beBytes 4 h.standby ++ beBytes 4 h.swapCycle ++ beBytes 2 h.agree ++ beBytes 8 h.relay ++ beBytes 1 h.echoFrame
    ++ beBytes 1 0 ++ beBytes 4 h.echoStamp ++ beBytes 2 h.request ++ beBytes 2 h.grant ++ beBytes 2 h.accept
    ++ beBytes 2 h.lanes ++ beBytes 4 0

/-- A header cell before its HeaderCrc. -/
def headerBody (h : PeerHdr) : Bytes :=
  headerFront h ++ (h.mgmt ++ List.replicate 128 0).take 128 ++ List.replicate 94 0

theorem headerBytes_eq (h : PeerHdr) : headerBytes h = headerBody h ++ beBytes 2 (headerCrc (headerBody h)) := rfl

theorem length_headerFront (h : PeerHdr) : (headerFront h).length = 64 := by
  unfold headerFront
  simp only [List.length_append, length_beBytes]

theorem length_headerBody {h : PeerHdr} (hmgmt : h.mgmt.length = 128) : (headerBody h).length = 286 := by
  simp only [headerBody, List.length_append, length_headerFront, List.take_left' hmgmt, hmgmt, List.length_replicate]

theorem length_headerBytes {h : PeerHdr} (hmgmt : h.mgmt.length = 128) : (headerBytes h).length = 288 := by
  rw [headerBytes_eq, List.length_append, length_headerBody hmgmt, length_beBytes]

theorem headerCrc_headerBytes {h : PeerHdr} (hmgmt : h.mgmt.length = 128) :
    headerCrc (headerBytes h) = beAt (headerBytes h) 286 2 := by
  have hbody := length_headerBody hmgmt
  rw [headerBytes_eq, headerCrc_append hbody, beAt_append_right hbody.le, hbody, Nat.sub_self, beAt_beBytes,
    mod_pow_256_of_lt (headerCrc_lt _)]

/-- What follows the first 64 bytes. -/
theorem headerBytes_eq_front_append (h : PeerHdr) :
    headerBytes h = headerFront h ++ ((h.mgmt ++ List.replicate 128 0).take 128 ++ (List.replicate 94 0 ++
      beBytes 2 (headerCrc (headerBody h)))) := by
  rw [headerBytes_eq, headerBody, List.append_assoc, List.append_assoc]

theorem alignsAt_headerBytes (h : PeerHdr) : alignsAt (headerBytes h) = true := by
  rw [alignsAt, headerBytes_eq_front_append]
  unfold headerFront
  simp only [List.append_assoc, beAt_beBytes_front]
  rfl

theorem mgmt_headerBytes {h : PeerHdr} (hmgmt : h.mgmt.length = 128) : ((headerBytes h).drop 64).take 128 = h.mgmt := by
  rw [headerBytes_eq_front_append, List.drop_left' (length_headerFront h), List.take_left' hmgmt, List.take_left' hmgmt]

theorem readHeader_headerBytes {h : PeerHdr} (hframe : h.frame < 128) (hcycle : h.cycle < 2 ^ 32) (hcard : h.card < 16)
    (hgroup : h.group < 16) (hwidth : h.width < 16) (hmode : h.mode < 16) (hfill : h.fill < 256) (hgrid : h.grid < 4)
    (halign : h.align < 4) (hversion : h.version < 256) (htxMap : h.txMap < 65536) (hactive : h.active < 65536)
    (hxoff : h.xoff < 65536) (hpage : h.page < 2 ^ 32) (hstandby : h.standby < 2 ^ 32) (hswapCycle : h.swapCycle < 2 ^ 32)
    (hagree : h.agree < 65536) (hrelay : h.relay < 2 ^ 64) (hechoFrame : h.echoFrame < 128) (hechoStamp : h.echoStamp < 2 ^ 32)
    (hrequest : h.request < 65536) (hgrant : h.grant < 8192) (haccept : h.accept < 8192) (hlanes : h.lanes < 4096)
    (hmgmt : h.mgmt.length = 128) : readHeader (headerBytes h) = some h := by
  have hpdi := bit_lt_two h.pdi
  have hleaving := bit_lt_two h.leaving
  have hswapValid := bit_lt_two h.swapValid
  have hstep := bit_lt_two h.step
  simp only [readHeader, length_headerBytes hmgmt, alignsAt_headerBytes, headerCrc_headerBytes hmgmt, mgmt_headerBytes hmgmt, ne_eq,
    not_true_eq_false, Bool.not_true, Bool.false_eq_true, or_self, if_false, Option.some.injEq]
  rw [headerBytes_eq_front_append]
  unfold headerFront
  simp only [List.append_assoc, beAt_beBytes_skip, Nat.reduceLeDiff, Nat.reduceSub, Nat.sub_self, le_refl, beAt_beBytes_front]
  refine (PeerHdr.mk.injEq ..).mpr ⟨?_, ?_, ?_, ?_, ?_, ?_, ?_, ?_, testBit_of_div_mod ?_, ?_, testBit_of_div_mod ?_,
    testBit_of_div_mod ?_, testBit_of_div_mod ?_, ?_, ?_, ?_, ?_, ?_, ?_, ?_, ?_, ?_, ?_, ?_, ?_, ?_, ?_, ?_, rfl⟩ <;> omega

end Sys2Proof.Machine

namespace Sys2Proof
open Machine

/-- Settles O7: fields within their widths do not overlap in a number, a check sequence fits its bytes, and scrambling adds the
same generator's bytes twice. -/
theorem meshBytesReadBack : Obligations.MeshBytesReadBack := by
  unfold Obligations.MeshBytesReadBack
  exact ⟨fun _ => readCell_cellBytes, fun _ => readHeader_headerBytes, headerOnWire_headerOnWire, fun _ => scramble_scramble _,
    fun _ => readHdr_hdrBytes⟩

end Sys2Proof
end

section
/-! SUPPORT. The mesh, sending side: how frames and cycles begin. -/
namespace Sys2Proof.Machine

/-! ### Frames (R258, R264) -/

section Frames
variable {s : State} {d : Int} {l : List Int} {e q : Nat}

theorem exec_rackFrameStart_same (hsteps : s.mesh.steps = []) (hsame : s.mesh.lastFrame = some (s.framingQ [] / frameQ)) :
    exec .rackFrameStart s = .next s := by
  change execRackFrameStart s = _
  simp only [execRackFrameStart, hsteps, hsame, if_true]

theorem exec_rackFrameStart_next (hsteps : s.mesh.steps = []) (hnew : s.mesh.lastFrame ≠ some (s.framingQ [] / frameQ)) :
    exec .rackFrameStart s = .next (rackFrame (s.framingQ []) s) := by
  change execRackFrameStart s = _
  simp only [execRackFrameStart, hsteps, hnew, if_false]

/-- The first frame after a step carries Step, on the timing before it. -/
theorem exec_rackFrameStart_announcing (hsteps : s.mesh.steps = d :: l) (hend : s.mesh.stepEnd = none)
    (hnew : s.mesh.lastFrame ≠ some (s.framingQ (d :: l) / frameQ)) :
    exec .rackFrameStart s = .next (stepFrame (s.framingQ (d :: l)) s) := by
  change execRackFrameStart s = _
  simp only [execRackFrameStart, hsteps, hend, hnew, if_false]

/-- While the frame that carried Step lasts, and 125 ns more, none begins on the new timing. -/
theorem exec_rackFrameStart_waiting (hsteps : s.mesh.steps = d :: l) (hend : s.mesh.stepEnd = some e)
    (hsoon : s.quarters < e + frameQ + s.framingQ l % frameQ) : exec .rackFrameStart s = .next s := by
  change execRackFrameStart s = _
  simp only [execRackFrameStart, hsteps, hend, hsoon, if_true]

/-- The framing has followed a step; those of `l` it has not. -/
abbrev stepFollowed (l : List Int) (s : State) : State := s.upMesh fun m => { m with steps := l, stepEnd := none }

theorem exec_rackFrameStart_following (hsteps : s.mesh.steps = d :: l) (hend : s.mesh.stepEnd = some e)
    (hdue : e + frameQ + s.framingQ l % frameQ ≤ s.quarters) :
    exec .rackFrameStart s = .next (if l.isEmpty then rackFrame (s.framingQ l) (stepFollowed l s)
      else stepFrame (s.framingQ l) (markStep (stepFollowed l s))) := by
  change execRackFrameStart s = _
  simp only [execRackFrameStart, hsteps, hend, Nat.not_lt.mpr hdue, if_false]

theorem rackFrame_eq {a u : State} {left : Tbl Nat}
    (ha : a = (List.range 16).foldl (fun a d => purgeRelay d a)
      (settleMoving (followSet (s.upMesh fun m => { m with lastFrame := some (q / frameQ) }))))
    (hrga : rgaFrame (q / frameQ % 80) a = (left, u)) :
    rackFrame q s = noteRelays (((List.range 16).filter s.groupRuns).foldl (fun a g => sendFrame q g left a) u) := by
  simp only [rackFrame, ← ha, hrga]

end Frames

section SendFrame
variable {q g : Nat} {left : Tbl Nat} {s : State}

/-- A group once the header cell of its frame has left. -/
abbrev headerSent (q g : Nat) (s : State) : State :=
  (s.emit (.header g (headerOnWire (headerBytes (headerOf s.toBlocks g q (s.group g).step))))).updGroup g
    fun r => { r with step := false, mgmt := r.mgmt.drop 1 }

theorem sendFrame_of_not_groupTx (h : (headerSent q g s).groupTx g = false) : sendFrame q g left s = headerSent q g s := by
  simp only [sendFrame, h, Bool.not_false, if_true]

theorem sendFrame_of_groupTx (h : (headerSent q g s).groupTx g = true) :
    sendFrame q g left s = (sendSlots (q / frameQ % 80) g (List.range (slotsOf (popCount 12 (s.group g).txLanes)))
      (Tbl.get 0 left g, headerSent q g s)).2 := by
  simp only [sendFrame, h, Bool.not_true, Bool.false_eq_true, if_false]

end SendFrame

/-! ### Cycles (R258) -/

theorem exec_rackCycleStart {s : State} (hnone : s.fw.rollback = none) :
    exec .rackCycleStart s = .next (rackCycleStart s) := by
  change execRackCycleStart s = _
  simp only [execRackCycleStart, hnone]

theorem exec_rackCycleStart_rollback {s : State} {r : Nat} (hsome : s.fw.rollback = some r)
    (hnew : s.mesh.lastCycle ≠ some (s.gridQ / cycleQ)) :
    exec .rackCycleStart s = .next (rackCycleStart (rollbackNow r s)) := by
  change execRackCycleStart s = _
  simp only [execRackCycleStart, hsome, hnew, ne_eq, not_false_eq_true, if_true]

end Sys2Proof.Machine

namespace Sys2Proof
open Machine

/-- Settles O45: a frame start by the steps that the framing has not followed, then what a frame sends, and a cycle start
with and without a rollback that waits. -/
theorem framesAndCyclesBegin : Obligations.FramesAndCyclesBegin := by
  unfold Obligations.FramesAndCyclesBegin
  refine ⟨?plain, ?announcing, ?following, ?frame, ?group, ?cycle⟩
  case plain =>
    rintro s _ hsteps rfl
    exact ⟨exec_rackFrameStart_same hsteps, exec_rackFrameStart_next hsteps⟩
  case announcing =>
    rintro s d l _ hsteps hend rfl hnew
    exact exec_rackFrameStart_announcing hsteps hend hnew
  case following =>
    rintro s d l e _ _ hsteps hend rfl rfl
    refine ⟨exec_rackFrameStart_waiting hsteps hend, fun hdue => ⟨fun hlast => ?_, fun hmore => ?_⟩⟩
    · rw [exec_rackFrameStart_following hsteps hend hdue, if_pos (List.isEmpty_iff.mpr hlast)]
    · rw [exec_rackFrameStart_following hsteps hend hdue, if_neg (mt List.isEmpty_iff.mp hmore)]
  case frame => exact fun q s a left u => rackFrame_eq
  case group =>
    rintro q g left s _ _ rfl rfl
    exact ⟨sendFrame_of_not_groupTx, sendFrame_of_groupTx⟩
  case cycle => exact fun s hnew => ⟨exec_rackCycleStart, fun r hsome => exec_rackCycleStart_rollback hsome hnew⟩

end Sys2Proof
end

section
/-! SUPPORT. The mesh, receiving side: how a group aligns by its header cells, and what becomes of a data cell. -/
namespace Sys2Proof.Machine

/-! ### Header cells (Table 11-5) -/

/-- A bad HeaderCrc is counted. -/
abbrev headerErrorCounted (g : Nat) (s : State) : State := s.add64 O.MeshGroupCounters g F.MeshGroupCounters_HeaderCrcErrors 1

section Align
variable {g : Fin 16} {bytes : Bytes} {fec : FecCount} {lanes : BitVec 12} {phase : Fin 5} {s u : State} {h l : PeerHdr}
variable (hruns : s.groupRuns g.val = true)
variable (hu : u = fecCounted g.val fec (s.updGroup g.val fun r => { r with lanes := lanes.toNat }))
include hruns hu

theorem exec_headerCellReceive_hunt (halign : (u.group g.val).align = 0) (hread : readHeader (headerOnWire bytes) = some h) :
    exec (.headerCellReceive g ⟨bytes, fec⟩ lanes phase) s = .next (u.updGroup g.val fun r =>
      { r with align := 1, good := 1, bad := 0, hdr := some h, rxStamp := stampOf u.toBlocks 0 phase.val }) := by
  change execHeaderCellReceive g ⟨bytes, fec⟩ lanes phase s = _
  simp only [execHeaderCellReceive, hruns, Bool.not_true, Bool.false_eq_true, if_false, ← hu, halign, hread]

theorem exec_headerCellReceive_hunt_bad (halign : (u.group g.val).align = 0) (hread : readHeader (headerOnWire bytes) = none) :
    exec (.headerCellReceive g ⟨bytes, fec⟩ lanes phase) s = .next u := by
  change execHeaderCellReceive g ⟨bytes, fec⟩ lanes phase s = _
  simp only [execHeaderCellReceive, hruns, Bool.not_true, Bool.false_eq_true, if_false, ← hu, halign, hread]

theorem exec_headerCellReceive_presync (halign : (u.group g.val).align = 1) (hread : readHeader (headerOnWire bytes) = some h)
    (hlast : (u.group g.val).hdr = some l) :
    exec (.headerCellReceive g ⟨bytes, fec⟩ lanes phase) s =
      if followsHdr l h = false then .next (toHunt g.val u)
      else if (u.group g.val).good + 1 < u.sc O.MeshSyncConfirm then .next (u.updGroup g.val fun r =>
        { r with good := r.good + 1, hdr := some h, rxStamp := stampOf u.toBlocks 0 phase.val })
      else .next (headerGood g.val phase.val h ((clearDefect g.val 3 u).updGroup g.val fun r =>
        { r with align := 2, stepAt := none })) := by
  change execHeaderCellReceive g ⟨bytes, fec⟩ lanes phase s = _
  simp only [execHeaderCellReceive, hruns, Bool.not_true, Bool.false_eq_true, if_false, ← hu, halign, hread, hlast,
    Bool.not_eq_true']

theorem exec_headerCellReceive_sync (halign : (u.group g.val).align = 2) (hread : readHeader (headerOnWire bytes) = some h) :
    exec (.headerCellReceive g ⟨bytes, fec⟩ lanes phase) s = .next (headerGood g.val phase.val h u) := by
  change execHeaderCellReceive g ⟨bytes, fec⟩ lanes phase s = _
  simp only [execHeaderCellReceive, hruns, Bool.not_true, Bool.false_eq_true, if_false, ← hu, halign, hread]

theorem exec_headerCellReceive_presync_bad (halign : (u.group g.val).align = 1) (hread : readHeader (headerOnWire bytes) = none)
    (hstep : (u.group g.val).stepAt = none) (hword : alignsAt bytes = true) :
    exec (.headerCellReceive g ⟨bytes, fec⟩ lanes phase) s = .next (toHunt g.val (headerErrorCounted g.val u)) := by
  change execHeaderCellReceive g ⟨bytes, fec⟩ lanes phase s = _
  simp [execHeaderCellReceive, hruns, ← hu, halign, hread, hstep, hword]

theorem exec_headerCellReceive_sync_bad (halign : (u.group g.val).align = 2) (hread : readHeader (headerOnWire bytes) = none)
    (hstep : (u.group g.val).stepAt = none) (hword : alignsAt bytes = true) {t : State}
    (ht : t = (headerErrorCounted g.val u).updGroup g.val fun r => { r with bad := r.bad + 1, locGood := 0 }) :
    exec (.headerCellReceive g ⟨bytes, fec⟩ lanes phase) s =
      if t.sc O.MeshSyncLoss ≤ (u.group g.val).bad + 1 then .next (toHunt g.val t) else .next t := by
  change execHeaderCellReceive g ⟨bytes, fec⟩ lanes phase s = _
  simp [execHeaderCellReceive, hruns, ← hu, halign, hread, hstep, hword, ← ht]

end Align

theorem exec_meshStepSearchTimeout {g : Fin 16} {s : State} {t0 : Nat} (hstep : (s.group g.val).stepAt = some t0)
    (hdue : t0 + nsTicks 625 ≤ s.time.ticks) : exec (.meshStepSearchTimeout g) s = .next (toHunt g.val s) := by
  change execMeshStepSearchTimeout g s = _
  simp only [execMeshStepSearchTimeout, hstep, hdue, if_true]

/-! ### Data cells (R261, R263, R266) -/

/-- A data cell is counted. -/
abbrev cellCounted (g : Nat) (s : State) : State := s.add64 O.MeshGroupCounters g F.MeshGroupCounters_CellsReceived 1

/-- A data cell whose CRC does not hold is counted as such, and its window is noted. -/
abbrev cellErrorCounted (g : Nat) (s : State) : State :=
  (s.updGroup g fun r => { r with crcAt := some s.window }).add64 O.MeshGroupCounters g F.MeshGroupCounters_CellCrcErrors 1

section Cells
variable {g : Fin 16} {k : Fin 128} {bytes : Bytes} {s : State}
variable (hruns : s.groupRuns g.val = true) (hsync : (s.group g.val).align = 2) (hpeer : (s.group g.val).mismatch = false)
include hruns hsync hpeer

theorem exec_dataCellReceive_bad (hread : readCell (slotOnWire k.val bytes) = none) :
    exec (.dataCellReceive g k bytes) s = .next (raiseDefect g.val 8 (cellErrorCounted g.val (cellCounted g.val s))) := by
  change execDataCellReceive g k bytes s = _
  simp [execDataCellReceive, hruns, hsync, hpeer, hread]

theorem exec_dataCellReceive_good {c : Cell} (hread : readCell (slotOnWire k.val bytes) = some c) :
    exec (.dataCellReceive g k bytes) s = .next (noteRelays (placeCell c (cellCounted g.val s))) := by
  change execDataCellReceive g k bytes s = _
  simp [execDataCellReceive, hruns, hsync, hpeer, hread]

end Cells

end Sys2Proof.Machine

namespace Sys2Proof
open Machine

/-- Settles O46: a header cell by the group's alignment and whether it reads back, a data cell by whether its CRC holds. -/
theorem groupsReceive : Obligations.GroupsReceive := by
  unfold Obligations.GroupsReceive
  refine ⟨?header, ?cell, fun s g t0 => exec_meshStepSearchTimeout⟩
  case header =>
    rintro s g bytes lanes phase fec u _ hruns hu rfl
    refine ⟨?good, fun hread => ⟨fun halign => ?huntBad, fun halign hstep hword => ?presyncBad, ?syncBad⟩⟩
    case good =>
      rintro h _ hread rfl
      refine ⟨fun halign => ?hunt, fun l halign hlast => ?presync, fun halign => ?sync⟩
      case hunt => exact exec_headerCellReceive_hunt hruns hu halign hread
      case presync =>
        rw [exec_headerCellReceive_presync hruns hu halign hread hlast]
        refine ⟨fun hother => if_pos hother, fun hfollows hfew => ?_, fun hfollows hmany => ?_⟩
        · rw [hfollows, if_neg (by decide), if_pos hfew]
        · rw [hfollows, if_neg (by decide), if_neg (Nat.not_lt.mpr hmany)]
      case sync => exact exec_headerCellReceive_sync hruns hu halign hread
    case huntBad => exact exec_headerCellReceive_hunt_bad hruns hu halign hread
    case presyncBad => exact exec_headerCellReceive_presync_bad hruns hu halign hread hstep hword
    case syncBad =>
      intro halign hstep hword t ht
      rw [exec_headerCellReceive_sync_bad hruns hu halign hread hstep hword ht]
      exact ⟨fun hfew => if_neg (Nat.not_le.mpr hfew), fun hmany => if_pos hmany⟩
  case cell =>
    rintro s g k bytes _ hruns hsync hpeer rfl
    exact ⟨exec_dataCellReceive_bad hruns hsync hpeer, fun c => exec_dataCellReceive_good hruns hsync hpeer⟩

end Sys2Proof
end

section
/-! SUPPORT. The mesh, its management: defects, page swaps, the default page, joins and leaves. -/
namespace Sys2Proof.Machine

/-! ### Defects (R266) -/

section Defects
variable {g : Fin 16} {d : Fin 8} {s : State}

theorem exec_meshGroupDefectRaise (hon : s.groupOn g.val = true) (hseen : defectSeen s.toBlocks g.val (d.val + 1) ≠ some false) :
    exec (.meshGroupDefectRaise g d) s = .next (dropJoin g.val (raiseDefect g.val (d.val + 1) s)) := by
  change execMeshGroupDefectRaise g d s = _
  simp only [execMeshGroupDefectRaise, hon, hseen, Bool.not_true, Bool.false_eq_true, or_self, if_false]

/-- A defect other than LOL, LOC, PDI, DEG and CCE ends as soon as its condition is no longer seen; each of those has an
end of its own. -/
theorem exec_meshGroupDefectClear (hon : s.groupOn g.val = true) (hlol : d = 1 → s.groupHeld g.val = false)
    (hloc : d = 3 → 16 ≤ (s.group g.val).locGood) (hpdi : d = 4 → 16 ≤ (s.group g.val).pdiGood)
    (hdeg : d = 6 → 3 ≤ (s.degNow g.val).within) (hcce : d = 7 → s.crcClean g.val = true)
    (helse : d ≠ 1 → d ≠ 3 → d ≠ 4 → d ≠ 6 → d ≠ 7 → defectSeen s.toBlocks g.val (d.val + 1) ≠ some true) :
    exec (.meshGroupDefectClear g d) s = .next (clearDefect g.val (d.val + 1) s) := by
  change execMeshGroupDefectClear g d s = _
  have hd : d = 1 ∨ d = 3 ∨ d = 4 ∨ d = 6 ∨ d = 7 ∨ d = 0 ∨ d = 2 ∨ d = 5 := by clear * -; revert d; decide
  rcases hd with rfl | rfl | rfl | rfl | rfl | hrest
  · simp [execMeshGroupDefectClear, hon, hlol]
  · simp [execMeshGroupDefectClear, hon, hloc]
  · simp [execMeshGroupDefectClear, hon, hpdi]
  · simp [execMeshGroupDefectClear, hon, hdeg]
  · simp [execMeshGroupDefectClear, hon, hcce]
  · rcases hrest with rfl | rfl | rfl
    all_goals
      have hgone := helse (by decide) (by decide) (by decide) (by decide) (by decide)
      simp only [Fin.coe_ofNat_eq_mod, Nat.reduceMod, Nat.reduceAdd, ne_eq] at hgone
      simp [execMeshGroupDefectClear, hon, hgone]

/-- A defect that no other hides is told. -/
theorem raiseDefect_told {g d : Nat} {s : State} (hnew : (s.group g).defects.testBit d = false)
    (hseen : (s.group g).defect = 0 ∨ d < (s.group g).defect) :
    raiseDefect g d s = setDetail O.GroupEventDetail g (d - 1) (src 6 g)
      (s.updGroup g fun r => { r with defects := r.defects ||| 2 ^ d }) := by
  have hshown : ¬((s.group g).defect ≠ 0 ∧ (s.group g).defect < d) := by omega
  simp only [raiseDefect, GroupRT.has, hnew, Bool.false_eq_true, if_false, hshown]

end Defects

/-! ### Page swaps (R272, R274) -/

section Swaps
variable {s : State} {c : Nat}

/-- The swap is given up, and bank 6 is told. -/
abbrev swapRefused (why : Nat) (s : State) : State :=
  raise (src 6 17) (s.upMesh fun m => { m with swap := none, lastResult := why })

theorem exec_pageSwapDecide (hswap : s.mesh.swap = some (c, false)) (hcycle : (s.cycle + 1) % 2 ^ 32 = c) :
    exec .pageSwapDecide s =
      if s.gridRuns && swapAgreed s.toBlocks c then .next (s.upMesh fun m => { m with swap := some (c, true) })
      else .next (swapRefused (if s.gridRuns then 2 else 3) s) := by
  change execPageSwapDecide s = _
  simp only [execPageSwapDecide, hswap, hcycle, ne_eq, not_true_eq_false, if_false]

theorem exec_pageSwap {moved : List (Nat × Bool)} {joins : Bool} (hswap : s.mesh.swap = some (c, true)) (hcycle : s.cycle = c)
    (hmoved : moved = movedPairs s.card s.mesh.active s.mesh.standby)
    (hjoins : joins = (othersIn s.card s.activeSet && !s.mesh.joined)) :
    exec .pageSwap s = .next (raiseIf joins (src 6 21) (s.upMesh fun m =>
      { m with active := m.standby, standby := m.active, swap := none, lastResult := 1, pageCards := s.activeSet
               joined := m.joined || joins
               heldTx := moved.foldl (fun t e => if e.2 then t else
                 Tbl.put HeldTx.start e.1 ((Tbl.get HeldTx.start t e.1).drain (e.1 / 8)) t) m.heldTx
               moving := (m.moving.filter fun e => !moved.any fun x => x.1 == e.1) ++ moved.map fun x => (x.1, x.2, none) })) := by
  subst hmoved hjoins
  change execPageSwap s = _
  simp only [execPageSwap, hswap, hcycle, ne_eq, not_true_eq_false, if_false]

theorem exec_autoPagePlan {set : Nat} (hset : set = s.mesh.activeCards) (hauto : s.flag O.MeshAutoPage 0 0 = true)
    (hmode : s.mesh.mode ≠ 0) (hlocked : s.time.st = .locked) (hdue : s.mesh.planDue = true) (hsame : s.activeSet = set)
    (hstayed : s.mesh.activeSince + 5 * ticksPerMs ≤ s.time.ticks) :
    exec .autoPagePlan s = .next (s.upMesh fun m => { m with
      standby := ⟨2 ^ 31 + set, if m.mode = 2 then 1 else 2, []⟩, planned := set, planDue := false
      swap := some (autoSwapCycle s.cycle, false) }) := by
  subst hset
  change execAutoPagePlan s = _
  simp [execAutoPagePlan, hauto, hmode, hlocked, hdue, hsame, hstayed]

end Swaps

/-! ### Joining and leaving (R291, R292) -/

theorem exec_meshJoin {g : Fin 16} {s : State} {t0 : Nat} (hok : (s.group g.val).okSince = some t0)
    (hactive : s.groupActive g.val = true) (hnew : (s.group g.val).joined = false)
    (hheld : t0 + s.sc O.MeshJoinHold * ticksPerUs ≤ s.time.ticks) :
    exec (.meshJoin g) s = .next (s.updGroup g.val fun r => { r with joined := true }) := by
  change execMeshJoin g s = _
  simp only [execMeshJoin, hok, hactive, hnew, hheld, Bool.not_false, Bool.and_self, decide_true, if_true]

/-- Relay queues that have been noted empty, and are, are noted anew as they were. -/
theorem noteRelays_of_empty {s : State} {t0 : Nat} (hempty : relaysEmpty s.toBlocks = true)
    (hsince : s.mesh.relayEmptySince = some t0) : noteRelays s = s := by
  simp only [noteRelays, State.upMesh, hempty, if_true, hsince, Option.getD_some]
  rw [← hsince]

theorem exec_meshLeaveReady {s : State} {t0 : Nat} (hrelay : s.mesh.relay = []) (hheld : s.mesh.heldRelay = [])
    (hsince : s.mesh.relayEmptySince = some t0) (hleaving : s.mesh.leaving = true) (hnew : s.sc O.MeshLeaveReady = 0)
    (hwaited : t0 + ticksPerMs ≤ s.time.ticks) :
    exec .meshLeaveReady s = .next (raise (src 6 26) (s.ws O.MeshLeaveReady 1)) := by
  have hempty : relaysEmpty s.toBlocks = true := by simp only [relaysEmpty, hrelay, hheld, List.isEmpty_nil, Bool.and_self]
  change execMeshLeaveReady s = _
  simp only [execMeshLeaveReady, noteRelays_of_empty hempty hsince, hsince, hleaving, hnew, hwaited, BEq.rfl, Bool.and_self,
    decide_true, if_true]

end Sys2Proof.Machine

namespace Sys2Proof
open Machine

/-- Settles O48: each command by its condition; a swap is decided by whether the grid runs and all agree. -/
theorem meshIsManaged : Obligations.MeshIsManaged := by
  unfold Obligations.MeshIsManaged
  refine ⟨⟨fun s g d => exec_meshGroupDefectRaise, fun s g d => exec_meshGroupDefectClear, fun s g d => raiseDefect_told⟩,
    ⟨fun s c hswap hcycle => ?decide, fun s c moved joins => exec_pageSwap⟩, fun s set => exec_autoPagePlan,
    fun s g t0 => exec_meshJoin, fun s t0 => exec_meshLeaveReady⟩
  rw [exec_pageSwapDecide hswap hcycle]
  refine ⟨fun hgrid hall => ?_, fun hgrid hsome => ?_, fun hgrid => ?_⟩
  · rw [hgrid, hall, Bool.and_self, if_pos rfl]
  · rw [hgrid, hsome, Bool.and_false, if_neg (by decide), if_pos rfl]
  · rw [hgrid, Bool.false_and, if_neg (by decide), if_neg (by decide)]

end Sys2Proof
end

section
/-! SUPPORT. Line ports, receiving: what becomes of a frame that arrives, and the timers of pauses sent and received. -/
namespace Sys2Proof.Machine

/-! ### Received frames (R297, R304 to R307, R310, R312) -/

/-- A good frame as the receive buffer keeps it, with its stamps, class and colour. -/
abbrev frameOf (b : Blocks) (p phase : Nat) (data : Bytes) : RxFrame :=
  { data, stamp := arrivalStamp b p phase
    ptp := servoStamp b p phase (-(toSigned 16 (b.rd O.PortMeasure p F.PortMeasure_RxAdjust))) data
    cls := (startClass b p data).1, colour := (startClass b p data).2 }

/-- A good frame is counted and goes to the receive buffer, a PTP event message being heard. -/
abbrev dataReceived (p phase : Nat) (data : Bytes) (s : State) : State :=
  bufferFrame p (frameOf s.toBlocks p phase data) (ptpHeard p data ((s.add64 O.PortCounters p F.PortCounters_RxFrames 1).add64
    O.PortCounters p F.PortCounters_RxBytes data.length))

/-- A MAC control frame pauses, or is only counted. -/
abbrev controlReceived (p : Nat) (data : Bytes) (s : State) : State :=
  (pausesOf (s.rd O.PortFlowControl p F.PortFlowControl_Mode) (s.rd O.PortFlowControl p F.PortFlowControl_PfcEnable) data).elim
    (s.add64 O.PortCounters p F.PortCounters_RxMacControl 1)
    fun l => pauseReceived p l (s.add64 O.PortCounters p F.PortCounters_RxPause 1)

section Reception
variable {port : Fin 128} {data : Bytes} {fec : FecCount} {phase : Fin 5} {s u : State}

theorem exec_frameReceive_cut (hdown : s.carrying port.val = false)
    (hin : wasReceiving data.length s.time.ticks (s.port port.val).left = true) :
    exec (.frameReceive port ⟨data, fec⟩ phase) s = .next
      ((s.add64 O.PortCounters port.val F.PortCounters_RxErrors 1).updPort port.val fun r => { r with left := none }) := by
  change execFrameReceive port ⟨data, fec⟩ phase s = _
  simp only [execFrameReceive, hdown, Bool.not_false, if_true, hin]

/-- A carrying port: its FEC's counts, then what the frame itself makes of it. -/
theorem exec_frameReceive_carrying (hcarries : s.carrying port.val = true)
    (hu : u = if s.rd O.PortStatus port.val F.PortStatus_FecInUse ≤ 1 then s else countFec port.val fec s) :
    exec (.frameReceive port ⟨data, fec⟩ phase) s = .next ((receiveFault u.toBlocks port.val data).elim
      (if beAt data 12 2 = 0x8808 then controlReceived port.val data u else dataReceived port.val phase.val data u)
      fun c => u.add64 O.PortCounters port.val c 1) := by
  change execFrameReceive port ⟨data, fec⟩ phase s = _
  simp only [execFrameReceive, hcarries, Bool.not_true, Bool.false_eq_true, if_false, ← hu]
  cases receiveFault u.toBlocks port.val data with
  | some c => rfl
  | none =>
    by_cases hcontrol : beAt data 12 2 = 0x8808
    · simp only [hcontrol, if_true, Option.elim_none, controlReceived]
      cases pausesOf (u.rd O.PortFlowControl port.val F.PortFlowControl_Mode)
        (u.rd O.PortFlowControl port.val F.PortFlowControl_PfcEnable) data <;> rfl
    · simp only [hcontrol, if_false, Option.elim_none]

end Reception

/-! ### The receive buffer (R305) -/

section Buffer
variable {p : Nat} {f : RxFrame} {s : State}

theorem bufferFrame_fits (hroom : (s.port p).level 8 + f.data.length ≤ s.rxSize p) :
    bufferFrame p f s = flowCheck p (s.updPort p fun r => { r with rx := r.rx ++ [f] }) :=
  if_neg (Nat.not_lt.mpr hroom)

variable (hfull : s.rxSize p < (s.port p).level 8 + f.data.length)
include hfull

theorem bufferFrame_lost (hknown : (s.port p).overRaised = true ∨
    (s.port p).level 8 ≤ s.rd O.PortFlowControl p F.PortFlowControl_XoffKiB * 1024) :
    bufferFrame p f s = s.add64 O.PortCounters p F.PortCounters_RxOverflow 1 :=
  (if_pos hfull).trans (if_pos hknown)

theorem bufferFrame_lost_raised (hnew : (s.port p).overRaised = false)
    (habove : s.rd O.PortFlowControl p F.PortFlowControl_XoffKiB * 1024 < (s.port p).level 8) :
    bufferFrame p f s = (setDetail O.PortEventDetail p 4 (src 7 11)
      (s.add64 O.PortCounters p F.PortCounters_RxOverflow 1)).updPort p fun r => { r with overRaised := true } :=
  (if_pos hfull).trans (if_neg (not_or.mpr ⟨Bool.eq_false_iff.mp hnew, Nat.not_le.mpr habove⟩))

end Buffer

/-! ### The timers of pauses (R310, R311) -/

section Pauses
variable {port : Fin 128} {at_ : Nat} {s : State}

theorem exec_pfcRepeat {cls : Fin 9} (hheld : (cls.val, at_) ∈ (s.port port.val).holding)
    (hdue : at_ + quantaTicks (s.rd O.PortFlowControl port.val F.PortFlowControl_PauseQuanta) (s.portRate port.val) / 2 ≤
      s.time.ticks)
    (hcarries : s.carrying port.val = true) (hwatched : cls.val ∈ s.watched port.val)
    (habove : s.rd O.PortFlowControl port.val F.PortFlowControl_XonKiB * 1024 < (s.port port.val).level cls.val) :
    exec (.pfcRepeat port cls) s = .next ((sendPause port.val cls.val
      (s.rd O.PortFlowControl port.val F.PortFlowControl_PauseQuanta) s).updPort port.val fun r =>
        { r with holding := r.holding.map fun h => if h.1 = cls.val then (cls.val, s.time.ticks) else h }) :=
  if_pos ⟨List.any_eq_true.mpr ⟨_, hheld, by simpa using hdue⟩, hcarries, List.contains_iff_mem.mpr hwatched, habove⟩

theorem exec_pauseExpire {cls : Fin 8} (hpaused : (cls.val, at_) ∈ (s.port port.val).paused) (hover : at_ ≤ s.time.ticks) :
    exec (.pauseExpire port cls) s = .next (showPaused port.val (s.updPort port.val fun r =>
      { r with paused := r.paused.filter fun e => e.1 != cls.val })) :=
  if_pos (List.any_eq_true.mpr ⟨_, hpaused, by simpa using hover⟩)

end Pauses

end Sys2Proof.Machine

namespace Sys2Proof
open Machine

/-- Settles O39: a frame by whether its port carries, what is wrong with it, and whether it is a MAC control frame or finds
room; then the two timers. -/
theorem framesAndPausesAreReceived : Obligations.FramesAndPausesAreReceived := by
  unfold Obligations.FramesAndPausesAreReceived
  refine ⟨?frame, ?repeats, fun s port cls at_ => exec_pauseExpire⟩
  case frame =>
    rintro s port data phase fec _ rfl
    refine ⟨exec_frameReceive_cut, fun hcarries u hu => ?_⟩
    rw [exec_frameReceive_carrying hcarries hu]
    refine ⟨fun c hfault => ?fault, fun hgood => ?good⟩
    case fault => rw [hfault, Option.elim_some]
    case good =>
      rw [hgood, Option.elim_none]
      refine ⟨?control, ?data⟩
      case control =>
        rintro _ _ rfl rfl hcontrol
        rw [if_pos hcontrol]
        exact ⟨fun l hpauses => by rw [controlReceived, hpauses, Option.elim_some],
          fun hother => by rw [controlReceived, hother, Option.elim_none]⟩
      case data =>
        rintro _ hdata rfl
        rw [if_neg hdata, dataReceived]
        refine ⟨fun hfull => ⟨fun hknown => ?lost, fun hnew habove => ?raised⟩, ?fits⟩
        case lost => rw [bufferFrame_lost hfull hknown]
        case raised => rw [bufferFrame_lost_raised hfull hnew habove]
        case fits =>
          rintro hroom cls colour _ hclass rfl
          rw [bufferFrame_fits hroom, frameOf, hclass]
  case repeats =>
    rintro s port cls _ at_ rfl
    exact exec_pfcRepeat

end Sys2Proof
end

section
/-! SUPPORT. Line ports, coming up: negotiation, training and alignment, and the loss of lanes. -/
namespace Sys2Proof.Machine

/-! ### Negotiation, training and alignment (R297, R299, R300, R303, R308) -/

/-- The partner's ability and FEC are shown. -/
abbrev partnerShown (p : Nat) (ability : BitVec 16) (fec : BitVec 2) (s : State) : State :=
  (s.wr O.PortStatus p F.PortStatus_PartnerAbility ability.toNat).wr O.PortStatus p F.PortStatus_PartnerFec fec.toNat

/-- The lanes' losses, the first lane's highest, and the cable's length by them are recorded. -/
abbrev cableMeasured (p : Nat) (losses : List Nat) (s : State) : State :=
  (s.wr O.PortMeasure p F.PortMeasure_InsertionLossCdB (losses.zipIdx.foldl (fun a (v, i) => a + v * 2 ^ (112 - 16 * i)) 0)).wr
    O.PortMeasure p F.PortMeasure_EstimatedLengthCm (cableCm losses (s.rd O.PortMeasure p F.PortMeasure_BoardLossCdB)
      (s.rd O.PortMeasure p F.PortMeasure_LossPerMetreCdB) % 65536)

/-- The port shows a running mode with its FEC and all its lanes in lock. -/
abbrev runningShown (p m : Nat) (s : State) : State :=
  (((s.wr O.PortStatus p F.PortStatus_RunningMode m).wr O.PortStatus p F.PortStatus_FecInUse
    (fecOf m (s.portCfg p F.PortConfig_FecRequest))).wr O.PortStatus p F.PortStatus_LaneLock (2 ^ modeLanes m - 1)).wr
    O.PortStatus p F.PortStatus_StoppedLaneLock 0

section Up
variable {port : Fin 128} {s : State} (husable : s.portUsable port.val = true)
include husable

section Negotiation
variable (ability : BitVec 16) (fec : BitVec 2)
variable (hnegotiates : s.portCfg port.val F.PortConfig_AnEnable = 1) (hcoming : s.link port.val = 1 ∨ s.link port.val = 2)
include hnegotiates hcoming

theorem exec_autonegComplete :
    exec (.autonegComplete port ability fec) s = .next (
      if abilityMatches s.toBlocks port.val ability fec then
        setLink port.val (if s.portCfg port.val F.PortConfig_TrainEnable = 1 then 3 else 4)
          ((partnerShown port.val ability fec s).wr O.PortStatus port.val F.PortStatus_AnFail 0)
      else partnerShown port.val ability fec s) :=
  (if_pos ⟨husable, hnegotiates, hcoming⟩).trans (apply_ite Host.Outcome.next _ _ _).symm

theorem exec_autonegTimeout (hlate : s.stateFor port.val 500 = true) :
    exec (.autonegTimeout port ability fec) s = .next (setLink port.val 2 (setDetail O.PortEventDetail port.val 2 (src 7 9)
      ((partnerShown port.val ability fec s).wr O.PortStatus port.val F.PortStatus_AnFail 1))) :=
  if_pos ⟨husable, hnegotiates, hcoming, hlate⟩

end Negotiation

section Training
variable (htrains : s.portCfg port.val F.PortConfig_TrainEnable = 1)
variable (hcoming : s.link port.val = 3 ∨ (s.link port.val = 1 ∧ s.portCfg port.val F.PortConfig_AnEnable = 0))
include htrains hcoming

theorem exec_linkTrainingComplete {losses : List (BitVec 16)} {l : List Nat}
    (hl : l = (losses.map (·.toNat)).take (modeLanes (s.portCfg port.val F.PortConfig_Mode))) :
    exec (.linkTrainingComplete port losses) s = .next (setLink port.val 4
      ((cableMeasured port.val l s).wr O.PortStatus port.val F.PortStatus_TrainFail 0)) := by
  subst hl
  exact if_pos ⟨husable, htrains, hcoming⟩

theorem exec_trainingTimeout (hlate : s.stateFor port.val (trainingMs (s.portCfg port.val F.PortConfig_Mode)) = true) :
    exec (.trainingTimeout port) s = .next (setLink port.val 1 (setDetail O.PortEventDetail port.val 3 (src 7 10)
      (s.wr O.PortStatus port.val F.PortStatus_TrainFail 1))) :=
  if_pos ⟨husable, ⟨htrains, hcoming⟩, hlate⟩

end Training

theorem exec_portLinkUp (haligned : s.link port.val = 4 ∨ (s.link port.val = 1 ∧
    s.portCfg port.val F.PortConfig_AnEnable = 0 ∧ s.portCfg port.val F.PortConfig_TrainEnable = 0)) :
    exec (.portLinkUp port) s = .next (flowCheck port.val (setLink port.val 5
      (writeLead port.val (s.portCfg port.val F.PortConfig_Mode) (clearCable port.val
        (runningShown port.val (s.portCfg port.val F.PortConfig_Mode) s))))) :=
  if_pos ⟨husable, haligned⟩

end Up

/-! ### The loss of lanes (R301 to R303) -/

/-- What a port shows of its lanes in lock says nothing of its link state. -/
theorem link_wr_laneLock (port : Fin 128) (v : Nat) (s : State) :
    (s.wr O.PortStatus port.val F.PortStatus_LaneLock v).link port.val = s.link port.val :=
  rd_wr_of_ne s v (by simp [skey])

theorem degradeEnable_wr_laneLock (port : Fin 128) (v : Nat) (s : State) :
    (s.wr O.PortStatus port.val F.PortStatus_LaneLock v).portCfg port.val F.PortConfig_DegradeEnable =
      s.portCfg port.val F.PortConfig_DegradeEnable :=
  rd_wr_of_obj_ne s v (by decide) (by omega) (by decide) (by omega) (by decide)

/-- The lanes lost are no longer shown in lock. -/
abbrev lanesLost (p lost : Nat) (s : State) : State :=
  s.wr O.PortStatus p F.PortStatus_LaneLock (s.rd O.PortStatus p F.PortStatus_LaneLock &&& (255 - lost))

/-- A port begins to degrade, the lanes lost being those of a half. -/
abbrev degradeBegun (p half : Nat) (s : State) : State :=
  setDetail O.PortEventDetail p 1 (src 7 8) (s.updPort p fun r => { r with degrading := some half })

/-- The link of a port goes down, with no frame in reception. -/
abbrev lineLinkDown (p : Nat) (s : State) : State :=
  (setLink p 1 s).updPort p fun r => { r with degrading := none, left := none }

section Loss
variable {port : Fin 128} {lanes : BitVec 8} {m lost : Nat} {s : State}
variable (hm : m = s.portCfg port.val F.PortConfig_Mode) (hlost : lost = lanes.toNat % 2 ^ modeLanes m) (hsome : lost ≠ 0)
variable (hcarries : s.carrying port.val = true) (hup : s.link port.val = 5) (hwhole : (s.port port.val).degrading = none)
include hm hlost hsome hcarries hup hwhole

/-- A port in UP that is not degrading already goes by the halves its lost lanes lie in, and by whether it may degrade. -/
theorem exec_laneLockLoss_up :
    exec (.laneLockLoss port lanes false) s = .next ((halfOf (modeLanes m) lost).elim
      (lineLinkDown port.val (lanesLost port.val lost s))
      fun h => if s.portCfg port.val F.PortConfig_DegradeEnable = 1 ∧ modeDegraded m ≠ 0
        then degradeBegun port.val h (lanesLost port.val lost s) else lineLinkDown port.val (lanesLost port.val lost s)) := by
  subst hm hlost
  change execLaneLockLoss port lanes false s = _
  have hport : ∀ v, ((s.wr O.PortStatus port.val F.PortStatus_LaneLock v).port port.val).degrading = none := fun _ => hwhole
  simp only [execLaneLockLoss, hcarries, hsome, beq_iff_eq, Bool.not_true, Bool.false_or, Bool.false_eq_true, if_false,
    link_wr_laneLock, hup, hport, degradeEnable_wr_laneLock]
  cases halfOf (modeLanes (s.portCfg port.val F.PortConfig_Mode))
      (lanes.toNat % 2 ^ modeLanes (s.portCfg port.val F.PortConfig_Mode)) with
  | none => rfl
  | some h => exact (apply_ite Host.Outcome.next _ _ _).symm

theorem exec_laneLockLoss_degrades {h : Nat} (hhalf : halfOf (modeLanes m) lost = some h)
    (henabled : s.portCfg port.val F.PortConfig_DegradeEnable = 1) (hmode : modeDegraded m ≠ 0) :
    exec (.laneLockLoss port lanes false) s = .next (degradeBegun port.val h (lanesLost port.val lost s)) := by
  rw [exec_laneLockLoss_up hm hlost hsome hcarries hup hwhole, hhalf, Option.elim_some, if_pos ⟨henabled, hmode⟩]

theorem exec_laneLockLoss_down (hstays : halfOf (modeLanes m) lost = none ∨
      s.portCfg port.val F.PortConfig_DegradeEnable = 0 ∨ modeDegraded m = 0) :
    exec (.laneLockLoss port lanes false) s = .next (lineLinkDown port.val (lanesLost port.val lost s)) := by
  rw [exec_laneLockLoss_up hm hlost hsome hcarries hup hwhole]
  cases hhalf : halfOf (modeLanes m) lost with
  | none => rw [Option.elim_none]
  | some h =>
    have hcannot : ¬ (s.portCfg port.val F.PortConfig_DegradeEnable = 1 ∧ modeDegraded m ≠ 0) := by
      rcases hstays with hno | hoff | hmode
      · exact absurd hno (by simp [hhalf])
      · simp [hoff]
      · simp [hmode]
    rw [Option.elim_some, if_neg hcannot]

end Loss

theorem exec_portDegradeComplete {port : Fin 128} {stopped : BitVec 8} {m half lock h : Nat} {s : State}
    (hm : m = s.portCfg port.val F.PortConfig_Mode) (hup : s.link port.val = 5)
    (hdegrading : (s.port port.val).degrading = some h) (hhalf : half = modeLanes m / 2)
    (hlock : lock = if h = 0 then (2 ^ half - 1) * 2 ^ half else 2 ^ half - 1) :
    exec (.portDegradeComplete port stopped) s = .next (setLink port.val 6 (writeLead port.val (modeDegraded m)
      (((s.wr O.PortStatus port.val F.PortStatus_RunningMode (modeDegraded m)).wr O.PortStatus port.val
        F.PortStatus_LaneLock lock).wr O.PortStatus port.val F.PortStatus_StoppedLaneLock
        (stopped.toNat &&& (2 ^ modeLanes m - 1 - lock))))) := by
  subst hm hhalf hlock
  change execPortDegradeComplete port stopped s = _
  simp only [execPortDegradeComplete, hup, hdegrading]

end Sys2Proof.Machine

namespace Sys2Proof
open Machine

/-- Settles O40: the events of a port that comes up, each in its link states; then the loss of lanes, by whether the port can
degrade, and the end of a degrade. -/
theorem portsBringTheirLinksUp : Obligations.PortsBringTheirLinksUp := by
  unfold Obligations.PortsBringTheirLinksUp
  refine ⟨?comingUp, ?loss, ?degraded⟩
  case comingUp =>
    rintro s port _ rfl husable
    refine ⟨?negotiation, fun losses l htrains hcoming hl => ⟨exec_linkTrainingComplete husable htrains hcoming hl,
      exec_trainingTimeout husable htrains hcoming⟩, ?alignment⟩
    case negotiation =>
      rintro ability fec _ hnegotiates hcoming rfl
      have hcomplete := exec_autonegComplete husable ability fec hnegotiates hcoming
      exact ⟨fun hmatch => hcomplete.trans (congrArg _ (if_pos hmatch)),
        fun hother => hcomplete.trans (congrArg _ (if_neg (Bool.eq_false_iff.mp hother))),
        exec_autonegTimeout husable ability fec hnegotiates hcoming⟩
    case alignment =>
      rintro _ rfl
      exact exec_portLinkUp husable
  case loss =>
    rintro s port lanes _ m lost _ rfl hm hlost hsome hcarries hup hwhole rfl
    exact ⟨fun h => exec_laneLockLoss_degrades hm hlost hsome hcarries hup hwhole,
      exec_laneLockLoss_down hm hlost hsome hcarries hup hwhole⟩
  case degraded =>
    rintro s port stopped _ m half lock h rfl
    exact exec_portDegradeComplete

end Sys2Proof
end

section
/-! SUPPORT. The HBM controller: the writes that it acts on, and what a stored record reads. -/
namespace Sys2Proof.Machine

/-! ### What a stored record reads -/

/-- The fields of a record, written one after another. -/
abbrev State.wrParts (s : State) (obj row : Nat) (ps : List (Nat × Nat)) : State :=
  ps.foldl (fun a e => a.wr obj row e.1 e.2) s

theorem merged_cons (base : Nat → Nat) (e : Nat × Nat) (ps : List (Nat × Nat)) (k : Nat) :
    merged base (e :: ps) k = if e.1 = k then e.2 else merged base ps k := by
  by_cases hk : e.1 = k
  · simp [merged, hk]
  · have hkey : (e.1 == k) = false := beq_eq_false_iff_ne.mpr hk
    simp [merged, hkey, hk]

theorem merged_of_not_mem {ps : List (Nat × Nat)} {k : Nat} (h : k ∉ ps.map Prod.fst) (base : Nat → Nat) :
    merged base ps k = base k := by
  have hnone : ps.find? (fun e => e.1 == k) = none := by
    simp only [List.find?_eq_none, beq_iff_eq]
    rintro e hmem rfl
    exact h (List.mem_map_of_mem hmem)
  simp [merged, hnone]

/-- A field reads as it was last written, one that was not written as before. -/
theorem rd_wrParts {obj row k : Nat} (hrow : row < 2 ^ 32) (hk : k < 256) : ∀ {ps : List (Nat × Nat)} {s : State},
    storeWf s.store → (ps.map Prod.fst).Nodup → (∀ i ∈ ps.map Prod.fst, i < 256) →
    (s.wrParts obj row ps).rd obj row k = merged (s.rd obj row) ps k
  | [], _, _, _, _ => rfl
  | e :: ps, s, hw, hnodup, hfields => by
    obtain ⟨hnew, hnodup⟩ := List.nodup_cons.mp hnodup
    obtain ⟨he, hfields⟩ := List.forall_mem_cons.mp hfields
    rw [State.wrParts, List.foldl_cons, rd_wrParts hrow hk (storeWf_put hw _ _) hnodup hfields, merged_cons]
    split
    next hkey =>
      subst hkey
      rw [merged_of_not_mem hnew, rd_wr_self hw]
    next hkey =>
      have hread : (s.wr obj row e.1 e.2).rd obj row k = s.rd obj row k :=
        rd_wr_of_ne s _ fun h => hkey (skey_inj hrow hrow hk he h).2.2.symm
      rw [merged, merged, hread]

/-- A record that neither the forwarding engine nor Chest holds, none of whose fields a written 1 clears. -/
theorem stored_record {w : SW} {o : ObjInfo} (info : objInfo? w.obj = some o) (tr : transient o = false)
    (fe : isFe o = false) (hpers : o.pers = 0) (hones : ∀ k, clearsOnes w.obj k = false) (plain : Ordinary w.obj) (s : State) :
    s.stored w = s.wrParts w.obj w.row (parts o w.fld w.val) := by
  rw [stored_volatile info hpers plain]
  simp [storeCell, info, tr, fe, hones]

/-! ### A granted write on a sound state -/

theorem State.Sound.came {s : State} (h : s.Sound) (i : SessId) : (s.came i).Sound := by
  unfold State.came
  split
  · exact (countBarWrite_ok ⟨h, rfl⟩).sound
  · exact (State.heard_ok ⟨h, rfl⟩).sound

/-- A command that is a granted write on a sound state: its row has its effect on a sound state. -/
theorem exec_granted_of_sound {c : Instr} {v : Via} {w : SW} {lost : Nat} {s : State} {x : Sess} {eff : State → State}
    {o : ObjInfo} (hwrite : oneWrite c = some (v, w, lost)) (h : Granted v w lost s x) (info : objInfo? w.obj = some o)
    (fe : isFe o = false) (plain : Ordinary w.obj) (hsound : s.Sound)
    (heff : ∀ r, r.Sound → cellEffect (s.came v.sess).toBlocks (actorOf (s.came v.sess).toBlocks x 0x02 lost) (r.stored w)
      ⟨w.obj, w.row, parts o w.fld w.val⟩ = eff r) :
    exec c s = .next (wrote v w lost x eff s) := by
  have hbooked : ((s.came v.sess).booked (unitsOf (s.came v.sess).toBlocks (cellsOf [w]))).Sound :=
    (State.booked_ok ⟨hsound.came v.sess, rfl⟩).sound
  rw [exec_oneWrite hwrite, viaWrite_wrote h o info fe plain, cell_eq o info]
  simp only [wrote, heff _ hbooked]

/-! ### HbmFreqRequest and HbmServiceMode (R323, R330) -/

/-- The scalars of the HBM controller whose write it acts on. -/
abbrev hbmScalars : List Nat := [O.HbmFreqRequest, O.HbmServiceMode]

theorem hbmScalar_facts {obj : Nat} (h : obj ∈ hbmScalars) :
    (∃ o ∈ objInfo? obj, isFe o = false ∧ transient o = false ∧ o.fields = [] ∧ o.pers ≠ 1) ∧ Ordinary obj ∧
      clearsOnes obj 0 = false ∧ 0x3C000 ≤ obj ∧ obj < 0x44000 := by
  revert obj
  decide

/-- A granted write of such a scalar stores it and has the effect that its chapter gives the row. -/
theorem exec_hbmScalar_granted {c : Instr} {v : Via} {obj n : Nat} {s : State} {x : Sess} {eff : State → State}
    (hobj : obj ∈ hbmScalars) (hwrite : oneWrite c = some (v, ⟨obj, 0, 0, n⟩, 0)) (h : Granted v ⟨obj, 0, 0, n⟩ 0 s x)
    (heff : ∀ old a r, hostEffect old a ⟨obj, 0, [(0, n)]⟩ (r.ws obj n) = eff r) :
    exec c s = .next (wrote v ⟨obj, 0, 0, n⟩ 0 x eff s) := by
  obtain ⟨⟨o, info, fe, tr, nf, np⟩, plain, hones, hhost⟩ := hbmScalar_facts hobj
  refine exec_granted hwrite h info fe plain fun r => ?_
  rw [stored_scalar info tr nf np fe hones plain, parts_of_no_fields nf, cell_host hhost]
  exact heff _ _ r

section HbmEffects
variable (old : Blocks) (a : Actor) (row n : Nat) (l : List (Nat × Nat)) (s : State)

theorem hostEffect_hbmFreqRequest : hostEffect old a ⟨O.HbmFreqRequest, row, [(0, n)]⟩ s = freqWritten n s := by
  simp [hostEffect, WCell.val]

theorem hostEffect_hbmServiceMode : hostEffect old a ⟨O.HbmServiceMode, row, [(0, n)]⟩ s = serviceWritten n s := by
  simp [hostEffect, WCell.val]

theorem hostEffect_hbmPatternGen (hstart : s.rd O.HbmPatternGen 0 F.HbmPatternGen_Start = 1) :
    hostEffect old a ⟨O.HbmPatternGen, row, l⟩ s = patternStart s := by
  simp [hostEffect, hstart]

end HbmEffects

/-! ### Pattern operations (R330, Table 13-10) -/

/-- The HbmPatternGen record, field by field from its highest bit. -/
abbrev patternFields (op : Nat) (p : Pattern) : List (Nat × Nat) :=
  [(1, 1), (4, p.pc.toNat), (2, op), (3, p.pattern.toNat), (4, 0), (14, p.bursts.toNat), (36, 0), (64, p.user.toNat)]

theorem patternRecord_eq_packed (op : Nat) (p : Pattern) : patternRecord op p = packed 0 (patternFields op p) := by
  simp only [patternRecord, packed]
  ring

theorem patternFields_fits {op : Nat} (hop : op < 4) (p : Pattern) : Fits (patternFields op p) := by
  simp only [Fits, patternFields, List.forall_mem_cons]
  exact ⟨by decide, p.pc.isLt, hop, p.pattern.isLt, by decide, p.bursts.isLt, by decide, p.user.isLt,
    fun _ h => absurd h List.not_mem_nil⟩

/-- What the write of a pattern record stores. -/
theorem parts_patternRecord {op : Nat} (hop : op < 4) (p : Pattern) {o : ObjInfo} (hfields : o.fields = fieldsHbmPatternGen) :
    parts o 0 (patternRecord op p) = [(F.HbmPatternGen_Start, 1), (F.HbmPatternGen_PseudoChannel, p.pc.toNat),
      (F.HbmPatternGen_Op, op), (F.HbmPatternGen_Pattern, p.pattern.toNat), (F.HbmPatternGen_Bursts, p.bursts.toNat),
      (F.HbmPatternGen_UserPattern, p.user.toNat)] := by
  have hfits := patternFields_fits hop p
  have hstart := bitsOf_packed (hi := 127) (lo := 127) hfits 0
  have hpc := bitsOf_packed (hi := 126) (lo := 123) hfits 1
  have hopf := bitsOf_packed (hi := 122) (lo := 121) hfits 2
  have hpat := bitsOf_packed (hi := 120) (lo := 118) hfits 3
  have hbursts := bitsOf_packed (hi := 113) (lo := 100) hfits 5
  have huser := bitsOf_packed (hi := 63) (lo := 0) hfits 7
  rw [patternRecord_eq_packed]
  simp [parts, carried, hfields, fieldsHbmPatternGen, hstart, hpc, hopf, hpat, hbursts, huser]

theorem patternStart_of_record {op : Nat} {pc : Nat} {s : State} (hop : s.rd O.HbmPatternGen 0 F.HbmPatternGen_Op = op)
    (hpc : s.rd O.HbmPatternGen 0 F.HbmPatternGen_PseudoChannel = pc) :
    patternStart s = ((s.wr O.HbmPatternGen 0 F.HbmPatternGen_Start 0).wr O.HbmCompare 0 F.HbmCompare_Done 0).upHbm fun h =>
      { h with op := some (op, pc) } := by
  subst hop hpc
  rfl

/-- A granted write of a pattern record starts the operation that it states. -/
theorem exec_pattern_granted {c : Instr} {v : Via} {op : Nat} {p : Pattern} {w : SW} {s : State} {x : Sess} (hop : op < 4)
    (hw : w = ⟨O.HbmPatternGen, 0, 0, patternRecord op p⟩) (hwrite : oneWrite c = some (v, w, 0)) (h : Granted v w 0 s x)
    (hsound : s.Sound) :
    exec c s = .next (wrote v w 0 x (fun r =>
      (((r.stored w).wr O.HbmPatternGen 0 F.HbmPatternGen_Start 0).wr O.HbmCompare 0 F.HbmCompare_Done 0).upHbm fun h =>
        { h with op := some (op, p.pc.toNat) }) s) := by
  obtain ⟨o, info, fe, tr, hpers⟩ : ∃ o ∈ objInfo? O.HbmPatternGen,
    isFe o = false ∧ transient o = false ∧ o.pers = 0 := by decide
  have hfields : o.fields = fieldsHbmPatternGen :=
    Option.some.inj ((congrArg (Option.map ObjInfo.fields) info).symm.trans rfl)
  have plain : Ordinary O.HbmPatternGen := by decide
  have hhost : 0x3C000 ≤ O.HbmPatternGen ∧ O.HbmPatternGen < 0x44000 := by decide
  have hones : ∀ k, clearsOnes O.HbmPatternGen k = false := fun _ => rfl
  have hparts := parts_patternRecord hop p hfields
  subst hw
  refine exec_granted_of_sound hwrite h info fe plain hsound fun r hr => ?_
  have hstored : r.stored ⟨O.HbmPatternGen, 0, 0, patternRecord op p⟩ =
      r.wrParts O.HbmPatternGen 0 (parts o 0 (patternRecord op p)) :=
    stored_record (w := ⟨O.HbmPatternGen, 0, 0, patternRecord op p⟩) info tr fe hpers hones plain r
  have hkeys : (parts o 0 (patternRecord op p)).map Prod.fst = [1, 2, 3, 4, 6, 8] := by rw [hparts]; rfl
  have hread {k : Nat} (hk : k < 256) : (r.stored ⟨O.HbmPatternGen, 0, 0, patternRecord op p⟩).rd O.HbmPatternGen 0 k =
      merged (r.rd O.HbmPatternGen 0) (parts o 0 (patternRecord op p)) k := by
    rw [hstored, rd_wrParts (by decide) hk hr.store (by rw [hkeys]; decide) (by rw [hkeys]; decide)]
  rw [cell_host hhost, hostEffect_hbmPatternGen, patternStart_of_record]
  all_goals rw [hread (by decide), hparts]; rfl

end Sys2Proof.Machine

namespace Sys2Proof
open Machine

/-- Settles O13: the two scalars have the effect of their row; each pattern operation is the write of its record. -/
theorem hbmWritesTakeEffect : Obligations.HbmWritesTakeEffect := by
  unfold Obligations.HbmWritesTakeEffect
  refine ⟨fun v y s x h => exec_hbmScalar_granted (by decide) rfl h fun old a _ => hostEffect_hbmFreqRequest old a _ _ _,
    fun v y s x h => exec_hbmScalar_granted (by decide) rfl h fun old a _ => hostEffect_hbmServiceMode old a _ _ _,
    fun v p s x op c w hop hw h hsound => ?_⟩
  simp only [List.mem_cons, List.not_mem_nil, or_false, Prod.mk.injEq] at hop
  subst hw
  obtain ⟨rfl, rfl⟩ | ⟨rfl, rfl⟩ | ⟨rfl, rfl⟩ | ⟨rfl, rfl⟩ := hop <;>
    exact exec_pattern_granted (by decide) rfl rfl h hsound

end Sys2Proof
end

section
/-! SUPPORT. The HBM controller: the steps of training, their failure, and the wipe. -/
namespace Sys2Proof.Machine

/-! ### Training (R326, R327, Table 13-5) -/

/-- Training has passed: both sets hold the taps that it measured, and the stack is ready for its wipe. -/
abbrev trainingPassed (taps : Tbl Nat) (s : State) : State :=
  (loadSet 1 0 (loadSet 0 0 (setHbmState 2 (s.upHbm fun h =>
    { h with trained := taps, initial := taps, scrubStart := s.time.ticks })))).wr O.HbmTrainStatus 0 F.HbmTrainStatus_Step 0

section Training
variable {s : State} (htrains : s.hbmState = 1)
include htrains

theorem exec_hbmTrain_stepped : exec (.hbmTrain .stepped) s = .next (trainStepped s) :=
  if_neg (not_not_intro htrains)

/-- A failure is heard of the step that runs. -/
theorem exec_hbmTrain_failed {step : Fin 9} {pc : Fin 16} {bit_ : Option (Fin 72)}
    (hstep : s.rd O.HbmTrainStatus 0 F.HbmTrainStatus_Step = step.val) :
    exec (.hbmTrain (.failed step pc bit_)) s = .next (trainFailed step.val pc.val (bit_.map (·.val)) s) :=
  (if_neg (not_not_intro htrains)).trans (if_pos hstep)

section Measured
variable {high low : List TapWindow} {sHigh sLow : List StrobeTaps}
variable (hlow : s.hbm.trainLow = true) (hlast : s.rd O.HbmTrainStatus 0 F.HbmTrainStatus_Step = 8)
include hlow hlast

/-- A report of what was measured is heard at the end of the last step at LOW. -/
theorem exec_hbmTrain_passed :
    exec (.hbmTrain (.passed high low sHigh sLow)) s = .next ((trainFault high low sHigh sLow).elim
      (let t := trainingPassed (trainedTaps 1 low sLow (trainedTaps 0 high sHigh [])) s
       if s.boot.phase = 3 then enterPhase 4 t else t)
      fun e => trainFailed e.1 (e.2 / 72) (some (e.2 % 72)) s) := by
  change execHbmTrain (.passed high low sHigh sLow) s = _
  simp only [execHbmTrain, htrains, hlow, hlast, ne_eq, not_true_eq_false, Bool.not_true, Bool.false_eq_true, or_self, if_false]
  cases trainFault high low sHigh sLow <;> rfl

end Measured

end Training

theorem trainStepped_of_lt {s : State} (h : s.rd O.HbmTrainStatus 0 F.HbmTrainStatus_Step < 8) :
    trainStepped s = (s.upHbm fun h => { h with trainTries := 0 }).wr O.HbmTrainStatus 0 F.HbmTrainStatus_Step
      (s.rd O.HbmTrainStatus 0 F.HbmTrainStatus_Step + 1) :=
  if_pos h

/-- After the last step at HIGH the first at LOW. -/
theorem trainStepped_of_last_high {s : State} (h : 8 ≤ s.rd O.HbmTrainStatus 0 F.HbmTrainStatus_Step)
    (hhigh : s.hbm.trainLow = false) :
    trainStepped s = ((s.upHbm fun h => { h with trainTries := 0 }).upHbm fun h => { h with trainLow := true }).wr
      O.HbmTrainStatus 0 F.HbmTrainStatus_Step 1 :=
  (if_neg (Nat.not_lt.mpr h)).trans (if_neg (Bool.eq_false_iff.mp hhigh))

theorem trainFailed_again {s : State} {step pc : Nat} {bit_ : Option Nat} (h : s.hbm.trainTries < 2) :
    trainFailed step pc bit_ s = (s.wr O.HbmTrainStatus 0 F.HbmTrainStatus_Step step).upHbm fun h =>
      { h with trainTries := h.trainTries + 1 } :=
  if_pos h

theorem trainFailed_third {s : State} {step pc : Nat} {bit_ : Option Nat} (h : 2 ≤ s.hbm.trainTries) :
    trainFailed step pc bit_ s = enterHold 1 (raise (src 8 10) (setHbmState 4
      (((s.wr O.HbmTrainStatus 0 F.HbmTrainStatus_Step step).wr O.HbmTrainStatus 0 F.HbmTrainStatus_PseudoChannel pc).wr
        O.HbmTrainStatus 0 F.HbmTrainStatus_Bit (bit_.getD 127)))) :=
  if_neg (Nat.not_lt.mpr h)

/-! ### The wipe (R328) -/

section Wipe
variable {s u : State} (hwipes : s.hbmState = 2)
  (hu : u = s.wr O.WipeStatus 0 F.WipeStatus_DurationUs ((s.time.ticks - s.hbm.scrubStart) / ticksPerUs % 2 ^ 32))
include hwipes hu

theorem exec_hbmWipe_failed : exec (.hbmWipe false) s = .next (enterHold 3 (wipeFailed 3 u)) := by
  subst hu
  exact if_neg (not_not_intro hwipes)

theorem exec_hbmWipe_verified (hphase : s.boot.phase = 4) :
    exec (.hbmWipe true) s = .next (enterPhase 5 (((((setHbmState 3 (u.wr O.HbmTrainStatus 0
      F.HbmTrainStatus_TrainMs ((s.time.ticks - s.hbm.trainStart) / ticksPerMs % 2 ^ 32))).wr O.WipeStatus 0
      F.WipeStatus_HbmDone 1).upTel fun t => { t with region := [] }).upHost fun h => { h with staging := [] }).upHbm fun h =>
        { h with scrubUnit := 0, scrubStart := s.time.ticks
                 retrained := (List.range 16).foldl (fun a k => Tbl.put 0 k s.time.ticks a) h.retrained })) := by
  subst hu
  change execHbmWipe true s = _
  simp only [execHbmWipe, hwipes, hphase, ne_eq, not_true_eq_false, Bool.not_true, Bool.false_eq_true, if_false, if_true]

end Wipe

end Sys2Proof.Machine

namespace Sys2Proof
open Machine

/-- Settles O50: training by the report that comes, a failure by the tries before it, and the wipe by its verification. -/
theorem hbmIsTrainedAndWiped : Obligations.HbmIsTrainedAndWiped := by
  unfold Obligations.HbmIsTrainedAndWiped
  refine ⟨?stepped, ?passed, ?fault, ?failed, fun s u hwipes hu =>
    ⟨exec_hbmWipe_failed hwipes hu, exec_hbmWipe_verified hwipes hu⟩⟩
  case stepped =>
    rintro s _ _ htrains rfl rfl
    rw [exec_hbmTrain_stepped htrains]
    exact ⟨fun hmore => congrArg _ (trainStepped_of_lt hmore),
      fun hlast hhigh => congrArg _ (trainStepped_of_last_high hlast hhigh)⟩
  case passed =>
    rintro s high low sHigh sLow _ htrains hphase hlow hlast hgood rfl
    rw [exec_hbmTrain_passed htrains hlow hlast, hgood]
    exact congrArg _ (if_pos hphase)
  case fault =>
    intro s high low sHigh sLow step j htrains hlow hlast hbad
    rw [exec_hbmTrain_passed htrains hlow hlast, hbad, Option.elim_some]
  case failed =>
    rintro s step pc bit_ _ htrains hstep rfl
    rw [exec_hbmTrain_failed htrains hstep]
    exact ⟨fun hagain => congrArg _ (trainFailed_again hagain), fun hthird => congrArg _ (trainFailed_third hthird)⟩

end Sys2Proof
end

section
/-! SUPPORT. The rings: punted packets staged and written to the host, and packets that the inject rings present. -/
namespace Sys2Proof.Machine

/-! ### Punt rings (R341) -/

section Punt
variable {p : Pkt} {s u : State} {row : Nat} (hring : s.puntRingOf p.hdr.destQueue = some row)
include hring

theorem stagePunt_of_no_shelf (hshelf : shelfAlloc (0x1000 + row) (max 1 p.data.length) s = (none, u)) :
    stagePunt p s = noteDiscard p (u.add64 O.RingCounters row F.RingCounters_NoShelf 1) := by
  simp only [stagePunt, hring, hshelf]

theorem stagePunt_of_buffer {buf : Nat × Nat} (hshelf : shelfAlloc (0x1000 + row) (max 1 p.data.length) s = (some buf, u)) :
    stagePunt p s = u.upHost fun h => { h with punts := h.punts ++ [⟨p, row, buf⟩] } := by
  simp only [stagePunt, hring, hshelf]

end Punt

/-! ### Offers of the inject rings (R343, R344) -/

/-- What an offer presents of its bytes: as many as its descriptors tell, padded to the least frame. -/
abbrev offerFrame (o : Offer) (total : Nat) : Bytes :=
  ((o.data ++ List.replicate (total - o.data.length) 0).take total) ++
    List.replicate (60 - ((o.data ++ List.replicate (total - o.data.length) 0).take total).length) 0

/-- The packet that an offer presents, as its first descriptor `h` says, in a Shelf buffer. -/
abbrev offerPkt (o : Offer) (total h : Nat) (buf : Nat × Nat) (u : State) : InjPkt :=
  { data := offerFrame o total ++ fcsBytes (offerFrame o total), client := ringClient (4096 + o.row.val)
    stampRing := if h.testBit 172 then some (4096 + o.row.val, (u.ring (4096 + o.row.val)).next) else none
    direct := h.testBit 173
    cls := if h.testBit 173 then bitsOf 170 168 h else u.rd O.InjectRing o.row.val F.InjectRing_Class
    card := bitsOf 167 164 h, port := bitsOf 163 156 h, queue := bitsOf 155 137 h, edit := bitsOf 136 121 h
    launchValid := h.testBit 171, launch := bitsOf 95 32 h, buf := buf }

/-- The packet of an offer enters, is counted, and joins its ring's completions. -/
abbrev offerEntered (o : Offer) (d : List Nat) (total : Nat) (buf : Nat × Nat) (u : State) : State :=
  pushComp (4096 + o.row.val) d (if (d.headD 0).testBit 172 then none else some 0) ((d.headD 0).testBit 172)
    (((u.upFe fun f => { f with inject := f.inject ++ [offerPkt o total (d.headD 0) buf u] }).add64
      O.RingCounters (4096 + o.row.val) F.RingCounters_Packets 1).add64 O.RingCounters (4096 + o.row.val)
        F.RingCounters_Bytes ((offerFrame o total).length + 4))

/-- What becomes of the offer whose turn it is, with descriptors `d` of `total` bytes. -/
def offerTaken (o : Offer) (d : List Nat) (total : Nat) (t : State) : State :=
  if offerBad t.toBlocks o.row.val total d then
    pushComp (4096 + o.row.val) d (some 2) false (t.add64 O.RingCounters (4096 + o.row.val) F.RingCounters_Errors 1)
  else
    let a := shelfAlloc (ringClient (4096 + o.row.val)) (max 60 total + 4) t
    a.1.elim
      (pushComp (4096 + o.row.val) d (some 5) false (a.2.add64 O.RingCounters (4096 + o.row.val) F.RingCounters_NoShelf 1))
      fun buf => offerEntered o d total buf a.2

section Offers
variable {o : Offer} {d : List Nat} {total : Nat} {t u : State}

theorem offerTaken_of_bad (hbad : offerBad t.toBlocks o.row.val total d = true) :
    offerTaken o d total t =
      pushComp (4096 + o.row.val) d (some 2) false (t.add64 O.RingCounters (4096 + o.row.val) F.RingCounters_Errors 1) :=
  if_pos hbad

variable (hgood : offerBad t.toBlocks o.row.val total d = false)
include hgood

theorem offerTaken_of_no_shelf (hshelf : shelfAlloc (ringClient (4096 + o.row.val)) (max 60 total + 4) t = (none, u)) :
    offerTaken o d total t =
      pushComp (4096 + o.row.val) d (some 5) false (u.add64 O.RingCounters (4096 + o.row.val) F.RingCounters_NoShelf 1) := by
  rw [offerTaken, if_neg (Bool.eq_false_iff.mp hgood), hshelf, Option.elim_none]

theorem offerTaken_of_buffer {buf : Nat × Nat}
    (hshelf : shelfAlloc (ringClient (4096 + o.row.val)) (max 60 total + 4) t = (some buf, u)) :
    offerTaken o d total t = offerEntered o d total buf u := by
  rw [offerTaken, if_neg (Bool.eq_false_iff.mp hgood), hshelf, Option.elim_some]

end Offers

/-! ### What the ring engine moves (R341, R343) -/

section Flow
variable {s : State} (hmaster : s.busMaster = true) (htraffic : s.traffic = true) (hsteady : s.hbm.change = none)
include hmaster htraffic hsteady

theorem exec_puntRingWrite {row : Fin 4096} {bufs : List (BitVec 64 × BitVec 16)} {posted : List (Nat × Nat)} {p : PuntPkt}
    {rest : List PuntPkt} (hready : (s.ring row.val).st = 1)
    (hposted : posted = (bufs.take (s.ring row.val).posted).map fun e => (e.1.toNat, e.2.toNat)) (hsome : posted ≠ [])
    (htake : takePunt row.val s.host.punts = some (p, rest)) :
    exec (.puntRingWrite row bufs) s =
      .next (puntWritten row.val p.pkt posted p.buf (s.upHost fun h => { h with punts := rest })) := by
  change execPuntRingWrite row bufs s = _
  simp [execPuntRingWrite, hmaster, htraffic, hsteady, hready, htake, ← hposted, hsome]

theorem exec_injectPacket {offers : List Offer} {o : Offer} {d : List Nat} {total : Nat} {t : State}
    (hpick : pickOffer s.toBlocks offers = some o) (hd : d = o.descs.map (·.toNat))
    (htotal : total = d.foldl (fun a x => a + injLen x) 0)
    (ht : t = s.upHost fun x =>
      { x with served := Tbl.put 4095 (s.rd O.InjectRing o.row.val F.InjectRing_Priority) o.row.val x.served }) :
    exec (.injectPacket offers) s = .next (offerTaken o d total t) := by
  subst hd htotal ht
  change execInjectPacket offers s = _
  simp only [execInjectPacket, hmaster, htraffic, hsteady, hpick, Option.isSome_none, Bool.not_true, Bool.or_self,
    Bool.false_eq_true, if_false]
  unfold offerTaken
  split
  · rfl
  · split
    next hshelf => rw [hshelf]; rfl
    next hshelf => rw [hshelf]; rfl

end Flow

/-! ### Departure stamps (R345) -/

/-- The packets of a ring that have waited for their departure as long as they may. -/
abbrev stampLate (s : State) (c : Comp) : Bool :=
  c.wants && c.status.isNone && decide (c.since + 25 * ticksPerMs ≤ s.time.ticks)

theorem exec_injectStampTimeout {s : State} {row : Fin 4096} (hlate : ∃ c ∈ (s.ring (4096 + row.val)).comps, c.wants = true ∧
      c.status = none ∧ c.since + 25 * ticksPerMs ≤ s.time.ticks) :
    let t := s.updRing (4096 + row.val) fun x => { x with
      comps := updWhere x.comps (stampLate s) fun c => { c with status := some 1, stamp := 0 } }
    exec (.injectStampTimeout row) s = .next (flushComps (4096 + row.val) ((t.ring (4096 + row.val)).comps.length + 1) t) := by
  obtain ⟨c, hmem, hwants, hopen, hdue⟩ := hlate
  have hany : (s.ring (4096 + row.val)).comps.any (stampLate s) = true :=
    List.any_eq_true.mpr ⟨c, hmem, by simp [stampLate, hwants, hopen, hdue]⟩
  have hgo : ¬ (!(s.ring (4096 + row.val)).comps.any (stampLate s)) = true := by simp [hany]
  exact if_neg hgo

end Sys2Proof.Machine

namespace Sys2Proof
open Machine

/-- Settles O52: a punted packet by its Shelf buffer, an offer by its descriptors and its Shelf buffer, and the two ends of a
wait for a departure stamp. -/
theorem ringsMovePackets : Obligations.RingsMovePackets := by
  unfold Obligations.RingsMovePackets
  refine ⟨?punted, fun p s row hring => ⟨fun u => stagePunt_of_no_shelf hring, fun buf u => stagePunt_of_buffer hring⟩,
    ?injected, ?departed, ?late⟩
  case punted =>
    intro s row bufs posted p rest hready hmaster htraffic hsteady hposted hsome htake
    exact exec_puntRingWrite hmaster htraffic hsteady hready hposted hsome htake
  case injected =>
    rintro s offers o d total t _ hmaster htraffic hsteady hpick hd htotal ht rfl
    rw [exec_injectPacket hmaster htraffic hsteady hpick hd htotal ht]
    refine ⟨fun hbad => congrArg _ (offerTaken_of_bad hbad),
      fun u hgood hshelf => congrArg _ (offerTaken_of_no_shelf hgood hshelf), ?_⟩
    rintro buf u _ hgood rfl hshelf
    exact congrArg _ (offerTaken_of_buffer hgood hshelf)
  case departed =>
    intro s r first stamp rest hdeparted
    change execInjectTimestampComplete s = _
    simp only [execInjectTimestampComplete, hdeparted]
    cases stamp <;> rfl
  case late =>
    rintro s row _ hlate rfl
    exact exec_injectStampTimeout hlate

end Sys2Proof
end

section
/-! SUPPORT. Tallboy's dumps and slots, and the end of a change of the life cycle. -/
namespace Sys2Proof.Machine

/-! ### Latches (R363) -/

/-- The context of a latch, which the schedules due share. -/
abbrev latched (ks : List Nat) (s : State) : DumpCtx :=
  { jobs := ks.map fun k => dumpJob k s, instant := s.gridQ, gridSt := s.time.st.code, gen := s.gen.cur % 2 ^ 32
    shadow := s.store }

section Latch
variable {s : State} {ks : List Nat} (hdue : dumpsDue s.toBlocks = ks) (hsome : ks ≠ [])
include hdue hsome

theorem exec_dumpLatch :
    exec .dumpLatch s = .next (if 2 ≤ s.tel.contexts.length then ks.foldl (passInstant true) s
      else (ks.foldl (passInstant false) s).upTel fun t => { t with contexts := t.contexts ++ [latched ks s] }) := by
  change execDumpLatch s = _
  cases ks with
  | nil => exact absurd rfl hsome
  | cons k l =>
    simp only [execDumpLatch, hdue]
    exact (apply_ite Host.Outcome.next _ _ _).symm

end Latch

/-! ### Completed dumps (R318, R324, R364) -/

/-- The read that a dump's end needs, noted: of its last unit, or for the copy to the host. -/
abbrev dumpRead (j : DumpJob) (part place : Nat) (r : HbmRead) (s : State) : State :=
  if part ≠ 0 ∨ j.host then hbmNote 5 (telemetryBase + place) r s else s

/-- A dump's bytes `d` are written to its slot; it is counted and raised, and `left` drains on. -/
abbrev dumpWrittenOut (j : DumpJob) (left : List DumpCtx) (place : Nat) (d : Bytes) (s : State) : State :=
  raise (src 9 11) (((s.upTel fun t => { t with contexts := left, region := memWrite t.region place d }).add64
    O.TallboyDumpStatus j.sched F.TallboyDumpStatus_Dumps 1).wr O.TallboyDumpStatus j.sched
      F.TallboyDumpStatus_LastSequence j.seq)

theorem exec_dumpComplete {s : State} {r : HbmRead} {c : DumpCtx} {rest : List DumpCtx} {j : DumpJob} {more : List DumpJob}
    {body d : Bytes} {part place : Nat} {lost : Bool} (hsteady : s.hbm.change = none) (hcontexts : s.tel.contexts = c :: rest)
    (hjobs : c.jobs = j :: more) (hbody : body = dumpBody c j) (hpart : part = (64 + body.length) % 32)
    (hlost : lost = (hbmLost r && (part != 0 || j.host))) (hd : d = dumpHeader s.card c j (!lost) body ++ body)
    (hplace : place = j.area + j.seq % j.slots * j.size) :
    let t := dumpRead j part place r s
    let u := dumpWrittenOut j (if more.isEmpty then rest else { c with jobs := more } :: rest) place
      (if lost then d.take (d.length - part) else d) (if lost then hbmEvent t else t)
    exec (.dumpComplete r) s = .next (if j.host then copyDump j.sched d u else u) := by
  subst hbody hpart hlost hd hplace
  change execDumpComplete r s = _
  simp only [execDumpComplete, hsteady, hcontexts, hjobs, Option.isSome_none, Bool.false_eq_true, if_false]

/-! ### Slots of sample records (R365) -/

theorem exec_telemetrySlotHandover {s : State} {row : Fin 9} (hrow : row.val ≠ 0)
    (hfull : slotRoom s.toBlocks row.val ≤ (Tbl.get [] s.tel.slots row.val).length) :
    exec (.telemetrySlotHandover row) s = .next (handOver row.val s) :=
  if_neg (not_or.mpr ⟨hrow, Nat.not_lt.mpr hfull⟩)

theorem exec_telemetryFlush {s : State} {row : Fin 9} {e : Nat × Bytes} {rest : List (Nat × Bytes)} {us : Nat}
    (hslot : Tbl.get [] s.tel.slots row.val = e :: rest) (hus : us = telRing s.toBlocks row.val F.TelemetryHostRing_FlushUs)
    (hflushes : us ≠ 0) (hdue : e.1 + us * ticksPerUs ≤ s.time.ticks) :
    exec (.telemetryFlush row) s = .next (handOver row.val s) := by
  subst hus
  change execTelemetryFlush row s = _
  simp only [execTelemetryFlush, hslot, if_pos (And.intro hflushes hdue)]

/-! ### The end of a change of the life cycle (R378, R383, R384) -/

section LifeCycle
variable {s : State} {f t : Nat} (hintent : s.chest.intent = some (f, t)) (hbusy : lifeBusy s.toBlocks = true)
include hintent hbusy

/-- Only decommissioning hangs on the verification of Chest's wipe. -/
theorem exec_lifecycleChangeComplete (verified : Bool) :
    exec (.lifecycleChangeComplete verified) s =
      .next (if t = 4 ∧ verified = false then wipeFailed 4 s else lifeFinish f t s) := by
  change execLifecycleChangeComplete verified s = _
  simp only [execLifecycleChangeComplete, hintent, hbusy, Bool.not_true, Bool.false_eq_true, if_false, Bool.not_eq_true']
  exact (apply_ite Host.Outcome.next _ _ _).symm

end LifeCycle

end Sys2Proof.Machine

namespace Sys2Proof
open Machine

/-- Settles O54: latches by the contexts that still drain, the dump first in them, the slots, and the end of a change. -/
theorem telemetryAndLifeCycle : Obligations.TelemetryAndLifeCycle := by
  unfold Obligations.TelemetryAndLifeCycle
  refine ⟨⟨?latch, ?complete, fun s row hrow hfull => exec_telemetrySlotHandover hrow hfull,
    fun s row e rest us => exec_telemetryFlush⟩, ?lifeCycle⟩
  case latch =>
    intro s ks hdue hsome
    rw [exec_dumpLatch hdue hsome]
    exact ⟨fun hfull => congrArg _ (if_pos hfull), fun hroom => congrArg _ (if_neg (Nat.not_le.mpr hroom))⟩
  case complete =>
    rintro s r c rest j more body part lost d place _ hsteady hcontexts hjobs hbody hpart hlost hd hplace rfl _ rfl
    have hdone := exec_dumpComplete hsteady hcontexts hjobs hbody hpart hlost hd hplace
    exact ⟨fun hstays => hdone.trans (congrArg _ (if_neg (Bool.eq_false_iff.mp hstays))),
      fun hcopied => hdone.trans (congrArg _ (if_pos hcopied))⟩
  case lifeCycle =>
    intro s f t hintent hbusy
    have hends := exec_lifecycleChangeComplete hintent hbusy
    refine ⟨fun hother verified => (hends verified).trans (congrArg _ (if_neg fun h => hother h.1)), fun hgone => ⟨?_, ?_⟩⟩
    · exact (hends true).trans (congrArg _ (if_neg fun h => absurd h.2 (by decide)))
    · exact (hends false).trans (congrArg _ (if_pos ⟨hgone, rfl⟩))

end Sys2Proof
end

section
/-! SUPPORT. Trolley: the writes that start and stop a channel, and the runs of its channels. -/
namespace Sys2Proof.Machine

/-! ### What a commit that goes through has passed (R45, R48 to R52) -/

theorem Verdict.and_eq_go {v w : Verdict} : v.and w = .go ↔ v = .go ∧ w = .go := by
  cases v <;> simp [Verdict.and]

/-- None of its rows is refused for what it commands. -/
theorem commandStatus_of_commitCheck_go {a : Actor} {touched : List (CUnit × Nat)} {at_ : Option Nat} {cs : List WCell}
    {s : State} (h : commitCheck a touched at_ cs s = .go) {c : WCell} (hc : c ∈ cs) : commandStatus s a c = .ok := by
  simp only [commitCheck, Verdict.and_eq_go] at h
  obtain ⟨⟨-, -, hcommands⟩, -⟩ := h
  split at hcommands
  · cases hcommands
  next hnone => simpa using List.find?_eq_none.mp hnone c hc

/-- The one row of a granted write is not refused for what it commands. -/
theorem Granted.commandStatus_eq_ok {v : Via} {w : SW} {lost : Nat} {s : State} {x : Sess} (h : Granted v w lost s x) {o : ObjInfo}
    (info : objInfo? w.obj = some o) :
    commandStatus (s.came v.sess) (actorOf (s.came v.sess).toBlocks x 0x02 lost) ⟨w.obj, w.row, parts o w.fld w.val⟩ = .ok := by
  refine commandStatus_of_commitCheck_go h.commit ?_
  simp [cellsOf, addWrite, info]

/-- A command that is a granted write of an object that is not stored: its row has its effect on the state that records the
commit. -/
theorem exec_action_granted {c : Instr} {v : Via} {w : SW} {lost : Nat} {s : State} {x : Sess} {eff : State → State}
    {o : ObjInfo} (hwrite : oneWrite c = some (v, w, lost)) (h : Granted v w lost s x) (info : objInfo? w.obj = some o)
    (fe : isFe o = false) (tr : transient o = true) (plain : Ordinary w.obj)
    (heff : ∀ us, cellEffect (s.came v.sess).toBlocks (actorOf (s.came v.sess).toBlocks x 0x02 lost) ((s.came v.sess).booked us)
      ⟨w.obj, w.row, parts o w.fld w.val⟩ = eff ((s.came v.sess).booked us)) :
    exec c s = .next (wrote v w lost x eff s) := by
  rw [exec_oneWrite hwrite, viaWrite_wrote h o info fe plain, cell_eq o info]
  simp only [wrote, stored_transient info tr plain, heff]

/-! ### Go and Stop (R348, R353) -/

/-- The objects of memory and the host that a commit looks at before TrolleyGo. -/
abbrev objsBeforeGo : List Nat :=
  [O.HbmFreqRequest, O.HbmServiceMode, O.HbmPatternGen, O.HbmDelay, O.HbmStrobe, O.PuntRing, O.InjectRing]

theorem trolleyGoObj_facts (ch : Fin 32) :
    (∃ o ∈ objInfo? (O.TrolleyGo0 + ch.val), isFe o = false ∧ transient o = true ∧ o.fields = []) ∧
      Ordinary (O.TrolleyGo0 + ch.val) ∧ (0x3C000 ≤ O.TrolleyGo0 + ch.val ∧ O.TrolleyGo0 + ch.val < 0x44000) ∧
      O.TrolleyGo0 + ch.val ∉ objsBeforeGo := by
  revert ch
  decide

/-- No channel's Go has an owner that writes it in place of the session. -/
theorem ownedStatus_trolleyGo (b : Blocks) (ch : Fin 32) : ownedStatus b (O.TrolleyGo0 + ch.val) = .ok := by
  obtain ⟨hservo, hstandby, hswap⟩ : servoObj (O.TrolleyGo0 + ch.val) = false ∧ O.TrolleyGo0 + ch.val ≠ O.MeshConnStandby ∧
      O.TrolleyGo0 + ch.val ≠ O.MeshPageSwap := by
    revert ch
    decide
  simp [ownedStatus, hservo, hstandby, hswap]

theorem commandStatus_trolleyGo (s : State) (a : Actor) (ch : Fin 32) (n : Nat) :
    commandStatus s a ⟨O.TrolleyGo0 + ch.val, 0, [(0, n)]⟩ = (trolleyGo ch.val n s).1 := by
  obtain ⟨-, -, ⟨hfrom, -⟩, hother⟩ := trolleyGoObj_facts ch
  have htime : ¬ O.TrolleyGo0 + ch.val < 0x8000 := by omega
  have htm : ¬ O.TrolleyGo0 + ch.val < 0x3C000 := by omega
  simp only [List.mem_cons, not_or] at hother
  simp [commandStatus, ownedStatus_trolleyGo, htime, htm, hother, WCell.val]

theorem hostEffect_trolleyGo (old : Blocks) (a : Actor) (ch : Fin 32) (n : Nat) (s : State) :
    hostEffect old a ⟨O.TrolleyGo0 + ch.val, 0, [(0, n)]⟩ s = (trolleyGo ch.val n s).2 := by
  obtain ⟨-, -, -, hother⟩ := trolleyGoObj_facts ch
  simp only [List.mem_cons, not_or] at hother
  simp [hostEffect, hother, WCell.val]

theorem hostEffect_trolleyStop (old : Blocks) (a : Actor) (n : Nat) (s : State) :
    hostEffect old a ⟨O.TrolleyStop, 0, [(0, n)]⟩ s = trolleyStop n s := by
  have hpast : ¬ O.TrolleyStop < O.TrolleyGo0 + 32 := by decide
  simp [hostEffect, hpast, WCell.val]

/-- The checks of a Go read nothing that a commit records of itself. -/
theorem trolleyGo_status_booked (c addr : Nat) (s : State) (us : List CUnit) :
    (trolleyGo c addr (s.booked us)).1 = (trolleyGo c addr s).1 := by
  have howner : chanOwner (s.booked us).toBlocks c = chanOwner s.toBlocks c := rfl
  have hchan : (s.booked us).chan c = s.chan c := rfl
  simp only [trolleyGo, howner, hchan]
  split
  · rfl
  · split <;> rfl

theorem trolleyGo_of_ok {c addr : Nat} {s : State} (h : (trolleyGo c addr s).1 = .ok) :
    (trolleyGo c addr s).2 = (s.updChan c fun _ => { ChanRT.start with st := 1, addr := addr, order := s.host.chanNext }).upHost
      fun h => { h with chanNext := h.chanNext + 1 } := by
  unfold trolleyGo at h ⊢
  split at h
  · cases h
  · split at h
    · cases h
    next hfits hidle => rw [if_neg hfits, if_neg hidle]

theorem hostWrite_host (a : Nat) (d : Bytes) (s : State) : (hostWrite a d s).host = s.host :=
  List.foldlRecOn (motive := fun t : State => t.host = s.host) _ _ rfl fun _ h _ _ => h

theorem trolleyWriteBack_chan (addr bytes status c : Nat) (s : State) :
    (trolleyWriteBack addr bytes status s).chan c = s.chan c := by
  simp only [Blocks.chan, trolleyWriteBack, hostWrite_host]

theorem trolleyStop_eq (c : Nat) (s : State) :
    trolleyStop c s = if (s.chan c).st = 1 then s.updChan c fun m => { m with st := 0 }
      else if (s.chan c).st = 2 then
        trolleyEnd c 5 (if s.busMaster then trolleyWriteBack (s.chan c).addr 0 5 s else s)
      else s := by
  by_cases hready : (s.chan c).st = 1
  · simp [trolleyStop, trolleyHalt, hready]
  by_cases hruns : (s.chan c).st = 2
  · cases hmaster : s.busMaster <;> simp [trolleyStop, trolleyHalt, hruns, hmaster, trolleyWriteBack_chan]
  · simp only [trolleyStop, hruns, false_and, if_false, hready]
    unfold trolleyHalt
    split
    · contradiction
    · contradiction
    · rfl

section Writes
variable {v : Via} {s : State} {x : Sess}

theorem exec_trolleyGo {ch : Fin 32} {y : BitVec 64} (h : Granted v ⟨O.TrolleyGo0 + ch.val, 0, 0, y.toNat⟩ 0 s x) :
    exec (.trolleyGo v ch y) s = .next (wrote v ⟨O.TrolleyGo0 + ch.val, 0, 0, y.toNat⟩ 0 x (fun r =>
      (r.updChan ch.val fun _ => { ChanRT.start with st := 1, addr := y.toNat, order := r.host.chanNext }).upHost fun h =>
        { h with chanNext := h.chanNext + 1 }) s) := by
  obtain ⟨⟨o, info, fe, tr, nf⟩, plain, hhost, -⟩ := trolleyGoObj_facts ch
  have hgoes := h.commandStatus_eq_ok info
  rw [parts_of_no_fields nf, commandStatus_trolleyGo] at hgoes
  refine exec_action_granted rfl h info fe tr plain fun us => ?_
  rw [parts_of_no_fields nf, cell_host hhost, hostEffect_trolleyGo]
  exact trolleyGo_of_ok ((trolleyGo_status_booked _ _ _ us).trans hgoes)

theorem exec_trolleyStop {y : BitVec 8} (h : Granted v ⟨O.TrolleyStop, 0, 0, y.toNat⟩ 0 s x) :
    exec (.trolleyStop v y) s = .next (wrote v ⟨O.TrolleyStop, 0, 0, y.toNat⟩ 0 x (fun r =>
      if (r.chan y.toNat).st = 1 then r.updChan y.toNat fun m => { m with st := 0 }
      else if (r.chan y.toNat).st = 2 then
        trolleyEnd y.toNat 5 (if r.busMaster then trolleyWriteBack (r.chan y.toNat).addr 0 5 r else r)
      else r) s) := by
  obtain ⟨o, info, fe, tr, nf⟩ : ∃ o ∈ objInfo? O.TrolleyStop, isFe o = false ∧ transient o = true ∧ o.fields = [] := by decide
  have plain : Ordinary O.TrolleyStop := by decide
  have hhost : 0x3C000 ≤ O.TrolleyStop ∧ O.TrolleyStop < 0x44000 := by decide
  refine exec_action_granted rfl h info fe tr plain fun us => ?_
  rw [parts_of_no_fields nf, cell_host hhost, hostEffect_trolleyStop, trolleyStop_eq]

end Writes

/-! ### Runs (R348 to R352) -/

/-- The one element with the least value of `f` is what a search for that value finds. -/
theorem least_found {α : Type} {f : α → Nat} {l : List α} {a : α} (ha : a ∈ l) (hleast : ∀ b ∈ l, b ≠ a → f a < f b) :
    (l.map f).min? = some (f a) ∧ l.find? (fun b => f b == f a) = some a := by
  have hle : ∀ b ∈ l, b = a ∨ f a < f b := fun b hb => (em (b = a)).imp_right (hleast b hb)
  constructor
  · refine List.min?_eq_some_iff.mpr ⟨List.mem_map_of_mem ha, List.forall_mem_map.mpr fun b hb => ?_⟩
    rcases hle b hb with rfl | hlt
    · exact Nat.le_refl _
    · exact Nat.le_of_lt hlt
  · obtain ⟨b, hfind⟩ := Option.isSome_iff_exists.mp (List.find?_isSome (p := fun b => f b == f a).mpr ⟨a, ha, beq_self_eq_true _⟩)
    have hsame : f b = f a := by simpa using List.find?_some hfind
    rcases hle b (List.mem_of_find?_eq_some hfind) with rfl | hlt
    · exact hfind
    · omega

theorem exec_trolleyRunStart {s : State} {c : Nat} (hidle : s.runningChan = none) (hmaster : s.busMaster = true) (hc : c < 32)
    (hready : (s.chan c).st = 1)
    (hfirst : ∀ k < 32, (s.chan k).st = 1 → k ≠ c → (s.chan c).order < (s.chan k).order) :
    exec .trolleyRunStart s = .next ((s.updChan c fun x => { x with st := 2, status := 0, bytes := 0, hops := 0 }).add64
      O.TrolleyCounters c F.TrolleyCounters_Runs 1) := by
  have hmem (k : Nat) : k ∈ (List.range 32).filter (fun k => (s.chan k).st == 1) ↔ k < 32 ∧ (s.chan k).st = 1 := by
    simp [List.mem_filter]
  obtain ⟨hmin, hfind⟩ := least_found (f := fun k => (s.chan k).order) ((hmem c).mpr ⟨hc, hready⟩)
    fun k hk => hfirst k ((hmem k).mp hk).1 ((hmem k).mp hk).2
  have hgo : ¬ (s.runningChan.isSome = true ∨ (!s.busMaster) = true) := by simp [hidle, hmaster]
  change execTrolleyRunStart s = _
  simp only [execTrolleyRunStart, if_neg hgo, hmin, hfind]

section Descriptor
variable {s t u : State} {desc : BitVec 512} {pairs : List (BitVec 64 × BitVec 32)} {data : Bytes} {c : Nat}
  {host mod_ : List (Nat × Nat)} (hruns : s.runningChan = some c) (hmaster : s.busMaster = true)
  (hsegs : trolleySegs desc.toNat pairs = (host, mod_)) (ht : t = s.updChan c fun x => { x with hops := x.hops + 1 })
include hruns hmaster hsegs ht

theorem exec_trolleyDescriptorDone_bad (hbad : trolleyBad c desc.toNat host mod_ = true) :
    exec (.trolleyDescriptorDone desc pairs data) s =
      .next (raiseIf (desc.toNat.testBit 362) (src 9 2) (trolleyEnd c 4 (trolleyWriteBack (s.chan c).addr 0 4 t))) := by
  subst ht
  change execTrolleyDescriptorDone desc pairs data s = _
  simp only [execTrolleyDescriptorDone, hruns, hmaster, hsegs, hbad, Bool.not_true, Bool.false_eq_true, if_false, if_true]

/-- The run of a good descriptor: at the hop limit the chain is cut, at its end the run is done. -/
theorem exec_trolleyDescriptorDone_good (hgood : trolleyBad c desc.toNat host mod_ = false)
    (hu : u = ((trolleyMove desc.toNat host mod_ data t).add64 O.TrolleyCounters c F.TrolleyCounters_Bytes (segBytes host)).updChan c
      fun x => { x with bytes := x.bytes + segBytes host, addr := bitsOf 511 448 desc.toNat }) :
    let cut := bitsOf 511 448 desc.toNat ≠ 0 ∧ u.sc O.TrolleyHopLimit ≤ (u.chan c).hops
    let w := raiseIf (desc.toNat.testBit 362) (src 9 2)
      (trolleyWriteBack (s.chan c).addr (segBytes host) (if cut then 1 else 0) u)
    exec (.trolleyDescriptorDone desc pairs data) s =
      .next (if cut then trolleyEnd c 1 w else if bitsOf 511 448 desc.toNat = 0 then trolleyEnd c 0 w else w) := by
  subst ht hu
  change execTrolleyDescriptorDone desc pairs data s = _
  simp only [execTrolleyDescriptorDone, hruns, hmaster, hsegs, hgood, Bool.not_true, Bool.false_eq_true, if_false]

end Descriptor

end Sys2Proof.Machine

namespace Sys2Proof
open Machine

/-- Settles O14: a Go that is granted found its channel idle, and a Stop is one of three cases of its channel's state. -/
theorem trolleyWritesTakeEffect : Obligations.TrolleyWritesTakeEffect := by
  unfold Obligations.TrolleyWritesTakeEffect
  exact ⟨fun _ _ _ _ _ => exec_trolleyGo, fun _ _ _ _ => exec_trolleyStop⟩

/-- Settles O53: the first ready channel is the one that the search finds; a descriptor is bad, the last, followed, or one too
many. -/
theorem trolleyRunsChannels : Obligations.TrolleyRunsChannels := by
  unfold Obligations.TrolleyRunsChannels
  refine ⟨fun s c => exec_trolleyRunStart, fun s desc pairs data c host mod_ t hruns hmaster hsegs ht => ⟨?bad, ?good⟩⟩
  case bad => exact exec_trolleyDescriptorDone_bad hruns hmaster hsegs ht
  case good =>
    intro u hgood hu
    have hdone := exec_trolleyDescriptorDone_good hruns hmaster hsegs ht hgood hu
    refine ⟨fun hlast => ?_, fun hmore hbelow => ?_, fun hmore hlimit => ?_⟩
    · simpa [hlast] using hdone
    · simpa [hmore, Nat.not_le.mpr hbelow] using hdone
    · simpa [hmore, hlimit] using hdone

end Sys2Proof
end

section
/-! SUPPORT. The host link's events, the doorbells of the rings and the signals they hold off. -/
namespace Sys2Proof.Machine

/-! ### Doorbells (R338, R339) -/

section Doorbell
variable {s : State} {r : Fin 8192} {value : BitVec 32}

theorem exec_ringDoorbell_disabled (hoff : (s.ring r.val).st = 0) :
    exec (.ringDoorbell r value) s = .next (s.add64 O.DoorbellErrors 0 0 1) :=
  if_pos hoff

/-- A ring in operation: the doorbell moves Producer, unless it is defective. -/
theorem exec_ringDoorbell_running (hruns : (s.ring r.val).st = 1) :
    exec (.ringDoorbell r value) s = .next (
      if 2 ^ 31 ≤ (value.toNat + 2 ^ 32 - (s.ring r.val).prod) % 2 ^ 32 ∨
          ringSize s.toBlocks r.val < (value.toNat + 2 ^ 32 - (s.ring r.val).cons) % 2 ^ 32 then
        ringError r.val (s.add64 O.DoorbellErrors 0 0 1)
      else s.updRing r.val fun x => { x with prod := value.toNat }) := by
  change execRingDoorbell r value s = _
  have hon : ¬ (s.ring r.val).st = 0 := by omega
  have hsound : ¬ (s.ring r.val).st = 2 := by omega
  simp only [execRingDoorbell, if_neg hon, if_neg hsound]
  exact (apply_ite Host.Outcome.next _ _ _).symm

end Doorbell

/-! ### Signals held off (R347) -/

theorem exec_ringInterruptHoldoff {s : State} {r : Fin 8192} {t0 : Nat} (holdest : (s.ring r.val).oldest = some t0)
    (hon : (s.ring r.val).st ≠ 0) (hmaster : s.busMaster = true)
    (hdue : t0 + ringField s.toBlocks r.val F.PuntRing_HoldoffUs F.InjectRing_HoldoffUs * ticksPerUs ≤ s.time.ticks) :
    exec (.ringInterruptHoldoff r) s = .next (ringSignal r.val s) := by
  change execRingInterruptHoldoff r s = _
  simp only [execRingInterruptHoldoff, holdest]
  exact if_pos ⟨hon, hmaster, hdue⟩

end Sys2Proof.Machine

namespace Sys2Proof
open Machine

/-- Settles O51: the link's commands are the operations that their equations name; a doorbell by the state of its ring and
its defects. -/
theorem pcieAndRingEvents : Obligations.PcieAndRingEvents := by
  unfold Obligations.PcieAndRingEvents
  refine ⟨⟨fun _ _ _ => rfl, fun _ => rfl, ?mastered, ?reset, fun _ _ => ⟨rfl, rfl⟩⟩, ?doorbell,
    fun s r t0 => exec_ringInterruptHoldoff⟩
  case mastered =>
    rintro s _ _ rfl rfl
    rfl
  case reset =>
    rintro s lost _ rfl
    exact ⟨rfl, rfl, rfl⟩
  case doorbell =>
    rintro s r value _ rfl
    refine ⟨exec_ringDoorbell_disabled, fun hruns hforward hfits => ?_, fun hruns hdefect => ?_⟩
    · exact (exec_ringDoorbell_running hruns).trans
        (congrArg _ (if_neg (not_or.mpr ⟨Nat.not_le.mpr hforward, Nat.not_lt.mpr hfits⟩)))
    · exact (exec_ringDoorbell_running hruns).trans (congrArg _ (if_pos hdefect))

end Sys2Proof
end

section
/-! SUPPORT. The step, and the stores: what a field, a byte and a run of bytes read after a write. -/
namespace Sys2Proof.Machine

theorem step_of_cons {c : Instr} {s : State} {rest : List Instr} (h : s.pending = c :: rest) :
    step s = exec c { s with pending := rest } := by
  simp only [step, h]

theorem step_of_nil {s : State} (h : s.pending = []) : step s = .next s := by
  simp only [step, h]

/-- A run of bytes reads as it was written. -/
theorem memRead_memWrite (m : List Host.Cell) (hw : Memory.wf m = true) (a : Nat) (d : Bytes) :
    memRead (memWrite m a d) a d.length = d := by
  refine List.ext_getElem (by simp [memRead]) fun k _ hk => ?_
  simpa [memRead] using memByte_memWrite_of_mem m hw a d hk

/-- A byte outside the written ones reads as before. -/
theorem memByte_memWrite_of_outside (m : List Host.Cell) {a x : Nat} {d : Bytes} (h : x < a ∨ a + d.length ≤ x) :
    memByte (memWrite m a d) x = memByte m x :=
  h.elim (memByte_memWrite_of_lt m d) (memByte_memWrite_of_ge m d)

end Sys2Proof.Machine

namespace Sys2Proof
open Machine

/-- Settles O1: a step looks at the queue alone to choose what it runs. -/
theorem stepTakesTheFrontCommand : Obligations.StepTakesTheFrontCommand := by
  unfold Obligations.StepTakesTheFrontCommand
  exact ⟨fun _ _ _ => step_of_cons, fun _ => step_of_nil⟩

/-- Settles O6: two fields have one key only when they are the same, and a byte lies inside a written run or outside it. -/
theorem storesReadWhatWasWritten : Obligations.StoresReadWhatWasWritten := by
  unfold Obligations.StoresReadWhatWasWritten
  refine ⟨fun s obj row fld v hw => ⟨storeWf_put hw _ _, rd_wr_self hw obj row fld v, ?other⟩,
    fun m a d x hw => ⟨Memory.wf_memWrite m a d hw, memRead_memWrite m hw a d, memByte_memWrite_of_outside m⟩⟩
  intro obj' row' fld' hrow hrow' hfld hfld' hne
  refine rd_wr_of_ne s v fun hkey => hne ?_
  obtain ⟨rfl, rfl, rfl⟩ := skey_inj hrow' hrow hfld' hfld hkey
  rfl

end Sys2Proof
end

section
/-! SUPPORT. Events: what an occurrence of a source writes, and what a rise of its pending does on its route. -/
namespace Sys2Proof.Machine

/-! ### An occurrence (R356, R358) -/

/-- The occurrence on record: the flag set, and the count one higher as long as its field holds it. -/
abbrev occurred (n : Nat) (s : State) : State :=
  (s.wr O.EventBanks (n / 32) F.EventBanks_Flags (s.rd O.EventBanks (n / 32) F.EventBanks_Flags ||| 2 ^ (n % 32))).wr
    O.EventSource n F.EventSource_Count (min (s.rd O.EventSource n F.EventSource_Count + 1) 65535)

section Occurrence
variable {n : Nat} {s : State} (hn : n < 320)
include hn

/-- A field of another object, or another field of the source's own row, reads as before. -/
theorem rd_occurred {obj row fld : Nat} (hrow : row < 2 ^ 32) (hfld : fld < 256) (hbank : obj ≠ O.EventBanks)
    (hcount : obj = O.EventSource → fld ≠ F.EventSource_Count) : (occurred n s).rd obj row fld = s.rd obj row fld := by
  have hbankRow : n / 32 < 2 ^ 32 := by omega
  have hsourceRow : n < 2 ^ 32 := by omega
  refine (rd_wr_of_ne _ _ fun hkey => ?_).trans (rd_wr_of_obj_ne s _ hbank hbankRow (hrow' := hrow) (hfld' := hfld))
  obtain ⟨hobj, -, hfield⟩ := skey_inj hrow hsourceRow hfld (by decide) hkey
  exact hcount hobj hfield

theorem busMaster_occurred : (occurred n s).busMaster = s.busMaster := by
  rw [Blocks.busMaster, Blocks.busMaster, rd_occurred hn (by decide) (by decide) (by decide) (by decide)]

theorem raise_eq : raise n s =
    if (s.rd O.EventBanks (n / 32) F.EventBanks_Flags).testBit (n % 32) = false ∧
        (s.rd O.EventBanks (n / 32) F.EventBanks_Enable).testBit (n % 32) = true then routeAct n (occurred n s)
    else occurred n s := by
  have hcount : ∀ v, (s.wr O.EventBanks (n / 32) F.EventBanks_Flags v).rd O.EventSource n F.EventSource_Count =
      s.rd O.EventSource n F.EventSource_Count :=
    fun v => rd_wr_of_obj_ne s v (by decide) (by omega) (hrow' := by omega)
  simp only [raise, hcount, Bool.and_eq_true, Bool.not_eq_true']

theorem routeAct_occurred_of_none (hroute : s.rd O.EventSource n F.EventSource_Route = 0) :
    routeAct n (occurred n s) = occurred n s := by
  have hread : (occurred n s).rd O.EventSource n F.EventSource_Route = 0 :=
    (rd_occurred hn (by omega) (by decide) (by decide) (by decide)).trans hroute
  simp only [routeAct, hread]

theorem routeAct_occurred_of_msix (hroute : s.rd O.EventSource n F.EventSource_Route = 1) :
    routeAct n (occurred n s) = sendMsix (s.rd O.EventSource n F.EventSource_Target) (occurred n s) := by
  have hread : (occurred n s).rd O.EventSource n F.EventSource_Route = 1 :=
    (rd_occurred hn (by omega) (by decide) (by decide) (by decide)).trans hroute
  have htarget : (occurred n s).rd O.EventSource n F.EventSource_Target = s.rd O.EventSource n F.EventSource_Target :=
    rd_occurred hn (by omega) (by decide) (by decide) (by decide)
  simp only [routeAct, hread, htarget]

end Occurrence

theorem sendMsix_of_busMaster {v : Nat} {s : State} (h : s.busMaster = true) : sendMsix v s = s.emit (.msix v) :=
  if_pos h

theorem sendMsix_of_not_busMaster {v : Nat} {s : State} (h : s.busMaster = false) :
    sendMsix v s = s.upHost fun x => { x with msixHeld := x.msixHeld.filter (· != v) ++ [v] } :=
  if_neg (Bool.eq_false_iff.mp h)

end Sys2Proof.Machine

namespace Sys2Proof
open Machine

/-- Settles O19: an occurrence that is no rise of pending is put on record alone; one that is acts on its route, which it leaves
as it was. -/
theorem eventsAreRaised : Obligations.EventsAreRaised := by
  unfold Obligations.EventsAreRaised
  rintro s n _ _ _ hn rfl rfl rfl
  refine ⟨fun hstays => ?_, fun hflag hen => ?_⟩
  · exact (raise_eq hn).trans (if_neg fun hrise => by simp [hrise] at hstays)
  · have hrise : raise n s = routeAct n (occurred n s) := (raise_eq hn).trans (if_pos ⟨hflag, hen⟩)
    have hmaster : (occurred n s).busMaster = s.busMaster := busMaster_occurred hn
    refine ⟨fun hroute => hrise.trans (routeAct_occurred_of_none hn hroute), fun hroute hon => ?_, fun hroute hoff => ?_⟩
    · rw [hrise, routeAct_occurred_of_msix hn hroute, sendMsix_of_busMaster (hmaster.trans hon)]
    · rw [hrise, routeAct_occurred_of_msix hn hroute, sendMsix_of_not_busMaster (hmaster.trans hoff)]

end Sys2Proof
end

section
/-! SUPPORT. Bring-up: each phase's end, and what it goes on to. -/
namespace Sys2Proof.Machine

/-! ### The phases (R406, R440, R443, R445 to R447) -/

section Phases
variable {s : State}

theorem exec_senseComplete (hphase : s.boot.phase = 0) (hfree : s.boot.held = false) :
    exec .senseComplete s = .next (enterPhase 1 s) :=
  if_pos ⟨hphase, by rw [hfree]; rfl⟩

theorem exec_romSlotChoose_unwiped (hphase : s.boot.phase = 1) :
    exec (.romSlotChoose false) s = .next (enterHold 2 (wipeFailed 1 s)) :=
  if_neg (not_not_intro hphase)

/-- ROM goes on with the slot that it finds, and to RECOVERY without one. -/
theorem exec_romSlotChoose_wiped {found : Bool} {t : State} (hphase : s.boot.phase = 1)
    (hchoice : chooseSlot (s.wr O.WipeStatus 0 F.WipeStatus_BureauDone 1) = (found, t)) :
    exec (.romSlotChoose true) s =
      .next (if found then enterPhase 2 t else (enterPhase 9 t).upBoot fun b => { b with hold := 4 }) := by
  change execRomSlotChoose true s = _
  simp only [execRomSlotChoose, hphase, hchoice, ne_eq, not_true_eq_false, Bool.not_true, Bool.false_eq_true, if_false]
  exact (apply_ite Host.Outcome.next _ _ _).symm

theorem exec_bootComplete (hphase : s.boot.phase = 2) (wiped : Bool) :
    exec (.bootComplete wiped) s = .next (if wiped then
      trainBegin (enterPhase 3 ((s.wr O.WipeStatus 0 F.WipeStatus_SramDone 1).ws O.DovetailLinkState 3))
    else enterHold 2 (wipeFailed 2 s)) := by
  cases wiped <;> exact if_neg (not_not_intro hphase)

/-- With no change of the life cycle on record, outside DECOMMISSIONED. -/
theorem exec_restore {bad : List (BitVec 20)} {t : State} (hphase : s.boot.phase = 5) (ht : t = scanJournal s)
    (hintent : t.chest.intent = none) (hlife : t.life ≠ 4) :
    exec (.restore bad) s = .next (enterReady (bootDone (restoreValues (bad.map (·.toNat)) t))) := by
  subst ht
  change execRestore bad s = _
  simp only [execRestore, hphase, hintent, if_neg hlife, ne_eq, not_true_eq_false, if_false]

theorem exec_trafficEnable (hphase : s.boot.phase = 6) (hstart : blockStart s.toBlocks = false)
    (hmesh : blockMesh s.toBlocks = false) (hlife : s.retired = false) (hsample : blockSample s = false) :
    exec .trafficEnable s = .next ((enterPhase 7 s).wr O.BringUpStatus 0 F.BringUpStatus_TrafficMs
      (s.time.ticks / ticksPerMs % 2 ^ 32)) :=
  if_neg (by simp [hphase, hstart, hmesh, hlife, hsample])

end Phases

end Sys2Proof.Machine

namespace Sys2Proof
open Machine

/-- Settles O60: the equation of each phase's end. -/
theorem bringUpGoesByPhases : Obligations.BringUpGoesByPhases := by
  unfold Obligations.BringUpGoesByPhases
  exact ⟨fun s => exec_senseComplete,
    fun s hphase => ⟨exec_romSlotChoose_unwiped hphase, fun found t => exec_romSlotChoose_wiped hphase⟩,
    fun s hphase => ⟨exec_bootComplete hphase false, exec_bootComplete hphase true⟩,
    fun s bad t => exec_restore, fun s => exec_trafficEnable⟩

end Sys2Proof
end

section
/-! SUPPORT. Board services: temperatures, Sideboard sequences, fans and pins. -/
namespace Sys2Proof.Machine

/-! ### Temperatures (R418) -/

/-- The temperatures of both dies on show. -/
abbrev temperaturesShown (fe tm : BitVec 16) (s : State) : State :=
  (s.wr O.DieTemperature 0 0 fe.toNat).wr O.DieTemperature 1 0 tm.toNat

/-- A sample without readings of the sense points shows the temperatures and raises what is above a limit, the forwarding
die first. -/
theorem exec_dieTemperatureSample (fe tm : BitVec 16) (s : State) :
    exec (.dieTemperatureSample fe tm []) s = .next
      ((raiseIf (decide (1080 < tm.toInt)) (src 0 8) (raiseIf (decide (1080 < fe.toInt)) (src 0 8)
        (raiseIf (decide (10 * (s.sc O.DieTempWarn : Int) < tm.toInt)) (src 0 7)
          (raiseIf (decide (10 * (s.sc O.DieTempWarn : Int) < fe.toInt)) (src 0 7) (temperaturesShown fe tm s))))).upBoard fun b =>
        { b with hot := bit (decide (1080 < fe.toInt)) + 2 * bit (decide (1080 < tm.toInt)) }) :=
  rfl

section Temperatures
variable {s : State} {fe tm : BitVec 16} (htmWarn : tm.toInt ≤ 10 * (s.sc O.DieTempWarn : Int)) (htmHot : tm.toInt ≤ 1080)
include htmWarn htmHot

theorem exec_dieTemperatureSample_cool (hwarn : fe.toInt ≤ 10 * (s.sc O.DieTempWarn : Int)) (hhot : fe.toInt ≤ 1080) :
    exec (.dieTemperatureSample fe tm []) s = .next ((temperaturesShown fe tm s).upBoard fun b => { b with hot := 0 }) := by
  simp [exec_dieTemperatureSample, raiseIf, bit, hwarn.not_gt, htmWarn.not_gt, hhot.not_gt, htmHot.not_gt]

theorem exec_dieTemperatureSample_fe_hot (hwarn : 10 * (s.sc O.DieTempWarn : Int) < fe.toInt) (hhot : 1080 < fe.toInt) :
    exec (.dieTemperatureSample fe tm []) s =
      .next ((raise (src 0 8) (raise (src 0 7) (temperaturesShown fe tm s))).upBoard fun b => { b with hot := 1 }) := by
  simp [exec_dieTemperatureSample, raiseIf, bit, hwarn, htmWarn.not_gt, hhot, htmHot.not_gt]

end Temperatures

/-! ### Sideboard sequences (R419 to R422) -/

theorem exec_sideboardSequenceStart {s : State} {at_ q : Nat} {rest : List (Nat × Nat)} (hidle : s.board.seqRun = none)
    (hwait : s.board.seqWait = (at_, q) :: rest) (hdue : max at_ s.board.seqFree ≤ s.gridQ) :
    exec .sideboardSequenceStart s = .next (s.upBoard fun b =>
      { b with seqRun := some (q, max at_ s.board.seqFree, 0), seqWait := rest }) := by
  change execSideboardSequenceStart s = _
  simp only [execSideboardSequenceStart, hidle, hwait, if_pos hdue]

section Conversion
variable {s : State} {code : BitVec 12} {q start k : Nat} (hruns : s.board.seqRun = some (q, start, k))
  (hdue : start + 800 + k * 4000 ≤ s.gridQ)
include hruns hdue

/-- The state once the entry whose turn it is has been sampled. -/
abbrev entrySampled (code : BitVec 12) (q start k : Nat) (s : State) : State :=
  sideResult (sideEntry s.toBlocks q k) code.toNat (start + 800 + k * 4000) s

theorem exec_sideboardConversion :
    exec (.sideboardConversion code) s = .next (
      if k < s.rd O.SideboardSequence q F.SideboardSequence_CountMinusOne then
        (entrySampled code q start k s).upBoard fun b => { b with seqRun := some (q, start, k + 1) }
      else raise (src 0 (12 + q)) (((entrySampled code q start k s).add64 O.SideboardCounters q F.SideboardCounters_Runs
        1).upBoard fun b => { b with
          seqRun := none, seqFree := start + (s.rd O.SideboardSequence q F.SideboardSequence_CountMinusOne + 1) * 4000 })) := by
  change execSideboardConversion code s = _
  simp only [execSideboardConversion, hruns, if_neg (Nat.not_lt.mpr hdue), Nat.add_lt_add_iff_right]
  exact (apply_ite Host.Outcome.next _ _ _).symm

end Conversion

/-! ### Fans (R423) -/

/-- A window of a fan that turns at `rpm`, which its field holds: the speed shows, and the windows in a row that were slow
(`low`) and good (`good`) are noted, three at most. -/
abbrev windowNoted (n rpm low good : Nat) (s : State) : State :=
  (s.wr O.FanStatus n F.FanStatus_Rpm rpm).upBoard fun b =>
    { b with fanLow := Tbl.put 0 n (min low 3) b.fanLow, fanGood := Tbl.put 0 n (min good 3) b.fanGood }

section Fans
variable {s : State} {fan : Fin 8} {edges : BitVec 32} {rpm : Nat}
  (hpin : s.rd O.FanConfig fan.val F.FanConfig_TachPin < 16)
  (hrpm : rpm = edges.toNat * 60 / (s.rd O.FanConfig fan.val F.FanConfig_PulsesPerRevMinusOne + 1)) (hfits : rpm < 2 ^ 19)
  (hgood : s.rd O.FanStatus fan.val F.FanStatus_Fault = 0)
include hpin hrpm hfits hgood

theorem exec_fanTachWindow_good (hspeed : s.rd O.FanConfig fan.val F.FanConfig_MinRpm ≤ rpm) :
    exec (.fanTachWindow fan edges) s =
      .next (windowNoted fan.val rpm 0 (Tbl.get 0 s.board.fanGood fan.val + 1) s) := by
  have hslow : ¬ rpm < s.rd O.FanConfig fan.val F.FanConfig_MinRpm := Nat.not_lt.mpr hspeed
  change execFanTachWindow fan edges s = _
  simp only [execFanTachWindow, if_neg (Nat.not_le.mpr hpin), ← hrpm, if_pos hfits, hgood]
  simp [hslow, windowNoted]

theorem exec_fanTachWindow_fault (hspeed : rpm < s.rd O.FanConfig fan.val F.FanConfig_MinRpm)
    (hthird : 2 ≤ Tbl.get 0 s.board.fanLow fan.val) :
    exec (.fanTachWindow fan edges) s =
      .next (raise (src 0 10) ((windowNoted fan.val rpm 3 0 s).wr O.FanStatus fan.val F.FanStatus_Fault 1)) := by
  change execFanTachWindow fan edges s = _
  simp only [execFanTachWindow, if_neg (Nat.not_le.mpr hpin), ← hrpm, if_pos hfits, hgood]
  simp [hspeed, hthird, windowNoted]

end Fans

/-! ### Pins (R424) -/

theorem exec_gpioEdge_rising {s : State} {pin : Fin 16} (hlow : (s.sc O.GpioInput).testBit pin.val = false) :
    exec (.gpioEdge pin true) s = .next (
      if s.rd O.GpioConfig pin.val F.GpioConfig_Mode = 0 ∧ s.rd O.GpioConfig pin.val F.GpioConfig_Edge % 2 = 1 then
        setDetail O.GpioEdgeDetail 0 pin.val (src 0 11) (s.ws O.GpioInput (s.sc O.GpioInput + 2 ^ pin.val))
      else s.ws O.GpioInput (s.sc O.GpioInput + 2 ^ pin.val)) := by
  change execGpioEdge pin true s = _
  simp only [execGpioEdge, hlow, Bool.false_eq_true, if_false, if_true, beq_iff_eq]
  exact (apply_ite Host.Outcome.next _ _ _).symm

end Sys2Proof.Machine

namespace Sys2Proof
open Machine

/-- Settles O58: a sample by what is above its limits, a conversion by whether its entry is the last, a fan's window by its
speed, and an edge by whether its pin selects it. -/
theorem boardServicesRun : Obligations.BoardServicesRun := by
  unfold Obligations.BoardServicesRun
  refine ⟨?cool, ?hot, fun s at_ q rest => exec_sideboardSequenceStart, ?conversion, ?fan, ?pin⟩
  case cool =>
    rintro s fe tm _ rfl hfe htm hfeHot htmHot
    exact exec_dieTemperatureSample_cool htm htmHot hfe hfeHot
  case hot =>
    rintro s fe tm _ rfl hfe htm hfeHot htmHot
    exact exec_dieTemperatureSample_fe_hot htm htmHot hfe hfeHot
  case conversion =>
    rintro s code q start k _ hruns hdue rfl
    have hsample := exec_sideboardConversion (code := code) hruns hdue
    refine ⟨fun hmore => hsample.trans (congrArg _ (if_pos hmore)), fun hlast => ?_⟩
    rw [← hlast] at hsample
    exact hsample.trans (congrArg _ (if_neg (lt_irrefl k)))
  case fan =>
    intro s fan edges rpm hpin hrpm hfits hgood
    exact ⟨exec_fanTachWindow_good hpin hrpm hfits hgood, exec_fanTachWindow_fault hpin hrpm hfits hgood⟩
  case pin =>
    rintro s pin _ hlow rfl
    have hedge := exec_gpioEdge_rising hlow
    exact ⟨fun hmode hwanted => hedge.trans (congrArg _ (if_pos ⟨hmode, hwanted⟩)),
      fun hunwanted => hedge.trans (congrArg _ (if_neg fun h => by omega))⟩

end Sys2Proof
end

section
/-! SUPPORT. Firmware in the chain: the messages of its cards, and the times that its hops and loads wait. -/
namespace Sys2Proof.Machine

theorem exec_fwLoadTimeout {s : State} {l : FwLoad} (hload : s.fw.load = some l) (hopen : l.code = none)
    (hdue : l.last + 60 * ticksPerS ≤ s.time.ticks) : exec .fwLoadTimeout s = .next (loadAbort s) := by
  change execFwLoadTimeout s = _
  simp only [execFwLoadTimeout, hload]
  exact if_pos ⟨by rw [hopen]; rfl, hdue⟩

/-! ### The predecessor's messages (R396 to R398) -/

section Predecessor
variable {s : State} {g : Fin 16} {transfer : BitVec 16} (hheard : hears s.toBlocks g.val = true)
include hheard

/-- No load runs here: the card begins one of its own, or answers that it is busy. -/
theorem exec_fwBegin {entry : BitVec 8} {map : BitVec 16} {length : BitVec 32} (hidle : s.fw.load = none)
    (hserved : s.served = true) (hphase : s.boot.phase ≠ 9) :
    exec (.fwBegin g transfer entry map length) s = .next (
      if loadBusy s then sendMgmt g.val (ackMessage transfer.toNat 0 9) s
      else sendMgmt g.val (ackMessage transfer.toNat 0 0)
        (loadStart none (some ((s.peerOf g.val).getD s.card, g.val)) true transfer.toNat (entry.toNat % 16) map.toNat s)) := by
  change execFwBegin g transfer entry map length s = _
  simp only [execFwBegin, hheard, hidle, hserved, beq_false_of_ne hphase, Option.any_none, Bool.not_true, Bool.or_false,
    Bool.false_eq_true, if_false]
  exact (apply_ite Host.Outcome.next _ _ _).symm

/-- Bytes at the offset awaited enter the slot, and what is held then is acknowledged. -/
theorem exec_fwData {offset : BitVec 32} {data : Bytes} {l : FwLoad} {c via : Nat} (hload : s.fw.load = some l)
    (htid : l.tid = transfer.toNat) (hopen : l.code = none) (hvia : l.via = some (c, via)) (hpeer : s.peerOf g.val = some c)
    (hoffset : offset.toNat = loadBytes s.toBlocks) (hsome : data ≠ []) (hfits : data.length ≤ 120) :
    exec (.fwData g transfer offset data) s = .next (sendMgmt g.val (ackMessage transfer.toNat
      (loadBytes (loadData 0xFFFF 0 0 data s).toBlocks)
      ((loadData 0xFFFF 0 0 data s).rd O.FwLoadStatus 0 F.FwLoadStatus_Reason)) (loadData 0xFFFF 0 0 data s)) := by
  change execFwData g transfer offset data s = _
  exact if_neg (by simp [hheard, hload, htid, hopen, hvia, hpeer, hoffset, hsome, hfits])

end Predecessor

/-! ### The successor's messages (R398, R399) -/

/-- The hop of the load that runs. -/
abbrev withHop (h : FwHop) (s : State) : State := updLoad (fun l => { l with hop := some h }) s

section Successor
variable {s : State} {l : FwLoad} {h : FwHop} (hload : s.fw.load = some l) (hhop : l.hop = some h)
include hload hhop

section Heard
variable {g : Fin 16} {transfer : BitVec 16} (hheard : hears s.toBlocks g.val = true) (htid : l.tid = transfer.toNat)
  (hpeer : s.peerOf g.val = some h.card)
include hheard htid hpeer

/-- The first answer to FW_BEGIN opens the window at its offset, or refuses the hop. -/
theorem exec_fwAck_first {next : BitVec 32} {status : BitVec 8} (hfirst : h.acked = none) :
    exec (.fwAck g transfer next status) s = .next (if status ≠ 0 then hopFailed status.toNat s
      else pushData (withHop { h with acked := some next.toNat, moved := s.time.ticks, sent := next.toNat } s)) := by
  change execFwAck g transfer next status s = _
  simp only [execFwAck, hload, hhop, hheard, htid, hpeer, hfirst, bne_self_eq_false, Bool.not_true, Bool.or_self,
    Bool.false_eq_true, if_false]
  exact (apply_ite Host.Outcome.next _ _ _).symm

/-- A later one moves the window on. -/
theorem exec_fwAck_later {next : BitVec 32} {a : Nat} (hacked : h.acked = some a) (hmoves : a < next.toNat) :
    exec (.fwAck g transfer next 0) s =
      .next (pushData (withHop { h with acked := some next.toNat, moved := s.time.ticks } s)) := by
  change execFwAck g transfer next 0 s = _
  simp only [execFwAck, hload, hhop, hheard, htid, hpeer, hacked, bne_self_eq_false, Bool.not_true, Bool.or_self,
    Bool.false_eq_true, if_false, ne_eq, not_true_eq_false, if_neg (Nat.not_le.mpr hmoves)]

theorem exec_fwResult {codes : BitVec 128} (hfirst : l.back = false) :
    exec (.fwResult g transfer codes) s = .next (chainSettle (updLoad (fun x => { x with
      back := true
      codes := x.codes ++ ((List.range 16).map fun c => (c, bitsOf (127 - 8 * c) (120 - 8 * c) codes.toNat)).filter fun e =>
        e.2 != 255 && !(l.codes.any fun x => x.1 == e.1) }) s)) := by
  change execFwResult g transfer codes s = _
  simp only [execFwResult, hload, hhop, hheard, htid, hpeer, hfirst, bne_self_eq_false, Option.any_some, beq_self_eq_true,
    Bool.not_true, Bool.or_self, Bool.false_eq_true, if_false]

end Heard

/-! ### Hops that wait too long (R398) -/

theorem exec_fwBeginAckTimeout (hfirst : h.acked = none) (hdue : h.began + ticksPerMs ≤ s.time.ticks) :
    exec .fwBeginAckTimeout s = .next (hopFailed 10 s) := by
  change execFwBeginAckTimeout s = _
  simp only [execFwBeginAckTimeout, hload, Option.bind_some, hhop]
  exact if_pos ⟨by rw [hfirst]; rfl, hdue⟩

theorem exec_fwResend (hopen : hopOpen l h = true) (hdue : max h.moved h.resent + 100 * ticksPerUs ≤ s.time.ticks) :
    exec .fwResend s = .next (pushData (withHop { h with sent := h.acked.getD 0, resent := s.time.ticks }
      (s.updGroup (hopGroup s.toBlocks h) fun r => { r with mgmt := [] }))) := by
  change execFwResend s = _
  simp only [execFwResend, hload, hhop]
  exact if_pos ⟨hopen, hdue⟩

theorem exec_fwHopTimeout (hopen : hopOpen l h = true) (hdue : h.moved + 100 * ticksPerMs ≤ s.time.ticks) :
    exec .fwHopTimeout s = .next (chainSettle
      (updLoad (fun x => { x with hop := none, left := [], codes := l.codes ++ [(h.card, 10)] }) s)) := by
  change execFwHopTimeout s = _
  simp only [execFwHopTimeout, hload, hhop]
  exact if_pos ⟨hopen, hdue⟩

end Successor

end Sys2Proof.Machine

namespace Sys2Proof
open Machine

/-- Settles O55: a load's own timeout, the messages of its predecessor and of its successor, and the three times of a hop. -/
theorem firmwareTravelsTheChain : Obligations.FirmwareTravelsTheChain := by
  unfold Obligations.FirmwareTravelsTheChain
  refine ⟨⟨fun s l => exec_fwLoadTimeout, ?begins, ?data, ?ack, ?result⟩, fun s l h hload hhop =>
    ⟨exec_fwBeginAckTimeout hload hhop, exec_fwResend hload hhop, exec_fwHopTimeout hload hhop⟩⟩
  case begins =>
    intro s g transfer entry map length hheard hidle hserved hphase
    have hanswer := exec_fwBegin (transfer := transfer) (entry := entry) (map := map) (length := length) hheard hidle hserved hphase
    exact ⟨fun hfree => hanswer.trans (congrArg _ (if_neg (Bool.eq_false_iff.mp hfree))),
      fun hbusy => hanswer.trans (congrArg _ (if_pos hbusy))⟩
  case data =>
    rintro s g transfer offset data l c via _ hheard hload htid hopen hvia hpeer hoffset hsome hfits rfl
    exact exec_fwData hheard hload htid hopen hvia hpeer hoffset hsome hfits
  case ack =>
    intro s g transfer next status l h hload hhop hheard htid hpeer
    refine ⟨fun hfirst hrefused => ?_, fun hfirst => ?_, fun a => exec_fwAck_later hload hhop hheard htid hpeer⟩
    · exact (exec_fwAck_first hload hhop hheard htid hpeer hfirst).trans (congrArg _ (if_pos hrefused))
    · exact (exec_fwAck_first hload hhop hheard htid hpeer hfirst).trans (congrArg _ (if_neg (not_not_intro rfl)))
  case result =>
    rintro s g transfer codes l h _ hload hhop hheard htid hpeer hfirst rfl
    exact exec_fwResult hload hhop hheard htid hpeer hfirst

end Sys2Proof
end

section
/-! SUPPORT. The writes of events, of counters and of what controls the module: what a granted one of each does. -/
namespace Sys2Proof.Machine

/-! ### Granted writes whose effect looks at the commit's state -/

theorem fields_of_info {obj : Nat} {o : ObjInfo} {fs : List FieldInfo} (info : objInfo? obj = some o)
    (h : (objInfo? obj).map ObjInfo.fields = some fs) : o.fields = fs :=
  Option.some.inj ((congrArg (Option.map ObjInfo.fields) info).symm.trans h)

/-- A command that is a granted write: its row has its effect on the state that records the commit. -/
theorem exec_granted_of_booked {c : Instr} {v : Via} {w : SW} {lost : Nat} {s : State} {x : Sess} {eff : State → State}
    {o : ObjInfo} (hwrite : oneWrite c = some (v, w, lost)) (h : Granted v w lost s x) (info : objInfo? w.obj = some o)
    (fe : isFe o = false) (plain : Ordinary w.obj)
    (heff : ∀ us, cellEffect (s.came v.sess).toBlocks (actorOf (s.came v.sess).toBlocks x 0x02 lost)
      (((s.came v.sess).booked us).stored w) ⟨w.obj, w.row, parts o w.fld w.val⟩ = eff ((s.came v.sess).booked us)) :
    exec c s = .next (wrote v w lost x eff s) := by
  rw [exec_oneWrite hwrite, viaWrite_wrote h o info fe plain, cell_eq o info]
  simp only [wrote, heff]

/-- A field of class P that a write stores as it stands is stored and journalled. -/
theorem stored_field_kept {w : SW} {o : ObjInfo} (info : objInfo? w.obj = some o) (tr : transient o = false)
    (fe : isFe o = false) (hpers : o.pers = 1) (hones : clearsOnes w.obj w.fld = false)
    (hparts : parts o w.fld w.val = [(w.fld, w.val)]) (plain : Ordinary w.obj) (s : State) :
    s.stored w = (s.wr w.obj w.row w.fld w.val).journal [(w.obj, w.row, w.fld)] (8 + o.width) JRec.plain := by
  obtain ⟨hkeys, hclear⟩ := beside_nil (row := w.row) (l := [(w.fld, w.val)]) plain
  rw [State.stored, cell_eq o info]
  simp [storeCell, journalCommit, persistent, info, tr, hparts, hpers, fe, hones, hkeys, hclear]

/-- A field outside Chest whose set bits a written 1 clears. -/
theorem stored_field_clears {w : SW} {o : ObjInfo} (info : objInfo? w.obj = some o) (tr : transient o = false)
    (fe : isFe o = false) (hpers : o.pers = 0) (hones : clearsOnes w.obj w.fld = true)
    (hparts : parts o w.fld w.val = [(w.fld, w.val)]) (plain : Ordinary w.obj) (s : State) :
    s.stored w = s.wr w.obj w.row w.fld
      (s.rd w.obj w.row w.fld ^^^ (s.rd w.obj w.row w.fld &&& w.val)) := by
  rw [stored_volatile info hpers plain]
  simp [storeCell, info, tr, fe, hones, hparts]

/-! ### Flags and counts (R356, R357) -/

/-- Where no pending rises, nothing acts. -/
theorem enableActs_of_none_rising {old : Blocks} {bank : Nat} {s : State}
    (h : ∀ k, (s.rd O.EventBanks bank F.EventBanks_Flags &&& s.rd O.EventBanks bank F.EventBanks_Enable).testBit k = true →
      (old.rd O.EventBanks bank F.EventBanks_Flags &&& old.rd O.EventBanks bank F.EventBanks_Enable).testBit k = true) :
    enableActs old bank s = s := by
  refine List.foldl_fixed' (fun k => if_neg fun hrise => ?_) _
  obtain ⟨hnow, hbefore⟩ := Bool.and_eq_true_iff.mp hrise
  rw [h k hnow] at hbefore
  exact Bool.false_ne_true hbefore

/-- A flag that is cleared makes nothing pending. -/
theorem enableActs_cleared {old : Blocks} {s : State} (hsame : old.store = s.store) (hw : storeWf s.store) {bank : Nat}
    (hrow : bank < 2 ^ 32) (f : Nat) :
    let flags := s.rd O.EventBanks bank F.EventBanks_Flags
    let t := s.wr O.EventBanks bank F.EventBanks_Flags (flags ^^^ (flags &&& f))
    enableActs old bank t = t := by
  intro flags t
  have hold : ∀ fld, old.rd O.EventBanks bank fld = s.rd O.EventBanks bank fld := fun fld => by
    rw [Blocks.rd, Blocks.rd, hsame]
  have hflags : t.rd O.EventBanks bank F.EventBanks_Flags = flags ^^^ (flags &&& f) := rd_wr_self hw _ _ _ _
  have henable : t.rd O.EventBanks bank F.EventBanks_Enable = s.rd O.EventBanks bank F.EventBanks_Enable :=
    rd_wr_of_ne s _ fun hkey => absurd (skey_inj hrow hrow (by decide) (by decide) hkey).2.2 (by decide)
  refine enableActs_of_none_rising fun k => ?_
  rw [hflags, henable, hold, hold]
  simp only [Nat.testBit_and, Nat.testBit_xor, Bool.and_eq_true]
  rintro ⟨hleft, hen⟩
  refine ⟨?_, hen⟩
  by_contra hclear
  simp [flags, hclear] at hleft

theorem hostEffect_eventBanks (old : Blocks) (a : Actor) (row : Nat) (l : List (Nat × Nat)) (s : State) :
    hostEffect old a ⟨O.EventBanks, row, l⟩ s = enableActs old row s := by
  have hpast : ¬ O.EventBanks < O.TrolleyGo0 + 32 := by decide
  simp [hostEffect, hpast]

theorem hostEffect_eventSource_clear (old : Blocks) (a : Actor) {row : Nat} (l : List (Nat × Nat)) {s : State}
    (hclear : s.rd O.EventSource row F.EventSource_ClearCount = 1) :
    hostEffect old a ⟨O.EventSource, row, l⟩ s =
      (s.wr O.EventSource row F.EventSource_ClearCount 0).wr O.EventSource row F.EventSource_Count 0 := by
  have hpast : ¬ O.EventSource < O.TrolleyGo0 + 32 := by decide
  simp [hostEffect, hpast, hclear]

section EventWrites
variable {v : Via} {s : State} {x : Sess}

theorem exec_eventFlagClear {bank f : BitVec 32}
    (h : Granted v ⟨O.EventBanks, bank.toNat, F.EventBanks_Flags, f.toNat⟩ 0 s x) (hsound : s.Sound) :
    exec (.eventFlagClear v bank f) s = .next (wrote v ⟨O.EventBanks, bank.toNat, F.EventBanks_Flags, f.toNat⟩ 0 x (fun r =>
      r.wr O.EventBanks bank.toNat F.EventBanks_Flags (r.rd O.EventBanks bank.toNat F.EventBanks_Flags ^^^
        (r.rd O.EventBanks bank.toNat F.EventBanks_Flags &&& f.toNat))) s) := by
  obtain ⟨o, info, fe, tr, hpers⟩ : ∃ o ∈ objInfo? O.EventBanks,
    isFe o = false ∧ transient o = false ∧ o.pers = 0 := by decide
  have hfields : o.fields = fieldsEventBanks := fields_of_info info rfl
  have hparts : parts o F.EventBanks_Flags f.toNat = [(F.EventBanks_Flags, f.toNat)] := by
    simp [parts, carried, hfields, fieldsEventBanks]
  have hones : clearsOnes O.EventBanks F.EventBanks_Flags = true := by decide
  have plain : Ordinary O.EventBanks := by decide
  have hhost : 0x3C000 ≤ O.EventBanks ∧ O.EventBanks < 0x44000 := by decide
  refine exec_granted_of_booked rfl h info fe plain fun us => ?_
  rw [stored_field_clears (w := ⟨O.EventBanks, bank.toNat, F.EventBanks_Flags, f.toNat⟩) info tr fe hpers hones hparts plain,
    cell_host hhost, hostEffect_eventBanks]
  have hsame : (s.came v.sess).store = ((s.came v.sess).booked us).store := rfl
  exact enableActs_cleared hsame (hsame ▸ (hsound.came v.sess).store) bank.isLt f.toNat

theorem exec_eventCountClear {n : BitVec 32}
    (h : Granted v ⟨O.EventSource, n.toNat, F.EventSource_ClearCount, 1⟩ 0 s x) (hsound : s.Sound) :
    exec (.eventCountClear v n) s = .next (wrote v ⟨O.EventSource, n.toNat, F.EventSource_ClearCount, 1⟩ 0 x (fun r =>
      (((r.wr O.EventSource n.toNat F.EventSource_ClearCount 1).journal
        [(O.EventSource, n.toNat, F.EventSource_ClearCount)] 12 JRec.plain).wr O.EventSource n.toNat F.EventSource_ClearCount 0).wr
        O.EventSource n.toNat F.EventSource_Count 0) s) := by
  obtain ⟨o, info, fe, tr, hpers, hwidth⟩ : ∃ o ∈ objInfo? O.EventSource,
    isFe o = false ∧ transient o = false ∧ o.pers = 1 ∧ o.width = 4 := by decide
  have hfields : o.fields = fieldsEventSource := fields_of_info info rfl
  have hparts : parts o F.EventSource_ClearCount 1 = [(F.EventSource_ClearCount, 1)] := by
    simp [parts, carried, hfields, fieldsEventSource]
  have hones : clearsOnes O.EventSource F.EventSource_ClearCount = false := by decide
  have plain : Ordinary O.EventSource := by decide
  have hhost : 0x3C000 ≤ O.EventSource ∧ O.EventSource < 0x44000 := by decide
  refine exec_granted_of_sound rfl h info fe plain hsound fun r hr => ?_
  have hset : ((r.wr O.EventSource n.toNat F.EventSource_ClearCount 1).journal
      [(O.EventSource, n.toNat, F.EventSource_ClearCount)] 12 JRec.plain).rd O.EventSource n.toNat F.EventSource_ClearCount = 1 :=
    rd_wr_self hr.store _ _ _ _
  rw [stored_field_kept (w := ⟨O.EventSource, n.toNat, F.EventSource_ClearCount, 1⟩) info tr fe hpers hones hparts plain,
    cell_host hhost, hwidth]
  exact hostEffect_eventSource_clear _ _ _ hset

/-! ### Claims (R359) -/

/-- A granted claim (1) or release (0) of a bank by client `x.client`. -/
theorem exec_claim_granted {c : Instr} {bank n : Nat} {eff : State → State}
    (hwrite : oneWrite c = some (v, ⟨O.EventBankClaim, bank, 0, n⟩, 0)) (h : Granted v ⟨O.EventBankClaim, bank, 0, n⟩ 0 s x)
    (heff : ∀ r : State, (if n = 1 then r.wr O.EventBanks bank F.EventBanks_Owner x.client
      else if r.rd O.EventBanks bank F.EventBanks_Owner = x.client then r.wr O.EventBanks bank F.EventBanks_Owner 0xFFFF
      else r) = eff r) :
    exec c s = .next (wrote v ⟨O.EventBankClaim, bank, 0, n⟩ 0 x eff s) := by
  obtain ⟨o, info, fe, tr, nf⟩ : ∃ o ∈ objInfo? O.EventBankClaim,
    isFe o = false ∧ transient o = true ∧ o.fields = [] := by decide
  have plain : Ordinary O.EventBankClaim := by decide
  have hhost : 0x3C000 ≤ O.EventBankClaim ∧ O.EventBankClaim < 0x44000 := by decide
  refine exec_action_granted hwrite h info fe tr plain fun us => ?_
  rw [parts_of_no_fields nf, cell_host hhost]
  exact heff _

/-! ### Counters (R361) -/

/-- The CounterClear record carries its range. -/
theorem parts_counterClear (first last : BitVec 21) {o : ObjInfo} (hfields : o.fields = fieldsCounterClear) :
    parts o 0 (first.toNat * 2 ^ 43 + last.toNat * 2 ^ 22) =
      [(F.CounterClear_First, first.toNat), (F.CounterClear_Last, last.toNat)] := by
  have hpacked : first.toNat * 2 ^ 43 + last.toNat * 2 ^ 22 = packed 0 [(21, first.toNat), (21, last.toNat), (22, 0)] := by
    simp only [packed]
    ring
  have hfits : Fits [(21, first.toNat), (21, last.toNat), (22, 0)] := by
    simp only [Fits, List.forall_mem_cons]
    exact ⟨first.isLt, last.isLt, by decide, fun _ hmem => absurd hmem List.not_mem_nil⟩
  have hfirst := bitsOf_packed (hi := 63) (lo := 43) hfits 0
  have hlast := bitsOf_packed (hi := 42) (lo := 22) hfits 1
  rw [hpacked]
  simp [parts, carried, hfields, fieldsCounterClear, hfirst, hlast]

theorem exec_counterClear {first last : BitVec 21} {w : SW}
    (hw : w = ⟨O.CounterClear, 0, 0, first.toNat * 2 ^ 43 + last.toNat * 2 ^ 22⟩) (h : Granted v w 0 s x) :
    exec (.counterClear v first last) s = .next (wrote v w 0 x (clearPairs first.toNat last.toNat) s) := by
  obtain ⟨o, info, fe, tr⟩ : ∃ o ∈ objInfo? O.CounterClear, isFe o = false ∧ transient o = true := by decide
  have hfields : o.fields = fieldsCounterClear := fields_of_info info rfl
  have plain : Ordinary O.CounterClear := by decide
  have hhost : 0x3C000 ≤ O.CounterClear ∧ O.CounterClear < 0x44000 := by decide
  subst hw
  refine exec_action_granted rfl h info fe tr plain fun us => ?_
  rw [parts_counterClear first last hfields, cell_host hhost]
  rfl

end EventWrites

/-! ### The objects that control the module (R376, R386, R393, R400 to R405, R419, R433, R445) -/

/-- The scalars outside the dictionary's store whose write is a command to the module. -/
abbrev controlActions : List Nat :=
  [O.LifeCycleRequest, O.SideboardStart, O.BlockReset, O.TrafficStart, O.FwLoadControl, O.FwActivate, O.FwActivateCancel,
    O.FwConfirm, O.FwRollback, O.FwActivateAtReset]

theorem controlAction_facts {obj : Nat} (h : obj ∈ controlActions) :
    (∃ o ∈ objInfo? obj, isFe o = false ∧ transient o = true ∧ o.fields = []) ∧ Ordinary obj ∧
      (obj < 0x4000 ∨ 0x44000 ≤ obj) := by
  revert obj
  decide

/-- A granted write of such an object stores nothing and has the effect that its chapter gives the row. -/
theorem exec_control_granted {c : Instr} {v : Via} {obj row n lost : Nat} {s : State} {x : Sess} {eff : State → State}
    (hobj : obj ∈ controlActions) (hwrite : oneWrite c = some (v, ⟨obj, row, 0, n⟩, lost))
    (h : Granted v ⟨obj, row, 0, n⟩ lost s x)
    (heff : ∀ r, controlEffect (actorOf (s.came v.sess).toBlocks x 0x02 lost) ⟨obj, row, [(0, n)]⟩ r = eff r) :
    exec c s = .next (wrote v ⟨obj, row, 0, n⟩ lost x eff s) := by
  obtain ⟨⟨o, info, fe, tr, nf⟩, plain, hcontrol⟩ := controlAction_facts hobj
  refine exec_action_granted hwrite h info fe tr plain fun us => ?_
  rw [parts_of_no_fields nf, cell_control hcontrol]
  exact heff _

/-- JtagDebugEnable is held: a stored scalar on which nothing acts (R386). -/
theorem exec_jtagDebugEnable {v : Via} {y : BitVec 8} {s : State} {x : Sess}
    (h : Granted v ⟨O.JtagDebugEnable, 0, 0, y.toNat⟩ 0 s x) :
    exec (.jtagDebugEnable v y) s = .next (wrote v ⟨O.JtagDebugEnable, 0, 0, y.toNat⟩ 0 x
      (fun r => r.ws O.JtagDebugEnable y.toNat) s) := by
  obtain ⟨o, info, fe, tr, nf, np⟩ : ∃ o ∈ objInfo? O.JtagDebugEnable,
    isFe o = false ∧ transient o = false ∧ o.fields = [] ∧ o.pers ≠ 1 := by decide
  have hones : clearsOnes O.JtagDebugEnable 0 = false := by decide
  have plain : Ordinary O.JtagDebugEnable := by decide
  have hcontrol : O.JtagDebugEnable < 0x4000 ∨ 0x44000 ≤ O.JtagDebugEnable := by decide
  refine exec_granted rfl h info fe plain fun r => ?_
  rw [stored_scalar (w := ⟨O.JtagDebugEnable, 0, 0, y.toNat⟩) info tr nf np fe hones plain, cell_control hcontrol]
  rfl

end Sys2Proof.Machine

namespace Sys2Proof
open Machine

/-- Settles O15: each write by the effect of its row; a cleared flag makes nothing pending. -/
theorem eventWritesTakeEffect : Obligations.EventWritesTakeEffect := by
  unfold Obligations.EventWritesTakeEffect
  exact ⟨fun v bank f s x => exec_eventFlagClear, fun v n s x => exec_eventCountClear,
    fun v bank s x h => exec_claim_granted rfl h fun r => rfl, fun v bank s x h => exec_claim_granted rfl h fun r => rfl,
    fun v first last s x w => exec_counterClear⟩

/-- Settles O16: each write has the effect that its chapter gives its row. -/
theorem controlWritesTakeEffect : Obligations.ControlWritesTakeEffect := by
  unfold Obligations.ControlWritesTakeEffect
  exact ⟨fun v y s x h => exec_control_granted (by decide) rfl h fun r => rfl, fun v y s x => exec_jtagDebugEnable,
    fun v y s x h => exec_control_granted (by decide) rfl h fun r => rfl,
    fun v row y lost s x h => exec_control_granted (by decide) rfl h fun r => rfl,
    fun v y s x h => exec_control_granted (by decide) rfl h fun r => rfl⟩

end Sys2Proof
end

section
/-! SUPPORT. The writes of the firmware objects: loads, chunks, activations, and what follows a rollback that was asked for. -/
namespace Sys2Proof.Machine

/-! ### The bytes of a chunk (R394) -/

theorem beNat_cons (b : Byte) (t : Bytes) : beNat (b :: t) = b.toNat * 256 ^ t.length + beNat t := by
  have hbyte : beNat [b] = b.toNat := Nat.zero_add _
  rw [← List.singleton_append, beNat_append, hbyte]

theorem beNat_lt : ∀ b : Bytes, beNat b < 256 ^ b.length
  | [] => Nat.one_pos
  | b :: t => by
    have hbyte : b.toNat + 1 ≤ 256 := b.isLt
    calc beNat (b :: t) < b.toNat * 256 ^ t.length + 256 ^ t.length := beNat_cons b t ▸ Nat.add_lt_add_left (beNat_lt t) _
      _ = (b.toNat + 1) * 256 ^ t.length := (Nat.succ_mul _ _).symm
      _ ≤ 256 * 256 ^ t.length := Nat.mul_le_mul_right _ hbyte
      _ = 256 ^ (b :: t).length := by rw [List.length_cons, pow_succ, Nat.mul_comm]

/-- A number of `k` bytes at most stays below 8 `k` bits. -/
theorem beNat_lt_two_pow {b : Bytes} {k : Nat} (hfits : b.length ≤ k) : beNat b < 2 ^ (8 * k) := by
  rw [pow_mul]
  exact (beNat_lt b).trans_le (Nat.pow_le_pow_right (by decide) hfits)

/-- What stands above the bytes asked for does not show in them. -/
theorem beBytes_mul_add : ∀ n a v : Nat, beBytes n (a * 256 ^ n + v) = beBytes n v
  | 0, _, _ => rfl
  | n + 1, a, v => by
    have hsplit : a * 256 ^ (n + 1) + v = a * 256 * 256 ^ n + v := by rw [pow_succ]; ring
    have hdiv : (a * 256 * 256 ^ n + v) / 256 ^ n = a * 256 + v / 256 ^ n := by
      rw [Nat.mul_comm (a * 256), Nat.mul_add_div (by positivity)]
    have hbyte : BitVec.ofNat 8 (a * 256 + v / 256 ^ n) = BitVec.ofNat 8 (v / 256 ^ n) :=
      BitVec.eq_of_toNat_eq (by simp)
    rw [hsplit, beBytes, beBytes, beBytes_mul_add n, hdiv, hbyte]

theorem beBytes_beNat : ∀ b : Bytes, beBytes b.length (beNat b) = b
  | [] => rfl
  | b :: t => by
    have hdiv : (b.toNat * 256 ^ t.length + beNat t) / 256 ^ t.length = b.toNat := by
      rw [Nat.mul_comm, Nat.mul_add_div (by positivity), Nat.div_eq_of_lt (beNat_lt t), Nat.add_zero]
    rw [beNat_cons, List.length_cons, beBytes, hdiv, beBytes_mul_add, beBytes_beNat t, BitVec.ofNat_toNat, BitVec.setWidth_eq]

/-- The value of a chunk gives back its bytes. -/
theorem chunkBytes_of_chunk {data : Bytes} (hfits : data.length ≤ 8192) :
    chunkBytes (data.length * 2 ^ 65536 + beNat data) = data := by
  have hbits : 8 * 8192 = 65536 := rfl
  have hlt : beNat data < 2 ^ 65536 := hbits ▸ beNat_lt_two_pow hfits
  unfold chunkBytes
  generalize 2 ^ 65536 = m at hlt ⊢
  rw [Nat.mul_comm, Nat.mul_add_div (Nat.zero_lt_of_lt hlt), Nat.div_eq_of_lt hlt, Nat.add_zero, Nat.mul_add_mod,
    Nat.mod_eq_of_lt hlt, beBytes_beNat]

/-- The commit of one chunk. -/
theorem applyCells_fwChunk (a : Actor) (row n : Nat) (s : State) :
    applyCells a [⟨O.FwChunk, row, [(0, n)]⟩] s =
      (chunkWritten a.client a.role a.op (chunkBytes n) (s.booked [⟨O.FwChunk, row⟩])).2 := by
  obtain ⟨o, info, fe, tr⟩ : ∃ o, objInfo? O.FwChunk = some o ∧ isFe o = false ∧ transient o = true := by decide
  have hcell (r : State) : cellEffect s.toBlocks a r ⟨O.FwChunk, row, [(0, n)]⟩ =
      (chunkWritten a.client a.role a.op (chunkBytes n) r).2 := rfl
  have hbeside (r : State) : besideValues O.FwChunk row n r = r := rfl
  have hgraph : isGraphObj O.FwChunk = false := by decide
  simp [applyCells, owned, swapBank, writesFe, writesGraph, hgraph, info, fe, storeCell, tr, rowsOf, routeCommit_nil,
    exactCommit_nil, rangeCommit_nil, hbeside, WCell.val, journalCommit, persistent, besideKeys, writes, hcell, unitsOf,
    WCell.units]

/-- A granted chunk that completes no failing check is taken, whatever value carries it. -/
theorem viaWrite_fwChunk {v : Via} {row n : Nat} {s : State} {x : Sess} {f : State → State}
    (h : Granted v ⟨O.FwChunk, row, 0, n⟩ 0 s x)
    (hf : f = fun r => (chunkWritten x.client (roleOf (s.came v.sess).toBlocks x) 0x02 (chunkBytes n) r).2)
    (hpasses : (f ((s.came v.sess).booked [⟨O.FwChunk, row⟩])).rd O.FwLoadStatus 0 F.FwLoadStatus_State ≠ 4) :
    viaWrite v O.FwChunk row 0 0 (some n) s = wrote v ⟨O.FwChunk, row, 0, n⟩ 0 x f s := by
  obtain ⟨o, info, nf⟩ : ∃ o, objInfo? O.FwChunk = some o ∧ o.fields = [] := by decide
  have hcells : cellsOf [⟨O.FwChunk, row, 0, n⟩] = [⟨O.FwChunk, row, [(0, n)]⟩] := by
    rw [← parts_of_no_fields nf 0 n]
    simp [cellsOf, addWrite, info]
  have hunits : unitsOf (s.came v.sess).toBlocks [⟨O.FwChunk, row, [(0, n)]⟩] = [⟨O.FwChunk, row⟩] := rfl
  have happlied : applyCells (actorOf (s.came v.sess).toBlocks x 0x02 0) [⟨O.FwChunk, row, [(0, n)]⟩] (s.came v.sess) =
      f ((s.came v.sess).booked [⟨O.FwChunk, row⟩]) := by
    rw [hf, applyCells_fwChunk, actorOf]
  have hstatus : appliedStatus [⟨O.FwChunk, row, [(0, n)]⟩] (f ((s.came v.sess).booked [⟨O.FwChunk, row⟩])) = .ok :=
    if_neg fun hfails => hpasses hfails.2
  rw [viaWrite_granted (w := ⟨O.FwChunk, row, 0, n⟩) h, hcells, finishCommit, happlied]
  simp only [wrote, hcells, hunits, if_true, hstatus, State.answered]

theorem exec_fwChunk {v : Via} {row : BitVec 32} {data : Bytes} {s : State} {x : Sess} {w : SW} {f : State → State}
    (hw : w = ⟨O.FwChunk, row.toNat, 0, data.length * 2 ^ 65536 + beNat data⟩) (hfits : data.length ≤ 8192)
    (h : Granted v w 0 s x) (hf : f = fun r => (chunkWritten x.client (roleOf (s.came v.sess).toBlocks x) 0x02 data r).2)
    (hpasses : (f ((s.came v.sess).booked [⟨O.FwChunk, row.toNat⟩])).rd O.FwLoadStatus 0 F.FwLoadStatus_State ≠ 4) :
    exec (.fwChunk v row data) s = .next (wrote v w 0 x f s) := by
  have hwrite : oneWrite (.fwChunk v row data) = some (v, w, 0) := by rw [hw, oneWrite]
  have hbytes := chunkBytes_of_chunk hfits
  generalize data.length * 2 ^ 65536 + beNat data = n at hw hbytes
  subst hw
  rw [exec_oneWrite hwrite, viaWrite_fwChunk h (by rw [hbytes, hf]) hpasses]

/-! ### Loads (R393, R395) -/

section Loads
variable {a : Actor} {s : State}

theorem controlEffect_fwLoadControl_begin {id : SessId} (ha : a.sess = some id) {row n : Nat} (hn : n ≠ 3) :
    controlEffect a ⟨O.FwLoadControl, row, [(0, n)]⟩ s = loadBegin (some id) (n == 2) s := by
  simp [controlEffect, WCell.val, loadAsked, ha, hn]

theorem loadAbort_of_none (h : s.fw.load = none) : loadAbort s = s := by
  simp only [loadAbort, h]

theorem controlEffect_fwLoadControl_abort {row : Nat} :
    controlEffect a ⟨O.FwLoadControl, row, [(0, 3)]⟩ s = loadAbort s := by
  have hidle : s.fw.load.isSome = false → loadAbort s = s := fun h => loadAbort_of_none (by simpa using h)
  cases hload : s.fw.load.isSome with
  | true => simp [controlEffect, WCell.val, hload]
  | false => simp [controlEffect, WCell.val, hload, hidle]

end Loads

/-- A granted BEGIN (1) or BEGIN_CHAIN (2). -/
theorem exec_load_begins {c : Instr} {v : Via} {n : Nat} {s : State} {x : Sess} (hn : n ≠ 3)
    (hwrite : oneWrite c = some (v, ⟨O.FwLoadControl, 0, 0, n⟩, 0)) (h : Granted v ⟨O.FwLoadControl, 0, 0, n⟩ 0 s x) :
    exec c s = .next (wrote v ⟨O.FwLoadControl, 0, 0, n⟩ 0 x (loadBegin (some v.sess) (n == 2)) s) :=
  exec_control_granted (by decide) hwrite h fun _ => controlEffect_fwLoadControl_begin (congrArg some (granted_id h)) hn

/-- The FwStagedLoad record carries the length and the chain bit. -/
theorem parts_fwStagedLoad (length : BitVec 32) (chain : Bool) {o : ObjInfo} (hfields : o.fields = fieldsFwStagedLoad) :
    parts o 0 (length.toNat * 2 ^ 32 + chain.toNat * 2 ^ 31) =
      [(F.FwStagedLoad_Length, length.toNat), (F.FwStagedLoad_Chain, chain.toNat)] := by
  have hpacked : length.toNat * 2 ^ 32 + chain.toNat * 2 ^ 31 = packed 0 [(32, length.toNat), (1, chain.toNat), (31, 0)] := by
    simp only [packed]
    ring
  have hfits : Fits [(32, length.toNat), (1, chain.toNat), (31, 0)] := by
    simp only [Fits, List.forall_mem_cons]
    exact ⟨length.isLt, chain.toNat_lt, by decide, fun _ hmem => absurd hmem List.not_mem_nil⟩
  have hlength := bitsOf_packed (hi := 63) (lo := 32) hfits 0
  have hchain := bitsOf_packed (hi := 31) (lo := 31) hfits 1
  rw [hpacked]
  simp [parts, carried, hfields, fieldsFwStagedLoad, hlength, hchain]

theorem controlEffect_fwStagedLoad {a : Actor} {id : SessId} (ha : a.sess = some id) {row length : Nat} (chain : Bool)
    (s : State) :
    controlEffect a ⟨O.FwStagedLoad, row, [(F.FwStagedLoad_Length, length), (F.FwStagedLoad_Chain, chain.toNat)]⟩ s =
      stagedWritten id a.client a.role length chain s := by
  have hchain : (chain.toNat == 1) = chain := by cases chain <;> rfl
  simp [controlEffect, ha, WCell.get, merged, hchain]

theorem exec_fwStagedLoad {v : Via} {length : BitVec 32} {chain : Bool} {s : State} {x : Sess} {w : SW}
    (hw : w = ⟨O.FwStagedLoad, 0, 0, length.toNat * 2 ^ 32 + chain.toNat * 2 ^ 31⟩) (h : Granted v w 0 s x) :
    exec (.fwStagedLoad v length chain) s = .next (wrote v w 0 x
      (stagedWritten v.sess x.client (roleOf (s.came v.sess).toBlocks x) length.toNat chain) s) := by
  obtain ⟨o, info, fe, tr⟩ : ∃ o ∈ objInfo? O.FwStagedLoad, isFe o = false ∧ transient o = true := by decide
  have hfields : o.fields = fieldsFwStagedLoad := fields_of_info info rfl
  have plain : Ordinary O.FwStagedLoad := by decide
  have hcontrol : O.FwStagedLoad < 0x4000 ∨ 0x44000 ≤ O.FwStagedLoad := by decide
  subst hw
  refine exec_action_granted rfl h info fe tr plain fun us => ?_
  rw [parts_fwStagedLoad length chain hfields, cell_control hcontrol]
  exact controlEffect_fwStagedLoad (congrArg some (granted_id h)) chain _

/-! ### What an answer leaves to read (R39, R63) -/

theorem routeAct_store (n : Nat) (s : State) : (routeAct n s).store = s.store := by
  unfold routeAct sendMsix
  split
  · split <;> rfl
  · rfl
  · rfl

section Answers
variable {obj : Nat} (hobj : obj ∉ [O.EventBanks, O.EventSource, O.BarLastStatus])
include hobj

theorem sc_raise {n : Nat} (hn : n < 320) (s : State) : (raise n s).sc obj = s.sc obj := by
  simp only [List.mem_cons, List.not_mem_nil, or_false, not_or] at hobj
  obtain ⟨hbank, hsource, -⟩ := hobj
  have hnoted : (occurred n s).sc obj = s.sc obj :=
    rd_occurred hn (by decide) (by decide) hbank fun h => absurd h hsource
  rw [raise_eq hn]
  split
  · rw [Blocks.sc, Blocks.rd, routeAct_store]
    exact hnoted
  · exact hnoted

theorem sc_deliver (id : SessId) (r : Resp) (s : State) : (deliver id r s).sc obj = s.sc obj := by
  simp only [deliver]
  split
  · split
    · exact sc_raise hobj (by decide) _
    · rfl
  · rfl

theorem sc_deliverN (id : SessId) (r : Resp) : ∀ n s, (deliverN id r n s).sc obj = s.sc obj
  | 0, _ => rfl
  | n + 1, s => (sc_deliverN id r n _).trans (sc_deliver hobj id r s)

theorem sc_respond (id : SessId) (op rid ctx : Nat) (small : Bool) (st : Status) (items : List RItem) (s : State) :
    (respond id op rid ctx small st items s).sc obj = s.sc obj := by
  simp only [respond]
  split
  · rfl
  · exact sc_deliverN hobj id _ _ _

theorem sc_barDone (st : Status) (o : Nat) (s : State) : (barDone st o s).sc obj = s.sc obj := by
  simp only [List.mem_cons, List.not_mem_nil, or_false, not_or] at hobj
  obtain ⟨-, -, hlast⟩ := hobj
  exact (rd_wr_of_obj_ne _ _ hlast).trans (rd_wr_of_obj_ne s _ hlast)

theorem sc_answered (v : Via) (w : SW) (s : State) : (s.answered v w).sc obj = s.sc obj := by
  simp only [State.answered, replyWait]
  split
  · exact sc_barDone hobj _ _ s
  · exact sc_respond hobj _ _ _ _ _ _ _ s

end Answers

/-! ### Rollback (R404) -/

/-- What follows the answer to FwRollback: the rollback, and nothing else, as the in-band session stands where it stood. -/
theorem lateEffects_fwRollback {a : Actor} {row n : Nat} {before : Blocks} {s : State}
    (henable : s.sc O.InbandEnable = before.sc O.InbandEnable) (hport : s.sc O.InbandPort = before.sc O.InbandPort) :
    lateEffects a [⟨O.FwRollback, row, [(0, n)]⟩] before s = rollbackAsked 4 s := by
  have hsecurity : securityApplied a.client a.role a.op O.FwRollback row s = s := rfl
  simp [lateEffects, hsecurity, henable, hport, writes]

theorem exec_fwRollback {v : Via} {s : State} {x : Sess} (h : Granted v ⟨O.FwRollback, 0, 0, 1⟩ 0 s x) :
    exec (.fwRollback v) s = .next (rollbackAsked 4
      (((s.came v.sess).booked [⟨O.FwRollback, 0⟩]).answered v ⟨O.FwRollback, 0, 0, 1⟩)) := by
  have hcells : cellsOf [⟨O.FwRollback, 0, 0, 1⟩] = [⟨O.FwRollback, 0, [(0, 1)]⟩] := by decide
  have hunits : unitsOf (s.came v.sess).toBlocks [⟨O.FwRollback, 0, [(0, 1)]⟩] = [⟨O.FwRollback, 0⟩] := rfl
  have hwrote : exec (.fwRollback v) s = .next (wrote v ⟨O.FwRollback, 0, 0, 1⟩ 0 x id s) :=
    exec_control_granted (by decide) rfl h fun r => rfl
  rw [hwrote]
  simp only [wrote, hcells, hunits]
  exact congrArg _ (lateEffects_fwRollback (sc_answered (by decide) _ _ _) (sc_answered (by decide) _ _ _))

end Sys2Proof.Machine

namespace Sys2Proof
open Machine

/-- Settles O17: loads by what their control says, a chunk by its bytes, and the activation's objects by the effect of their
row. -/
theorem firmwareWritesTakeEffect : Obligations.FirmwareWritesTakeEffect := by
  unfold Obligations.FirmwareWritesTakeEffect
  refine ⟨⟨fun v s x h => exec_load_begins (by decide) rfl h, fun v s x h => exec_load_begins (by decide) rfl h,
      fun v s x h => exec_control_granted (by decide) rfl h fun r => controlEffect_fwLoadControl_abort,
      fun v row data s x w f => exec_fwChunk, fun v length chain s x w => exec_fwStagedLoad⟩,
    fun v t q s x hval h => exec_control_granted (by decide) (by simp only [oneWrite, hval, Option.map_some]) h fun r => rfl,
    fun v s x h => exec_control_granted (by decide) rfl h fun r => rfl,
    fun v s x h => exec_control_granted (by decide) rfl h fun r => rfl, fun v s x => exec_fwRollback,
    fun v s x h => exec_control_granted (by decide) rfl h fun r => rfl,
    fun v s x h => exec_control_granted (by decide) rfl h fun r => rfl⟩

end Sys2Proof
end
